-- ==== Sys2Proof/Word.lean ====
section
/-! DEFINITION. The word types of the K64: 32-bit registers (R464: every access moves one
32-bit register), bytes of memory, and the numbers of ponds, ports and contexts. -/

namespace Sys2Proof

/-- A register or general-register word, 32 bits (R95, R464). -/
abbrev Word := BitVec 32

/-- One byte of memory. -/
abbrev Byte := BitVec 8

/-- The number of a pond, P00 to P63 (Table 0.1). -/
abbrev PondId := Fin 64

/-- The number of a host port, HP0 to HP3 (Table 1.1). -/
abbrev PortId := Fin 4

/-- The number of a queue context of one port, 0 to 31 (Table 1.4). -/
abbrev CtxId := Fin 32

/-- The number of a general register, g0 to g15 (R95). -/
abbrev RegIx := BitVec 4

end Sys2Proof
end

