-- ==== Sys2Proof/Syntax.lean ====
section
/-! DEFINITION. The commands. The rows ADD to XFRM are the pond core's instructions: their
command carries the pond and the fields of the 32-bit word (R100); every other command carries
what the outside world gives it. -/

namespace Sys2Proof

/-- Format A (register), Table 4.8: the fields of a word of a given op and func. -/
structure FmtA where
  d : BitVec 4
  a : BitVec 4
  b : BitVec 4
  s : BitVec 1
  ext : BitVec 7
  deriving DecidableEq, Repr

/-- Format I (immediate, memory, compare-branch). -/
structure FmtI where
  d : BitVec 4
  a : BitVec 4
  imm : BitVec 18
  deriving DecidableEq, Repr

/-- Format F (field); `z` is [7:6]. -/
structure FmtF where
  d : BitVec 4
  a : BitVec 4
  pos : BitVec 5
  wm1 : BitVec 5
  z : BitVec 2
  deriving DecidableEq, Repr

/-- Format U (upper). -/
structure FmtU where
  d : BitVec 4
  imm : BitVec 22
  deriving DecidableEq, Repr

/-- Format B (branch). -/
structure FmtB where
  cond : BitVec 4
  off : BitVec 22
  deriving DecidableEq, Repr

/-- Format C (call). -/
structure FmtC where
  off : BitVec 26
  deriving DecidableEq, Repr

/-- Format S (system) of a given sub. -/
structure FmtS where
  d : BitVec 4
  a : BitVec 4
  imm : BitVec 12
  deriving DecidableEq, Repr

/-- Format S with sub GATE, of a given gate number: the other fields; `hi` is imm12[11:8]. -/
structure FmtG where
  d : BitVec 4
  a : BitVec 4
  hi : BitVec 4
  deriving DecidableEq, Repr

/-- Format A of a long instruction, whose func is a field that must be 0 (R113). -/
structure FmtL where
  d : BitVec 4
  a : BitVec 4
  b : BitVec 4
  s : BitVec 1
  ext : BitVec 7
  func : BitVec 6
  deriving DecidableEq, Repr

/-- The number of a link direction (Table 9.2). -/
abbrev LinkId := Fin 162

/-- What the wires do to a flit (R242): nothing, bits inverted, the flit lost, or received twice. -/
inductive WireFault where
  | none
  | altered (data : BitVec 128) (side : BitVec 16)
  | dropped
  | doubled
  deriving DecidableEq, Repr

/-- The events that break a port (R257). -/
inductive BreakKind where
  | linkDown
  | perst
  | flr
  | bmeClear
  | d3hot
  deriving DecidableEq, Repr

/-- Configuration writes (R254, R256): those that let a port issue requests again, and those of the fields
that the port's requests and its setup BAR use. -/
inductive ConfigKind where
  | bmeSet
  | d0
  /-- The Device Control register: Max_Payload_Size and Max_Read_Request_Size. -/
  | control (mps : Fin 3) (mrrs : Fin 6)
  /-- Memory Space Enable with BAR0 and BAR1. -/
  | bar (mem : Bool) (base : BitVec 64)
  deriving DecidableEq, Repr

/-- Who writes a register: a pond's firmware, the Shore side, or a port's host through its BAR; `full` says
that the host's write is of 4 bytes with all byte enables set (R261). -/
inductive Writer where
  | pond (p : PondId)
  | shore
  | bar (h : PortId) (full : Bool)
  deriving DecidableEq, Repr

/-- A comparator of a pond and the voltage at its input, in nanovolts (R173). -/
structure CmpInput where
  n : Fin 2
  nv : Int
  deriving DecidableEq, Repr

/-- A flash controller: a pond's, or a bank of the system flash. -/
inductive FlashUnit where
  | pond (p : PondId)
  | sys (b : Fin 2)
  deriving DecidableEq, Repr

/-- What an unlocked debugger does (R374); no pond means the Shore core. -/
inductive DbgAccess where
  | halt (p : Option PondId)
  | resume (p : Option PondId)
  | step (p : PondId)
  | read (p : PondId) (a : Word)
  | write (p : PondId) (a : Word) (v : Word)
  | readShore (a : Word)
  | writeShore (a : Word) (v : Word)
  deriving DecidableEq, Repr

/-- The commands: one constructor per row of spec/opcode_table.json. -/
inductive Instr where
  /-- GATE_NOT_IMPLEMENTED (R147). A GATE instruction names a gate whose table entry has ENTRY 0 and raises GATE with reason 1 in the caller's context. -/
  | gateNotImplemented (p : PondId) (n : BitVec 8) (f : FmtG)
  /-- POR_ASSERT (R449). Any supply rail falls below its POR threshold, and the part is held in cold start. -/
  | porAssert
  /-- POR_RELEASE (R68). POR releases and the cold-start sequence of Table 3.2 runs. -/
  | porRelease
  /-- BIST_END (R91). A pond's BIST ends, and a failing pond leaves the service map. -/
  | bistEnd (p : PondId) (units : BitVec 16)
  /-- WELLSPRING_REGENERATION (R341). Regeneration of W from the PUF ends, succeeding or setting PUF_FAIL and KEYS_ABSENT; the first read of the array, and the two others. -/
  | wellspringRegeneration (a : List Byte) (bc : List Byte × List Byte)
  /-- CALIBRATION_END (R170). A converter calibration ends, and the new factors replace the old only if every factor passes. -/
  | calibrationEnd (p : PondId) (n : Fin 2) (settled : Bool) (f : List Word)
  /-- TBS_RUN (R38). Setting TBS_CTRL.RUN starts the 1 µs wait to the first GSS edge, which begins epoch 0. -/
  | tbsRun
  /-- GSS_EDGE (R42). TBS issues a global sample strobe edge that triggers GSS converters and marks an epoch boundary. -/
  | gssEdge
  /-- GSS_IN_EDGE (R45). In SECONDARY mode, a GSS_IN rising edge is accepted as the boundary or ignored. -/
  | gssInEdge
  /-- FLYWHEEL_EDGE (R45). No GSS_IN edge arrives within 8 ns of the expected boundary, so the Shore generates the boundary and counts MISSED. -/
  | flywheelEdge
  /-- BOUNDARY_REGISTRATION (R43). A pond registers an epoch boundary in its own clock domain. -/
  | boundaryRegistration (p : PondId)
  /-- SHORE_BOUNDARY (R43). The Shore registers an epoch boundary. -/
  | shoreBoundary
  /-- SLUICE_SLOTS_FREED (R238). The slots of a closed sluice are freed at boundary A + 9. -/
  | sluiceSlotsFreed
  /-- ORPHAN_POLICY (R31). A lessee's silence reaches the timeout, and the lease's HOLD, RAMP or STOP policy acts at the next boundary. -/
  | orphanPolicy (p : PondId)
  /-- MIRROR_SNAPSHOT (R282). A port writes a due telemetry mirror snapshot into host memory. -/
  | mirrorSnapshot (h : PortId)
  /-- RESET_N (R458). RESET_N is held low for 100 REFCLK cycles and starts a warm device reset. -/
  | resetN
  /-- WATCHDOG_EXPIRY (R466). The Shore watchdog count expires and starts a warm device reset. -/
  | watchdogExpiry
  /-- WATCHDOG_KICK (R466). A write of KICK to CRL_WDOG reloads the watchdog count. -/
  | watchdogKick
  /-- CRL_WARM_RESET (R76). An armed pair to CRL_WARM_RESET starts a warm device reset. -/
  | crlWarmReset (v : Word)
  /-- ARMED_PAIR_EXPIRY (R76). No matching second write arrives within 1 ms, so the armed pair is cancelled. -/
  | armedPairExpiry (r : Fin 3)
  /-- CRL_POND_RESET (R75). A steward write to CRL_POND_RESET requests a pond reset. -/
  | crlPondReset (i : Fin 2) (v : Word)
  /-- CRL_CORE_RESET (R75). A steward write to CRL_CORE_RESET requests a core-only reset. -/
  | crlCoreReset (i : Fin 2) (v : Word)
  /-- MISC_RESET_REQ_POND (R82). Pond firmware writes MISC_RESET_REQ with the key and POND set to request a pond reset. -/
  | miscResetReqPond (p : PondId) (key : BitVec 16)
  /-- MISC_RESET_REQ_CORE (R82). Pond firmware writes MISC_RESET_REQ with the key and CORE set to request a core-only reset. -/
  | miscResetReqCore (p : PondId) (key : BitVec 16)
  /-- CORE_ONLY_RESET (R81). After its drain, a core-only reset restarts the core at the active bank's reset entry and completes the active claims. -/
  | coreOnlyReset (p : PondId)
  /-- POND_RESTART (R80). After N_R epochs and confirmation of its incarnation, the pond core restarts under its autostart entry. -/
  | pondRestart (p : PondId)
  /-- CRL_LC_ADVANCE (R88). An armed pair to CRL_LC_ADVANCE requests a life-cycle transition, which is accepted or refused. -/
  | crlLcAdvance (v : Word)
  /-- HUSK_MARK_DONE (R89). The read-back of the Husk mark passes, and CRL_LC_STATE.STATE reads Husk. -/
  | huskMarkDone (ok : Bool)
  /-- LINK_UP (R72). A host port's link trains after PERST_N release, and the port becomes ready for configuration requests. -/
  | linkUp (h : PortId) (speed : BitVec 4) (width : BitVec 3) (flit : Bool)
  /-- PORT_BREAK (R258). A link down, PERST_N, FLR, BME clear or D3hot entry breaks a port: reads are abandoned and contexts pause. -/
  | portBreak (h : PortId) (k : BreakKind)
  /-- REGISTER_WRITE (R12). A write to a register with no row of its own acts under its access codes and lock bits. -/
  | registerWrite (w : Writer) (off : Word) (v : Word)
  /-- CONTEXT_ENABLE (R264). A write of EN = 1 moves a context from DISABLED to LOADING, from PAUSED to REPLAYING, or from DRAINING to RUNNING. -/
  | contextEnable (h : PortId) (n : CtxId)
  /-- CONTEXT_DISABLE (R264). A write of EN = 0 moves a context to DISABLED or DRAINING. -/
  | contextDisable (h : PortId) (n : CtxId)
  /-- ABANDON (R266). A write of ABANDON to a paused or disabled context discards its reserve entries and resets its counts. -/
  | abandon (h : PortId) (n : CtxId)
  /-- CONTEXT_BLOCK_READ (R265). The context block read returns, and the context enters RUNNING or returns to DISABLED with a cause. -/
  | contextBlockRead (h : PortId) (n : CtxId) (d : Option (List Byte))
  /-- DOORBELL_POLL (R269). The poll interval elapses, and the port issues an 8-byte doorbell read. -/
  | doorbellPoll (h : PortId) (n : CtxId)
  /-- DOORBELL_DATA (R270). Doorbell data arrives and is checked, and descriptor fetches are issued. -/
  | doorbellData (h : PortId) (n : CtxId) (d : Option (List Byte))
  /-- DESCRIPTOR_DATA (R271). A descriptor read returns data, or fails and pauses the context with DMA_READ. -/
  | descriptorData (h : PortId) (n : CtxId) (d : Option (List Byte))
  /-- OPERAND_READ (R295). A command's operand read from host memory returns, or fails with DMA_READ. -/
  | operandRead (h : PortId) (i : Nat) (d : Option (List Byte))
  /-- COMPLETION_ACK (R276). The link partner acknowledges a completion's second write, and the completion leaves the reserve as delivered. -/
  | completionAck (h : PortId)
  /-- UNASSIGNED_OPCODE (R289). A descriptor with an unassigned opcode is consumed with BAD_OPCODE. -/
  | unassignedOpcode (h : PortId) (n : CtxId)
  /-- HOST_NOP (R292). The NOP command does nothing and completes. -/
  | hostNop (h : PortId) (n : CtxId)
  /-- SVC_MAP_READ (R312). SVC_MAP_READ writes the 32-byte service map record to host memory. -/
  | svcMapRead (h : PortId) (n : CtxId)
  /-- LEASE (R293). LEASE grants a pond to an operator port with an orphan policy and a timeout. -/
  | leaseCmd (h : PortId) (n : CtxId)
  /-- RELEASE (R29). RELEASE ends a pond's lease and leaves its references and run state as they are. -/
  | releaseCmd (h : PortId) (n : CtxId)
  /-- TAKEOVER (R25). A steward takeover moves the steward token to the issuing steward port. -/
  | takeover (h : PortId) (n : CtxId)
  /-- PEEK (R294). PEEK reads one 32-bit word of a pond or the Shore over the spillway without changing it. -/
  | peek (h : PortId) (n : CtxId)
  /-- POKE (R61). POKE writes one register over the spillway as a state-changing ASAP action. -/
  | poke (h : PortId) (n : CtxId)
  /-- CONFIGURE (R296). CONFIGURE checks every entry of a configuration record and then writes them all in order at A. -/
  | configure (h : PortId) (n : CtxId)
  /-- ENABLE (R297). ENABLE sets EN of the named generators and MODE of the named lanes. -/
  | enable (h : PortId) (n : CtxId)
  /-- DISABLE (R297). DISABLE clears EN of the named generators and MODE of the named lanes. -/
  | disable (h : PortId) (n : CtxId)
  /-- SET_REF (R297). SET_REF writes new references to the named lanes. -/
  | setRef (h : PortId) (n : CtxId)
  /-- GROUP_CONFIGURE (R298). GROUP_CONFIGURE checks the members and starts or ends a phase group at A. -/
  | groupConfigure (h : PortId) (n : CtxId)
  /-- SLUICE_OPEN (R300). SLUICE_OPEN checks a sluice record and reserves its slots, computing its bound D. -/
  | sluiceOpen (h : PortId) (n : CtxId)
  /-- SLUICE_CLOSE (R238). SLUICE_CLOSE closes an open sluice at its apply epoch. -/
  | sluiceClose (h : PortId) (n : CtxId)
  /-- CAPTURE_STREAM (R301). CAPTURE_STREAM starts or ends a pond's capture stream on a sluice. -/
  | captureStream (h : PortId) (n : CtxId)
  /-- ACCT_OPEN (R303). ACCT_OPEN opens the lowest free account under a new tag. -/
  | acctOpen (h : PortId) (n : CtxId)
  /-- ACCT_CLOSE (R303). ACCT_CLOSE closes an account with no assigned pond. -/
  | acctClose (h : PortId) (n : CtxId)
  /-- ACCT_ASSIGN (R303). ACCT_ASSIGN moves a pond to the account of a tag at A. -/
  | acctAssign (h : PortId) (n : CtxId)
  /-- BIND_TAG (R304). BIND_TAG binds an open tag to a port for reading. -/
  | bindTag (h : PortId) (n : CtxId)
  /-- UNBIND_TAG (R304). UNBIND_TAG removes a tag's binding. -/
  | unbindTag (h : PortId) (n : CtxId)
  /-- ACCT_READ (R305). ACCT_READ writes an account's 32-byte record to host memory. -/
  | acctRead (h : PortId) (n : CtxId)
  /-- SEAL_FETCH (R305). SEAL_FETCH writes an archived seal to host memory. -/
  | sealFetch (h : PortId) (n : CtxId)
  /-- UTC_ANCHOR (R329). UTC_ANCHOR ties a UTC time to the GSS edge that begins A and redefines the minute boundaries. -/
  | utcAnchor (h : PortId) (n : CtxId)
  /-- PROG_ERASE (R307). PROG_ERASE erases sectors of a pond's inactive bank or of a system flash slot. -/
  | progErase (h : PortId) (n : CtxId)
  /-- PROG_WRITE (R307). PROG_WRITE programs 32 to 4,096 bytes of image data into the inactive target. -/
  | progWrite (h : PortId) (n : CtxId)
  /-- PROG_VERIFY (R400). PROG_VERIFY checks the target image and sets its verified mark. -/
  | progVerify (h : PortId) (n : CtxId)
  /-- VERIFY_UNIT_ACQUIRE (R416). A waiting verify takes a free SCVU0 or SCVU1 and runs its CHECK step. -/
  | verifyUnitAcquire
  /-- PROG_SWAP (R309). PROG_SWAP schedules the swap of a pond to its verified bank, or selects a Shore slot for the next start. -/
  | progSwap (h : PortId) (n : CtxId)
  /-- SPDM_XFER (R310). SPDM_XFER carries one SPDM 1.2 request and writes its response. -/
  | spdmXfer (h : PortId) (n : CtxId)
  /-- GET_VERSION (R358). GET_VERSION reports version 1.2 and resets the port's SPDM connection state. -/
  | getVersion (h : PortId)
  /-- GET_CAPABILITIES (R359). GET_CAPABILITIES reports the SPDM capabilities. -/
  | getCapabilities (h : PortId)
  /-- NEGOTIATE_ALGORITHMS (R359). NEGOTIATE_ALGORITHMS selects P-384 and SHA-384. -/
  | negotiateAlgorithms (h : PortId)
  /-- GET_DIGESTS (R360). GET_DIGESTS reports the digest of slot 0. -/
  | getDigests (h : PortId)
  /-- GET_CERTIFICATE (R360). GET_CERTIFICATE returns the slot 0 certificate chain. -/
  | getCertificate (h : PortId)
  /-- CHALLENGE (R362). CHALLENGE returns a response signed by K_ALIAS, or Busy while key use is blocked. -/
  | challenge (h : PortId)
  /-- GET_MEASUREMENTS (R361). GET_MEASUREMENTS returns the measurement blocks. -/
  | getMeasurements (h : PortId)
  /-- ALARM_CLEAR (R311). ALARM_CLEAR clears the named active clearable alarm sources. -/
  | alarmClear (h : PortId) (n : CtxId)
  /-- MESSAGE_ARRIVAL (R50). A receiver accepts a message's last flit and classifies it as on time, late or rejected. -/
  | messageArrival (e : Fin 65)
  /-- ENERGY_POST (R315). The tap issues its energy post with the epoch's whole quanta once the epoch's products are formed. -/
  | energyPost (p : PondId)
  /-- ENERGY_POST_ARRIVAL (R318). An energy post reaches the ledger and is held for its apply epoch, or booked late on arrival. -/
  | energyPostArrival
  /-- SEAL_ARCHIVE (R334). The Shore firmware seals the oldest queued interval and writes it to the archive. -/
  | sealArchive
  /-- STREAM_PACKET_SEND (R302). A pond sends up to 12 capture buffer entries in a stream packet. -/
  | streamPacketSend (p : PondId)
  /-- STREAM_RECORD (R302). The issuing port writes a received stream packet as a 64-byte record in the host buffer. -/
  | streamRecord
  /-- INCARNATION_NOTICE (R249). A stop receives an incarnation notice, stores it, discards later old messages and acknowledges. -/
  | incarnationNotice (p : PondId)
  /-- NOTICE_ACKNOWLEDGE (R85). A notice acknowledgement reaches the Shore, and the last one releases the pond's posting. -/
  | noticeAcknowledge
  /-- MANAGEMENT_READ (R232). A pond's management endpoint serves a read request and sends a read response. -/
  | managementRead (p : PondId)
  /-- MANAGEMENT_WRITE (R232). A pond's management endpoint serves a write request and sends a write acknowledge. -/
  | managementWrite (p : PondId)
  /-- BLOCK_WRITE (R398). A pond's management endpoint programs a block write of image data and sends a block acknowledge. -/
  | blockWrite (p : PondId)
  /-- READ_RESPONSE (R294). A read response reaches the Shore and completes the PEEK. -/
  | readResponse
  /-- WRITE_ACKNOWLEDGE (R294). A write acknowledge reaches the Shore and completes the POKE. -/
  | writeAcknowledge
  /-- BLOCK_ACKNOWLEDGE (R398). A block acknowledge reaches the Shore for a PROG_WRITE chunk. -/
  | blockAcknowledge
  /-- FLIT_SEND (R233). A link direction sends one flit, chosen by wheel slot and round-robin among the lanes. -/
  | flitSend (l : LinkId)
  /-- FLIT_RECEIVE (R242). A receiver checks a flit's CHECK against the expected sequence, then accepts it or discards it and sends a NAK. -/
  | flitReceive (l : LinkId) (x : WireFault)
  /-- NAK (R242). A NAK reaches the sender, which resends from the named flit. -/
  | nak (l : LinkId) (bad : Bool)
  /-- CREDIT_RETURN (R239). A credit return reaches the sender and adds a credit to its lane. -/
  | creditReturn (l : LinkId) (bad : Bool)
  /-- CREDIT_AUDIT (R240). At every 1,024th handshake, both ends compare the credit sum of each lane with its link constant. -/
  | creditAudit (l : LinkId) (miss : Option (Fin 4 × Word))
  /-- RETRAIN_DONE (R243). A link retraining ends, and the sender replays from the last accepted flit. -/
  | retrainDone (l : LinkId) (ok : Bool)
  /-- RETRAIN_TIMER (R244). After 100 µs, a failed link retrains again. -/
  | retrainTimer (l : LinkId)
  /-- RETRAIN (R244). A steward write of WEIR_CTRL.RETRAIN starts an immediate retraining of LINK. -/
  | retrain (l : LinkId)
  /-- ALARM_REGISTRATION (R365). An alarm source is registered and acts at its effective level. -/
  | alarmRegistration (m : BitVec 8)
  /-- ERASE_COMPLETE (R367). An erase completes, and any pending level D Husk programming starts. -/
  | eraseComplete
  /-- INJECT (R375). A write to ALM_CTRL.INJECT in Larva raises the named alarm sources. -/
  | inject (m : BitVec 8)
  /-- DEBUG_CHALLENGE (R372). The debug port issues a challenge with a new DRBG nonce and voids any earlier one. -/
  | debugChallenge
  /-- DEBUG_RESPONSE (R373). A debug response is checked, and the unlock is accepted or a strike is counted. -/
  | debugResponse (r : List Byte)
  /-- DEBUG_TIMEOUT (R373). No response arrives within 10 s of a challenge, and a strike is counted. -/
  | debugTimeout
  /-- DEBUG_RELOCK (R374). The debugger relocks the port and ends the unlock. -/
  | debugRelock
  /-- SUPPLY_WARN_N_FALL (R337). SUPPLY_WARN_N falls, and the ledger starts the last-gasp record or counts the fall as ignored. -/
  | supplyWarnNFall
  /-- LAST_GASP_COMMIT (R391). The last-gasp COMMIT marker is committed. -/
  | lastGaspCommit
  /-- LAST_GASP_REARM (R337). SUPPLY_WARN_N has been high for 1 ms, so the glitch mask ends and the last-gasp block is erased. -/
  | lastGaspRearm
  /-- LAST_GASP_ERASE_DONE (R337). The last-gasp block erase completes, and LG_READY returns to 1. -/
  | lastGaspEraseDone
  /-- FLASH_OPERATION_END (R384). A pond or system flash program or erase ends with PFL_DONE or PFL_ERROR. -/
  | flashOperationEnd (u : FlashUnit) (bad : Option Nat)
  /-- OTP_PROG_GO (R393). An armed pair to OTP_PROG_GO starts an OTP word program, or the program is refused. -/
  | otpProgGo (v : Word)
  /-- OTP_PROGRAM_DONE (R393). An OTP word program ends, and its read-back is checked. -/
  | otpProgramDone (wrong : Word)
  /-- PROGRAM_SWAP (R402). At the stop point, the pond drains, completes claims, flips banks, writes the handover and enters the swap entry. -/
  | programSwap (p : PondId)
  /-- IRQ (R131). A deliverable PIC source is taken at an interrupt point with IE 1. -/
  | irq (p : PondId)
  /-- STORE_RETIRE (R122). The oldest SRAM store buffer entry retires in a free core-port cycle. -/
  | storeRetire (p : PondId)
  /-- POST_ACCEPTED (R124). The Weir accepts the oldest post of the post buffer. -/
  | postAccepted (p : PondId)
  /-- WAITE_WAKE (R110). A masked event latch is set and WAITE completes, clearing its masked latches. -/
  | waiteWake (p : PondId)
  /-- FENCE_DONE (R126). The buffers named by a waiting FENCE are empty, and FENCE completes. -/
  | fenceDone (p : PondId)
  /-- ADD (R102). ADD writes ga + gb to gd. -/
  | add (p : PondId) (f : FmtA)
  /-- SUB (R102). SUB writes ga − gb to gd. -/
  | sub (p : PondId) (f : FmtA)
  /-- ADC (R102). ADC adds with carry. -/
  | adc (p : PondId) (f : FmtA)
  /-- SBC (R102). SBC subtracts with borrow. -/
  | sbc (p : PondId) (f : FmtA)
  /-- ADDS (R102). ADDS adds with saturation. -/
  | adds (p : PondId) (f : FmtA)
  /-- SUBS (R102). SUBS subtracts with saturation. -/
  | subs (p : PondId) (f : FmtA)
  /-- AND (R102). AND writes the bitwise AND. -/
  | andd (p : PondId) (f : FmtA)
  /-- OR (R102). OR writes the bitwise OR. -/
  | orr (p : PondId) (f : FmtA)
  /-- XOR (R102). XOR writes the bitwise XOR. -/
  | xor (p : PondId) (f : FmtA)
  /-- ANDN (R102). ANDN writes ga AND NOT gb. -/
  | andn (p : PondId) (f : FmtA)
  /-- SHL (R103). SHL shifts left by a register amount. -/
  | shl (p : PondId) (f : FmtA)
  /-- SHR (R103). SHR shifts right with zero fill. -/
  | shr (p : PondId) (f : FmtA)
  /-- SAR (R103). SAR shifts right arithmetically. -/
  | sar (p : PondId) (f : FmtA)
  /-- ROR (R103). ROR rotates right. -/
  | ror (p : PondId) (f : FmtA)
  /-- SLT (R102). SLT sets gd on a signed less-than. -/
  | slt (p : PondId) (f : FmtA)
  /-- SLTU (R102). SLTU sets gd on an unsigned less-than. -/
  | sltu (p : PondId) (f : FmtA)
  /-- MIN (R102). MIN writes the signed minimum. -/
  | minS (p : PondId) (f : FmtA)
  /-- MAX (R102). MAX writes the signed maximum. -/
  | maxS (p : PondId) (f : FmtA)
  /-- MINU (R102). MINU writes the unsigned minimum. -/
  | minu (p : PondId) (f : FmtA)
  /-- MAXU (R102). MAXU writes the unsigned maximum. -/
  | maxu (p : PondId) (f : FmtA)
  /-- CMP (R102). CMP sets flags from ga − gb. -/
  | cmp (p : PondId) (f : FmtA)
  /-- TST (R102). TST sets flags from ga AND gb. -/
  | tst (p : PondId) (f : FmtA)
  /-- ADDI (R102). ADDI adds a sign-extended immediate. -/
  | addi (p : PondId) (f : FmtI)
  /-- ANDI (R102). ANDI ANDs a zero-extended immediate. -/
  | andi (p : PondId) (f : FmtI)
  /-- ORI (R102). ORI ORs a zero-extended immediate. -/
  | ori (p : PondId) (f : FmtI)
  /-- XORI (R102). XORI XORs a zero-extended immediate. -/
  | xori (p : PondId) (f : FmtI)
  /-- SHLI (R102). SHLI shifts left by an immediate. -/
  | shli (p : PondId) (f : FmtI)
  /-- SHRI (R102). SHRI shifts right logically by an immediate. -/
  | shri (p : PondId) (f : FmtI)
  /-- SARI (R102). SARI shifts right arithmetically by an immediate. -/
  | sari (p : PondId) (f : FmtI)
  /-- SLTI (R102). SLTI compares signed against an immediate. -/
  | slti (p : PondId) (f : FmtI)
  /-- SLTIU (R102). SLTIU compares unsigned against an immediate. -/
  | sltiu (p : PondId) (f : FmtI)
  /-- CMPI (R102). CMPI sets flags from ga minus an immediate. -/
  | cmpi (p : PondId) (f : FmtI)
  /-- TSTI (R102). TSTI sets flags from ga AND an immediate. -/
  | tsti (p : PondId) (f : FmtI)
  /-- LUI (R102). LUI loads imm22 shifted left by 10. -/
  | lui (p : PondId) (f : FmtU)
  /-- MUL (R102). MUL writes the low 32 bits of the product. -/
  | mul (p : PondId) (f : FmtA)
  /-- MULH (R102). MULH writes the high bits of the signed product. -/
  | mulh (p : PondId) (f : FmtA)
  /-- MULHU (R102). MULHU writes the high bits of the unsigned product. -/
  | mulhu (p : PondId) (f : FmtA)
  /-- DIV (R105). DIV writes the signed quotient, clamped for special cases. -/
  | div (p : PondId) (f : FmtA)
  /-- DIVU (R105). DIVU writes the unsigned quotient. -/
  | divu (p : PondId) (f : FmtA)
  /-- REM (R105). REM writes the signed remainder. -/
  | rem (p : PondId) (f : FmtA)
  /-- REMU (R105). REMU writes the unsigned remainder. -/
  | remu (p : PondId) (f : FmtA)
  /-- MAC (R97). MAC adds a product to acc with saturation. -/
  | mac (p : PondId) (f : FmtA)
  /-- MSU (R97). MSU subtracts a product from acc with saturation. -/
  | msu (p : PondId) (f : FmtA)
  /-- MACZ (R97). MACZ sets acc to a product. -/
  | macz (p : PondId) (f : FmtA)
  /-- ACCX (R104). ACCX writes acc rounded, shifted and saturated to gd. -/
  | accx (p : PondId) (f : FmtA)
  /-- ACCRD (R102). ACCRD reads one part of acc. -/
  | accrd (p : PondId) (f : FmtA)
  /-- ACCW (R102). ACCW writes one part of acc. -/
  | accw (p : PondId) (f : FmtA)
  /-- ACCZ (R102). ACCZ clears acc. -/
  | accz (p : PondId) (f : FmtA)
  /-- EXTU (R102). EXTU extracts an unsigned bit field. -/
  | extu (p : PondId) (f : FmtF)
  /-- EXTS (R102). EXTS extracts a signed bit field. -/
  | exts (p : PondId) (f : FmtF)
  /-- INS (R102). INS inserts a bit field into gd. -/
  | ins (p : PondId) (f : FmtF)
  /-- CLZ (R102). CLZ counts leading zeros. -/
  | clz (p : PondId) (f : FmtF)
  /-- POPC (R102). POPC counts set bits. -/
  | popc (p : PondId) (f : FmtF)
  /-- SATS (R102). SATS clamps to a signed range. -/
  | sats (p : PondId) (f : FmtF)
  /-- SATU (R102). SATU clamps to an unsigned range. -/
  | satu (p : PondId) (f : FmtF)
  /-- LB (R106). LB loads a sign-extended byte. -/
  | lb (p : PondId) (f : FmtI)
  /-- LBU (R106). LBU loads a zero-extended byte. -/
  | lbu (p : PondId) (f : FmtI)
  /-- LH (R106). LH loads a sign-extended halfword. -/
  | lh (p : PondId) (f : FmtI)
  /-- LHU (R106). LHU loads a zero-extended halfword. -/
  | lhu (p : PondId) (f : FmtI)
  /-- LW (R106). LW loads a 32-bit word. -/
  | lw (p : PondId) (f : FmtI)
  /-- LD (R106). LD loads a register pair. -/
  | ld (p : PondId) (f : FmtI)
  /-- SB (R106). SB stores a byte through the store buffer. -/
  | sb (p : PondId) (f : FmtI)
  /-- SH (R106). SH stores a halfword. -/
  | sh (p : PondId) (f : FmtI)
  /-- SW (R106). SW stores a word, or posts a message through a send port. -/
  | sw (p : PondId) (f : FmtI)
  /-- SD (R106). SD stores a register pair, or posts a 64-bit message. -/
  | sd (p : PondId) (f : FmtI)
  /-- BCC (R102). Bcc branches when its condition holds. -/
  | bcc (p : PondId) (f : FmtB)
  /-- CALL (R102). CALL writes the link to g14 and branches. -/
  | call (p : PondId) (f : FmtC)
  /-- BZ (R102). BZ branches when gd is 0. -/
  | bz (p : PondId) (f : FmtI)
  /-- BNZ (R102). BNZ branches when gd is not 0. -/
  | bnz (p : PondId) (f : FmtI)
  /-- DBNZ (R102). DBNZ decrements gd and branches when it is not 0. -/
  | dbnz (p : PondId) (f : FmtI)
  /-- JR (R109). JR jumps to the address in ga. -/
  | jr (p : PondId) (f : FmtA)
  /-- CALLR (R109). CALLR writes the link and jumps to ga. -/
  | callr (p : PondId) (f : FmtA)
  /-- NOP (R102). NOP does nothing. -/
  | nop (p : PondId) (f : FmtS)
  /-- TRAP (R129). TRAP raises the TRAP exception with its code. -/
  | trap (p : PondId) (f : FmtS)
  /-- ROM_INFO (R144). Gate 0 returns the ROM version and stepping. -/
  | romInfo (p : PondId) (f : FmtG)
  /-- PFL_PROGRAM (R384). Gate 1 starts a 32-byte program of the inactive bank. -/
  | pflProgram (p : PondId) (f : FmtG)
  /-- PFL_ERASE (R384). Gate 2 starts an erase of a sector of the inactive bank. -/
  | pflErase (p : PondId) (f : FmtG)
  /-- CAL_READ (R170). Gate 3 writes a converter's 12 calibration factors into a buffer. -/
  | calRead (p : PondId) (f : FmtG)
  /-- ID_READ (R144). Gate 4 writes the pond's 32-byte identity record. -/
  | idRead (p : PondId) (f : FmtG)
  /-- RETE (R135). RETE returns from an exception or a gate body, restoring the saved state. -/
  | rete (p : PondId) (f : FmtS)
  /-- FENCE (R126). FENCE starts waiting until the named buffers are empty. -/
  | fence (p : PondId) (f : FmtS)
  /-- WAITE (R110). WAITE starts waiting for any masked event latch. -/
  | waite (p : PondId) (f : FmtS)
  /-- TBRD (R111). TBRD reads the island's timebase copy into a register pair. -/
  | tbrd (p : PondId) (f : FmtS)
  /-- EPRD (R111). EPRD reads the registered epoch into a register pair. -/
  | eprd (p : PondId) (f : FmtS)
  /-- BRK (R129). BRK raises BRK, or halts the core for an unlocked debugger. -/
  | brk (p : PondId) (f : FmtS)
  /-- EI (R102). EI sets IE from the next instruction. -/
  | ei (p : PondId) (f : FmtS)
  /-- DI (R102). DI clears IE from the next instruction. -/
  | di (p : PondId) (f : FmtS)
  /-- BMOV (R117). BMOV copies a block, resumably, through its progress record. -/
  | bmov (p : PondId) (f : FmtL) (units : Nat)
  /-- BCRC (R118). BCRC feeds a block into a check-value unit, resumably. -/
  | bcrc (p : PondId) (f : FmtL) (units : Nat)
  /-- FIRB (R119). FIRB computes a block FIR filter, resumably. -/
  | firb (p : PondId) (f : FmtL) (units : Nat)
  /-- XFRM (R120). XFRM computes a block Clarke, Park or inverse Park transform. -/
  | xfrm (p : PondId) (f : FmtL) (units : Nat)
  /-- PIC_CLAIM (R151). A load of PIC_CLAIM claims the best deliverable source. -/
  | picClaim (p : PondId)
  /-- PIC_COMPLETE (R152). A store to PIC_COMPLETE clears a source's active bit. -/
  | picComplete (p : PondId) (v : Word)
  /-- PIC_SWTRIG (R149). A write to PIC_SWTRIG with GO set is an event on the named source. -/
  | picSwtrig (p : PondId) (v : Word)
  /-- ADC_TRIGGER (R160). A GSS or PG-synchronised trigger reaches a converter and starts a burst or is refused. -/
  | adcTrigger (p : PondId) (n : Fin 2)
  /-- SWTRIG (R160). A store of SWTRIG to ADC_CTRL triggers a software-triggered converter. -/
  | swtrig (p : PondId) (mask : BitVec 2)
  /-- SLOT_RESULT (R164). A slot's code is ready and is delivered to its lanes, window, capture buffer and core. -/
  | slotResult (p : PondId) (x : Fin 2) (nv : Int)
  /-- LANE_OUTPUT (R189). A lane finishes its computation and writes its outputs and, in hardware mode, its generator's preload. -/
  | laneOutput (p : PondId) (k : Fin 2)
  /-- ADC_CAL (R169). A write to ADC_CAL records a recalibration request, with or without cover. -/
  | adcCal (p : PondId) (v : Word)
  /-- CBUF_CLEAR (R167). A write of CLEAR to ADC_CBUF_CTRL empties the capture buffer. -/
  | cbufClear (p : PondId)
  /-- ADC_CBUF_DATA (R167). A core load of ADC_CBUF_DATA pops the oldest capture entry. -/
  | adcCbufData (p : PondId)
  /-- CMP_TRIP (R174). An active comparator output outside blanking trips and forces the named PWM pins idle. -/
  | cmpTrip (p : PondId) (x : CmpInput)
  /-- BLANKING_END (R174). Blanking ends while the comparator output is still active, and the comparator trips. -/
  | blankingEnd (p : PondId) (n : Fin 2)
  /-- TRIPPED_CLEAR (R176). A write of 1 to CMP_STATUS.TRIPPED ends a latched force unless the output is still active. -/
  | trippedClear (p : PondId) (mask : BitVec 2)
  /-- FLT_ACTIVE (R200). A FLT pin at its active level forces the named PWM pins idle. -/
  | fltActive (p : PondId) (n : Fin 2)
  /-- FLT_FORCED_CLEAR (R200). A write of 1 to FLT_FORCED ends a FLT force unless the pin is still active. -/
  | fltForcedClear (p : PondId) (mask : BitVec 2)
  /-- CAPTURE_EDGE (R198). A selected edge on a capture pin is timestamped into its FIFO. -/
  | captureEdge (p : PondId) (i : Fin 4) (level : Bool)
  /-- CAP_DATA (R199). A core load of CAP_DATA pops the oldest capture entry. -/
  | capData (p : PondId) (i : Fin 4)
  /-- PERIOD_END (R181). A generator's period ends, and the next period is armed with fresh values or runs dark. -/
  | periodEnd (p : PondId) (k : Fin 4)
  /-- PG_PRELOAD (R181). An arming write to PG_PRELOAD sets the generator's fresh flag. -/
  | pgPreload (p : PondId) (k : Fin 4) (v : Word)
  /-- CLRFRESH (R182). A write of CLRFRESH to PG_CTRL clears the fresh flag of the named generators. -/
  | clrfresh (p : PondId) (mask : BitVec 4)
  /-- PG_GRID_ENABLE (R180). A change of PG_CFG.EN from 0 to 1 schedules the grid start at the next boundary. -/
  | pgGridEnable (p : PondId) (k : Fin 4)
  /-- PG_GRID_DISABLE (R185). A change of PG_CFG.EN from 1 to 0 idles the pin, clears fresh and stops the grid. -/
  | pgGridDisable (p : PondId) (k : Fin 4)
  /-- LE_REF (R190). A write to LE_REF sets the lane reference, clears RAMP and sets REF_SRC to 0 unless locked. -/
  | leRef (p : PondId) (k : Fin 2) (v : Word)
  /-- LE_COEF_DATA (R202). An access to LE_COEF_DATA reads or writes the selected coefficient word and increments INDEX under AUTO. -/
  | leCoefData (p : PondId) (v : Option Word)
  /-- ET_CMP_HI (R197). A store to ET_CMP_HI arms or disarms an event timer. -/
  | etCmpHi (p : PondId) (k : Fin 8) (v : Word)
  /-- ET_CMP_LO (R197). A store to ET_CMP_LO disarms an event timer. -/
  | etCmpLo (p : PondId) (k : Fin 8) (v : Word)
  /-- ET_FIRE (R196). An armed event timer reaches its compare value, fires and disarms. -/
  | etFire (p : PondId) (k : Fin 8)
  /-- CVU_START (R408). START sets a check-value unit's V to INIT and COUNT to 0. -/
  | cvuStart (p : PondId) (k : Fin 2)
  /-- CVU_FEED (R410). A store to FEED feeds FEEDN bytes into a check-value unit. -/
  | cvuFeed (p : PondId) (k : Fin 2) (v : Word)
  /-- CVU_FINISH (R413). FINISH computes a unit's output, sets DONE and compares it with EXPECT. -/
  | cvuFinish (p : PondId) (k : Fin 2)
  /-- SB_CMD (R423). A write to SB_CMD starts a normal sideband transaction, or is refused. -/
  | sbCmd (p : PondId) (w : Word)
  /-- GROUP_COMMAND (R424). A write to SB_CMD with KIND 1 starts a PMBus group command. -/
  | groupCommand (p : PondId) (w : Word)
  /-- SB_START (R427). An accepted transaction starts once the bus is free. -/
  | sbStart (p : PondId)
  /-- SB_TRANSACTION_END (R428). A sideband transaction ends, setting DONE and RESULT and raising its events. -/
  | sbTransactionEnd (p : PondId) (nack : Option Nat) (rx : List Byte) (pec : Byte)
  /-- ARB_LOST (R429). SDA reads low while the controller releases it, so the controller loses arbitration and releases the lines. -/
  | arbLost (p : PondId)
  /-- SB_TIMEOUT (R430). SCL is held low for 25 ms in one low phase, and the transaction ends with TIMEOUT. -/
  | sbTimeout (p : PondId)
  /-- SB_CONTROLLER_RESET (R431). A store of SB_CTRL.RESET releases the lines, ends any transaction with RESET and starts recovery. -/
  | sbControllerReset (p : PondId) (withCmd : Bool)
  /-- SB_EN (R432). A change of SB_CTRL.EN starts a recovery round, or a controller reset when it is cleared mid-transaction. -/
  | sbEn (p : PondId) (b : Bool)
  /-- RECOVERY_ROUND (R432). A recovery round samples SDA, pulses SCL up to 9 times and issues START and STOP. -/
  | recoveryRound (p : PondId) (sclLow : Bool) (pulses : Option (Fin 10))
  /-- SB_RESET_N_RELEASE (R433). The SB_RESET_N pulse ends, and after 1 ms the final round runs. -/
  | sbResetNRelease (p : PondId)
  /-- SB_ALERT (R434). SB_ALERT_N changes from released to asserted and raises SB_ALERT. -/
  | sbAlert (p : PondId)
  /-- SB_BUF_DATA (R435). An access to SB_BUF_DATA reads or writes a buffer word and increments INDEX under AUTO. -/
  | sbBufData (p : PondId) (v : Option Word)
  /-- ILLEGAL_INSTRUCTION (R101). The core issues a word whose op or func is unassigned, such as 0x0000_0000 or 0xFFFF_FFFF, and raises ILLEGAL without effect. -/
  | illegalInstruction (p : PondId) (w : Word)
  /-- COMPARE_EDGE (R183). Within an armed period, a generator's pin rises at t_r and falls at t_f, giving the compare-edge event that starts blanking and POINT 1 converter triggers. -/
  | compareEdge (p : PondId) (k : Fin 4) (e : Fin 4)
  /-- FIRST_PERIOD_START (R212). A generator begins a period at its grid instant that follows a boundary plus phase offset, or follows an idle gap after a re-formed group, and takes the arming decision there. -/
  | firstPeriodStart (p : PondId) (k : Fin 4)
  /-- CMP_OUTPUT_INACTIVE (R173). The comparator input falls back past the threshold minus the hysteresis and the comparator output becomes inactive. -/
  | cmpOutputInactive (p : PondId) (x : CmpInput)
  /-- ALARM_CONDITION_END (R363). The live condition of an alarm source, such as TEMP out of range or a broken SHIELD mesh, ends and the source becomes clearable. -/
  | alarmConditionEnd (n : Fin 8)
  /-- SB_ALERT_N_RELEASE (R434). SB_ALERT_N returns to its released level, and SB_STATUS.ALERT clears. -/
  | sbAlertNRelease (p : PondId)
  /-- SUPPLY_WARN_N_RISE (R337). SUPPLY_WARN_N rises again after a fall, which starts the 1 ms wait before the glitch mask ends and the last-gasp block is erased. -/
  | supplyWarnNRise
  /-- GRAMOND_PROVISIONING (R87). Gramond provisioning through the debug port enrolls the PUF helper data, programs the identity fields and the CHRYSALIS mark, and moves the part from Larva to Chrysalis; `chain` the root and the device certificate. -/
  | gramondProvisioning (ident : List Byte) (puf : List Byte) (chain : List Byte × List Byte)
  /-- DEBUGGER_ACCESS (R374). An unlocked debugger halts, steps, resumes or accesses the memory of a pond core or the Shore core. -/
  | debuggerAccess (a : DbgAccess)
  /-- CONFIG_WRITE (R256). A PCIe configuration write sets Bus Master Enable or returns the function from D3hot to D0, so the port may issue memory requests again. -/
  | configWrite (h : PortId) (k : ConfigKind)
  /-- SETUP_BAR_READ (R260). A host memory read of the setup BAR completes within 1.5 µs, clearing RC fields such as HP_RESERVE.PEAK and HP_DMA_ERR and latching the matching _HI register. -/
  | setupBarRead (h : PortId) (off : BitVec 16) (len : Nat)
  /-- SNAPSHOT_WRITE_END (R282). A port finishes writing a telemetry mirror snapshot with SEQ_END, and its mirror returns from writing to idle. -/
  | snapshotWriteEnd (h : PortId)
  /-- VERIFY_DONE (R400). A PROG_VERIFY finishes its header, body, signature and trailer checks, stores the measurement, sets or refuses the verified mark, frees its SCVU and completes. -/
  | verifyDone (u : Fin 2)
  /-- PLL_LOSS_OF_LOCK (R466). The Shore PLL or a pond PLL loses lock, which is counted in CRL_SHORE_PLL and clears the lock bit. -/
  | pllLossOfLock (i : Fin 65)
  /-- LINK_ACKNOWLEDGEMENT (R242). An acknowledgement on a link's return channel reaches the sender, which frees the acknowledged flits from its retry buffer. -/
  | linkAcknowledgement (l : LinkId) (bad : Bool)
  deriving DecidableEq, Repr

end Sys2Proof
end

