-- ==== Sys2Proof/Decode.lean ====
section
/-! DEFINITION. Words. The rows of spec/opcode_table.json give no bits, so no table word spells a
command; the 32-bit words of the pond core (R100, R101) have their decoder and encoder here. -/

namespace Sys2Proof

/-- The command that a table word spells: none, since no row of the table gives bits. -/
def decodeTableWord (_nbits _w : Nat) : Option Instr := none

namespace PondWord

/-- Field `[lo+len-1:lo]` of a word. -/
def bits (w : Word) (lo len : Nat) : BitVec len := w.extractLsb' lo len

/-- The major opcode (Table 4.9). -/
def op (w : Word) : Nat := (bits w 26 6).toNat

/-- The func field. -/
def func (w : Word) : Nat := (bits w 0 6).toNat

/-- The fields of each format (Table 4.8). -/
def fmtA (w : Word) : FmtA := ⟨bits w 22 4, bits w 18 4, bits w 14 4, bits w 13 1, bits w 6 7⟩
/-- Format I. -/
def fmtI (w : Word) : FmtI := ⟨bits w 22 4, bits w 18 4, bits w 0 18⟩
/-- Format F. -/
def fmtF (w : Word) : FmtF := ⟨bits w 22 4, bits w 18 4, bits w 13 5, bits w 8 5, bits w 6 2⟩
/-- Format U. -/
def fmtU (w : Word) : FmtU := ⟨bits w 22 4, bits w 0 22⟩
/-- Format B. -/
def fmtB (w : Word) : FmtB := ⟨bits w 22 4, bits w 0 22⟩
/-- Format C. -/
def fmtC (w : Word) : FmtC := ⟨bits w 0 26⟩
/-- Format S. -/
def fmtS (w : Word) : FmtS := ⟨bits w 22 4, bits w 18 4, bits w 0 12⟩
/-- Format S of a gate. -/
def fmtG (w : Word) : FmtG := ⟨bits w 22 4, bits w 18 4, bits w 8 4⟩
/-- Format A of a long instruction. -/
def fmtL (w : Word) : FmtL := ⟨bits w 22 4, bits w 18 4, bits w 14 4, bits w 13 1, bits w 6 7, bits w 0 6⟩

/-- Table 4.10. -/
def alu (p : PondId) (w : Word) : Option Instr :=
  match func w with
  | 0x01 => some (.add p (fmtA w))
  | 0x02 => some (.sub p (fmtA w))
  | 0x03 => some (.adc p (fmtA w))
  | 0x04 => some (.sbc p (fmtA w))
  | 0x05 => some (.adds p (fmtA w))
  | 0x06 => some (.subs p (fmtA w))
  | 0x07 => some (.andd p (fmtA w))
  | 0x08 => some (.orr p (fmtA w))
  | 0x09 => some (.xor p (fmtA w))
  | 0x0A => some (.andn p (fmtA w))
  | 0x0B => some (.shl p (fmtA w))
  | 0x0C => some (.shr p (fmtA w))
  | 0x0D => some (.sar p (fmtA w))
  | 0x0E => some (.ror p (fmtA w))
  | 0x0F => some (.slt p (fmtA w))
  | 0x10 => some (.sltu p (fmtA w))
  | 0x11 => some (.minS p (fmtA w))
  | 0x12 => some (.maxS p (fmtA w))
  | 0x13 => some (.minu p (fmtA w))
  | 0x14 => some (.maxu p (fmtA w))
  | 0x15 => some (.cmp p (fmtA w))
  | 0x16 => some (.tst p (fmtA w))
  | _ => none

/-- Op 0x01 of Table 4.12. -/
def mul (p : PondId) (w : Word) : Option Instr :=
  match func w with
  | 0x01 => some (.mul p (fmtA w))
  | 0x02 => some (.mulh p (fmtA w))
  | 0x03 => some (.mulhu p (fmtA w))
  | 0x04 => some (.div p (fmtA w))
  | 0x05 => some (.divu p (fmtA w))
  | 0x06 => some (.rem p (fmtA w))
  | 0x07 => some (.remu p (fmtA w))
  | _ => none

/-- Op 0x02 of Table 4.12. -/
def acc (p : PondId) (w : Word) : Option Instr :=
  match func w with
  | 0x01 => some (.mac p (fmtA w))
  | 0x02 => some (.msu p (fmtA w))
  | 0x03 => some (.macz p (fmtA w))
  | 0x04 => some (.accx p (fmtA w))
  | 0x05 => some (.accrd p (fmtA w))
  | 0x06 => some (.accw p (fmtA w))
  | 0x07 => some (.accz p (fmtA w))
  | _ => none

/-- Table 4.14. -/
def field (p : PondId) (w : Word) : Option Instr :=
  match func w with
  | 0x01 => some (.extu p (fmtF w))
  | 0x02 => some (.exts p (fmtF w))
  | 0x03 => some (.ins p (fmtF w))
  | 0x04 => some (.clz p (fmtF w))
  | 0x05 => some (.popc p (fmtF w))
  | 0x06 => some (.sats p (fmtF w))
  | 0x07 => some (.satu p (fmtF w))
  | _ => none

/-- Op 0x25 of Table 4.16. -/
def jump (p : PondId) (w : Word) : Option Instr :=
  match func w with
  | 0x01 => some (.jr p (fmtA w))
  | 0x02 => some (.callr p (fmtA w))
  | _ => none

/-- GATE: the gate by its number (Table 5.8). -/
def gate (p : PondId) (w : Word) : Instr :=
  match (bits w 0 8).toNat with
  | 0 => .romInfo p (fmtG w)
  | 1 => .pflProgram p (fmtG w)
  | 2 => .pflErase p (fmtG w)
  | 3 => .calRead p (fmtG w)
  | 4 => .idRead p (fmtG w)
  | _ => .gateNotImplemented p (bits w 0 8) (fmtG w)

/-- Table 4.17 by sub. -/
def system (p : PondId) (w : Word) : Option Instr :=
  match (bits w 12 6).toNat with
  | 0x00 => some (.nop p (fmtS w))
  | 0x01 => some (.trap p (fmtS w))
  | 0x03 => some (.rete p (fmtS w))
  | 0x04 => some (.fence p (fmtS w))
  | 0x05 => some (.waite p (fmtS w))
  | 0x06 => some (.tbrd p (fmtS w))
  | 0x07 => some (.eprd p (fmtS w))
  | 0x08 => some (.brk p (fmtS w))
  | 0x09 => some (.ei p (fmtS w))
  | 0x0A => some (.di p (fmtS w))
  | 0x02 => some (gate p w)
  | _ => none

/-- The instruction of pond `p` that a word encodes by its op and func (R100); none where they are
not assigned (R101). `units` is how many units of a long instruction the command runs. -/
def decode (p : PondId) (units : Nat) (w : Word) : Option Instr :=
  match op w with
  | 0x00 => alu p w
  | 0x01 => mul p w
  | 0x02 => acc p w
  | 0x03 => field p w
  | 0x04 => some (.addi p (fmtI w))
  | 0x05 => some (.andi p (fmtI w))
  | 0x06 => some (.ori p (fmtI w))
  | 0x07 => some (.xori p (fmtI w))
  | 0x08 => some (.shli p (fmtI w))
  | 0x09 => some (.shri p (fmtI w))
  | 0x0A => some (.sari p (fmtI w))
  | 0x0B => some (.slti p (fmtI w))
  | 0x0C => some (.sltiu p (fmtI w))
  | 0x0D => some (.cmpi p (fmtI w))
  | 0x0E => some (.tsti p (fmtI w))
  | 0x0F => some (.lui p (fmtU w))
  | 0x10 => some (.lb p (fmtI w))
  | 0x11 => some (.lbu p (fmtI w))
  | 0x12 => some (.lh p (fmtI w))
  | 0x13 => some (.lhu p (fmtI w))
  | 0x14 => some (.lw p (fmtI w))
  | 0x15 => some (.ld p (fmtI w))
  | 0x18 => some (.sb p (fmtI w))
  | 0x19 => some (.sh p (fmtI w))
  | 0x1A => some (.sw p (fmtI w))
  | 0x1B => some (.sd p (fmtI w))
  | 0x20 => some (.bcc p (fmtB w))
  | 0x21 => some (.call p (fmtC w))
  | 0x22 => some (.bz p (fmtI w))
  | 0x23 => some (.bnz p (fmtI w))
  | 0x24 => some (.dbnz p (fmtI w))
  | 0x25 => jump p w
  | 0x30 => system p w
  | 0x38 => some (.bmov p (fmtL w) units)
  | 0x39 => some (.bcrc p (fmtL w) units)
  | 0x3A => some (.firb p (fmtL w) units)
  | 0x3B => some (.xfrm p (fmtL w) units)
  | _ => none

/-- A word whose op or func the core does not assign (R101). -/
def unassigned (w : Word) : Bool := (decode 0 0 w).isNone

/-- A word put together from its major opcode and its other 26 bits. -/
def put (o : Nat) (r : BitVec 26) : Word := BitVec.ofNat 6 o ++ r

/-- A format A word. -/
def putA (o fn : Nat) (f : FmtA) : Word := put o (f.d ++ (f.a ++ (f.b ++ (f.s ++ (f.ext ++ BitVec.ofNat 6 fn)))))
/-- A format I word. -/
def putI (o : Nat) (f : FmtI) : Word := put o (f.d ++ (f.a ++ f.imm))
/-- A format F word. -/
def putF (fn : Nat) (f : FmtF) : Word := put 0x03 (f.d ++ (f.a ++ (f.pos ++ (f.wm1 ++ (f.z ++ BitVec.ofNat 6 fn)))))
/-- A format S word. -/
def putS (sub : Nat) (f : FmtS) : Word := put 0x30 (f.d ++ (f.a ++ (BitVec.ofNat 6 sub ++ f.imm)))
/-- A GATE word. -/
def putG (n : BitVec 8) (f : FmtG) : Word := put 0x30 (f.d ++ (f.a ++ (BitVec.ofNat 6 2 ++ (f.hi ++ n))))
/-- A long instruction's word. -/
def putL (o : Nat) (f : FmtL) : Word := put o (f.d ++ (f.a ++ (f.b ++ (f.s ++ (f.ext ++ f.func)))))

/-- The word of a core instruction (Tables 4.8 to 4.17); none for any other command. -/
def encode : Instr → Option Word
  | .add _ f => some (putA 0x00 0x01 f)
  | .sub _ f => some (putA 0x00 0x02 f)
  | .adc _ f => some (putA 0x00 0x03 f)
  | .sbc _ f => some (putA 0x00 0x04 f)
  | .adds _ f => some (putA 0x00 0x05 f)
  | .subs _ f => some (putA 0x00 0x06 f)
  | .andd _ f => some (putA 0x00 0x07 f)
  | .orr _ f => some (putA 0x00 0x08 f)
  | .xor _ f => some (putA 0x00 0x09 f)
  | .andn _ f => some (putA 0x00 0x0A f)
  | .shl _ f => some (putA 0x00 0x0B f)
  | .shr _ f => some (putA 0x00 0x0C f)
  | .sar _ f => some (putA 0x00 0x0D f)
  | .ror _ f => some (putA 0x00 0x0E f)
  | .slt _ f => some (putA 0x00 0x0F f)
  | .sltu _ f => some (putA 0x00 0x10 f)
  | .minS _ f => some (putA 0x00 0x11 f)
  | .maxS _ f => some (putA 0x00 0x12 f)
  | .minu _ f => some (putA 0x00 0x13 f)
  | .maxu _ f => some (putA 0x00 0x14 f)
  | .cmp _ f => some (putA 0x00 0x15 f)
  | .tst _ f => some (putA 0x00 0x16 f)
  | .mul _ f => some (putA 0x01 0x01 f)
  | .mulh _ f => some (putA 0x01 0x02 f)
  | .mulhu _ f => some (putA 0x01 0x03 f)
  | .div _ f => some (putA 0x01 0x04 f)
  | .divu _ f => some (putA 0x01 0x05 f)
  | .rem _ f => some (putA 0x01 0x06 f)
  | .remu _ f => some (putA 0x01 0x07 f)
  | .mac _ f => some (putA 0x02 0x01 f)
  | .msu _ f => some (putA 0x02 0x02 f)
  | .macz _ f => some (putA 0x02 0x03 f)
  | .accx _ f => some (putA 0x02 0x04 f)
  | .accrd _ f => some (putA 0x02 0x05 f)
  | .accw _ f => some (putA 0x02 0x06 f)
  | .accz _ f => some (putA 0x02 0x07 f)
  | .jr _ f => some (putA 0x25 0x01 f)
  | .callr _ f => some (putA 0x25 0x02 f)
  | .addi _ f => some (putI 0x04 f)
  | .andi _ f => some (putI 0x05 f)
  | .ori _ f => some (putI 0x06 f)
  | .xori _ f => some (putI 0x07 f)
  | .shli _ f => some (putI 0x08 f)
  | .shri _ f => some (putI 0x09 f)
  | .sari _ f => some (putI 0x0A f)
  | .slti _ f => some (putI 0x0B f)
  | .sltiu _ f => some (putI 0x0C f)
  | .cmpi _ f => some (putI 0x0D f)
  | .tsti _ f => some (putI 0x0E f)
  | .lb _ f => some (putI 0x10 f)
  | .lbu _ f => some (putI 0x11 f)
  | .lh _ f => some (putI 0x12 f)
  | .lhu _ f => some (putI 0x13 f)
  | .lw _ f => some (putI 0x14 f)
  | .ld _ f => some (putI 0x15 f)
  | .sb _ f => some (putI 0x18 f)
  | .sh _ f => some (putI 0x19 f)
  | .sw _ f => some (putI 0x1A f)
  | .sd _ f => some (putI 0x1B f)
  | .bz _ f => some (putI 0x22 f)
  | .bnz _ f => some (putI 0x23 f)
  | .dbnz _ f => some (putI 0x24 f)
  | .extu _ f => some (putF 0x01 f)
  | .exts _ f => some (putF 0x02 f)
  | .ins _ f => some (putF 0x03 f)
  | .clz _ f => some (putF 0x04 f)
  | .popc _ f => some (putF 0x05 f)
  | .sats _ f => some (putF 0x06 f)
  | .satu _ f => some (putF 0x07 f)
  | .nop _ f => some (putS 0x00 f)
  | .trap _ f => some (putS 0x01 f)
  | .rete _ f => some (putS 0x03 f)
  | .fence _ f => some (putS 0x04 f)
  | .waite _ f => some (putS 0x05 f)
  | .tbrd _ f => some (putS 0x06 f)
  | .eprd _ f => some (putS 0x07 f)
  | .brk _ f => some (putS 0x08 f)
  | .ei _ f => some (putS 0x09 f)
  | .di _ f => some (putS 0x0A f)
  | .romInfo _ f => some (putG 0 f)
  | .pflProgram _ f => some (putG 1 f)
  | .pflErase _ f => some (putG 2 f)
  | .calRead _ f => some (putG 3 f)
  | .idRead _ f => some (putG 4 f)
  | .gateNotImplemented _ n f => some (putG n f)
  | .lui _ f => some (put 0x0F (f.d ++ f.imm))
  | .bcc _ f => some (put 0x20 (f.cond ++ f.off))
  | .call _ f => some (put 0x21 f.off)
  | .bmov _ f _ => some (putL 0x38 f)
  | .bcrc _ f _ => some (putL 0x39 f)
  | .firb _ f _ => some (putL 0x3A f)
  | .xfrm _ f _ => some (putL 0x3B f)
  | _ => none

end PondWord

end Sys2Proof
end

