-- ==== Sys2Proof/Config.lean ====
section
/-! DEFINITION. What the spec leaves open: free values (constants with no body, which no proof
can see) and what Gramond fixes with the part but the manual does not print. -/

namespace Sys2Proof

/-- A value the spec does not state, of 32 bits; the argument is a counter of the state
(assumption 2). -/
opaque Config.freeWord : Nat → BitVec 32

/-- A value the spec does not state, of 64 bits (assumption 2). -/
opaque Config.freeDouble : Nat → BitVec 64

/-- A byte the spec does not state (assumption 2). -/
opaque Config.freeByte : Nat → BitVec 8

/-- The ROM's bytes outside the gate table's words of R144 (assumption 9). -/
opaque Config.romByte : Nat → BitVec 8

/-- Where the body of gate n lies in ROM, in words past the gate table (R144; assumption 9). -/
opaque Config.gateWord : Nat → BitVec 32

/-- The ROM version that gate 0 returns (Table 5.8; assumption 9). -/
opaque Config.romVersion : BitVec 32

/-- The stepping, coded as HP_ID and the service map code it (R6, Tables 5.8, 10.3; DEDUCED,
assumption 48). -/
def Config.stepping : BitVec 32 := 0xB0

/-- Byte i of the identity record of pond p that gate 4 writes (Table 5.8; assumption 9). -/
opaque Config.identityByte : Nat → Nat → BitVec 8

/-- The helper data that enrollment forms for the contents of the PUF array, whose code the spec does not
give (R344; assumption 60). -/
opaque Config.pufHelper : List (BitVec 8) → List (BitVec 8)

/-- What the code makes of a majority of reads and helper data outside the promise of R341: a corrected
value, or a failure (assumption 60). -/
opaque Config.pufCorrect : List (BitVec 8) → List (BitVec 8) → Option (List (BitVec 8))

/-- W of a corrected value: the compression of R341, which the spec does not give (assumption 60). -/
opaque Config.pufCompress : List (BitVec 8) → List (BitVec 8)

/-- The issuer name of the alias certificate in DER, which the spec does not give (R352; assumption 20). -/
opaque Config.certIssuer : List (BitVec 8)

/-- The subject name of the alias certificate (assumption 20). -/
opaque Config.certSubject : List (BitVec 8)

/-- The extensions of the alias certificate, with their tag (assumption 20). -/
opaque Config.certExtensions : List (BitVec 8)

end Sys2Proof
end

