-- ==== Sys2Proof/Machine/Bits.lean ====
section
/-! DEFINITION. Bit fields, byte order, saturating fields and the sparse maps that hold
registers, memory and flash: the helpers that every other file uses. -/

namespace Sys2Proof.Machine

/-- Field `[lo+len-1:lo]` of a word, as a number (R9). -/
def fld {n : Nat} (w : BitVec n) (lo len : Nat) : Nat := (w.toNat >>> lo) % 2 ^ len

/-- A word of ones at `[lo+len-1:lo]`. -/
def fmask (n lo len : Nat) : BitVec n := BitVec.ofNat n ((2 ^ len - 1) <<< lo)

/-- The word with field `[lo+len-1:lo]` replaced by the low bits of `v`. -/
def setFld {n : Nat} (w : BitVec n) (lo len v : Nat) : BitVec n :=
  (w &&& ~~~ (fmask n lo len)) ||| (BitVec.ofNat n ((v % 2 ^ len) <<< lo))

/-- Bit `i` of a word. -/
def bit {n : Nat} (w : BitVec n) (i : Nat) : Bool := w.getLsbD i

/-- The word with bit `i` set to `b`. -/
def setBit {n : Nat} (w : BitVec n) (i : Nat) (b : Bool) : BitVec n :=
  if b then w ||| BitVec.ofNat n (1 <<< i) else w &&& ~~~ (BitVec.ofNat n (1 <<< i))

/-- The number 1 for true, 0 for false. -/
def b2n (b : Bool) : Nat := if b then 1 else 0

/-- A saturating count of `len` bits. -/
def satTo (len v : Nat) : Nat := if v < 2 ^ len then v else 2 ^ len - 1

/-- The field raised by `k`, saturating at its maximum (R13). -/
def incFld {n : Nat} (w : BitVec n) (lo len k : Nat) : BitVec n :=
  setFld w lo len (satTo len (fld w lo len + k))

/-- The field raised to `v` where `v` is larger (a peak), saturating. -/
def peakFld {n : Nat} (w : BitVec n) (lo len v : Nat) : BitVec n :=
  setFld w lo len (max (fld w lo len) (satTo len v))

/-- The signed value of a `len`-bit field. -/
def sfld {n : Nat} (w : BitVec n) (lo len : Nat) : Int :=
  let v := fld w lo len
  if v < 2 ^ (len - 1) then (v : Int) else (v : Int) - (2 ^ len : Nat)

/-- An integer clamped to the range from `lo` to `hi`. -/
def clampI (lo hi v : Int) : Int := if v < lo then lo else if hi < v then hi else v

/-- The signed `n`-bit range, clamped to (sat32, sat16 and the like). -/
def satI (n : Nat) (v : Int) : Int := clampI (-(2 ^ (n - 1) : Nat)) ((2 ^ (n - 1) : Nat) - 1) v

/-- Arithmetic shift right of an integer: division rounding down. -/
def asrI (v : Int) (k : Nat) : Int := v.fdiv ((2 ^ k : Nat) : Int)

/-- Shift right by `k` rounding to nearest, ties toward plus infinity (R104). -/
def rndI (v : Int) (k : Nat) : Int :=
  if k = 0 then v else asrI (v + ((2 ^ (k - 1) : Nat) : Int)) k

/-! Bytes, little-endian (R10). -/

/-- The low `len` bytes of a number, least significant first. -/
def leBytes : Nat → Nat → List Byte
  | _, 0 => []
  | v, len + 1 => BitVec.ofNat 8 v :: leBytes (v / 256) len

/-- The number that bytes, least significant first, spell. -/
def ofLe : List Byte → Nat
  | [] => 0
  | b :: r => b.toNat + 256 * ofLe r

/-- The low `len` bytes of a number, most significant first. -/
def beBytes (v len : Nat) : List Byte := (leBytes v len).reverse

/-- The number that bytes, most significant first, spell. -/
def ofBe (l : List Byte) : Nat := ofLe l.reverse

/-- A list cut or filled with zeros to `n` entries. -/
def padTo (n : Nat) (l : List Byte) : List Byte := (l ++ List.replicate (n - l.length) 0).take n

/-- Bytes `off` to `off + len - 1` of a structure; bytes past its end read 0. -/
def slice (l : List Byte) (off len : Nat) : List Byte := padTo len (l.drop off)

/-- The little-endian field of `len` bytes at `off`. -/
def leAt (l : List Byte) (off len : Nat) : Nat := ofLe (slice l off len)

/-! Sparse maps: lists of key and value with rising keys, no entry equal to the default. -/

/-- Values by number; a number not listed reads the default. -/
abbrev KMap (α : Type) := List (Nat × α)

/-- The value at `k`: the default `d` where nothing is listed. -/
def KMap.get {α : Type} (d : α) : KMap α → Nat → α
  | [], _ => d
  | (j, v) :: r, k => if j = k then v else KMap.get d r k

/-- The map without the entries at `k`. -/
def KMap.erase {α : Type} : KMap α → Nat → KMap α
  | [], _ => []
  | (j, v) :: r, k => if j = k then KMap.erase r k else (j, v) :: KMap.erase r k

/-- An entry put before the first larger key. -/
def KMap.insert {α : Type} (k : Nat) (v : α) : KMap α → KMap α
  | [] => [(k, v)]
  | (j, w) :: r => if k < j then (k, v) :: (j, w) :: r else (j, w) :: KMap.insert k v r

/-- The map with `v` at `k`; writing the default removes the entry, so equal maps are equal
lists. -/
def KMap.set {α : Type} [DecidableEq α] (d : α) (m : KMap α) (k : Nat) (v : α) : KMap α :=
  if v = d then KMap.erase m k else KMap.insert k v (KMap.erase m k)

/-- The keys rise strictly from above `lo`, and no value is the default. -/
def KMap.wfFrom {α : Type} [DecidableEq α] (d : α) : Option Nat → KMap α → Bool
  | _, [] => true
  | lo, (k, v) :: r =>
    (match lo with | none => true | some l => decide (l < k)) && decide (v ≠ d) &&
      KMap.wfFrom d (some k) r

/-- The canonical form of a map. -/
def KMap.wf {α : Type} [DecidableEq α] (d : α) (m : KMap α) : Bool := KMap.wfFrom d none m

/-- Words of `n` bits by number; a number not listed reads 0. -/
abbrev SMap (n : Nat) := KMap (BitVec n)

/-- The value at `k`: 0 where nothing is listed. -/
def SMap.get {n : Nat} (m : SMap n) (k : Nat) : BitVec n := KMap.get 0#n m k

/-- The map with `v` at `k`. -/
def SMap.set {n : Nat} (m : SMap n) (k : Nat) (v : BitVec n) : SMap n := KMap.set 0#n m k v

/-- The canonical form of a sparse map: numbers rise strictly, no entry is 0. -/
def SMap.wf {n : Nat} (m : SMap n) : Bool := KMap.wf 0#n m

/-- The map with the keys from `a` to `a + len - 1` removed (they read 0). -/
def SMap.clear {n : Nat} (m : SMap n) (a len : Nat) : SMap n :=
  m.filter (fun e => !(decide (a ≤ e.1) && decide (e.1 < a + len)))

/-- Bytes stored from address `a` upward. -/
def SMap.setBytes (m : SMap 8) (a : Nat) : List Byte → SMap 8
  | [] => m
  | b :: r => SMap.setBytes (m.set a b) (a + 1) r

/-- The `len` bytes from address `a` upward. -/
def SMap.bytes (m : SMap 8) (a : Nat) : Nat → List Byte
  | 0 => []
  | len + 1 => m.get a :: SMap.bytes m (a + 1) len

/-- Words stored from key `k` upward, one key apart `d`. -/
def SMap.setAll {n : Nat} (m : SMap n) (k d : Nat) : List (BitVec n) → SMap n
  | [] => m
  | v :: r => SMap.setAll (m.set k v) (k + d) d r

/-! Vectors by number. -/

/-- Entry `i`, or `d` past the end. -/
def vget {α : Type} {n : Nat} (v : Vector α n) (i : Nat) (d : α) : α := v.getD i d

/-- The vector with entry `i` replaced; past the end, the vector itself. -/
def vset {α : Type} {n : Nat} (v : Vector α n) (i : Nat) (x : α) : Vector α n := v.setIfInBounds i x

/-- Entry `i` replaced by `f` of it. -/
def vmod {α : Type} {n : Nat} (v : Vector α n) (i : Fin n) (f : α → α) : Vector α n := v.set i (f v[i])

/-- The numbers below `n` that satisfy `f`, as a mask. -/
def maskOf (n : Nat) (f : Nat → Bool) : Nat :=
  (List.range n).foldl (fun a i => if f i then a + 2 ^ i else a) 0

/-- The numbers below `n` whose bit of the mask is set, in rising order. -/
def bitsOf (n : Nat) (m : Nat) : List Nat := (List.range n).filter (fun i => m.testBit i)

/-- The list with the entry at `i` replaced by `f` of it. -/
def lmod {α : Type} (l : List α) (i : Nat) (f : α → α) : List α := l.modify i f

/-- The first entry that satisfies `p` replaced by `f` of it. -/
def modFirst {α : Type} (p : α → Bool) (f : α → α) : List α → List α
  | [] => []
  | x :: r => if p x then f x :: r else x :: modFirst p f r

/-- The list without its first entry that satisfies `p`. -/
def eraseFirst {α : Type} (p : α → Bool) : List α → List α
  | [] => []
  | x :: r => if p x then r else x :: eraseFirst p r

end Sys2Proof.Machine
end

