-- ==== Sys2Proof/Machine/State.lean ====
section
/-! DEFINITION. The state: every register, buffer, queue, mode and pin the spec gives the K64,
as plain data, with its value at reset (State.reset), and the reasons a step can stop. -/

namespace Sys2Proof.Machine

/-! ## The pond core (chapters 4 and 5) -/

/-- The flags N, Z, C, V and the sticky flag Q (R96, Table 4.5). -/
structure Flags where
  n : Bool
  z : Bool
  c : Bool
  v : Bool
  q : Bool
  deriving DecidableEq, Repr

/-- One entry of the SRAM store buffer (R122): a word (a byte or halfword store is merged into
its word, section 6 of chapter 4) or a doubleword. -/
structure SbEntry where
  /-- Byte address of the word or doubleword. -/
  addr : Nat
  /-- 1: eight bytes (SD); 0: four. -/
  dbl : Bool
  val : BitVec 64
  deriving DecidableEq, Repr

/-- One message post (R124, R194): its KIND, the send port, its data, the send epoch and incarnation
stamped when the post issued, and the pond cycle in which it issued (R43). -/
structure Post where
  kind : Nat
  port : Nat
  dbl : Bool
  data : BitVec 64
  epoch : Nat
  inc : BitVec 8
  cyc : Nat
  deriving DecidableEq, Repr

/-- What the pond core does (R98, R110, R126, R140). -/
inductive Run where
  /-- Held in reset or out of service. -/
  | off
  /-- In the ROM loop of R69, not started. -/
  | rom
  | running
  /-- WAITE waits for a latch of its mask (R110). -/
  | waiting (mask : BitVec 8)
  /-- FENCE waits for the buffers of its mask (R126). -/
  | fencing (mask : BitVec 2)
  /-- Lockdown (R140). -/
  | locked
  deriving DecidableEq, Repr

/-- A CA_BUDGET measurement in progress (Table 4.7): cycles and instructions since the wake. -/
structure CaMeas where
  cycles : Nat
  instrs : Nat
  deriving DecidableEq, Repr

/-- The words of a progress record (Table 4.20). -/
structure LRec where
  op : Nat
  st : Nat
  done : Nat
  w8 : Nat
  wC : Nat
  w10 : Nat
  w14 : Nat
  value : BitVec 64
  deriving DecidableEq, Repr

/-- A long instruction between units (R114): its opcode, its record's address, the units
completed, the check-value unit of a BCRC, and the record as the execution read it. -/
structure LongRun where
  op : BitVec 6
  base : Nat
  done : Nat
  unit : Nat
  read : LRec
  deriving DecidableEq, Repr

/-- The pond core: its programmer's model (chapter 4, section 1), buffers and pipeline facts. -/
structure Core where
  /-- g0 to g15 (R95). -/
  g : Vector Word 16
  /-- The accumulator (R97). -/
  acc : BitVec 72
  flags : Flags
  /-- PCORE_CTRL.IE. -/
  ie : Bool
  /-- The event latches (Table 4.18). -/
  evt : BitVec 8
  /-- PCORE_STATUS.NEST. -/
  nest : Nat
  /-- PCORE_STATUS.DF. -/
  df : Bool
  pc : Word
  run : Run
  /-- Halted by an unlocked debugger (R374). -/
  halted : Bool
  /-- A halted core may issue one instruction (R374). -/
  stepping : Bool
  /-- The gate whose body runs (R146). -/
  gate : Option Nat
  long : Option LongRun
  ca : Option CaMeas
  /-- Registers whose use in the next cycle stalls (Table 4.19): a load or multiply result. -/
  hazard : BitVec 16
  /-- Cycles since the last instruction that wrote acc, from 2 upward no stall (Table 4.19). -/
  accAge : Nat
  /-- A peripheral store issued in the previous cycle (Table 4.19). -/
  perStore : Bool
  /-- The SRAM store buffer, oldest first, at most 4 (R122). -/
  sb : List SbEntry
  /-- The post buffer, oldest first, at most 8 (R124). -/
  pb : List Post
  /-- The post that finds the buffer full; the core stalls on it (R124). -/
  stalled : Option Post
  /-- The pond cycle in which the present wait began: a WAITE, a FENCE or a stalled post (Table 4.7). -/
  waitCyc : Nat
  deriving DecidableEq, Repr

/-- The pond interrupt controller's bits (R149); priorities, threshold and counts are registers. -/
structure Pic where
  pend : BitVec 96
  act : BitVec 96
  lost : BitVec 96
  deriving DecidableEq, Repr

/-! ## Sampling (chapter 6) -/

/-- Where a trigger edge comes from: the GSS edge, a generator's period start or compare edge,
or software (R160). -/
inductive EdgeKind where
  | gss
  | pgStart (k : Nat)
  | pgCompare (k : Nat)
  | sw
  deriving DecidableEq, Repr

/-- One trigger edge: its source, its number there, its time in units of 62.5 ps of the model's
clock, and its nominal time from the start of epoch 0 in the same units (R314). -/
structure Edge where
  kind : EdgeKind
  num : Nat
  t : Nat
  nom : Nat
  deriving DecidableEq, Repr

/-- A burst in progress (R159, R162): the configuration latched at its trigger. -/
structure Burst where
  edge : Edge
  /-- The converter whose configuration runs (ADCA under cover, R171): 0 ADCA, 1 ADCB. -/
  owner : Bool
  /-- The latched slot words, slot 0 first. -/
  slots : List Word
  /-- The next slot whose code is awaited. -/
  next : Nat
  deriving DecidableEq, Repr

/-- The outcome of a calibration's measurements (R170): RES, FIDX and the 12 new factors. -/
structure CalRes where
  res : Nat
  fidx : Nat
  factors : List Word
  deriving DecidableEq, Repr

/-- A calibration in progress: the epoch of return to service (none at device start), cover, and
the measured outcome once known. -/
structure CalRun where
  endEp : Option Nat
  cover : Bool
  res : Option CalRes
  deriving DecidableEq, Repr

/-- One converter. -/
structure Conv where
  burst : Option Burst
  /-- The time (62.5 ps) up to which the last burst keeps the converter busy (Table 6.3). -/
  busyTill : Nat
  /-- Trigger edges on their way to the converter. -/
  trigs : List Edge
  /-- PG events still to pass before the next one is used (R160). -/
  skip : Nat
  /-- The latest edge whose trigger was refused (R161). -/
  refused : Option Edge
  /-- A recalibration recorded in this epoch, and its COVER bit (R169). -/
  calReq : Option Bool
  cal : Option CalRun
  /-- The start-up calibration has ended (R161, R70). -/
  ready : Bool
  /-- The 12 calibration factors (Table 6.5). -/
  factors : List Word
  deriving DecidableEq, Repr

/-- The slot 0 codes of one GSS edge (R163): none while awaited. -/
structure GssHalves where
  a : Option (BitVec 16)
  b : Option (BitVec 16)
  deriving DecidableEq, Repr

/-- One edge that the energy tap still waits on (R168). -/
structure TapOpen where
  edge : Edge
  v : Option Int
  i : Option Int
  /-- A named code is missing (R168): the edge is a counted gap, kept while another code of it may come. -/
  miss : Bool
  deriving DecidableEq, Repr

/-- The energy tap (chapter 12, R314 to R316). -/
structure Tap where
  /-- R + W * 2^48, the measured sum in TAP_K units. -/
  x : Int
  /-- The whole quanta posted so far. -/
  cum : Int
  /-- The time of the previous product's edge; none before the first. -/
  prev : Option Nat
  opened : List TapOpen
  /-- Products by epoch that no post has taken yet (R315). -/
  pend : List (Nat × Int)
  /-- The post of the registered boundary is still to issue. -/
  due : Bool
  gaps : Nat
  /-- Epochs carried in the next post (R317). -/
  carried : Nat
  /-- Late increments not yet reported (R52). -/
  lateNew : Nat
  /-- TAP_K of the setup image. -/
  k : Nat
  /-- The energy sluice of the setup image. -/
  sluice : Option Nat
  /-- The tag of the pond's account, and those that follow, each with the send epoch from which it
  governs, oldest first (R321). -/
  tag : Word
  tags : List (Nat × Word)
  deriving DecidableEq, Repr

/-- One comparator (R173 to R176). -/
structure Cmp where
  /-- The output after the filter. -/
  out : Bool
  /-- Blanking in progress. -/
  blank : Bool
  /-- The pins this comparator forces idle. -/
  force : BitVec 4
  /-- The active output has tripped already. -/
  done : Bool
  deriving DecidableEq, Repr

/-! ## Pulses, loops and timers (chapter 7) -/

/-- A generator's grid (R180, R185, R212): stopped, starting at the next boundary, waiting for
its first period (after an idle gap or not), or running. -/
inductive PgGrid where
  | stopped
  | pending
  | waiting (gap : Bool)
  | running
  deriving DecidableEq, Repr

/-- Values as they stood before the present pond cycle (R181). -/
structure PgSnap where
  cycle : Nat
  fresh : Bool
  duty : Nat
  period : Nat
  deriving DecidableEq, Repr

/-- One pulse generator. -/
structure Pg where
  grid : PgGrid
  /-- An offset change moves the grid at the end of the period in progress (R212). -/
  move : Bool
  /-- The active period and duty, in 62.5 ps units. -/
  period : Nat
  duty : Nat
  fresh : Bool
  armed : Bool
  /-- The level the generator drives on its pin. -/
  drive : Bool
  /-- The nominal time of the grid's first instant, and of the period in progress (R314, R212). -/
  base : Nat
  nom : Nat
  /-- The model's time, in 62.5 ps units, less the nominal time: of the period in progress, and of the
  grid's first instant (R160, R180). -/
  org : Int
  baseOrg : Int
  /-- The duty a held member arms with (R210). -/
  held : Option Nat
  /-- The duty active at the last boundary at which the member's word agreed (R210). -/
  agreed : Nat
  snap : Option PgSnap
  /-- The pond cycle of the latest arming write, and of the latest decision. -/
  armCycle : Option Nat
  endCycle : Option Nat
  /-- Events of the period start and of the compare edge so far. -/
  starts : Nat
  compares : Nat
  deriving DecidableEq, Repr

/-- A lane computation whose outputs are not yet written (R187 to R189). -/
structure LaneRun where
  edge : Edge
  mode : Nat
  err : Int
  out : Int
  duty : Nat
  /-- The clamp marks of the stages (bit s). -/
  sat : Nat
  tgtEn : Bool
  target : Nat
  deriving DecidableEq, Repr

/-- A lane sample that waits for LE0's output of the same edge (R191). -/
structure LaneWait where
  edge : Edge
  /-- Aperture of the sample, in 62.5 ps. -/
  aperture : Nat
  code : Int
  deriving DecidableEq, Repr

/-- A sample of a GSS edge that reached its lane before the pond registered that edge's boundary
(R51, R188). -/
structure LaneHeld where
  lane : Nat
  edge : Edge
  aperture : Nat
  code : Int
  deriving DecidableEq, Repr

/-- One LE0 output with its edge and aperture (R191). -/
structure LaneHist where
  edge : Edge
  aperture : Nat
  out : Int
  deriving DecidableEq, Repr

/-- One loop-engine lane; its coefficient file (Table 7.7) holds states, I and UPREV. -/
structure Lane where
  coef : SMap 32
  runs : List LaneRun
  wait : Option LaneWait
  /-- The last edge of which the lane took a sample (R165). -/
  last : Option Edge
  /-- The ramped reference while RAMP is 1 (R190). -/
  ramp : Option Int
  /-- The share correction of this epoch (R213). -/
  share : Int
  /-- Outputs of the latest computations, newest first (R191). -/
  hist : List LaneHist
  deriving DecidableEq, Repr

/-- The capture FIFOs and the pins of the CAP block (R198 to R201). -/
structure Cap where
  fifo : Vector (List Word) 4
  /-- Levels driven from outside on FLT_0, FLT_1, GPIO_0, GPIO_1. -/
  pins : BitVec 4
  /-- The levels sampled at the latest GSS edge, with the comparator outputs (Table 2.3 PINS). -/
  sampled : Word
  /-- The pins that FLT_0 and FLT_1 force idle. -/
  force0 : BitVec 4
  force1 : BitVec 4
  deriving DecidableEq, Repr

/-! ## Phase groups (chapter 8) -/

/-- An exchange message of a member (Table 8.2). -/
structure Exch where
  idx : Nat
  /-- Send epoch and apply epoch. -/
  send : Nat
  apply : Nat
  cword : BitVec 64
  cfgVer : Word
  imageVer : Word
  share : Word
  info : Word
  deriving DecidableEq, Repr

/-- The phase-group block of a pond beside its registers. -/
structure Grp where
  /-- The configured member list, in pond order (R203). -/
  config : List Nat
  /-- The configured members in service, which form the group (R36). -/
  live : List Nat
  /-- The current member set. -/
  members : List Nat
  /-- Hold count of each configured member. -/
  holds : List Nat
  /-- STATE of Table 8.5. -/
  st : Nat
  stop : Nat
  /-- The start epoch G and whether the start verdict is still to come (R214). -/
  start : Option Nat
  /-- The boundary at which new offsets take effect (R212) or grids start (R214). -/
  moveAt : Option Nat
  startAt : Option Nat
  /-- Exchange messages held for their apply epoch (R206). -/
  slots : List Exch
  /-- The last applied message of each member index (Table 9.5). -/
  applied : List Exch
  /-- The group's send port and sluice. -/
  sendPort : Nat
  /-- The group's number. -/
  num : Nat
  deriving DecidableEq, Repr

/-! ## Check-value units, the sideband bus and the pond flash (chapters 15, 16, 14) -/

/-- A check-value unit beside its configuration register (Table 15.5). -/
structure Cvu where
  poly : BitVec 64
  init : BitVec 64
  v : BitVec 64
  expect : BitVec 64
  result : BitVec 64
  count : Word
  deriving DecidableEq, Repr

/-- The sideband controller beside its registers. -/
structure Sb where
  /-- The command accepted and not yet ended. -/
  cmd : Option Word
  /-- Its START has been sent (R427). -/
  started : Bool
  tx : SMap 8
  rx : SMap 8
  /-- From when a recovery round is in progress; none with no round due (R432, R433). -/
  roundAt : Option Nat
  /-- Rounds that remain after the next one; none in the final round after SB_RESET_N. -/
  left : Option Nat
  /-- Until when SB_RESET_N is driven low, where it is (R433). -/
  resetTill : Option Nat
  /-- The bus where no transaction or round of the controller has it (R427): not free before the first time, free
  at the second at the latest, where that is known. -/
  bus : Option (Nat × Option Nat)
  /-- The line levels that the latest event showed (SB_STATUS.SDA, SCL while no transaction runs). -/
  sda : Bool
  scl : Bool
  deriving DecidableEq, Repr

/-- One flash word (R379, R380): its data, the cells programmed among data and check bits, the
marker cells programmed, and the read-retry step its correction needs (0 none, 7 uncorrectable). -/
structure FWord where
  data : BitVec 256
  prog : Nat
  marker : Nat
  step : Nat
  deriving DecidableEq, Repr

/-- The erased word: every cell reads 1. -/
def FWord.erased : FWord := { data := BitVec.allOnes 256, prog := 0, marker := 0, step := 0 }

/-- A flash operation in progress in one array (R384): the sector or word offset, and for a
program the words still to come. -/
structure FlashOp where
  /-- 1 firmware, 2 host. -/
  owner : Nat
  erase : Bool
  /-- Word index in the array. -/
  word : Nat
  /-- Words to program from `word` upward. -/
  data : List (BitVec 256)
  /-- Management tag of a block write, or the active command's number. -/
  tag : Nat
  deriving DecidableEq, Repr

/-- The pond flash: 2 banks of 8,192 words, the dirty cells of 2 x 64 sectors, the operation in
progress and the marks of Table 14.15. -/
structure Pfl where
  /-- The active bank (R390). -/
  bank : Bool
  /-- Words by 8,192 x bank + index. -/
  words : KMap FWord
  /-- Dirty sectors by 64 x bank + sector (R381). -/
  dirty : SMap 1
  op : Option FlashOp
  verified : Bool
  /-- How often the verified mark has been cleared (R309). -/
  cleared : Nat
  /-- A swap is held (Table 14.15 SWAP_ARMED). -/
  armed : Bool
  deriving DecidableEq, Repr

/-! ## Messages (chapters 2 and 9) -/

/-- A message held for its apply epoch (R50, R51). -/
structure HeldMsg where
  rx : Nat
  src : Nat
  inc : BitVec 8
  apply : Nat
  value : BitVec 64
  deriving DecidableEq, Repr

/-- A packet (R223, R224): its header and payload flits, for a sluice packet the sluice, and the model's
time at which it was handed to its stop, or accepted at its endpoint. -/
structure Packet where
  head : BitVec 128
  body : List (BitVec 128)
  sluice : Option Nat
  since : Nat
  deriving DecidableEq, Repr

/-- The effect of a host command in a pond (chapter 11, section 3). -/
inductive ActKind where
  /-- Register entries in order: offset and value (R296). -/
  | configure (entries : List (Nat × Word))
  /-- ENABLE or DISABLE of the named generators and lanes (R297). -/
  | enable (on : Bool) (mask : Nat)
  /-- SET_REF: the mask of lanes and the two references (R297). -/
  | setRef (mask : Nat) (ref0 ref1 : Word)
  /-- GROUP_CONFIGURE (R298): the group, its members and the group's send port here; a pond that is
  no member ends its run of the group. -/
  | group (num : Nat) (members : List Nat) (port : Nat)
  /-- CAPTURE_STREAM start with its sluice, or end (R301). -/
  | stream (on : Bool) (sluice : Nat)
  /-- PROG_SWAP (R401), with the count of mark clears at its consumption (R309). -/
  | swap (mark : Nat)
  /-- ACCT_ASSIGN: the tag of the pond's later posts (R321). -/
  | assign (tag : Word)
  /-- A lease was granted or released here (PIC source 58). -/
  | lease
  /-- An orphan policy: 0 HOLD, 1 RAMP, 2 STOP (R31). -/
  | orphan (policy : Nat)
  /-- The alarm notice (R365). -/
  | alarm
  deriving DecidableEq, Repr

/-- An action held in a pond for its apply epoch (R58, R291). -/
structure Act where
  apply : Nat
  /-- Consumption order (R59). -/
  order : Nat
  kind : ActKind
  deriving DecidableEq, Repr

/-- The life of a pond: service, start, resets and incarnation (chapter 3). -/
structure Life where
  /-- The pond is in the service map. -/
  inService : Bool
  /-- BIST of this device start has ended. -/
  bistDone : Bool
  /-- The pond's start has happened (R70). -/
  started : Bool
  /-- NOSTART: the pond stays in ROM (Table 3.3). -/
  nostart : Bool
  /-- A calibration of the device start failed (Table 3.3). -/
  calFail : Bool
  /-- The active bank passed its check. -/
  imageValid : Bool
  startEp : Nat
  /-- Lanes and generators enabled at the start (Table 14.18 AUTOSTART). -/
  enables : Nat
  /-- The setup image has an AUTOSTART entry for the pond, and its initial references. -/
  auto : Bool
  ref0 : Word
  ref1 : Word
  /-- The calibration had not ended by the boundary of the start epoch (R70). -/
  calLate : Bool
  /-- Pond reset in progress: the epoch of the restart (R80). -/
  resetEnd : Option Nat
  /-- A pond reset requested in the present epoch, and its cause (Table 3.9). -/
  resetReq : Option Nat
  /-- A core-only reset requested and not yet done, and its cause. -/
  coreReq : Option Nat
  /-- A program swap is due: its epoch A (R401). -/
  swapDue : Option Nat
  /-- The epoch A of a swap that took effect (SWAP_DONE comes at A + 1). -/
  swapped : Option Nat
  /-- The swap waited for a gate's return (R404). -/
  swapWaited : Bool
  /-- This incarnation (R84). -/
  inc : BitVec 8
  /-- Posting is blocked until the incarnation is confirmed (R85). -/
  incWait : Bool
  /-- PWM pins are held low by a reset (R80). -/
  pinsLow : Bool
  deriving DecidableEq, Repr

/-- An addressed memory: cells (`Host.Cell`) with rising addresses; a byte not listed reads 0, as a
reset zeroes SRAM (Table 3.5). -/
abbrev Memory := SMap 8

/-- The canonical form: addresses rise strictly and no cell is 0. -/
def Memory.wf (m : Memory) : Bool := SMap.wf m

/-- One pond: its core, memories, blocks and its end of the fabric. -/
structure Pond where
  core : Core
  pic : Pic
  /-- Stored register words by offset from 0x4000_0000 (R462). -/
  regs : SMap 32
  /-- SRAM by offset from 0x2000_0000 (Table 4.15). -/
  sram : Memory
  /-- ECC errors held per SRAM word: 1 single-bit, 2 uncorrectable (R108). -/
  ecc : SMap 2
  pfl : Pfl
  /-- The timebase copy (R38). -/
  tb : BitVec 64
  /-- The timestamp of the latest GSS edge (R40). -/
  stamp : BitVec 64
  /-- Whether the timebase runs (from the first GSS edge). -/
  tbRun : Bool
  /-- Ticks by which the next cycle's advance of 2 is lowered or raised (R40). -/
  slew : Int
  /-- The registered epoch (R43); none before the first boundary. -/
  epoch : Option Nat
  /-- GSS edges that reached the pond and are not yet registered. -/
  edges : Nat
  /-- The model's time of the latest GSS edge that reached the pond. -/
  edgeNs : Nat
  /-- The boundary flag, and stepped since the previous energy post (R470). -/
  alignB : Bool
  alignPost : Bool
  conv : Vector Conv 2
  /-- Codes of the latest GSS edge, and those of the edge before it (R163). -/
  gss : GssHalves
  gssPrev : GssHalves
  /-- The capture buffer, oldest first, each entry with its epoch (R167, Table 11.7). -/
  cbuf : List (Word × Nat)
  /-- An entry has been stored in this epoch (R167 FIRST). -/
  cbufFirst : Bool
  /-- The first window trip of this epoch used its handover, per converter (R194). -/
  handover : Bool
  tap : Tap
  cmp : Vector Cmp 2
  pg : Vector Pg 4
  lane : Vector Lane 2
  /-- Samples that wait for the registration of their edge's boundary (R51). -/
  laneQ : List LaneHeld
  cap : Cap
  cvu : Vector Cvu 2
  sb : Sb
  grp : Grp
  /-- RX_n's value in force (R248). -/
  rx : SMap 64
  /-- Send-port record words +0 and +4 by 2n and 2n + 1 (Table 9.6). -/
  sendRec : SMap 32
  /-- Receive-port record word +0 by n, and the default value. -/
  recvRec : SMap 32
  recvDef : SMap 64
  /-- The stored incarnation of each source (R249). -/
  incTab : SMap 8
  held : List HeldMsg
  /-- Ports with a late message since the last boundary (R52). -/
  lateRx : BitVec 32
  /-- The last messages applied from the receivers, by source: the apply epoch (R250). -/
  applied : List HeldMsg
  acts : List Act
  /-- Messages held in the pond cycle named with each (R50). -/
  came : List (Nat × Packet)
  /-- Posts that left the pond in the cycle in which they issued (R43). -/
  lastPosts : List Post
  life : Life
  /-- The capture stream's sluice (R301). -/
  stream : Option Nat
  /-- Packets posted and waiting at the stop for injection, per lane class. -/
  out : List Packet
  /-- The setup image's register entries for this pond (R70, R178), in body order. -/
  setup : List (Nat × Word)
  /-- The counter that the free values of this pond are applied to (assumption 2). -/
  fresh : Nat
  deriving DecidableEq, Repr

/-- The regions of Table 4.15. -/
inductive Region where
  | flashActive
  | flashInactive
  | sram
  | record
  | rom
  | periph
  | ports
  | nothing
  deriving DecidableEq, Repr

/-- A fault of a pond core: KIND and TYPE of Table 4.6 and the faulting address. -/
structure Flt where
  kind : Nat
  typ : Nat
  addr : Word
  deriving DecidableEq, Repr

/-- What a pond's own step needs of the rest of the device: the pond's number, the model's time, the
pond cycle that holds it and the ns passed in that cycle, the epoch length and default latency, and whether an unlocked debugger is attached (R374). -/
structure PCtx where
  p : Nat
  ns : Nat
  cyc : Nat
  sub : Nat
  epochLen : Nat
  lat : Nat
  dbg : Bool
  /-- Sluices with the epoch each opens at and, if any, the epoch it closes at (R238). -/
  sl : List (Nat × Nat × Option Nat)
  deriving DecidableEq, Repr

/-! ## The Weir (chapter 9) -/

/-- One flit (R223) and the sluice in whose slots it travels. -/
structure Flit where
  data : BitVec 128
  head : Bool
  tail : Bool
  sluice : Option Nat
  deriving DecidableEq, Repr

/-- A flit on the wires of a link: its lane, its sequence number (never sent; R223), its side
field, the number of the sender's replay after which it was sent (R242), and whether its handshake is one to
audit (R240). -/
structure WireFlit where
  flit : Flit
  lane : Nat
  seq : Nat
  side : BitVec 16
  round : Nat
  audit : Bool
  deriving DecidableEq, Repr

/-- Where the sending stop takes a flit from: the buffer behind an arriving link (4 x link + lane),
the endpoint's injection queue, or the gateway's transfer buffer. -/
inductive FlitSrc where
  | rx (k : Nat)
  | inject
  | turn
  deriving DecidableEq, Repr

/-- A message of the return channel (R239). -/
inductive RetMsg where
  | ack (seq : Nat)
  | nak (seq : Nat)
  | credit (lane : Nat)
  deriving DecidableEq, Repr

/-- One link direction: sender, wires, receiver and return channel (R233 to R244). -/
structure Link where
  /-- The sequence number of the next new flit. -/
  seqS : Nat
  /-- Handshakes completed. -/
  hs : Nat
  /-- The wheel slot of the next handshake (R235). -/
  slot : Nat
  /-- Credits in use by lane, that is, the link constant less the credits held. -/
  used : Vector Nat 4
  /-- The lane served last of VC0 to VC2 (R233). -/
  rr : Nat
  /-- The source of the packet in progress on each lane. -/
  own : Vector (Option FlitSrc) 4
  /-- Sent flits not acknowledged, oldest first, at most 32 (R242). -/
  retry : List WireFlit
  /-- The sequence number that a replay sends next. -/
  replay : Option Nat
  wire : List WireFlit
  /-- Flits accepted by the receiver. -/
  seqR : Nat
  /-- The replays that the sender has begun, and the NAKs that the receiver has sent: flits of an earlier
  round follow one that failed, and are discarded (R242). -/
  round : Nat
  roundR : Nat
  /-- Failures in a row of the flit expected (R243). -/
  fails : Nat
  /-- The receive buffers by lane. -/
  buf : Vector (List Flit) 4
  /-- Packets being ejected at the receiving stop, by lane, or 4 + sluice. -/
  asm : KMap (List (BitVec 128))
  ret : List RetMsg
  /-- 0 up, 1 retrying, 2 retraining, 3 failed (Table 9.7). -/
  st : Nat
  /-- Failed retrainings in a row (R244). -/
  rfails : Nat
  /-- A 1,024th handshake is still to be audited (R240). -/
  audit : Bool
  /-- Sluice + 1 by wheel slot; 0 free. -/
  wheel : SMap 8
  deriving DecidableEq, Repr

/-- A link direction with nothing on it. -/
def Link.idle : Link :=
  { seqS := 0, hs := 0, slot := 0, used := Vector.replicate 4 0, rr := 0, own := Vector.replicate 4 none,
    retry := [], replay := none, wire := [], seqR := 0, round := 0, roundR := 0, fails := 0,
    buf := Vector.replicate 4 [], asm := [], ret := [], st := 0, rfails := 0, audit := false,
    wheel := [] }

/-- A sluice that is open, or whose slots are still counted (R234 to R238). -/
structure SluiceRec where
  num : Nat
  src : Nat
  slots : Nat
  flits : Nat
  /-- Link indices in path order. -/
  path : List Nat
  /-- Drop stops, bit n for stop index n. -/
  drops : Nat
  /-- The delivery bound in ns, rounded up (R237). -/
  bound : Nat
  openAt : Nat
  closeAt : Option Nat
  deriving DecidableEq, Repr

/-- The fabric. -/
structure Weir where
  links : KMap Link
  /-- Routing words by 5 x table + word (R226). -/
  rt : SMap 32
  /-- Transfer buffers by 4 x gateway + 2 x direction (0 up, 1 down) + class (R228). -/
  turns : KMap (List Flit)
  /-- The source of the packet in progress into each transfer buffer: 4 x link + lane + 1, 0 none. -/
  turnFrom : SMap 16
  sluices : List SluiceRec
  /-- Packets that wait at the hub for injection. -/
  hubOut : List Packet
  /-- Packets ejected by endpoint, oldest first, not yet handled. -/
  ejected : KMap (List Packet)
  /-- Flits already sent of the packet being injected, by 256 x link + lane (3 + n: sluice n). -/
  sent : SMap 8
  /-- Energy posts that the Weir holds: posted, and not yet at the ledger (R330). -/
  energy : List Packet
  /-- Capture-stream packets accepted at the hub and held for their apply epoch (R51). -/
  streamIn : List Packet
  /-- Incarnations that the hub keeps (R249). -/
  inc : SMap 8
  deriving DecidableEq, Repr

/-! ## Host ports (chapter 10) -/

/-- The kept copy of a context block (Table 10.5). -/
structure Block where
  cmdBase : Nat
  cplBase : Nat
  db : Nat
  cmdLog : Nat
  cplLog : Nat
  poll : Nat
  mirBase : Nat
  mirCfg : Word
  deriving DecidableEq, Repr

/-- A queue context (Tables 10.4 and 10.6). -/
structure Ctx where
  /-- STATE of Table 10.6. -/
  st : Nat
  cause : Nat
  gen : BitVec 16
  lo : Word
  hi : Word
  consumed : Word
  /-- The next completion sequence S. -/
  seq : Word
  block : Option Block
  /-- CPL_HEAD and CMD_TAIL as last read. -/
  head : Word
  tail : Word
  /-- Fetched descriptors that wait for consumption, from index `consumed` upward. -/
  fetched : List (List Byte)
  /-- Outstanding descriptor reads: first index and count. -/
  asked : List (Word × Nat)
  /-- The doorbell read is outstanding, and when the latest was issued. -/
  polling : Bool
  pollAt : Option Nat
  /-- Consumed commands whose completion is not produced. -/
  owed : Nat
  /-- Losses not yet reported (R276, R278). -/
  loss : Nat
  /-- Raised by ABANDON: commands of an older life complete unwritten (R266). -/
  life : Nat
  /-- The next completion written reports the losses (R278). -/
  report : Bool
  /-- Completions are written with REPLAY 1. -/
  replaying : Bool
  /-- A break fell in the latest replay (R277). -/
  cut : Bool
  deriving DecidableEq, Repr

/-- A completion in the reserve (R276): bytes 0x00 to 0x13, and DESC_INDEX. -/
structure Cpl where
  ctx : Nat
  seq : Word
  head : List Byte
  index : Word
  /-- The consumption order of its command. -/
  order : Nat
  /-- Both writes are issued on the present link. -/
  sent : Bool
  /-- It is written with REPLAY 1: it waited at an entry to REPLAYING, or was produced during the replay
  (R278). -/
  replay : Bool
  deriving DecidableEq, Repr

/-- What a posted memory write carries. -/
inductive WriteKind where
  /-- Result data of the command of this consumption order. -/
  | data (order : Nat)
  /-- The first write of a completion. -/
  | cplHead
  /-- The second write of a completion of a context. -/
  | cplTail (ctx : Nat) (seq : Word)
  | mirror
  | stream
  deriving DecidableEq, Repr

/-- A memory write that the port issued and the link partner has not acknowledged. -/
structure HostWrite where
  addr : Nat
  data : List Byte
  kind : WriteKind
  /-- Its Relaxed Ordering and No Snoop attributes (R256). -/
  attr : BitVec 2
  deriving DecidableEq, Repr

/-- What the port's configuration space holds beside Bus Master Enable and the power state (Table 10.2,
R254 to R256; assumption 59). -/
structure PortCfg where
  /-- Memory Space Enable. -/
  mem : Bool
  /-- BAR0 and BAR1. -/
  bar : BitVec 64
  /-- Max_Payload_Size: 2^n times 128 bytes. -/
  mps : Fin 3
  /-- Max_Read_Request_Size: 2^n times 128 bytes. -/
  mrrs : Fin 6
  deriving DecidableEq, Repr

/-- A host port. -/
structure Port where
  /-- PERST_N is asserted. -/
  perst : Bool
  link : Bool
  speed : Nat
  width : Nat
  flit : Bool
  /-- Bus Master Enable. -/
  bme : Bool
  d3 : Bool
  cfg : PortCfg
  ready : Bool
  breaks : BitVec 16
  /-- 0 steward, 1 operator, 2 observer. -/
  role : Nat
  forced : Bool
  reserve : List Cpl
  posted : List HostWrite
  /-- The time of the latest consumption. -/
  lastUse : Option Nat
  ctx : Vector Ctx 32
  /-- The snapshot that is due: X and its bytes. -/
  mirDue : Option (Nat × List Byte)
  /-- The snapshot being written: X, the skips that it reports and the time of its first write. -/
  mirBusy : Option (Nat × Nat × Nat)
  /-- Where the SEQ_END of the snapshot being written goes (R282). -/
  mirTail : Nat
  /-- Snapshots skipped since the latest one written (Table 10.8). -/
  mirSkips : Nat
  /-- The boundary time of the snapshot that is due. -/
  mirAt : Nat
  /-- Latched _HI words by offset (R262 Table 10.3). -/
  hi : KMap (Option Word)
  deriving DecidableEq, Repr

/-! ## Host commands (chapter 11) -/

/-- Where a consumed command stands. -/
inductive Phase where
  /-- Its operand read is outstanding: address and length (R295). -/
  | reading (addr len : Nat)
  /-- Held until its apply epoch; whether its action packet has been posted (R56, R58). -/
  | held (posted : Bool)
  /-- It passed the Shore's checks at A and waits for its pond (R58). -/
  | decided
  /-- It took effect, with this result; its COMMIT waits for the commands before it (R60). -/
  | over (result : Word)
  /-- It waits for a management answer (R294). -/
  | mgmt
  /-- It waits for earlier program commands of its target (R307). -/
  | queued
  /-- A flash operation is in progress; units already done. -/
  | flash (done : Nat)
  /-- A verify waits for SCVU0 or SCVU1 (R416). -/
  | unit
  /-- A verify runs its checks on a unit. -/
  | check (unit : Nat)
  /-- It took effect in its pond before the Shore registered A: status, detail and result. -/
  | acted (status detail : Nat) (result : Word)
  /-- An SPDM request has been read and waits for its row. -/
  | spdm
  /-- Its configuration record has been read and waits for SCVU2 (R416). -/
  | record
  deriving DecidableEq, Repr

/-- A consumed command that has not completed. -/
structure Cmd where
  port : Nat
  ctx : Nat
  /-- The context's life at consumption (R266). -/
  life : Nat
  index : Word
  desc : List Byte
  /-- Consumption order. -/
  order : Nat
  /-- The Shore epoch at consumption. -/
  epoch : Nat
  apply : Nat
  asap : Bool
  phase : Phase
  /-- Operand bytes read. -/
  data : List Byte
  /-- How often the target's verified mark had been cleared at consumption (R309). -/
  mark : Nat
  collide : Bool
  timing : Bool
  deriving DecidableEq, Repr

/-- A lease (R27 to R31). -/
structure Lease where
  port : Nat
  policy : Nat
  /-- Host-silence timeout in µs. -/
  timeout : Nat
  /-- The time of the boundary at which it took effect. -/
  start : Nat
  /-- The policy has taken effect. -/
  acted : Bool
  /-- The boundary at which the policy is due to act. -/
  due : Option Nat
  /-- The pond registered that boundary before the Shore and has acted (assumption 23). -/
  done : Bool
  deriving DecidableEq, Repr

/-- A command that took effect at an epoch (R59, R60): its order, its port, and the ponds or the token
(64) that it acts on. -/
structure Taken where
  epoch : Nat
  order : Nat
  port : Nat
  keys : List Nat
  deriving DecidableEq, Repr

/-- A capture stream (R301, R302). -/
structure Stream where
  pond : Nat
  port : Nat
  sluice : Nat
  base : Nat
  log2 : Nat
  /-- SEQ of the next record. -/
  seq : Nat
  lost : Nat
  deriving DecidableEq, Repr

/-- An outstanding management request (R232): the pond, its tag, and the order of its command. -/
structure MReq where
  pond : Nat
  tag : Nat
  order : Nat
  deriving DecidableEq, Repr

/-! ## The timebase unit (chapter 2) -/

/-- The Shore's timebase and strobe unit. -/
structure Tbs where
  tb : BitVec 64
  stamp : BitVec 64
  tbRun : Bool
  slew : Int
  /-- The time at which RUN was set. -/
  runAt : Option Nat
  /-- GSS edges issued. -/
  issued : Nat
  /-- The time of the latest GSS edge. -/
  lastNs : Nat
  /-- Edges not yet registered by the Shore. -/
  edges : Nat
  epoch : Option Nat
  /-- The boundary flag of the Shore's copy (R470). -/
  align : Bool
  /-- The time of the edge that GSS_OUT drives; none while it is held low (R44). -/
  gssOut : Option Nat
  /-- Pond cycles begin at odd ns of the model's clock: the first GSS edge came at one. -/
  odd : Bool
  /-- Sources of the last 16 boundaries, bit 0 the latest: 1 GSS_IN. -/
  ext : BitVec 16
  late : BitVec 64
  deriving DecidableEq, Repr

/-! ## The ledger (chapter 12) -/

/-- One account. -/
structure Acct where
  tag : Word
  /-- 0 free, 1 open, 2 closed until its interval closes (R322). -/
  st : Nat
  opened : Bool
  redirect : Bool
  interval : Int
  total : Int
  deriving DecidableEq, Repr

/-- An account record (Table 12.3). -/
structure AcctRec where
  num : Nat
  tag : Word
  flags : Nat
  interval : Int
  total : Int
  mask : BitVec 64
  deriving DecidableEq, Repr

/-- Counters and flags of an interval (Table 12.4). -/
structure IvCount where
  flags : Word
  gaps : Nat
  late : Nat
  latePosts : Nat
  redirects : Nat
  asap : Nat
  collide : Nat
  measured : Int
  deriving DecidableEq, Repr

/-- A closed interval in the queue (R334). -/
structure IvSnap where
  start : Nat
  stop : Nat
  utcStart : Int
  utcStop : Int
  cnt : IvCount
  recs : List AcctRec
  lc : Nat
  bound : Nat
  /-- TBS_EPOCH_LEN over the interval (Table 12.4). -/
  len : Nat
  /-- The time of the close. -/
  closed : Nat
  deriving DecidableEq, Repr

/-- An energy post held for its apply epoch (R318). -/
structure HeldPost where
  apply : Nat
  pond : Nat
  quanta : Int
  cum : Int
  tag : Word
  gaps : Nat
  deferred : Bool
  /-- The model's time at which it reached the ledger (R50). -/
  came : Nat
  deriving DecidableEq, Repr

/-- A last-gasp record (Table 14.8). -/
structure LastGasp where
  seq : Nat
  /-- What header bytes 0x10 to 0x5F and the account records of Table 14.8 hold. -/
  body : IvSnap
  deriving DecidableEq, Repr

/-- The ledger. -/
structure Ledger where
  accts : KMap Acct
  /-- Account of each pond. -/
  assign : SMap 8
  /-- CUM_L of each pond (R324). -/
  cumL : KMap Int
  /-- Per-minute maximum of each pond in the setup image. -/
  qpm : KMap Nat
  measuredAll : Int
  /-- Changes over the epoch in progress: of LDG_MEASURED, and of the accounts (R326). -/
  chkM : Int
  chkA : Int
  held : List HeldPost
  /-- Booking epoch and continuity difference of each pond's last post. -/
  lastPost : SMap 32
  lastDiff : KMap Int
  ivStart : Nat
  cnt : IvCount
  /-- UTC anchor: A and UTC_NS. -/
  anchor : Option (Nat × Nat)
  /-- A of the first anchor since the device start: UTC of a boundary before it is 0 (R329). -/
  anchorFirst : Option Nat
  queue : List IvSnap
  nextSeq : Nat
  prevHash : List Byte
  /-- Where the archived seals lie in the ring of Table 14.6, oldest first: the byte count of the ring
  before each, and its length. Their bytes are system flash's (R336). -/
  archive : List (Nat × Nat)
  archPos : Nat
  cold : Bool
  /-- A last-gasp or unsealed-interval seal is queued; the block is to be erased after it. -/
  lgSeal : Bool
  /-- The record being written, whose COMMIT marker is still to come (R391). -/
  lgDraft : Option LastGasp
  lgReady : Bool
  /-- The last-gasp erase is in progress. -/
  lgErase : Bool
  /-- SUPPLY_WARN_N is high. -/
  warn : Bool
  /-- The glitch mask of R449. -/
  mask : Bool
  warnRise : Option Nat
  deriving DecidableEq, Repr

/-! ## Keys, alarms, debug (chapter 13) -/

/-- A content key held for an encrypted write (R399): the target, the key, the GCM state. -/
structure Cek where
  target : Nat
  /-- None where the unwrap was refused. -/
  key : Option (List Byte)
  header : List Byte
  next : Nat
  ghash : BitVec 128
  /-- A chunk was programmed as received (R440). -/
  spoiled : Bool
  deriving DecidableEq, Repr

/-- The key unit. -/
structure Keys where
  /-- W, 48 bytes, once regenerated. -/
  w : Option (List Byte)
  /-- 0 none, 1 Larva, 2 Chrysalis, 3 Imago. -/
  root : Nat
  rootKey : List Byte
  kSetup : Option (List Byte)
  kId : Option Nat
  /-- The public key of K_ID that enrollment exported (R344). -/
  idPub : List Byte
  /-- The alias certificate made at step 10 (R352). -/
  cert : List Byte
  kAlias : Option Nat
  kSeal : Option Nat
  kWrap : Option Nat
  erased : Bool
  inhibit : Bool
  pufFail : Bool
  /-- Measurements by block index of Table 13.5. -/
  meas : KMap (List Byte)
  digest : List Byte
  swapLog : List Byte
  swaps : Nat
  /-- The measurement stored with each verified mark, by target. -/
  verified : KMap (List Byte)
  ceks : List Cek
  spdm : Vector Nat 4
  /-- The SPDM messages of each port's connection so far (the transcript). -/
  transcript : KMap (List Byte)
  drbg : Option (List Byte × List Byte)
  dbgEn : Bool
  /-- The outstanding challenge record (Table 13.8) and the time it was issued. -/
  chal : Option (List Byte × Nat)
  strikes : Nat
  /-- Scopes unlocked: bit n pond, bit 64 the Shore core; and one that waits for a boundary. -/
  unlocked : BitVec 65
  unlockDue : Option (BitVec 65)
  /-- Ponds and Shore core halted by the debugger. -/
  shoreHalted : Bool
  deriving DecidableEq, Repr

/-- The alarm unit. -/
structure Alarms where
  active : BitVec 8
  live : BitVec 8
  raised : BitVec 8
  /-- The highest level in effect since cold start where it is C or D: 0, 3 or 4. -/
  latch : Nat
  /-- The erase in progress: the time it began. -/
  erase : Option Nat
  /-- The Husk transition waits for the erase, or is being programmed. -/
  huskWait : Bool
  huskProg : Bool
  /-- Log words by 4 x entry + word. -/
  log : SMap 32
  deriving DecidableEq, Repr

/-! ## System flash, OTP row, start-up (chapters 14 and 3) -/

/-- An operation of a system flash bank: its command's order, and what it does. -/
structure SysOp where
  order : Option Nat
  op : FlashOp
  deriving DecidableEq, Repr

/-- System flash: words of 32 bytes by address / 32, dirty sectors, operations by bank, slots. -/
structure Sfl where
  words : KMap FWord
  dirty : SMap 1
  op0 : Option SysOp
  op1 : Option SysOp
  fwUse : Nat
  setupUse : Nat
  fwNext : Nat
  setupNext : Nat
  fwVer : Bool
  setupVer : Bool
  /-- How often each of the two marks has been cleared (R309). -/
  fwCleared : Nat
  setupCleared : Nat
  /-- Select log: records in the current half, the half, the next SEQ, half changes. -/
  selCount : Nat
  selHalf : Nat
  selSeq : Nat
  selTurns : Nat
  /-- Select records that wait for bank 1 to be free (R376, R390). -/
  selWait : List (List Byte)
  /-- Select records written, with their times, that may still be uncommitted at a device start (R390). -/
  selNew : List (Nat × Nat)
  deriving DecidableEq, Repr

/-- The OTP row: its words, bad cells per word, the latched copy, a program in progress. -/
structure Otp where
  words : SMap 32
  /-- Bad cells: 1 corrected, 2 uncorrectable. -/
  bad : SMap 2
  latched : SMap 32
  latchedBad : SMap 2
  prog : Option (Nat × Word)
  /-- The array contents for which the helper data were formed (R341, R344). -/
  enrolled : List Byte
  deriving DecidableEq, Repr

/-- Start-up and life cycle. -/
structure Boot where
  /-- POR is asserted. -/
  por : Bool
  phase : Nat
  /-- Ponds whose BIST has not ended. -/
  bistWait : BitVec 64
  /-- The regeneration of W has not ended. -/
  wellWait : Bool
  /-- The setup image is applied; TBS_CTRL.RUN is still to be set. -/
  applied : Bool
  cause : Word
  setupInvalid : Bool
  fwInvalid : Bool
  keysAbsent : Bool
  otpTorn : Bool
  lc : Nat
  lcPending : Nat
  fused : BitVec 64
  bistFail : BitVec 64
  bistUnit : SMap 16
  late : BitVec 64
  report : List Word
  pll : BitVec 65
  startNs : Nat
  /-- The Shore firmware runs. -/
  fwRun : Bool
  /-- ns of watchdog count since its last reload. -/
  wdog : Nat
  /-- The POR release of this model's time is a cold start in progress. -/
  coldStart : Bool
  deriving DecidableEq, Repr

/-- The Shore. -/
structure Shore where
  /-- Stored register words by block base + offset (R463). -/
  regs : SMap 32
  tbs : Tbs
  boot : Boot
  weir : Weir
  ports : Vector Port 4
  /-- The steward token's port (R24). -/
  token : Option Nat
  leases : KMap (Option Lease)
  cmds : List Cmd
  /-- Commands that took effect at epochs of which others are still undecided. -/
  taken : List Taken
  /-- The outcome of a GROUP_CONFIGURE's own check at its epoch, once judged: its order, its epoch and
  DETAIL of GROUP_BAD (R298; assumption 23). -/
  judged : List (Nat × Nat × Option Nat)
  /-- The send port of each group's entry in the setup image (Table 14.18). -/
  groupPorts : KMap (Option Nat)
  /-- The next consumption order. -/
  order : Nat
  streams : List Stream
  mreqs : List MReq
  /-- Management packets that wait for one of the four requests of their pond, each with the
  order of its command. -/
  mwait : List (Nat × Packet)
  /-- Notices still to be acknowledged: the restarting pond and the stops left. -/
  notices : List (Nat × List Nat)
  /-- Account tags bound to ports (R304). -/
  binds : List (Word × Nat)
  ledger : Ledger
  keys : Keys
  alarms : Alarms
  sfl : Sfl
  otp : Otp
  scvu : Vector Cvu 4
  /-- The hardware path or the verify that holds a unit. -/
  scvuHeld : BitVec 4
  /-- Latched _HI words of the Shore's registers outside the HP blocks. -/
  hi : KMap (Option Word)
  /-- First writes of armed pairs: register, value, time (R76). -/
  pairs : KMap (Option (Word × Nat))
  /-- The counter that the Shore's free values are applied to (assumption 2). -/
  fresh : Nat
  deriving DecidableEq, Repr

/-- The machine. -/
structure State where
  /-- The commands that wait, first in first out. -/
  pending : List Instr
  /-- Nanoseconds of model time (assumption 1). -/
  ns : Nat
  /-- The value that the latest register access returned (assumption 6). -/
  rdata : Word
  /-- The value that the latest setup BAR read returned. -/
  rdata64 : BitVec 64
  /-- The latest setup BAR request was handled as an Unsupported Request (R260, R261). -/
  barUr : Bool
  ponds : Vector Pond 64
  shore : Shore
  deriving DecidableEq, Repr

/-- No command of this model ends in a fault. -/
inductive Fault where
  /-- Raised by nobody. -/
  | never
  deriving DecidableEq, Repr

/-- The reasons a command has no meaning. -/
inductive Refusal where
  /-- Raised by the dispatch for a command whose meaning is not written; safe. -/
  | notModelled (mnemonic : String)
  deriving DecidableEq, Repr

/-! ## Reset -/

/-- Register words of a pond after a reset that the spec gives (R99, R178, R179, R202, R218,
R406, R418, R435); every other word is 0 (assumption 3). -/
def pondRegs0 : SMap 32 :=
  [(0x010, 0x2001FFC0), (0x260, 0x7FFF8000), (0x264, 0x7FFF8000), (0x290, 0x80008000),
   (0x308, 0x1FF), (0x30C, 0x1FF), (0x390, 0x18), (0x394, 0x18), (0x398, 0x18), (0x39C, 0x18),
   (0x3A0, 8000), (0x3A4, 8000), (0x3A8, 8000), (0x3AC, 8000), (0x500, 0x30000000),
   (0x548, 0x0047001F), (0x54C, 0x0047001F), (0x580, 0x80), (0x594, 0x000A0003),
   (0x61C, 0x20000000)]

/-- The core after a reset (R98), not running. -/
def Core.reset : Core :=
  { g := (Vector.replicate 16 (0 : Word)).set 15 0x2001FF00, acc := 0,
    flags := ⟨false, false, false, false, false⟩, ie := false, evt := 0, nest := 0, df := false,
    pc := 0, run := .off, halted := false, stepping := false, gate := none, long := none, ca := none, hazard := 0,
    accAge := 2, perStore := false, sb := [], pb := [], stalled := none, waitCyc := 0 }

/-- A converter that has not been calibrated. -/
def Conv.reset : Conv :=
  { burst := none, busyTill := 0, trigs := [], skip := 0, refused := none, calReq := none,
    cal := none, ready := false, factors := List.replicate 12 0 }

/-- A stopped generator. -/
def Pg.reset : Pg :=
  { grid := .stopped, move := false, period := 0, duty := 0, fresh := false, armed := false,
    drive := false, base := 0, nom := 0, org := 0, baseOrg := 0, held := none, agreed := 0, snap := none,
    armCycle := none, endCycle := none, starts := 0, compares := 0 }

/-- A lane with an empty coefficient file (Table 7.7). -/
def Lane.reset : Lane :=
  { coef := [], runs := [], wait := none, last := none, ramp := none, share := 0, hist := [] }

/-- A check-value unit's words after reset (Table 15.5). -/
def Cvu.reset : Cvu :=
  { poly := 0x1EDC6F41, init := 0xFFFFFFFF, v := 0xFFFFFFFF, expect := 0, result := 0, count := 0 }

/-- The sideband controller after reset, its lines released (Table 18.8). -/
def Sb.reset : Sb :=
  { cmd := none, started := false, tx := [], rx := [], roundAt := none, left := none,
    resetTill := none, bus := none, sda := true, scl := true }

/-- No phase group. -/
def Grp.reset : Grp :=
  { config := [], live := [], members := [], holds := [], st := 0, stop := 0, start := none, moveAt := none,
    startAt := none, slots := [], applied := [], sendPort := 0, num := 0 }

/-- The energy tap before its setup image (R314). -/
def Tap.reset : Tap :=
  { x := 0, cum := 0, prev := none, opened := [], pend := [], due := false, gaps := 0,
    carried := 0, lateNew := 0, k := 0, sluice := none, tag := 0, tags := [] }

/-- The pond flash at State.reset: erased, bank 0 (assumption 4). -/
def Pfl.reset : Pfl :=
  { bank := false, words := [], dirty := [], op := none, verified := false, cleared := 0, armed := false }

/-- The life of a pond before its first start. -/
def Life.reset : Life :=
  { inService := false, bistDone := false, started := false, nostart := false, calFail := false,
    imageValid := false, startEp := 16, enables := 0, auto := false, ref0 := 0, ref1 := 0,
    calLate := false, resetEnd := none,
    resetReq := none, coreReq := none, swapDue := none, swapped := none, swapWaited := false,
    inc := 0, incWait := false, pinsLow := true }

/-- A pond at State.reset. -/
def Pond.reset : Pond :=
  { core := Core.reset, pic := ⟨0, 0, 0⟩, regs := pondRegs0, sram := [], ecc := [],
    pfl := Pfl.reset, tb := 0, stamp := 0, tbRun := false, slew := 0, epoch := none, edges := 0,
    edgeNs := 0, alignB := false, alignPost := false, conv := Vector.replicate 2 Conv.reset,
    gss := ⟨none, none⟩, gssPrev := ⟨none, none⟩, cbuf := [], cbufFirst := false,
    handover := false, tap := Tap.reset,
    cmp := Vector.replicate 2 { out := false, blank := false, force := 0, done := false },
    pg := Vector.replicate 4 Pg.reset, lane := Vector.replicate 2 Lane.reset, laneQ := [],
    cap := { fifo := Vector.replicate 4 [], pins := 3, sampled := 0, force0 := 0, force1 := 0 },
    cvu := Vector.replicate 2 Cvu.reset, sb := Sb.reset, grp := Grp.reset, rx := [],
    sendRec := [], recvRec := [], recvDef := [], incTab := [], held := [], lateRx := 0,
    applied := [], acts := [], came := [], lastPosts := [], life := Life.reset, stream := none, out := [],
    setup := [], fresh := 0 }

/-- Register words of the Shore at reset that the spec gives: TBS_EPOCH_LEN, TBS_LAT_DEFAULT
(Table 2.4), WEIR_STATUS.RT_BAD (Table 9.7), CRL_WDOG (R466), the units' configuration (R419); KEY and ALM words are views. -/
def shoreRegs0 : SMap 32 :=
  [(0x1004, 0x7F000000), (0x5014, 0x800003E8), (0x6008, 2000), (0x600C, 2), (0x7008, 0x0047001F), (0x7028, 0x0047001F),
   (0x7048, 0x0047001F), (0x7068, 0x0047001F)]

/-- The timebase unit before RUN (R38). -/
def Tbs.reset : Tbs :=
  { tb := 0, stamp := 0, tbRun := false, slew := 0, runAt := none, issued := 0,
    lastNs := 0, edges := 0, epoch := none, align := false, gssOut := none, odd := false, ext := 0,
    late := 0 }

/-- A disabled context. -/
def Ctx.reset : Ctx :=
  { st := 0, cause := 0, gen := 0, lo := 0, hi := 0, consumed := 0, seq := 0, block := none,
    head := 0, tail := 0, fetched := [], asked := [], polling := false, pollAt := none,
    owed := 0, loss := 0, life := 0, report := false, replaying := false,
    cut := false }

/-- Configuration space at its defaults (R259; assumption 59). -/
def PortCfg.reset : PortCfg := { mem := false, bar := 0, mps := 0, mrrs := 2 }

/-- A port whose link is down; every port is an observer before a start latches its role. -/
def Port.reset : Port :=
  { perst := true, link := false, speed := 0, width := 0, flit := false, bme := false, d3 := false,
    cfg := PortCfg.reset, ready := false, breaks := 0, role := 2, forced := false, reserve := [], posted := [],
    lastUse := none, ctx := Vector.replicate 32 Ctx.reset, mirDue := none, mirBusy := none,
    mirTail := 0, mirSkips := 0, mirAt := 0, hi := [] }

/-- A free account. -/
def Acct.free : Acct :=
  { tag := 0, st := 0, opened := false, redirect := false, interval := 0, total := 0 }

/-- The counters of a new interval. -/
def IvCount.zero : IvCount :=
  { flags := 0, gaps := 0, late := 0, latePosts := 0, redirects := 0, asap := 0, collide := 0,
    measured := 0 }

/-- The ledger of a part that has never sealed: account 0 open, the last-gasp block erased
(assumption 4). -/
def Ledger.reset : Ledger :=
  { accts := [(0, { Acct.free with st := 1 })], assign := [], cumL := [], qpm := [],
    measuredAll := 0, chkM := 0, chkA := 0, held := [], lastPost := [], lastDiff := [],
    ivStart := 0, cnt := IvCount.zero, anchor := none, anchorFirst := none, queue := [], nextSeq := 0,
    prevHash := List.replicate 48 0, archive := [], archPos := 0, cold := true, lgSeal := false,
    lgDraft := none, lgReady := false, lgErase := false, warn := true, mask := false, warnRise := none }

/-- The key unit with no key. -/
def Keys.reset : Keys :=
  { w := none, root := 0, rootKey := [], kSetup := none, kId := none, idPub := [], cert := [],
    kAlias := none, kSeal := none, kWrap := none, erased := false, inhibit := false, pufFail := false, meas := [],
    digest := List.replicate 48 0, swapLog := List.replicate 48 0, swaps := 0, verified := [],
    ceks := [], spdm := Vector.replicate 4 0, transcript := [], drbg := none, dbgEn := false,
    chal := none, strikes := 0, unlocked := 0, unlockDue := none, shoreHalted := false }

/-- No alarm. -/
def Alarms.reset : Alarms :=
  { active := 0, live := 0, raised := 0, latch := 0, erase := none, huskWait := false,
    huskProg := false, log := [] }

/-- System flash of a blank part (assumption 4). -/
def Sfl.reset : Sfl :=
  { words := [], dirty := [], op0 := none, op1 := none, fwUse := 0, setupUse := 0, fwNext := 0,
    setupNext := 0, fwVer := false, setupVer := false, fwCleared := 0, setupCleared := 0,
    selCount := 0, selHalf := 0, selSeq := 0, selTurns := 0, selWait := [], selNew := [] }

/-- A blank OTP row but for PART 64 (assumption 4): byte 0x16 lies in word 5. -/
def Otp.reset : Otp :=
  { words := [(5, 0x00400000)], bad := [], latched := [], latchedBad := [], prog := none, enrolled := [] }

/-- POR asserted, nothing started. -/
def Boot.reset : Boot :=
  { por := true, phase := 0, bistWait := 0, wellWait := false, applied := false, cause := 0,
    setupInvalid := false, fwInvalid := false, keysAbsent := false, otpTorn := false, lc := 0,
    lcPending := 0, fused := 0, bistFail := 0, bistUnit := [], late := 0, report := [], pll := 0,
    startNs := 0, fwRun := false, wdog := 0, coldStart := true }

/-- The empty fabric: credits at the link constants, nothing routed (assumption 8). -/
def Weir.reset : Weir :=
  { links := [], rt := [], turns := [], turnFrom := [], sluices := [], hubOut := [], ejected := [],
    sent := [], energy := [], streamIn := [], inc := [] }

/-- The Shore at State.reset. -/
def Shore.reset : Shore :=
  { regs := shoreRegs0, tbs := Tbs.reset, boot := Boot.reset, weir := Weir.reset,
    ports := Vector.replicate 4 Port.reset, token := none, leases := [], cmds := [], taken := [],
    judged := [], groupPorts := [], order := 0,
    streams := [], mreqs := [], mwait := [], notices := [], binds := [], ledger := Ledger.reset,
    keys := Keys.reset, alarms := Alarms.reset, sfl := Sfl.reset, otp := Otp.reset,
    scvu := Vector.replicate 4 Cvu.reset, scvuHeld := 0, hi := [], pairs := [], fresh := 0 }

/-- The machine right after reset: POR asserted, every register at the value the spec gives for
reset or the log names, and an empty queue. -/
def State.reset : State :=
  { pending := [], ns := 0, rdata := 0, rdata64 := 0, barUr := false, ponds := Vector.replicate 64 Pond.reset,
    shore := Shore.reset }

end Sys2Proof.Machine
end

