-- ==== Sys2Proof/Machine/Ops.lean ====
section
/-! DEFINITION. The named operations of a pond: registers by offset, events, the interrupt
controller's choice (R149, R150), pins and their forces (R174, R176, R200), pond flash reads
(R380 to R383), the regions of Table 4.15, the SRAM store buffer (R122), and taking and leaving
an exception (R133 to R140, R146, R148). -/

namespace Sys2Proof.Machine

/-! ### Registers, events and counters -/

/-- The stored word of the register at `off`. -/
def rg (P : Pond) (off : Nat) : Word := P.regs.get off

/-- The register at `off` stored. -/
def rset (off : Nat) (v : Word) (P : Pond) : Pond := { P with regs := P.regs.set off v }

/-- A register replaced by a function of itself. -/
def rmod (off : Nat) (f : Word → Word) (P : Pond) : Pond := rset off (f (rg P off)) P

/-- A count field raised by one, saturating. -/
def rinc (off lo len : Nat) (P : Pond) : Pond := rmod off (fun w => incFld w lo len 1) P

/-- A status bit set. -/
def rbit (off i : Nat) (P : Pond) : Pond := rmod off (fun w => setBit w i true) P

/-- The registered epoch as a number: 0 before the first boundary (R43). -/
def epochOf (P : Pond) : Nat := P.epoch.getD 0

/-- The timebase copy interpolated to 1 ns, `sub` ns into the pond cycle (R39, R40, R198). -/
def tbNow (sub : Nat) (P : Pond) : BitVec 64 :=
  if P.tbRun then P.tb + BitVec.ofNat 64 sub else P.tb

/-- The next free word of this pond (assumption 2). -/
def freeNow (P : Pond) : Word := Config.freeWord (64 * P.fresh)

/-- The counter of free values advanced. -/
def useFree (P : Pond) : Pond := { P with fresh := P.fresh + 1 }

/-- Event latch `i` set (Table 4.18). -/
def latch (i : Nat) (P : Pond) : Pond :=
  { P with core := { P.core with evt := setBit P.core.evt i true } }

/-! ### The interrupt controller -/

/-- The priority of source `n` (Table 5.14). -/
def picPrio (P : Pond) (n : Nat) : Nat := fld (rg P (0x120 + 4 * (n / 8))) (4 * (n % 8)) 4

/-- The running priority (R150). -/
def picRunning (P : Pond) : Nat :=
  (List.range 96).foldl (fun a n => if bit P.pic.act n then max a (picPrio P n) else a) 0

/-- The source a claim would choose (R150): deliverable, of the highest priority, the lowest
number among equals. -/
def picBest (P : Pond) : Option Nat :=
  if P.pic.pend = 0 then none else
  let floor := max (fld (rg P 0x104) 0 4) (picRunning P)
  ((List.range 96).foldl (fun (a : Option (Nat × Nat)) n =>
    if bit P.pic.pend n then
      let pr := picPrio P n
      if floor < pr then
        match a with
        | none => some (n, pr)
        | some (_, q) => if q < pr then some (n, pr) else a
      else a
    else a) none).map (·.1)

/-- Event latch 5 follows a deliverable source (R150; assumption 10). -/
def picLatch (P : Pond) : Pond := if (picBest P).isSome then latch 5 P else P

/-- An event on source `n` (R149): pending, or lost and counted. -/
def picEvent (n : Nat) (P : Pond) : Pond :=
  if bit P.pic.pend n then
    rinc 0x118 0 16 { P with pic := { P.pic with lost := setBit P.pic.lost n true } }
  else picLatch { P with pic := { P.pic with pend := setBit P.pic.pend n true } }

/-- Events on several sources, in order. -/
def picEvents (l : List Nat) (P : Pond) : Pond := l.foldl (fun Q n => picEvent n Q) P

/-- An interrupt is due at an interrupt point (R131, R137, R139, R148). -/
def irqDue (P : Pond) : Bool :=
  P.core.ie && decide (P.core.nest < 4) && !P.core.df && P.core.gate.isNone && (picBest P).isSome

/-! ### Pins -/

/-- Comparator n. -/
def cmpOf (P : Pond) (n : Nat) : Cmp :=
  vget P.cmp n { out := false, blank := false, force := 0, done := false }

/-- Pin k is held idle by a comparator or a FLT force (R174, R200). -/
def forced (P : Pond) (k : Nat) : Bool :=
  bit (cmpOf P 0).force k || bit (cmpOf P 1).force k ||
  bit P.cap.force0 k || bit P.cap.force1 k

/-- Generator k. -/
def pgOf (P : Pond) (k : Nat) : Pg := vget P.pg k
  { grid := .stopped, move := false, period := 0, duty := 0, fresh := false, armed := false,
    drive := false, base := 0, nom := 0, org := 0, baseOrg := 0, held := none, agreed := 0, snap := none, armCycle := none,
    endCycle := none, starts := 0, compares := 0 }

/-- Generator k replaced. -/
def pgSet (k : Nat) (g : Pg) (P : Pond) : Pond := { P with pg := vset P.pg k g }

/-- The level of PWM_k at the ball: what the generator drives unless a force or a reset holds it. -/
def ball (P : Pond) (k : Nat) : Bool := (pgOf P k).drive && !forced P k && !P.life.pinsLow

/-- An edge at the ball of PWM_k starts the blanking of each comparator whose PGMASK names it. -/
def startBlank (k : Nat) (P : Pond) : Pond :=
  let go (n : Nat) (Q : Pond) : Pond :=
    let c := rg Q (0x300 + 4 * n)
    if bit c (20 + k) && decide (fld c 12 8 ≠ 0) then
      { Q with cmp := vset Q.cmp n { cmpOf Q n with blank := true } }
    else Q
  go 1 (go 0 P)

/-- A change of the pond, and the blanking its edges at the balls start (R174). -/
def withEdges (f : Pond → Pond) (P : Pond) : Pond :=
  let P' := f P
  (List.range 4).foldl (fun Q k => if ball P k != ball P' k then startBlank k Q else Q) P'

/-! ### Pond flash reads -/

/-- The number of a word of the pond flash: bank and byte offset in the bank. -/
def flashIx (bank : Bool) (off : Nat) : Nat := 8192 * b2n bank + off / 32

/-- The stored flash word. -/
def flashWord (P : Pond) (ix : Nat) : FWord := KMap.get FWord.erased P.pfl.words ix

/-- The class of a flash word (R380): 0 erased, 1 committed, 2 torn. -/
def flashClass (dirty : Bool) (w : FWord) : Nat :=
  if dirty then 2 else if w.marker = 0 ∧ w.prog ≤ 3 then 0 else if 3 ≤ w.marker then 1 else 2

/-- The class of a word of the pond flash. -/
def pondFlashClass (P : Pond) (ix : Nat) : Nat :=
  flashClass (P.pfl.dirty.get (ix / 128) != 0) (flashWord P ix)

/-- The bank a window shows: the active bank, or the inactive one. -/
def windowBank (P : Pond) (inactive : Bool) : Bool := P.pfl.bank != inactive

/-- A read of `len` bytes of a flash window (R380 to R383): the value, or none for a torn or
uncorrectable word; with the records the read leaves. -/
def flashRead (P : Pond) (inactive : Bool) (off len : Nat) : Option Nat × Pond :=
  let ix := flashIx (windowBank P inactive) off
  let w := flashWord P ix
  let place := 32 * (off / 32) + (if inactive then 2 ^ 27 else 0)
  let val := (w.data.toNat >>> (8 * (off % 32))) % 2 ^ (8 * len)
  match pondFlashClass P ix with
  | 0 => (some (2 ^ (8 * len) - 1), P)
  | 1 =>
    if w.step = 0 then (some val, P)
    else
      let P1 := rset 0x610 (BitVec.ofNat 32 (2 ^ 31 + 2 ^ 28 * w.step + place)) P
      if w.step ≤ 5 then (some val, picEvent 54 (rinc 0x618 0 16 P1))
      else (none, rinc 0x618 24 8 P1)
  | _ => (none, rinc 0x618 16 8 (rset 0x614 (BitVec.ofNat 32 (2 ^ 31 + place)) P))

/-! ### Memory of the core -/

/-- The region of an address (Table 4.15). -/
def regionOf (a : Nat) : Region :=
  if a < 0x40000 then .flashActive
  else if 0x08000000 ≤ a ∧ a < 0x08040000 then .flashInactive
  else if 0x20000000 ≤ a ∧ a < 0x2001FFC0 then .sram
  else if 0x2001FFC0 ≤ a ∧ a < 0x20020000 then .record
  else if 0x30000000 ≤ a ∧ a < 0x30008000 then .rom
  else if 0x40000000 ≤ a ∧ a < 0x40000700 then .periph
  else if 0x50000000 ≤ a ∧ a < 0x60000000 then .ports
  else .nothing

/-- An instruction may be fetched from this region. -/
def fetchable (r : Region) : Bool := r == .flashActive || r == .sram || r == .rom

/-- Reads of every size are permitted and touch only memory: flash, SRAM, record and ROM. -/
def plainMem (r : Region) : Bool :=
  r == .flashActive || r == .flashInactive || r == .sram || r == .record || r == .rom

/-- The gate table's words of the gates of Table 5.8: SPEC, LIMA and LIMB. -/
def gateSpec (n : Nat) : Nat × Nat × Nat :=
  match n with
  | 1 => (0x00007223, 0x0003FFE0, 32)
  | 2 => (0x00000020, 63, 0)
  | 3 => (0x00005220, 1, 48)
  | 4 => (0x00000042, 32, 0)
  | _ => (0, 0, 0)

/-- ENTRY of the gates that are implemented (R144): a word of ROM past the gate table; which one, Gramond
fixes with the ROM (assumption 9). -/
def gateEntry (n : Nat) : Word := 0x30001000 + 4 * BitVec.ofNat 32 ((Config.gateWord n).toNat % 0x1C00)

/-- A byte of ROM: the gate table of R144 where it is stated, else free (assumption 9). -/
def romByteAt (off : Nat) : Byte :=
  let n := off / 16
  let f := (off % 16) / 4
  let pick (v : Nat) : Byte := BitVec.ofNat 8 (v >>> (8 * (off % 4)))
  if n < 5 then
    if f = 0 then pick (gateEntry n).toNat
    else if f = 1 then pick (gateSpec n).1
    else if f = 2 then pick (gateSpec n).2.1
    else pick (gateSpec n).2.2
  else if n < 256 ∧ f = 0 then 0
  else Config.romByte off

/-- The byte of SRAM that an address names. -/
def sramOff (a : Nat) : Nat := a - 0x20000000

/-- The entry covers the byte address. -/
def SbEntry.covers (e : SbEntry) (a : Nat) : Bool :=
  decide (sramOff e.addr ≤ sramOff a) && decide (sramOff a < sramOff e.addr + (if e.dbl then 8 else 4))

/-- The entry's byte at an address it covers. -/
def SbEntry.byte (e : SbEntry) (a : Nat) : Byte :=
  BitVec.ofNat 8 (e.val.toNat >>> (8 * (sramOff a - sramOff e.addr)))

/-- The entry holds every byte of the access. -/
def SbEntry.holds (e : SbEntry) (a len : Nat) : Bool := e.covers a && e.covers (a + len - 1)

/-- The entry holds a byte of the access but not all of them. -/
def SbEntry.partly (e : SbEntry) (a len : Nat) : Bool :=
  !e.holds a len && (List.range len).any (fun i => e.covers (a + i))

/-- One entry retired to SRAM (R122); the write renews the ECC of its words. -/
def retireEntry (P : Pond) (e : SbEntry) : Pond :=
  let n := if e.dbl then 8 else 4
  let off := sramOff e.addr
  { P with
    sram := P.sram.setBytes off (leBytes e.val.toNat n),
    ecc := if e.dbl then (P.ecc.set (off / 4) 0).set (off / 4 + 1) 0 else P.ecc.set (off / 4) 0 }

/-- The oldest `n` entries of the store buffer retired, in program order (R122). -/
def retireN (n : Nat) (P : Pond) : Pond :=
  let P1 := (P.core.sb.take n).foldl retireEntry P
  { P1 with core := { P1.core with sb := P1.core.sb.drop n } }

/-- The store buffer drained. -/
def drainSb (P : Pond) : Pond := retireN P.core.sb.length P

/-- The number of entries that must retire before an access: through the last one that holds
only a part of it (R122). -/
def partialDepth (l : List SbEntry) (a len : Nat) : Nat :=
  (l.zipIdx 1).foldl (fun m e => if e.1.partly a len then e.2 else m) 0

/-- The byte a load takes: of the newest entry that covers it, else of SRAM. -/
def sramByte (P : Pond) (a : Nat) : Byte :=
  match P.core.sb.reverse.find? (fun e => e.covers a) with
  | some e => e.byte a
  | none => P.sram.get (sramOff a)

/-- The ECC state of each SRAM word that an access reads from SRAM and not from the buffer: 0 none,
1 single-bit, 2 or 3 uncorrectable (R108). -/
def eccWords (P : Pond) (a len : Nat) : List Nat :=
  if P.core.sb.any (fun e => e.holds a len) then []
  else (List.range ((len + 3) / 4)).map (fun i => (P.ecc.get (sramOff a / 4 + i)).toNat)

/-- What ECC does at a read of SRAM by the core port (R108): whether a word is uncorrectable, and each
single-bit error corrected and counted. The corrected word is not written back, so a later read of it
counts again (DESIGN CHOICE, log 65). -/
def eccRead (P : Pond) (a len : Nat) : Bool × Pond :=
  let l := eccWords P a len
  (l.any (fun e => decide (2 ≤ e)), (l.filter (fun e => e == 1)).foldl (fun Q _ => rinc 0x014 24 8 Q) P)

/-- Bytes written into SRAM: the ECC of every word they touch is that of the new contents. A word written in
part has no merge read, so an error it held is gone and raises nothing (DESIGN CHOICE, log 66: R108 states
the merge read of a byte or halfword store only). -/
def sramWrite (off : Nat) (l : List Byte) (P : Pond) : Pond :=
  { P with
    sram := P.sram.setBytes off l,
    ecc := if l.length = 0 then P.ecc
      else P.ecc.clear (off / 4) ((off + l.length - 1) / 4 - off / 4 + 1) }

/-- A read of plain memory by the core port: the value, or none for an ECC error (R108, R383). -/
def loadPlain (P : Pond) (a len : Nat) : Option Nat × Pond :=
  match regionOf a with
  | .flashActive => flashRead P false a len
  | .flashInactive => flashRead P true (a - 0x08000000) len
  | .sram =>
    let P1 := retireN (partialDepth P.core.sb a len) P
    let v := ofLe ((List.range len).map (fun i => sramByte P1 (a + i)))
    match eccRead P1 a len with
    | (true, P2) => (none, P2)
    | (false, P2) => (some v, P2)
  | .record =>
    match eccRead P a len with
    | (true, P1) => (none, P1)
    | (false, P1) => (some (ofLe (P.sram.bytes (sramOff a) len)), P1)
  | .rom => (some (ofLe ((List.range len).map (fun i => romByteAt (a - 0x30000000 + i)))), P)
  | _ => (none, P)

/-- A store put into the buffer; a full buffer first retires its oldest entry (R122). -/
def pushSb (e : SbEntry) (P : Pond) : Pond :=
  let P1 := if 4 ≤ P.core.sb.length then retireN 1 P else P
  { P1 with core := { P1.core with sb := P1.core.sb ++ [e] } }

/-- The fetch of the word at `a`: the fault it raises, if any (R109, R130). -/
def fetchAt (P : Pond) (a : Word) : Option Flt × Pond :=
  if !fetchable (regionOf a.toNat) then (some ⟨3, 0, a⟩, P)
  else if a.toNat % 4 ≠ 0 then (some ⟨2, 0, a⟩, P)
  else
    match regionOf a.toNat with
    | .flashActive =>
      match flashRead P false a.toNat 4 with
      | (some _, P1) => (none, P1)
      | (none, P1) => (some ⟨4, 0, a⟩, P1)
    | .sram =>
      match (P.ecc.get ((a.toNat - 0x20000000) / 4)).toNat with
      | 0 => (none, P)
      | 1 => (none, rinc 0x014 24 8 P)
      | _ => (some ⟨4, 0, a⟩, P)
    | _ => (none, P)

/-! ### General registers and cycles -/

/-- General register `r` (R95). -/
def gr (P : Pond) (r : RegIx) : Word := vget P.core.g r.toNat 0

/-- General register `r` written. -/
def gset (r : RegIx) (v : Word) (P : Pond) : Pond :=
  { P with core := { P.core with g := vset P.core.g r.toNat v } }

/-- Cycles charged to a CA_BUDGET measurement: exact for SRAM and ROM code (R127), with a free
part for flash code, whose count is not fixed. -/
def charge (cycles instrs : Nat) (P : Pond) : Pond :=
  match P.core.ca with
  | none => P
  | some m =>
    if regionOf P.core.pc.toNat == .flashActive then
      useFree { P with core := { P.core with
        ca := some ⟨m.cycles + cycles + (freeNow P).toNat % 256, m.instrs + instrs⟩ } }
    else { P with core := { P.core with ca := some ⟨m.cycles + cycles, m.instrs + instrs⟩ } }

/-- A wait that began in pond cycle `waitCyc` ends: a CA_BUDGET measurement under way counts its cycles
(Table 4.7). -/
def waited (c : PCtx) (P : Pond) : Pond :=
  { P with core := { P.core with
      ca := P.core.ca.map (fun m => ⟨m.cycles + (c.cyc - P.core.waitCyc), m.instrs⟩) } }

/-- The core begins to wait. -/
def beginWait (c : PCtx) (r : Run) (P : Pond) : Pond :=
  { P with core := { P.core with run := r, waitCyc := c.cyc } }

/-- The stall of Table 4.19 before an instruction that reads the registers of the mask. -/
def stallOf (P : Pond) (uses : BitVec 16) (accRead perStore : Bool) : Nat :=
  if (P.core.hazard &&& uses != 0) || (accRead && decide (P.core.accAge < 2)) ||
    (perStore && P.core.perStore) then 1 else 0

/-- The stall charged before an instruction. -/
def stallFor (uses : BitVec 16) (accRead perStore : Bool) (P : Pond) : Pond :=
  charge (stallOf P uses accRead perStore) 0 P

/-- The pipeline facts after an instruction of `cycles` cycles: the registers whose use in the
next cycle stalls, whether it wrote acc, whether it was a peripheral store. -/
def pipe (cycles : Nat) (hz : BitVec 16) (acc per : Bool) (P : Pond) : Pond :=
  { P with core := { P.core with
      hazard := hz, accAge := if acc then 1 else min 2 (P.core.accAge + cycles), perStore := per } }

/-- The instruction completed: the pc moves to `target` after `cycles` cycles. -/
def finishAt (target : Word) (cycles : Nat) (hz : BitVec 16) (acc per : Bool) (P : Pond) : Pond :=
  let P1 := pipe cycles hz acc per (charge cycles 1 P)
  { P1 with core := { P1.core with pc := target } }

/-- The instruction completed: the pc advances by 4. -/
def retire (cycles : Nat) (P : Pond) : Pond :=
  finishAt (P.core.pc + 4) cycles 0 false false P

/-- The mask of one register. -/
def rmask (r : RegIx) : BitVec 16 := BitVec.ofNat 16 (2 ^ r.toNat)

/-! ### Exceptions -/

/-- The saved status word (Table 5.4). -/
def savedStatus (P : Pond) : Word :=
  let f := P.core.flags
  BitVec.ofNat 32 (256 * P.core.nest + 32 * b2n P.core.ie + 16 * b2n f.q + 8 * b2n f.n +
    4 * b2n f.z + 2 * b2n f.c + b2n f.v)

/-- The flags, IE and NEST of a saved status word restored. -/
def restoreFlags (w : Word) (P : Pond) : Pond :=
  { P with core := { P.core with
      flags := ⟨bit w 3, bit w 2, bit w 1, bit w 0, bit w 4⟩, ie := bit w 5 } }

/-- KIND, TYPE and the faulting address recorded (Table 4.6). -/
def recordFault (kind typ : Nat) (addr : Word) (P : Pond) : Pond :=
  rset 0x018 addr (rmod 0x014 (fun w => setFld (setFld w 8 8 kind) 0 4 typ) P)

/-- Lockdown (R140): no instruction issues any more; both buffers retire. -/
def lockdown (f : Flt) (P : Pond) : Pond :=
  let P1 := drainSb (recordFault f.kind f.typ f.addr P)
  { P1 with core := { P1.core with run := .locked, gate := none, long := none, ca := none } }

/-- Four words pushed at `base` through the store buffer (R133), which then holds exactly them. -/
def pushFrame (base : Nat) (w0 w1 w2 w3 : Word) (P : Pond) : Pond :=
  let P1 := drainSb (charge P.core.sb.length 0 P)
  let e (i : Nat) (w : Word) : SbEntry := ⟨base + 4 * i, false, w.setWidth 64⟩
  { P1 with core := { P1.core with sb := [e 0 w0, e 1 w1, e 2 w2, e 3 w3] } }

/-- A frame of 16 bytes below `sp` passes the check of R133 step 1. -/
def frameOk (sp : Nat) : Bool :=
  decide (sp % 8 = 0) && decide (0x20000010 ≤ sp) && decide (sp ≤ 0x2001FFC0)

/-- The vector word at `a`: a fetchable, word-aligned handler address, or none (R133 step 2). -/
def readVector (P : Pond) (a : Word) : Option Word × Pond :=
  if !plainMem (regionOf a.toNat) then (none, P) else
  match loadPlain P a.toNat 4 with
  | (none, P1) => (none, P1)
  | (some v, P1) =>
    if v % 4 = 0 ∧ fetchable (regionOf v) then (some (BitVec.ofNat 32 v), P1) else (none, P1)

/-- 12 cycles for a word that lies in flash (R134). -/
def flashCost (a : Word) : Nat := if regionOf a.toNat == .flashActive then 12 else 0

/-- The core starts at a handler: running, IE 0, no long instruction, no wait. -/
def enterAt (a : Word) (P : Pond) : Pond :=
  { P with core := { P.core with
      pc := a, ie := false, run := .running, long := none, hazard := 0, perStore := false } }

/-- Escalation to the double-fault handler (R138): `ret` and the status and g15 as at the event,
the event's KIND, the reason, and the TYPE and address of the access that failed. Where the escalation itself
fails, the core locks down (R140) with KIND 8 and TYPE 2, 1 or 0 of the access that failed, and its address:
the frame's, the vector's or the handler's (DESIGN CHOICE, log 67: R140 says that they describe the fault that
caused lockdown and not which values). -/
def doubleFault (reason typ : Nat) (addr ret status sp : Word) (kind : Nat) (P : Pond) : Pond :=
  let top := 8 * fld (rg P 0x010) 3 29
  if !frameOk top then lockdown ⟨8, 2, BitVec.ofNat 32 (top - 16)⟩ P else
  let P1 := gset 15 (BitVec.ofNat 32 (top - 16))
    (pushFrame (top - 16) ret status sp (BitVec.ofNat 32 (2 ^ 24 * reason + 256 * kind)) P)
  match readVector P1 4 with
  | (none, P2) => lockdown ⟨8, 1, 4⟩ P2
  | (some h, P2) =>
    let P3 := { P2 with core := { P2.core with df := true, ie := false } }
    let P4 := recordFault 8 typ addr P3
    match fetchAt P4 h with
    | (some _, P5) => lockdown ⟨8, 0, h⟩ P5
    | (none, P5) => enterAt h (charge (8 + 12 + flashCost h) 0 P5)

/-- The vector offset of a fault KIND (Table 5.2). -/
def vectorOff (kind : Nat) : Nat := 4 * (kind + 1)

/-- Exception entry (R133): of a fault, or of an interrupt where there is none. The failing address of a frame
check that fails is g15 − 16, whichever of its conditions failed (DESIGN CHOICE, log 68: R138 names the failing
address and not which byte of the frame it is). -/
def enterExc (f : Option Flt) (ret : Word) (P : Pond) : Pond :=
  let status := savedStatus P
  let sp := gr P 15
  let kind := match f with | some x => x.kind | none => 0
  let va : Word := BitVec.ofNat 32 (256 * fld (rg P 0x00C) 8 24) +
    BitVec.ofNat 32 (match f with | some x => vectorOff x.kind | none => 0x24)
  if !frameOk sp.toNat then doubleFault 1 2 (sp - 16) ret status sp kind P else
  match readVector P va with
  | (none, P1) => doubleFault 2 1 va ret status sp kind P1
  | (some h, P1) =>
    let P2 := gset 15 (sp - 16)
      (pushFrame (sp.toNat - 16) ret status (gr P 12) (gr P 14) P1)
    let P3 := match f with | some x => recordFault x.kind x.typ x.addr P2 | none => P2
    let P4 := { P3 with core := { P3.core with nest := P3.core.nest + 1, ie := false } }
    match fetchAt P4 h with
    | (some _, P5) => doubleFault 3 0 h ret status sp kind P5
    | (none, P5) => enterAt h (charge (8 + flashCost va + flashCost h) 0 P5)

/-- A word of the gate frame at 0x2001_FF30 (R146). -/
def gateFrame (P : Pond) (i : Nat) : Word :=
  BitVec.ofNat 32 (ofLe ((List.range 4).map (fun j => sramByte P (0x2001FF30 + 4 * i + j))))

/-- The caller's g15, g14 and status restored from the gate frame (R146, R148). -/
def leaveGate (P : Pond) : Pond :=
  let P1 := restoreFlags (gateFrame P 3) (gset 14 (gateFrame P 2) (gset 15 (gateFrame P 1) P))
  { P1 with core := { P1.core with gate := none } }

/-- A fault taken (R132, R136 to R140): with its return address; inside a gate body the body is
abandoned and the fault raised in the caller's context at the GATE (R148). -/
def raiseAt (f : Flt) (ret : Word) (P : Pond) : Pond :=
  let P1 := if P.core.gate.isSome then leaveGate P else P
  let ret1 := if P.core.gate.isSome then gateFrame P 0 - 4 else ret
  if P1.core.df then lockdown f P1
  else if 4 ≤ P1.core.nest then
    doubleFault 4 0 0 ret1 (savedStatus P1) (gr P1 15) f.kind P1
  else enterExc (some f) ret1 P1

/-- A fault of the instruction at the pc. -/
def raise (kind typ : Nat) (addr : Word) (P : Pond) : Pond := raiseAt ⟨kind, typ, addr⟩ P.core.pc P

/-- ILLEGAL of a word (R101); the spec states no TYPE for it, so TYPE is free (assumption 11). -/
def raiseIllegal (P : Pond) : Pond :=
  raise 1 ((freeNow P).toNat % 16) P.core.pc (useFree P)

/-- An interrupt taken with this return address (R131). -/
def takeIrq (ret : Word) (P : Pond) : Pond := enterExc none ret P

/-- The debugger holds the core: halted, and no single step granted (R374). -/
def heldBack (P : Pond) : Bool := P.core.halted && !P.core.stepping

/-- A granted single step is used up. -/
def stepUsed (P : Pond) : Pond := { P with core := { P.core with stepping := false } }

/-- The core can issue an instruction: running, not halted or stalled, no gate body or long
instruction under way, and no interrupt due before it (R131). -/
def canIssue (P : Pond) : Bool :=
  P.core.run == .running && !heldBack P && P.core.stalled.isNone && P.core.gate.isNone &&
  P.core.long.isNone && !irqDue P

/-- An instruction at the pc: the fetch check, then its effect (R130). -/
def issueP (f : Pond → Pond) (P : Pond) : Pond :=
  match fetchAt (stepUsed P) P.core.pc with
  | (some e, P1) => raiseAt e P1.core.pc P1
  | (none, P1) => f P1

/-- The effect where the word is legal, else ILLEGAL (R101). -/
def legal (ok : Bool) (f : Pond → Pond) (P : Pond) : Pond := if ok then f P else raiseIllegal P

/-! ### One pond of the machine -/

/-- Pond `p` of the machine. -/
def pondOf (s : State) (p : PondId) : Pond := s.ponds[p]

/-- Pond `p` replaced by `f` of it (R19: nothing else of the machine changes). -/
def onPond (p : PondId) (f : Pond → Pond) (s : State) : State :=
  { s with ponds := s.ponds.set p (f s.ponds[p]) }

/-- The time in ns counted from a start of a pond cycle: pond cycles are aligned to the first GSS edge
(assumption 1). -/
def pondClock (s : State) : Nat := s.ns + b2n s.shore.tbs.odd

/-- What pond `p` needs of the rest of the machine. -/
def pctx (s : State) (p : PondId) : PCtx :=
  { p := p.val, ns := s.ns, cyc := pondClock s / 2, sub := pondClock s % 2, epochLen := fld (s.shore.regs.get 0x6008) 0 17,
    lat := fld (s.shore.regs.get 0x600C) 0 4, dbg := bit s.shore.keys.unlocked p.val,
    sl := s.shore.weir.sluices.map (fun r => (r.num, r.openAt, r.closeAt)) }

/-- An instruction issued by the core of pond `p`, where the core can issue one; otherwise the
event cannot occur and nothing changes (assumption 12). -/
def issue (p : PondId) (f : PCtx → Pond → Pond) (s : State) : Host.Outcome State Fault Refusal :=
  .next (onPond p (fun P => if canIssue P then issueP (f (pctx s p)) P else P) s)

end Sys2Proof.Machine
end

