-- ==== Sys2Proof/Machine/Flags.lean ====
section
/-! DEFINITION. The flag computations of the ALU groups (R102, R103): each operation's value and
the flags it leaves. -/

namespace Sys2Proof.Machine

/-- N and Z of a value; C, V and Q kept. -/
def flagsNZ (v : Word) (f : Flags) : Flags := { f with n := v.msb, z := decide (v = 0) }

/-- a + b + c with N Z C V. -/
def addFlags (a b : Word) (c : Bool) (f : Flags) : Word × Flags :=
  let r := a + b + BitVec.ofNat 32 (b2n c)
  (r, { flagsNZ r f with
    c := decide (2 ^ 32 ≤ a.toNat + b.toNat + b2n c),
    v := decide (r.toInt ≠ a.toInt + b.toInt + (b2n c : Int)) })

/-- a − b − (1 − c) with N Z C V; C is 1 when no borrow occurs. -/
def subFlags (a b : Word) (c : Bool) (f : Flags) : Word × Flags :=
  let k := 1 - b2n c
  let r := a - b - BitVec.ofNat 32 k
  (r, { flagsNZ r f with
    c := decide (b.toNat + k ≤ a.toNat),
    v := decide (r.toInt ≠ a.toInt - b.toInt - (k : Int)) })

/-- A signed result saturated to 32 bits: N Z, V the overflow before saturation, Q set on it. -/
def satFlags (x : Int) (f : Flags) : Word × Flags :=
  let r : Word := BitVec.ofInt 32 (satI 32 x)
  let o := decide (satI 32 x ≠ x)
  (r, { flagsNZ r f with v := o, q := f.q || o })

/-- A shift's value with N Z and C the last bit shifted out; by 0, C is kept (R103). -/
def shiftFlags (r : Word) (amount : Nat) (out : Bool) (f : Flags) : Word × Flags :=
  (r, { flagsNZ r f with c := if amount = 0 then f.c else out })

/-- SHL by 0 to 255. -/
def shlFlags (a : Word) (k : Nat) (f : Flags) : Word × Flags :=
  shiftFlags (a <<< k) k (decide (k ≤ 32) && bit a (32 - k)) f

/-- SHR by 0 to 255. -/
def shrFlags (a : Word) (k : Nat) (f : Flags) : Word × Flags :=
  shiftFlags (a >>> k) k (bit a (k - 1)) f

/-- SAR by 0 to 255. -/
def sarFlags (a : Word) (k : Nat) (f : Flags) : Word × Flags :=
  shiftFlags (a.sshiftRight k) k (if k ≤ 32 then bit a (k - 1) else a.msb) f

/-- ROR by 0 to 31: C is bit 31 of the result, for every amount (R103; assumption 13). -/
def rorFlags (a : Word) (k : Nat) (f : Flags) : Word × Flags :=
  let r := a.rotateRight k
  (r, { flagsNZ r f with c := r.msb })

/-- A value with N Z. -/
def logFlags (v : Word) (f : Flags) : Word × Flags := (v, flagsNZ v f)

/-- The condition of Bcc, codes 0 to 14 (section 4 of chapter 4). -/
def condHolds (c : Nat) (f : Flags) : Bool :=
  match c with
  | 0 => f.z
  | 1 => !f.z
  | 2 => f.c
  | 3 => !f.c
  | 4 => f.n
  | 5 => !f.n
  | 6 => f.v
  | 7 => !f.v
  | 8 => f.c && !f.z
  | 9 => !f.c || f.z
  | 10 => f.n == f.v
  | 11 => f.n != f.v
  | 12 => !f.z && f.n == f.v
  | 13 => f.z || f.n != f.v
  | _ => true

/-- acc saturated to 72 bits (R97), and whether it saturated. -/
def satAcc (x : Int) : BitVec 72 × Bool := (BitVec.ofInt 72 (satI 72 x), decide (satI 72 x ≠ x))

/-- The quotient and the remainder of DIV and REM with the special cases of Table 4.13, and
whether Q is set. -/
def divS (a b : Word) : Word × Word × Bool :=
  if b = 0 then (if a.msb then 0x80000000#32 else 0x7FFFFFFF#32, a, true)
  else if a = 0x80000000#32 ∧ b = 0xFFFFFFFF#32 then (0x7FFFFFFF#32, 0, true)
  else (BitVec.ofInt 32 (a.toInt.tdiv b.toInt), BitVec.ofInt 32 (a.toInt.tmod b.toInt), false)

/-- The quotient and the remainder of DIVU and REMU (Table 4.13). -/
def divU (a b : Word) : Word × Word × Bool :=
  if b = 0 then (0xFFFFFFFF#32, a, true)
  else (BitVec.ofNat 32 (a.toNat / b.toNat), BitVec.ofNat 32 (a.toNat % b.toNat), false)

end Sys2Proof.Machine
end

