-- ==== Sys2Proof/Machine/Operands.lean ====
section
/-! DEFINITION. The operand forms of the pond core's formats (Table 4.8): which words are legal
(R101), what the immediates mean, and the shared shape of each group of instructions. -/

namespace Sys2Proof.Machine

/-- A register pair starts at an even register (R101). -/
def evenReg (r : RegIx) : Bool := !bit r 0

/-- imm18, sign-extended. -/
def FmtI.sx (f : FmtI) : Word := f.imm.signExtend 32

/-- imm18, zero-extended. -/
def FmtI.zx (f : FmtI) : Word := f.imm.setWidth 32

/-- A word offset sign-extended and multiplied by 4. -/
def offBytes {n : Nat} (o : BitVec n) : Word := o.signExtend 32 <<< 2

/-- The flags written. -/
def setFlags (fl : Flags) (P : Pond) : Pond := { P with core := { P.core with flags := fl } }

/-- Q set where a result saturated (R96). -/
def setQ (q : Bool) (P : Pond) : Pond := setFlags { P.core.flags with q := P.core.flags.q || q } P

/-- ALU register group (Table 4.10): gd gets the value; with S = 1 the flags are set, with S = 0
only Q may be (R96). -/
def aluReg (op : Word → Word → Flags → Word × Flags) (f : FmtA) (P : Pond) : Pond :=
  legal (f.ext == 0) (fun P =>
    let r := op (gr P f.a) (gr P f.b) P.core.flags
    let P1 := stallFor (rmask f.a ||| rmask f.b) false false P
    let P2 := if f.s = 1 then setFlags r.2 P1 else setQ r.2.q P1
    retire 1 (gset f.d r.1 P2)) P

/-- CMP and TST: flags always, no register written; S and d must be 0. -/
def aluTest (op : Word → Word → Flags → Word × Flags) (f : FmtA) (P : Pond) : Pond :=
  legal (f.ext == 0 && f.s == 0 && f.d == 0) (fun P =>
    let r := op (gr P f.a) (gr P f.b) P.core.flags
    retire 1 (setFlags r.2 (stallFor (rmask f.a ||| rmask f.b) false false P))) P

/-- Immediate group (Table 4.11): gd gets the value, no flag changes. -/
def aluImm (ok : Bool) (op : Word → Word) (f : FmtI) (P : Pond) : Pond :=
  legal ok (fun P =>
    retire 1 (gset f.d (op (gr P f.a)) (stallFor (rmask f.a) false false P))) P

/-- CMPI and TSTI: flags only; d must be 0. -/
def immTest (op : Word → Flags → Word × Flags) (f : FmtI) (P : Pond) : Pond :=
  legal (f.d == 0) (fun P =>
    retire 1 (setFlags (op (gr P f.a) P.core.flags).2 (stallFor (rmask f.a) false false P))) P

/-- The shift amount of SHLI, SHRI and SARI is legal: imm18[17:5] is 0. -/
def FmtI.shiftOk (f : FmtI) : Bool := fld f.imm 5 13 == 0

/-- The shift amount imm18[4:0]. -/
def FmtI.amount (f : FmtI) : Nat := fld f.imm 0 5

/-- MUL, MULH and MULHU: the result may not be used in the next cycle (Table 4.19). -/
def mulOp (op : Word → Word → Word) (f : FmtA) (P : Pond) : Pond :=
  legal (f.ext == 0 && f.s == 0) (fun P =>
    finishAt (P.core.pc + 4) 1 (rmask f.d) false false
      (gset f.d (op (gr P f.a) (gr P f.b)) (stallFor (rmask f.a ||| rmask f.b) false false P))) P

/-- The DIV group: 18 cycles, no interrupt, Q in the special cases (R105). -/
def divOp (op : Word → Word → Word × Bool) (f : FmtA) (P : Pond) : Pond :=
  legal (f.ext == 0 && f.s == 0) (fun P =>
    let r := op (gr P f.a) (gr P f.b)
    retire 18 (gset f.d r.1 (setQ r.2 (stallFor (rmask f.a ||| rmask f.b) false false P)))) P

/-- acc written, and Q where it saturated. -/
def setAcc (r : BitVec 72 × Bool) (P : Pond) : Pond :=
  setQ r.2 { P with core := { P.core with acc := r.1 } }

/-- An acc instruction that writes acc from ga and gb (R97). -/
def accOp (op : Int → Int → Int → Int) (f : FmtA) (P : Pond) : Pond :=
  legal (f.ext == 0 && f.s == 0 && f.d == 0) (fun P =>
    finishAt (P.core.pc + 4) 1 0 true false
      (setAcc (satAcc (op P.core.acc.toInt (gr P f.a).toInt (gr P f.b).toInt))
        (stallFor (rmask f.a ||| rmask f.b) false false P))) P

/-- Bit-field group (Table 4.14): gd gets the value, Q where it clamped. -/
def fieldOp (ok usesD : Bool) (op : Word → Word → Word × Bool) (f : FmtF) (P : Pond) : Pond :=
  legal (f.z == 0 && ok) (fun P =>
    let r := op (gr P f.d) (gr P f.a)
    retire 1 (gset f.d r.1 (setQ r.2 (stallFor (rmask f.a ||| (if usesD then rmask f.d else 0))
      false false P)))) P

/-- pos + w lies within the word (Table 4.14). -/
def FmtF.fits (f : FmtF) : Bool := decide (f.pos.toNat + f.wm1.toNat + 1 ≤ 32)

/-- The address ga + sx(imm18) of a load or a store (R106). -/
def memAddr (f : FmtI) (P : Pond) : Word := gr P f.a + FmtI.sx f

end Sys2Proof.Machine
end

