-- ==== Sys2Proof/Machine/Alu.lean ====
section
/-! DEFINITION. The ALU register group (Table 4.10), the immediate group (Table 4.11), the
multiply, divide and acc groups (Table 4.12) and the bit-field group (Table 4.14). -/

namespace Sys2Proof.Machine

/-- ADD: gd ← ga + gb (R102). -/
def execAdd (p : PondId) (f : FmtA) (s : State) : Host.Outcome State Fault Refusal :=
  issue p (fun _ P => aluReg (fun a b f => addFlags a b false f) f P) s

/-- SUB: gd ← ga − gb (R102). -/
def execSub (p : PondId) (f : FmtA) (s : State) : Host.Outcome State Fault Refusal :=
  issue p (fun _ P => aluReg (fun a b f => subFlags a b true f) f P) s

/-- ADC: gd ← ga + gb + C (R102). -/
def execAdc (p : PondId) (f : FmtA) (s : State) : Host.Outcome State Fault Refusal :=
  issue p (fun _ P => aluReg (fun a b f => addFlags a b f.c f) f P) s

/-- SBC: gd ← ga − gb − (1 − C) (R102). -/
def execSbc (p : PondId) (f : FmtA) (s : State) : Host.Outcome State Fault Refusal :=
  issue p (fun _ P => aluReg (fun a b f => subFlags a b f.c f) f P) s

/-- ADDS: gd ← sat32(ga + gb), Q on saturation (R102). -/
def execAdds (p : PondId) (f : FmtA) (s : State) : Host.Outcome State Fault Refusal :=
  issue p (fun _ P => aluReg (fun a b f => satFlags (a.toInt + b.toInt) f) f P) s

/-- SUBS: gd ← sat32(ga − gb), Q on saturation (R102). -/
def execSubs (p : PondId) (f : FmtA) (s : State) : Host.Outcome State Fault Refusal :=
  issue p (fun _ P => aluReg (fun a b f => satFlags (a.toInt - b.toInt) f) f P) s

/-- AND: gd ← ga AND gb (R102). -/
def execAndd (p : PondId) (f : FmtA) (s : State) : Host.Outcome State Fault Refusal :=
  issue p (fun _ P => aluReg (fun a b f => logFlags (a &&& b) f) f P) s

/-- OR: gd ← ga OR gb (R102). -/
def execOrr (p : PondId) (f : FmtA) (s : State) : Host.Outcome State Fault Refusal :=
  issue p (fun _ P => aluReg (fun a b f => logFlags (a ||| b) f) f P) s

/-- XOR: gd ← ga XOR gb (R102). -/
def execXor (p : PondId) (f : FmtA) (s : State) : Host.Outcome State Fault Refusal :=
  issue p (fun _ P => aluReg (fun a b f => logFlags (a ^^^ b) f) f P) s

/-- ANDN: gd ← ga AND NOT gb (R102). -/
def execAndn (p : PondId) (f : FmtA) (s : State) : Host.Outcome State Fault Refusal :=
  issue p (fun _ P => aluReg (fun a b f => logFlags (a &&& ~~~b) f) f P) s

/-- SHL: gd ← ga << gb[7:0] (R102). -/
def execShl (p : PondId) (f : FmtA) (s : State) : Host.Outcome State Fault Refusal :=
  issue p (fun _ P => aluReg (fun a b f => shlFlags a (fld b 0 8) f) f P) s

/-- SHR: gd ← ga >> gb[7:0], zero fill (R102). -/
def execShr (p : PondId) (f : FmtA) (s : State) : Host.Outcome State Fault Refusal :=
  issue p (fun _ P => aluReg (fun a b f => shrFlags a (fld b 0 8) f) f P) s

/-- SAR: gd ← ga >>a gb[7:0] (R102). -/
def execSar (p : PondId) (f : FmtA) (s : State) : Host.Outcome State Fault Refusal :=
  issue p (fun _ P => aluReg (fun a b f => sarFlags a (fld b 0 8) f) f P) s

/-- ROR: gd ← ga rotated right by gb[4:0] (R102). -/
def execRor (p : PondId) (f : FmtA) (s : State) : Host.Outcome State Fault Refusal :=
  issue p (fun _ P => aluReg (fun a b f => rorFlags a (fld b 0 5) f) f P) s

/-- SLT: gd ← 1 if ga < gb signed, else 0 (R102). -/
def execSlt (p : PondId) (f : FmtA) (s : State) : Host.Outcome State Fault Refusal :=
  issue p (fun _ P => aluReg (fun a b f => logFlags (if a.toInt < b.toInt then 1 else 0) f) f P) s

/-- SLTU: gd ← 1 if ga < gb unsigned, else 0 (R102). -/
def execSltu (p : PondId) (f : FmtA) (s : State) : Host.Outcome State Fault Refusal :=
  issue p (fun _ P => aluReg (fun a b f => logFlags (if a.toNat < b.toNat then 1 else 0) f) f P) s

/-- MIN: signed minimum (R102). -/
def execMinS (p : PondId) (f : FmtA) (s : State) : Host.Outcome State Fault Refusal :=
  issue p (fun _ P => aluReg (fun a b f => logFlags (if a.toInt ≤ b.toInt then a else b) f) f P) s

/-- MAX: signed maximum (R102). -/
def execMaxS (p : PondId) (f : FmtA) (s : State) : Host.Outcome State Fault Refusal :=
  issue p (fun _ P => aluReg (fun a b f => logFlags (if a.toInt ≤ b.toInt then b else a) f) f P) s

/-- MINU: unsigned minimum (R102). -/
def execMinu (p : PondId) (f : FmtA) (s : State) : Host.Outcome State Fault Refusal :=
  issue p (fun _ P => aluReg (fun a b f => logFlags (if a.toNat ≤ b.toNat then a else b) f) f P) s

/-- MAXU: unsigned maximum (R102). -/
def execMaxu (p : PondId) (f : FmtA) (s : State) : Host.Outcome State Fault Refusal :=
  issue p (fun _ P => aluReg (fun a b f => logFlags (if a.toNat ≤ b.toNat then b else a) f) f P) s

/-- CMP: flags of ga − gb (R102). -/
def execCmp (p : PondId) (f : FmtA) (s : State) : Host.Outcome State Fault Refusal :=
  issue p (fun _ P => aluTest (fun a b f => subFlags a b true f) f P) s

/-- TST: flags of ga AND gb (R102). -/
def execTst (p : PondId) (f : FmtA) (s : State) : Host.Outcome State Fault Refusal :=
  issue p (fun _ P => aluTest (fun a b f => logFlags (a &&& b) f) f P) s

/-- ADDI: gd ← ga + sx(imm18) (R102). -/
def execAddi (p : PondId) (f : FmtI) (s : State) : Host.Outcome State Fault Refusal :=
  issue p (fun _ P => aluImm true (fun a => a + FmtI.sx f) f P) s

/-- ANDI: gd ← ga AND zx(imm18) (R102). -/
def execAndi (p : PondId) (f : FmtI) (s : State) : Host.Outcome State Fault Refusal :=
  issue p (fun _ P => aluImm true (fun a => a &&& FmtI.zx f) f P) s

/-- ORI: gd ← ga OR zx(imm18) (R102). -/
def execOri (p : PondId) (f : FmtI) (s : State) : Host.Outcome State Fault Refusal :=
  issue p (fun _ P => aluImm true (fun a => a ||| FmtI.zx f) f P) s

/-- XORI: gd ← ga XOR zx(imm18) (R102). -/
def execXori (p : PondId) (f : FmtI) (s : State) : Host.Outcome State Fault Refusal :=
  issue p (fun _ P => aluImm true (fun a => a ^^^ FmtI.zx f) f P) s

/-- SLTI: gd ← 1 if ga < sx(imm18) signed, else 0 (R102). -/
def execSlti (p : PondId) (f : FmtI) (s : State) : Host.Outcome State Fault Refusal :=
  issue p (fun _ P => aluImm true (fun a => if a.toInt < (FmtI.sx f).toInt then 1 else 0) f P) s

/-- SLTIU: gd ← 1 if ga < sx(imm18) unsigned, else 0 (R102). -/
def execSltiu (p : PondId) (f : FmtI) (s : State) : Host.Outcome State Fault Refusal :=
  issue p (fun _ P => aluImm true (fun a => if a.toNat < (FmtI.sx f).toNat then 1 else 0) f P) s

/-- SHLI: gd ← ga << imm18[4:0]; imm18[17:5] must be 0 (R102). -/
def execShli (p : PondId) (f : FmtI) (s : State) : Host.Outcome State Fault Refusal :=
  issue p (fun _ P => aluImm (FmtI.shiftOk f) (fun a => a <<< FmtI.amount f) f P) s

/-- SHRI: gd ← ga >> imm18[4:0]; imm18[17:5] must be 0 (R102). -/
def execShri (p : PondId) (f : FmtI) (s : State) : Host.Outcome State Fault Refusal :=
  issue p (fun _ P => aluImm (FmtI.shiftOk f) (fun a => a >>> FmtI.amount f) f P) s

/-- SARI: gd ← ga >>a imm18[4:0]; imm18[17:5] must be 0 (R102). -/
def execSari (p : PondId) (f : FmtI) (s : State) : Host.Outcome State Fault Refusal :=
  issue p (fun _ P => aluImm (FmtI.shiftOk f) (fun a => a.sshiftRight (FmtI.amount f)) f P) s

/-- CMPI: flags of ga − sx(imm18) (R102). -/
def execCmpi (p : PondId) (f : FmtI) (s : State) : Host.Outcome State Fault Refusal :=
  issue p (fun _ P => immTest (fun a fl => subFlags a (FmtI.sx f) true fl) f P) s

/-- TSTI: flags of ga AND zx(imm18) (R102). -/
def execTsti (p : PondId) (f : FmtI) (s : State) : Host.Outcome State Fault Refusal :=
  issue p (fun _ P => immTest (fun a fl => logFlags (a &&& FmtI.zx f) fl) f P) s

/-- LUI: gd ← imm22 << 10 (R102). -/
def execLui (p : PondId) (f : FmtU) (s : State) : Host.Outcome State Fault Refusal :=
  issue p (fun _ P => retire 1 (gset f.d (f.imm.setWidth 32 <<< 10) (stallFor 0 false false P))) s

/-- MUL: gd ← bits [31:0] of ga × gb (R102). -/
def execMul (p : PondId) (f : FmtA) (s : State) : Host.Outcome State Fault Refusal :=
  issue p (fun _ P => mulOp (fun a b => a * b) f P) s

/-- MULH: gd ← bits [63:32] of the signed product (R102). -/
def execMulh (p : PondId) (f : FmtA) (s : State) : Host.Outcome State Fault Refusal :=
  issue p (fun _ P => mulOp (fun a b => BitVec.ofInt 32 (asrI (a.toInt * b.toInt) 32)) f P) s

/-- MULHU: gd ← bits [63:32] of the unsigned product (R102). -/
def execMulhu (p : PondId) (f : FmtA) (s : State) : Host.Outcome State Fault Refusal :=
  issue p (fun _ P => mulOp (fun a b => BitVec.ofNat 32 (a.toNat * b.toNat / 2 ^ 32)) f P) s

/-- DIV: gd ← signed quotient, rounded toward zero (R105). -/
def execDiv (p : PondId) (f : FmtA) (s : State) : Host.Outcome State Fault Refusal :=
  issue p (fun _ P => divOp (fun a b => ((divS a b).1, (divS a b).2.2)) f P) s

/-- DIVU: gd ← unsigned quotient (R105). -/
def execDivu (p : PondId) (f : FmtA) (s : State) : Host.Outcome State Fault Refusal :=
  issue p (fun _ P => divOp (fun a b => ((divU a b).1, (divU a b).2.2)) f P) s

/-- REM: gd ← signed remainder, of the sign of ga (R105). -/
def execRem (p : PondId) (f : FmtA) (s : State) : Host.Outcome State Fault Refusal :=
  issue p (fun _ P => divOp (fun a b => ((divS a b).2.1, (divS a b).2.2)) f P) s

/-- REMU: gd ← unsigned remainder (R105). -/
def execRemu (p : PondId) (f : FmtA) (s : State) : Host.Outcome State Fault Refusal :=
  issue p (fun _ P => divOp (fun a b => ((divU a b).2.1, (divU a b).2.2)) f P) s

/-- MAC: acc ← acc + ga × gb, saturating (R97). -/
def execMac (p : PondId) (f : FmtA) (s : State) : Host.Outcome State Fault Refusal :=
  issue p (fun _ P => accOp (fun x a b => x + a * b) f P) s

/-- MSU: acc ← acc − ga × gb, saturating (R97). -/
def execMsu (p : PondId) (f : FmtA) (s : State) : Host.Outcome State Fault Refusal :=
  issue p (fun _ P => accOp (fun x a b => x - a * b) f P) s

/-- MACZ: acc ← ga × gb (R97). -/
def execMacz (p : PondId) (f : FmtA) (s : State) : Host.Outcome State Fault Refusal :=
  issue p (fun _ P => accOp (fun _ a b => a * b) f P) s

/-- ACCX: gd ← acc rounded, shifted right by ext[5:0] and saturated (R104). -/
def execAccx (p : PondId) (f : FmtA) (s : State) : Host.Outcome State Fault Refusal :=
  issue p (fun _ P => legal (f.a == 0 && f.b == 0 && f.s == 0 && !bit f.ext 6) (fun P =>
    let x := rndI P.core.acc.toInt (fld f.ext 0 6)
    retire 1 (gset f.d (BitVec.ofInt 32 (satI 32 x))
      (setQ (decide (satI 32 x ≠ x)) (stallFor 0 true false P)))) P) s

/-- ACCRD: gd ← acc[31:0], acc[63:32] or sx(acc[71:64]) (R102). -/
def execAccrd (p : PondId) (f : FmtA) (s : State) : Host.Outcome State Fault Refusal :=
  issue p (fun _ P => legal (f.a == 0 && f.b == 0 && f.s == 0 && decide (f.ext.toNat < 3)) (fun P =>
    let x : Word := match f.ext.toNat with
      | 0 => P.core.acc.extractLsb' 0 32
      | 1 => P.core.acc.extractLsb' 32 32
      | _ => (P.core.acc.extractLsb' 64 8).signExtend 32
    retire 1 (gset f.d x (stallFor 0 true false P))) P) s

/-- ACCW: acc[31:0], acc[63:32] or acc[71:64] ← ga, ga or ga[7:0] (R102). -/
def execAccw (p : PondId) (f : FmtA) (s : State) : Host.Outcome State Fault Refusal :=
  issue p (fun _ P => legal (f.d == 0 && f.b == 0 && f.s == 0 && decide (f.ext.toNat < 3)) (fun P =>
    let v := (gr P f.a).toNat
    let x := match f.ext.toNat with
      | 0 => setFld P.core.acc 0 32 v
      | 1 => setFld P.core.acc 32 32 v
      | _ => setFld P.core.acc 64 8 v
    finishAt (P.core.pc + 4) 1 0 true false (setAcc (x, false) (stallFor (rmask f.a) false false P))) P) s

/-- ACCZ: acc ← 0 (R102). -/
def execAccz (p : PondId) (f : FmtA) (s : State) : Host.Outcome State Fault Refusal :=
  issue p (fun _ P => legal (f.d == 0 && f.a == 0 && f.b == 0 && f.s == 0 && f.ext == 0) (fun P =>
    finishAt (P.core.pc + 4) 1 0 true false (setAcc (0, false) (stallFor 0 false false P))) P) s

/-- EXTU: gd ← zx(ga[pos+w−1:pos]) (R102). -/
def execExtu (p : PondId) (f : FmtF) (s : State) : Host.Outcome State Fault Refusal :=
  issue p (fun _ P => fieldOp (FmtF.fits f) false (fun _ a => (BitVec.ofNat 32 (fld a f.pos.toNat (f.wm1.toNat + 1)), false)) f P) s

/-- EXTS: gd ← sx(ga[pos+w−1:pos]) (R102). -/
def execExts (p : PondId) (f : FmtF) (s : State) : Host.Outcome State Fault Refusal :=
  issue p (fun _ P => fieldOp (FmtF.fits f) false (fun _ a => (BitVec.ofInt 32 (sfld a f.pos.toNat (f.wm1.toNat + 1)), false)) f P) s

/-- INS: gd[pos+w−1:pos] ← ga[w−1:0] (R102). -/
def execIns (p : PondId) (f : FmtF) (s : State) : Host.Outcome State Fault Refusal :=
  issue p (fun _ P => fieldOp (FmtF.fits f) true (fun d a => (setFld d f.pos.toNat (f.wm1.toNat + 1) a.toNat, false)) f P) s

/-- CLZ: gd ← count of leading zeros of ga (R102). -/
def execClz (p : PondId) (f : FmtF) (s : State) : Host.Outcome State Fault Refusal :=
  issue p (fun _ P => fieldOp (f.pos == 0 && f.wm1 == 0) false (fun _ a => (BitVec.ofNat 32 (32 - (if a = 0 then 0 else a.toNat.log2 + 1)), false)) f P) s

/-- POPC: gd ← count of set bits of ga (R102). -/
def execPopc (p : PondId) (f : FmtF) (s : State) : Host.Outcome State Fault Refusal :=
  issue p (fun _ P => fieldOp (f.pos == 0 && f.wm1 == 0) false (fun _ a => (BitVec.ofNat 32 (bitsOf 32 a.toNat).length, false)) f P) s

/-- SATS: gd ← ga clamped to the signed range of wm1 + 1 bits (R102). -/
def execSats (p : PondId) (f : FmtF) (s : State) : Host.Outcome State Fault Refusal :=
  issue p (fun _ P => fieldOp (f.pos == 0) false (fun _ a =>
    (BitVec.ofInt 32 (satI (f.wm1.toNat + 1) a.toInt), decide (satI (f.wm1.toNat + 1) a.toInt ≠ a.toInt))) f P) s

/-- SATU: gd ← ga, signed, clamped to 0 to 2^n − 1, n = wm1 + 1 from 1 to 31 (R102). -/
def execSatu (p : PondId) (f : FmtF) (s : State) : Host.Outcome State Fault Refusal :=
  issue p (fun _ P => fieldOp (f.pos == 0 && decide (f.wm1.toNat < 31)) false (fun _ a =>
    let x := clampI 0 ((2 ^ (f.wm1.toNat + 1) : Nat) - 1) a.toInt
    (BitVec.ofInt 32 x, decide (x ≠ a.toInt))) f P) s

end Sys2Proof.Machine
end

