-- ==== Sys2Proof/Machine/Crc.lean ====
section
/-! DEFINITION. The check-value algorithm of R408 and the checks defined by it: CRC-32C, the
flit CHECK (R223) and the SMBus PEC (R425). -/

namespace Sys2Proof.Machine

/-- The low `n` bits of a number in reverse order. -/
def revBits : Nat → Nat → Nat
  | 0, _ => 0
  | n + 1, v => (v % 2) * 2 ^ n + revBits n (v / 2)

/-- One bit fed to a working value of `w` bits. -/
def crcBit (w poly v b : Nat) : Nat :=
  let top := v / 2 ^ (w - 1) % 2
  let v' := (v * 2) % 2 ^ w
  if top ≠ b then v' ^^^ (poly % 2 ^ w) else v'

/-- Bits `n - 1` down to 0 of `b` fed. -/
def crcBits (w poly : Nat) : Nat → Nat → Nat → Nat
  | 0, _, v => v
  | n + 1, b, v => crcBits w poly n b (crcBit w poly v (b / 2 ^ n % 2))

/-- One byte fed (R408). -/
def crcByte (w poly : Nat) (refin : Bool) (v : Nat) (b : Byte) : Nat :=
  crcBits w poly 8 (if refin then revBits 8 b.toNat else b.toNat) v

/-- Bytes fed in order. -/
def crcFeed (w poly : Nat) (refin : Bool) (v : Nat) (l : List Byte) : Nat :=
  l.foldl (crcByte w poly refin) v

/-- The output of R408: reflected, then inverted. -/
def crcOut (w : Nat) (refout inv : Bool) (v : Nat) : Nat :=
  let o := if refout then revBits w v else v
  if inv then o ^^^ (2 ^ w - 1) else o

/-- CRC-32C of a byte string (Table 15.2). -/
def crc32c (l : List Byte) : Nat :=
  crcOut 32 true true (crcFeed 32 0x1EDC6F41 true 0xFFFFFFFF l)

/-- CRC-8/SMBUS of a byte string (R425). -/
def crc8 (l : List Byte) : Nat := crcFeed 8 0x07 false 0 l

/-- The flit CHECK: CRC-12 over the 128 data bits, side bits [15:12] and the sequence number
(R223), fed as bytes least significant first, then the four side bits, then the sequence byte
(assumption 14). -/
def flitCheck (data : BitVec 128) (side : Nat) (seq : Nat) : Nat :=
  let v := crcFeed 12 0x80F false 0 (leBytes data.toNat 16)
  crcBits 12 0x80F 8 (seq % 256) (crcBits 12 0x80F 4 side v)

end Sys2Proof.Machine
end

