-- ==== Sys2Proof/Machine/P384.lean ====
section
/-! DEFINITION. The P-384 group, ECDSA with RFC 6979 nonces, ECDH, and the key derivation K of
R347 (the standards that chapter 13 names; assumption 20). -/

namespace Sys2Proof.Machine

/-- The field prime. -/
def p384P : Nat := 2 ^ 384 - 2 ^ 128 - 2 ^ 96 + 2 ^ 32 - 1

/-- The order n of the group. -/
def p384N : Nat :=
  0xFFFFFFFFFFFFFFFFFFFFFFFFFFFFFFFFFFFFFFFFFFFFFFFFC7634D81F4372DDF581A0DB248B0A77AECEC196ACCC52973

/-- The curve's constant b. -/
def p384B : Nat :=
  0xB3312FA7E23EE7E4988E056BE3F82D19181D9C6EFE8141120314088F5013875AC656398D8A2ED19D2A85C8EDD3EC2AEF

/-- The generator. -/
def p384G : Nat × Nat :=
  (0xAA87CA22BE8B05378EB1C71EF320AD746E1D3B628BA79B9859F741E082542A385502F25DBF55296C3A545E3872760AB7,
   0x3617DE4A96262C6F5D9E98BF9292DC29F8F41DBD289A147CE9DA3113B5F0B8C00A60B1CE1D7E819D7A431D7C90EA0E5F)

/-- b to the power e modulo m, over the low `n` bits of e. -/
def powMod : Nat → Nat → Nat → Nat → Nat
  | 0, _, _, m => 1 % m
  | n + 1, b, e, m =>
    let h := powMod n (b * b % m) (e / 2) m
    if e % 2 = 1 then h * b % m else h

/-- The inverse of a number modulo the prime m below 2^384. -/
def invMod (a m : Nat) : Nat := powMod 384 (a % m) (m - 2) m

/-- The sum of two points; none is the point at infinity. -/
def ecAdd : Option (Nat × Nat) → Option (Nat × Nat) → Option (Nat × Nat)
  | none, q => q
  | p, none => p
  | some (x1, y1), some (x2, y2) =>
    let m := p384P
    if x1 = x2 ∧ (y1 + y2) % m = 0 then none else
    let l := if x1 = x2 then (3 * x1 * x1 + m - 3) * invMod (2 * y1) m % m
      else (y2 + m - y1) * invMod (x2 + m - x1) m % m
    let x := (l * l + 2 * m - x1 - x2) % m
    some (x, (l * (x1 + m - x) + m - y1) % m)

/-- k times a point, over the low `n` bits of k. -/
def ecMul : Nat → Nat → Option (Nat × Nat) → Option (Nat × Nat)
  | 0, _, _ => none
  | n + 1, k, p =>
    let h := ecMul n (k / 2) (ecAdd p p)
    if k % 2 = 1 then ecAdd h p else h

/-- A point lies on the curve. -/
def ecOn (x y : Nat) : Bool :=
  decide (x < p384P) && decide (y < p384P) &&
  y * y % p384P == (x * x * x + (p384P - 3) * x + p384B) % p384P

/-- A public key in SEC1 uncompressed form (97 bytes). -/
def ecBytes (p : Nat × Nat) : List Byte := 4 :: (beBytes p.1 48 ++ beBytes p.2 48)

/-- A public key in SEC1 compressed form (49 bytes). -/
def ecShort (p : Nat × Nat) : List Byte := BitVec.ofNat 8 (2 + p.2 % 2) :: beBytes p.1 48

/-- A public key read from its uncompressed form. -/
def ecRead (l : List Byte) : Option (Nat × Nat) :=
  let x := ofBe (slice l 1 48)
  let y := ofBe (slice l 49 48)
  if l.headD 0 = 4 ∧ ecOn x y then some (x, y) else none

/-- The public key of a private key. -/
def ecPublic (d : Nat) : Nat × Nat := (ecMul 384 d (some p384G)).getD (0, 0)

/-- The x-coordinate of the ECDH product. -/
def ecdh (d : Nat) (q : Nat × Nat) : Option (List Byte) := (ecMul 384 d (some q)).map (fun p => beBytes p.1 48)

/-- ECDSA verification of a digest under a public key: `sig` is r then s, 96 bytes. -/
def ecdsaVerify (key digest sig : List Byte) : Bool :=
  match ecRead key with
  | none => false
  | some q =>
    let n := p384N
    let r := ofBe (slice sig 0 48)
    let s := ofBe (slice sig 48 48)
    if r = 0 ∨ n ≤ r ∨ s = 0 ∨ n ≤ s then false else
    let w := invMod s n
    let u := ecMul 384 (ofBe digest * w % n) (some p384G)
    let v := ecMul 384 (r * w % n) (some q)
    match ecAdd u v with
    | none => false
    | some p => p.1 % n == r

/-- RFC 6979: the next candidate nonce from (K, V), or after `fuel` refusals 1. -/
def nonceFrom : Nat → List Byte → List Byte → Nat
  | 0, _, _ => 1
  | fuel + 1, k, v =>
    let v1 := hmac384 k v
    let x := ofBe v1
    if 0 < x ∧ x < p384N then x
    else
      let k2 := hmac384 k (v1 ++ [0])
      nonceFrom fuel k2 (hmac384 k2 v1)

/-- The RFC 6979 nonce of a private key and a digest. -/
def ecNonce (d : Nat) (digest : List Byte) : Nat :=
  let x := beBytes d 48
  let h := beBytes (ofBe digest % p384N) 48
  let k0 := List.replicate 48 0
  let v0 : List Byte := List.replicate 48 1
  let k1 := hmac384 k0 (v0 ++ [0] ++ x ++ h)
  let v1 := hmac384 k1 v0
  let k2 := hmac384 k1 (v1 ++ [1] ++ x ++ h)
  nonceFrom 8 k2 (hmac384 k2 v1)

/-- An ECDSA signature of a digest, r then s. -/
def ecdsaSign (d : Nat) (digest : List Byte) : List Byte :=
  let n := p384N
  let k := ecNonce d digest
  let r := (ecPublic k).1 % n
  beBytes r 48 ++ beBytes (invMod k n * (ofBe digest + r * d) % n) 48

/-- Block i of K, from 1 (R347). -/
def kdfBlock (key label context : List Byte) (len i : Nat) : List Byte :=
  hmac384 key (beBytes i 4 ++ label ++ [0] ++ context ++ beBytes len 4)

/-- K(key, label, context, L), L in bits, a multiple of 8 (R347). -/
def kdf (key : List Byte) (label : String) (context : List Byte) (len : Nat) : List Byte :=
  ((List.range ((len + 383) / 384)).flatMap (fun i => kdfBlock key (asciiBytes label) context len (i + 1))).take (len / 8)

/-- A P-384 private key from 448 bits (R349). -/
def privateKey (c : List Byte) : Nat := ofBe c % (p384N - 1) + 1

end Sys2Proof.Machine
end

