-- ==== Sys2Proof/Machine/Flash.lean ====
section
/-! DEFINITION. Flash operations (chapter 14, sections 2 and 3): word programs and sector erases
of an array of flash words, their end, and their abandonment; then the pond's own controller. -/

namespace Sys2Proof.Machine

/-- An array of flash words with the dirty cells of its sectors. -/
structure FArr where
  words : KMap FWord
  dirty : SMap 1
  deriving DecidableEq, Repr

/-- The word at an index. -/
def FArr.word (f : FArr) (i : Nat) : FWord := KMap.get FWord.erased f.words i

/-- The class of the word at an index (Table 14.3): 0 erased, 1 committed, 2 torn. -/
def FArr.cls (f : FArr) (i : Nat) : Nat := flashClass (f.dirty.get (i / 128) != 0) (f.word i)

/-- The word at an index replaced. -/
def FArr.put (f : FArr) (i : Nat) (w : FWord) : FArr := { f with words := KMap.set FWord.erased f.words i w }

/-- A committed word of this data. -/
def FWord.committed (d : BitVec 256) : FWord := { data := d, prog := 283, marker := 4, step := 0 }

/-- A word cut in phase 1 (R380). -/
def FWord.torn (d : BitVec 256) : FWord := { data := d, prog := 283, marker := 0, step := 0 }

/-- Words programmed in ascending order (R385): `bad` names the position of the word whose
program-verify fails, `cut` whether that word is left torn. The reason and index of the first
failure. -/
def FArr.program (f : FArr) (cut : Bool) : Option Nat → Nat → List (BitVec 256) → FArr × Option (Nat × Nat)
  | _, _, [] => (f, none)
  | bad, i, d :: r =>
    if f.cls i ≠ 0 then (f, some (1, i))
    else if bad = some 0 then (if cut then f.put i (FWord.torn d) else f, some (2, i))
    else FArr.program (f.put i (FWord.committed d)) cut (bad.map (· - 1)) (i + 1) r

/-- A sector erased: every word erased, the status cell cleared (R381). -/
def FArr.erase (f : FArr) (sector : Nat) : FArr :=
  { words := f.words.filter (fun e => e.1 / 128 != sector), dirty := f.dirty.set sector 0 }

/-- The status cell set before an erase begins (R381). -/
def FArr.markDirty (f : FArr) (sector : Nat) : FArr := { f with dirty := f.dirty.set sector 1 }

/-- Words programmed from an index upward until the program is cut after `n` of them; the word being
programmed is left torn or erased (R380). -/
def FArr.cutAfter (f : FArr) (cut : Bool) : Nat → Nat → List (BitVec 256) → FArr
  | _, _, [] => f
  | 0, i, d :: _ => if cut && f.cls i == 0 then f.put i (FWord.torn d) else f
  | n + 1, i, d :: r => if f.cls i = 0 then FArr.cutAfter (f.put i (FWord.committed d)) cut n (i + 1) r else f

/-- An operation abandoned (R387): the words programmed before stay, its word is erased or torn; its sector
stays dirty. Which word it had reached is free. -/
def FArr.abandon (f : FArr) (o : FlashOp) (reached : Nat) (cut : Bool) : FArr :=
  if o.erase then f else f.cutAfter cut (reached % max 1 o.data.length) o.word o.data

/-- The end of an operation: the array, and the reason and word index of a failure. -/
def FArr.finish (f : FArr) (o : FlashOp) (bad : Option Nat) (cut : Bool) : FArr × Option (Nat × Nat) :=
  if o.erase then
    if bad.isSome then (f, some (3, o.word)) else (f.erase (o.word / 128), none)
  else f.program cut bad o.word o.data

/-- Bytes as flash words of 32 bytes. -/
def flashWords : Nat → List Byte → List (BitVec 256)
  | 0, _ => []
  | n + 1, l => if l.isEmpty then [] else BitVec.ofNat 256 (ofLe (padTo 32 l)) :: flashWords n (l.drop 32)

/-- A read of the word at an index returns data (R382, R383). -/
def FArr.good (f : FArr) (i : Nat) : Bool :=
  f.cls i == 0 || (f.cls i == 1 && decide ((f.word i).step ≤ 5))

/-- The byte at an offset of an array, read as its word's class gives; none for a torn or
uncorrectable word. -/
def FArr.byte (f : FArr) (a : Nat) : Option Byte :=
  let i := a / 32
  match f.cls i with
  | 0 => some 0xFF
  | 1 => if (f.word i).step ≤ 5 then some ((f.word i).data.extractLsb' (8 * (a % 32)) 8) else none
  | _ => none

/-- `len` bytes from an offset; none where a word is torn or uncorrectable. -/
def FArr.read (f : FArr) (a : Nat) : Nat → Option (List Byte)
  | 0 => some []
  | n + 1 => do
    let b ← f.byte a
    let r ← FArr.read f (a + 1) n
    return b :: r

/-! ### The pond flash controller -/

/-- The pond flash as an array of 2 × 8,192 words. -/
def pflArr (P : Pond) : FArr := ⟨P.pfl.words, P.pfl.dirty⟩

/-- The array put back. -/
def pflPut (f : FArr) (P : Pond) : Pond :=
  { P with pfl := { P.pfl with words := f.words, dirty := f.dirty } }

/-- The first word of the inactive bank. -/
def inactiveBase (P : Pond) : Nat := 8192 * b2n (!P.pfl.bank)

/-- The verified mark set or cleared; a clear is counted (R309). -/
def Pfl.setMark (b : Bool) (f : Pfl) : Pfl := { f with verified := b, cleared := f.cleared + b2n (!b) }

/-- An operation starts on the inactive bank: its verified mark clears (R386), and an erase first
sets the status cell (R381). -/
def pflStart (o : FlashOp) (P : Pond) : Pond :=
  let P1 := { P with pfl := { P.pfl.setMark false with op := some o } }
  if o.erase then pflPut ((pflArr P1).markDirty (o.word / 128)) P1 else P1

/-- The operation in progress ends (R384, R385): RESULT, the failing offset, and for a firmware
operation PFL_DONE or PFL_ERROR. -/
def pflEnd (bad : Option Nat) (P : Pond) : Pond :=
  match P.pfl.op with
  | none => P
  | some o =>
    let cut := (freeNow P).toNat % 2 = 1
    let r := (pflArr P).finish o bad cut
    let P1 := pflPut r.1 { useFree P with pfl := { P.pfl with op := none } }
    let event (n : Nat) (Q : Pond) : Pond := if o.owner = 1 then picEvent n Q else Q
    match r.2 with
    | none => event 52 (rset 0x608 0 P1)
    | some (why, i) =>
      event 53 (rset 0x60C (BitVec.ofNat 32 (32 * (i % 8192))) (rset 0x608 (BitVec.ofNat 32 (why * 65536)) P1))

/-- The operation in progress is abandoned (R387). -/
def pflAbandon (P : Pond) : Pond :=
  match P.pfl.op with
  | none => P
  | some o =>
    let w := (freeNow P).toNat
    let P1 := pflPut ((pflArr P).abandon o (w / 2) (w % 2 = 1)) (useFree P)
    { P1 with pfl := { P1.pfl with op := none } }

end Sys2Proof.Machine
end

