-- ==== Sys2Proof/Machine/Pulse.lean ====
section
/-! DEFINITION. The pulse generators (chapter 7, section 1): arming, period ends, compare edges,
enable and disable, and the converter triggers their events give (R160). -/

namespace Sys2Proof.Machine

/-- PG_CFG_k. -/
def pgCfg (P : Pond) (k : Nat) : Word := rg P (0x390 + 4 * k)

/-- The odd generator of a pair is driven by the even one (R184). -/
def pgSlave (P : Pond) (k : Nat) : Bool := k % 2 == 1 && bit (pgCfg P (k - 1)) 6

/-- The even generator of a pair. -/
def pgPaired (P : Pond) (k : Nat) : Bool := k % 2 == 0 && bit (pgCfg P k) 6

/-- The values before this pond cycle are kept at the first write of the cycle (R181). -/
def pgSnapNow (cy k : Nat) (P : Pond) : Pond :=
  let g := pgOf P k
  let old := match g.snap with | some s => s.cycle == cy | none => false
  if old then P else
  pgSet k { g with
    snap := some ⟨cy, g.fresh, fld (rg P (0x3B0 + 4 * k)) 0 21, fld (rg P (0x3A0 + 4 * k)) 0 21⟩ } P

/-- An arming write: the preload is stored and fresh is set; one that lands in the pond cycle of
the latest decision is late (R181). -/
def pgArmWrite (cy k duty : Nat) (P : Pond) : Pond :=
  let late := (pgOf P k).endCycle == some cy
  let P1 := rmod (0x3B0 + 4 * k) (fun w => setFld w 0 21 duty) (pgSnapNow cy k P)
  let P2 := pgSet k { pgOf P1 k with fresh := true, armCycle := some cy } P1
  if late then rinc 0x38C (8 * k) 8 P2 else P2

/-- A lane's write of a duty (R182, R189): discarded while the generator is held (R210), refused
with ARM_MISMATCH where ARM names another source. -/
def pgLaneWrite (cy lane k duty : Nat) (P : Pond) : Pond :=
  if (pgOf P k).held.isSome then P
  else if fld (pgCfg P k) 3 2 = lane then pgArmWrite cy k duty P
  else rbit 0x404 (16 + lane) P

/-- A store, poke or CONFIGURE entry to PG_PRELOAD_k: ARM 2 arms, ARM 3 stores the value
without arming, a lane-armed generator ignores it (R182). -/
def pgStorePreload (cy k : Nat) (v : Word) (P : Pond) : Pond :=
  match fld (pgCfg P k) 3 2 with
  | 2 => pgArmWrite cy k (fld v 0 21) P
  | 3 => rmod (0x3B0 + 4 * k) (fun w => setFld w 0 21 (fld v 0 21)) (pgSnapNow cy k P)
  | _ => P

/-- A store to PG_PERIOD_k: a value outside 3,200 to 1,600,000 is ignored (R182). -/
def pgStorePeriod (cy k : Nat) (v : Word) (P : Pond) : Pond :=
  let x := fld v 0 21
  if 3200 ≤ x ∧ x ≤ 1600000 then rset (0x3A0 + 4 * k) (BitVec.ofNat 32 x) (pgSnapNow cy k P) else P

/-- CLRFRESH of generator k; an arming write of the same cycle wins (R182). -/
def pgClearFresh (cy k : Nat) (P : Pond) : Pond :=
  if (pgOf P k).armCycle == some cy then P
  else
    let P1 := pgSnapNow cy k P
    pgSet k { pgOf P1 k with fresh := false } P1

/-- Rise and fall times of the active period, measured from its start (R183). -/
def pgTimes (P : Pond) (k : Nat) : Nat × Nat :=
  let g := pgOf P k
  let d := min g.duty g.period
  let tr := if bit (pgCfg P k) 5 then (g.period - d) / 2 else 0
  (tr, tr + d)

/-- The drive level of generator k set. -/
def pgDrive (k : Nat) (b : Bool) (P : Pond) : Pond := pgSet k { pgOf P k with drive := b } P

/-- The model's time of the instant `o` of the period in progress of generator k, all in 62.5 ps units
(R160, R180). -/
def pgMoment (P : Pond) (k o : Nat) : Nat := (((pgOf P k).nom + o : Nat) + (pgOf P k).org).toNat

/-- An event of generator k (POINT 0 its period start, POINT 1 its compare edge) reaches the
converters whose trigger names it, at the generator's edge resolution (R160). -/
def pgTrigger (k point num : Nat) (P : Pond) : Pond :=
  if pgSlave P k then P else
  let go (n : Nat) (Q : Pond) : Pond :=
    let t := rg Q (0x210 + 4 * n)
    let o := (if point = 0 then 0 else (pgTimes Q k).2) + fld t 8 16
    if fld t 0 3 = 2 ∧ fld t 4 2 = k ∧ fld t 6 1 = point then
      { Q with conv := Q.conv.mapFinIdx (fun i c _ =>
          if i = n then
            if c.skip = 0 then
              { c with
                skip := fld t 28 4,
                trigs := c.trigs ++ [⟨if point = 0 then .pgStart k else .pgCompare k, num,
                  pgMoment Q k o, (pgOf Q k).nom + o⟩] }
            else { c with skip := c.skip - 1 }
          else c) }
    else Q
  go 1 (go 0 P)

/-- Cycle-mode forces of the pins of generator k end at its period start where the comparator
output is inactive (R176). -/
def endCycleForce (k : Nat) (P : Pond) : Pond :=
  let pins := if pgPaired P k then [k, k + 1] else [k]
  { P with cmp := P.cmp.mapFinIdx (fun n c _ =>
      if bit (rg P (0x300 + 4 * n)) 7 && !c.out && !pgSlave P k then
        { c with force := pins.foldl (fun f j => setBit f j false) c.force }
      else c) }

/-- The levels at a period start (R183, R184). -/
def startLevels (k : Nat) (P : Pond) : Pond :=
  let g := pgOf P k
  let t := pgTimes P k
  if pgPaired P k then
    let rise := t.1 + fld (pgCfg P k) 8 12
    pgDrive (k + 1) (g.armed && decide (0 < t.1)) (pgDrive k (g.armed && decide (rise = 0 ∧ 0 < t.2)) P)
  else if pgSlave P k then P
  else pgDrive k (g.armed && decide (t.1 = 0 ∧ 0 < t.2)) P

/-- The decision at a period start (R180, R181, R210): armed with the fresh values as they stood
before this pond cycle, armed with the held duty, or dark; a first dark period counts no miss. With
ARM 3 the generator is never armed (R182). -/
def pgDecide (cy k : Nat) (first : Bool) (P : Pond) : Pond :=
  let g := pgOf P k
  let now : PgSnap := ⟨cy, g.fresh, fld (rg P (0x3B0 + 4 * k)) 0 21, fld (rg P (0x3A0 + 4 * k)) 0 21⟩
  let o := match g.snap with
    | some s => if s.cycle = cy then s else now
    | none => now
  let again := g.armCycle == some cy
  let P0 := if again && g.endCycle != some cy then rinc 0x38C (8 * k) 8 P else P
  let per := if first then o.period else g.period
  let dark : Pg := { g with period := per, armed := false, endCycle := some cy }
  let g' := if fld (pgCfg P k) 3 2 = 3 then dark else match g.held with
    | some d => { g with duty := d, period := per, armed := true, fresh := again, endCycle := some cy }
    | none =>
      if o.fresh then
        { g with duty := o.duty, period := o.period, armed := true, fresh := again, endCycle := some cy }
      else dark
  let g'' := { g' with starts := g.starts + 1 }
  let P1 := rset (0x3C0 + 4 * k) (BitVec.ofNat 32 g''.duty) (pgSet k g'' P0)
  let P2 := if g''.armed && decide (g''.period < g''.duty) then rbit 0x384 (24 + k) P1 else P1
  if !g''.armed && !first && !pgSlave P k then picEvent (16 + k) (rinc 0x388 (8 * k) 8 P2) else P2

/-- A period of generator k begins: forces of cycle mode, the decision, the pin levels, and the
period-start event. -/
def pgBegin (cy k : Nat) (first : Bool) (P : Pond) : Pond :=
  let P1 := pgDecide cy k first (endCycleForce k P)
  pgTrigger k 0 (pgOf P1 k).starts (startLevels k P1)

/-- The first instant of a grid at or after `e`, both in one clock: the grid's instants are `base` plus
the multiples of `per` (R212). -/
def nextInstant (e base : Int) (per : Nat) : Int :=
  let p : Int := max 1 per
  base + ((e - base + p - 1).fdiv p) * p

/-- The period end of generator k (R181, R212): its event, then the next period, or the idle gap
before a moved grid. -/
def periodEnd (cy k : Nat) (P : Pond) : Pond :=
  let g := pgOf P k
  match g.grid with
  | .running =>
    let P1 := if pgSlave P k then P else picEvent (12 + k) P
    let e := g.nom + g.period
    if g.move then
      let n := nextInstant (e + g.org) (g.base + g.baseOrg) g.period - g.baseOrg
      let P2 := pgSet k { pgOf P1 k with
        grid := .waiting true, move := false, drive := false, nom := n.toNat, org := g.baseOrg } P1
      if pgPaired P k then pgDrive (k + 1) false P2 else P2
    else pgBegin cy k false (pgSet k { pgOf P1 k with nom := e } P1)
  | _ => P

/-- The first period of a grid, or the first after an idle gap, begins (R180, R212). -/
def firstPeriod (cy k : Nat) (P : Pond) : Pond :=
  let g := pgOf P k
  match g.grid with
  | .waiting gap => pgBegin cy k (!gap) (pgSet k { g with grid := .running } P)
  | _ => P

/-- An edge of the active period (R183, R184): 0 at t_r, 1 at t_f, 2 at t_r + DT_RISE, 3 at
t_f + DT_FALL; t_f is the compare edge, in a dark period too. -/
def compareEdge (k e : Nat) (P : Pond) : Pond :=
  let g := pgOf P k
  let t := pgTimes P k
  let c := pgCfg P k
  if g.grid != .running || pgSlave P k then P else
  match e with
  | 0 =>
    if !g.armed then P
    else if pgPaired P k then pgDrive (k + 1) false P
    else if t.1 < t.2 then pgDrive k true P else P
  | 1 =>
    let P1 := if g.armed && decide (t.2 < g.period) then pgDrive k false P else P
    let P2 := pgSet k { pgOf P1 k with compares := g.compares + 1 } P1
    pgTrigger k 1 (g.compares + 1) P2
  | 2 =>
    if g.armed && pgPaired P k && decide (t.1 + fld c 8 12 < t.2) then pgDrive k true P else P
  | 3 =>
    if g.armed && pgPaired P k && decide (t.2 + fld c 20 12 < g.period) then pgDrive (k + 1) true P
    else P
  | _ => P

/-- EN from 0 to 1: the grid starts at the next boundary (R180). -/
def pgEnable (k : Nat) (P : Pond) : Pond :=
  let g := pgOf P k
  if g.grid == .stopped && !pgSlave P k then pgSet k { g with grid := .pending } P else P

/-- EN from 1 to 0: pins idle, the period abandoned, fresh cleared, the grid stopped (R185). -/
def pgDisable (k : Nat) (P : Pond) : Pond :=
  if pgSlave P k then P else
  let P1 := pgSet k { pgOf P k with
    grid := .stopped, move := false, fresh := false, armed := false, drive := false } P
  if pgPaired P k then pgDrive (k + 1) false P1 else P1

/-- PG_CFG_k written with EN's effect: a disable acts on the pair as it stood before the store, and a
pin whose pairing ends is idle, as its own generator has no period (R184, R185; assumption 50). -/
def pgSetCfg (k : Nat) (w : Word) (P : Pond) : Pond :=
  let was := bit (pgCfg P k) 0
  let P1 := if was && !bit w 0 then pgDisable k P else P
  let P2 := if pgPaired P k && !bit w 6 && (pgOf P1 (k + 1)).grid != .running then pgDrive (k + 1) false P1
    else P1
  let P3 := rset (0x390 + 4 * k) w P2
  if bit w 0 && !was then pgEnable k P3 else P3

/-- EN of generator k set or cleared. -/
def pgSetEn (k : Nat) (b : Bool) (P : Pond) : Pond := pgSetCfg k (setBit (pgCfg P k) 0 b) P

/-- The model's time of the latest GSS edge less its nominal time, in 62.5 ps units (R180). -/
def gridOrg (epochLen : Nat) (P : Pond) : Int := (16 * P.edgeNs : Nat) - (16 * epochLen * epochOf P : Nat)

/-- The grids that were enabled before this boundary start at its GSS instant plus PG_PHASE_k (R180). -/
def gridStart (epochLen : Nat) (k : Nat) (P : Pond) : Pond :=
  let g := pgOf P k
  if g.grid == .pending then
    let o := fld (rg P (0x3D0 + 4 * k)) 0 21 % (16 * max 1 epochLen)
    let n := 16 * epochLen * epochOf P + o
    let x := gridOrg epochLen P
    pgSet k { g with grid := .waiting false, base := n, nom := n, org := x, baseOrg := x } P
  else P

/-- PERIOD_END of generator k of pond p (R181). -/
def execPeriodEnd (p : PondId) (k : Fin 4) (s : State) : Host.Outcome State Fault Refusal :=
  .next (onPond p (withEdges (periodEnd (pctx s p).cyc k.val)) s)

/-- FIRST_PERIOD_START of generator k of pond p (R180, R212). -/
def execFirstPeriodStart (p : PondId) (k : Fin 4) (s : State) : Host.Outcome State Fault Refusal :=
  .next (onPond p (withEdges (firstPeriod (pctx s p).cyc k.val)) s)

/-- COMPARE_EDGE of generator k of pond p (R183): which edge, 0 to 3. -/
def execCompareEdge (p : PondId) (k : Fin 4) (e : Fin 4) (s : State) :
    Host.Outcome State Fault Refusal :=
  .next (onPond p (withEdges (compareEdge k.val e.val)) s)

/-- PG_PRELOAD: a store to PG_PRELOAD_k lands (R181, R182). -/
def execPgPreload (p : PondId) (k : Fin 4) (v : Word) (s : State) : Host.Outcome State Fault Refusal :=
  .next (onPond p (pgStorePreload (pctx s p).cyc k.val v) s)

/-- CLRFRESH: a write of the mask to PG_CTRL.CLRFRESH (R182). -/
def execClrfresh (p : PondId) (mask : BitVec 4) (s : State) : Host.Outcome State Fault Refusal :=
  .next (onPond p (fun P => (bitsOf 4 mask.toNat).foldl (fun Q k => pgClearFresh (pctx s p).cyc k Q) P) s)

/-- PG_GRID_ENABLE: PG_CFG_k.EN changes from 0 to 1 (R180). -/
def execPgGridEnable (p : PondId) (k : Fin 4) (s : State) : Host.Outcome State Fault Refusal :=
  .next (onPond p (pgSetEn k.val true) s)

/-- PG_GRID_DISABLE: PG_CFG_k.EN changes from 1 to 0 (R185). -/
def execPgGridDisable (p : PondId) (k : Fin 4) (s : State) : Host.Outcome State Fault Refusal :=
  .next (onPond p (withEdges (pgSetEn k.val false)) s)

end Sys2Proof.Machine
end

