-- ==== Sys2Proof/Machine/Lane.lean ====
section
/-! DEFINITION. The loop-engine lanes (chapter 7, section 2): the computation of R187 bit for
bit, references (R190), cascade (R191), and the outputs of LANE_OUTPUT (R189). -/

namespace Sys2Proof.Machine

/-- Lane k. -/
def laneOf (P : Pond) (k : Nat) : Lane := vget P.lane k Lane.reset

/-- Lane k replaced. -/
def laneSet (k : Nat) (l : Lane) (P : Pond) : Pond := { P with lane := vset P.lane k l }

/-- LE_CFG_k. -/
def leCfg (P : Pond) (k : Nat) : Word := rg P (0x418 + 4 * k)

/-- A signed 24-bit word of the coefficient file. -/
def coef24 (l : Lane) (i : Nat) : Int := sfld (l.coef.get i) 0 24

/-- An unsigned 24-bit word of the coefficient file. -/
def coefU (l : Lane) (i : Nat) : Nat := fld (l.coef.get i) 0 24

/-- A 40-bit state held as [31:0] at i and [39:32] at i + 1 (Table 7.7). -/
def state40 (l : Lane) (i : Nat) : Int :=
  sfld (BitVec.ofNat 40 ((l.coef.get i).toNat + 2 ^ 32 * fld (l.coef.get (i + 1)) 0 8)) 0 40

/-- A 40-bit state written. -/
def setState40 (i : Nat) (v : Int) (l : Lane) : Lane :=
  let b : BitVec 40 := BitVec.ofInt 40 v
  { l with coef := (l.coef.set i (b.extractLsb' 0 32)).set (i + 1) ((b.extractLsb' 32 8).setWidth 32) }

/-- p(c, v) = rnd(c × v, 8) of R187. -/
def leProd (c v : Int) : Int := rndI (c * v) 8

/-- A saturated value and whether the clamp acted. -/
def satMark (n : Nat) (v : Int) : Int × Bool := (satI n v, decide (satI n v ≠ v))

/-- One biquad (R187), its coefficients at `c` and states at `q`: the lane, y, and whether it
saturated. -/
def biquad (c q : Nat) (x : Int) (l : Lane) : Lane × Int × Bool :=
  let a := satMark 40 (leProd (coef24 l c) x + state40 l q)
  let y := satMark 24 (rndI a.1 13)
  let s1 := satMark 40 (leProd (coef24 l (c + 1)) x - leProd (coef24 l (c + 3)) y.1 + state40 l (q + 2))
  let s2 := satMark 40 (leProd (coef24 l (c + 2)) x - leProd (coef24 l (c + 4)) y.1)
  (setState40 (q + 2) s2.1 (setState40 q s1.1 l), y.1, a.2 || y.2 || s1.2 || s2.2)

/-- A bit of the clamp marks. -/
def mark (s : Nat) (b : Bool) : Nat := if b then 2 ^ s else 0

/-- The computation of R187 in mode 1 or 2: the lane after it, e, the output (u, or y2 in front
end), D, and the clamp marks. -/
def laneMath (mode : Nat) (r x : Int) (l : Lane) : Lane × Int × Int × Nat × Nat :=
  let e := satMark 24 (r - x * 256)
  let b1 := biquad 0 18 e.1 l
  let b2 := biquad 5 22 b1.2.1 b1.1
  let m := mark 0 e.2 + mark 1 b1.2.2 + mark 2 b2.2.2
  let l2 := b2.1
  let y2 := b2.2.1
  if mode = 2 then (l2, e.1, y2, 0, m) else
  let umin := coef24 l2 12
  let umax := coef24 l2 13
  let i0 := satMark 40 (state40 l2 26 + leProd (coef24 l2 11) y2)
  let i1 := clampI (umin * 8192) (umax * 8192) i0.1
  let v := satMark 40 (leProd (coef24 l2 10) y2 + i1)
  let w := satMark 24 (rndI v.1 13)
  let uc := clampI umin umax w.1
  let slew := (coefU l2 14 : Int)
  let up := coef24 l2 28
  let u := if slew = 0 then uc else clampI (up - slew) (up + slew) uc
  let d0 := rndI (u * (coefU l2 15 : Int)) 24
  let d := clampI 0 (2 ^ 21 - 1) d0
  let l3 := setState40 26 i1 l2
  let l4 := { l3 with coef := l3.coef.set 28 (BitVec.ofNat 32 (fld (BitVec.ofInt 32 u) 0 24)) }
  (l4, e.1, u, d.toNat,
    m + mark 3 (i0.2 || decide (i1 ≠ i0.1)) + mark 4 (v.2 || w.2) + mark 5 (decide (uc ≠ w.1)) +
      mark 6 (decide (u ≠ uc)) + mark 7 (decide (d ≠ d0)))

/-- The output of the latest LE0 computation (R190). -/
def le0Latest (P : Pond) : Int := match (laneOf P 0).hist with | h :: _ => h.out | [] => 0

/-- The effective reference of lane k before any ramp (R190). -/
def effRef (P : Pond) (k : Nat) : Int :=
  let c := leCfg P k
  if k = 1 ∧ bit c 6 then le0Latest P
  else if bit c 5 then sfld (P.rx.get (fld c 8 5)) 0 24
  else sfld (rg P (0x420 + 4 * k)) 0 24

/-- What LE_REF_k reads (R190): the ramped value while RAMP is 1. -/
def leRefView (P : Pond) (k : Nat) : Int :=
  if bit (leCfg P k) 7 then (laneOf P k).ramp.getD (effRef P k) else effRef P k

/-- One step of the ramp toward SAFE_REF (R190). -/
def rampStep (l : Lane) (r : Int) : Int :=
  let safe := coef24 l 16
  let st := (coefU l 17 : Int)
  if st = 0 then safe
  else if r < safe then min safe (r + st) else max safe (r - st)

/-- The core is locked down with LOCKPOLICY.CONTINUE 0: the lanes stop writing preloads (R141). -/
def lanesStopped (P : Pond) : Bool := P.core.run == .locked && !bit (rg P 0x008) 0

/-- Lane k computes on a sample with the reference `r0` chosen for it (R187, R188, R190); the share
correction's clamp marks stage ERR (R213). -/
def laneCompute (k : Nat) (edge : Edge) (aperture : Nat) (x r0 : Int) (P : Pond) : Pond :=
  let c := leCfg P k
  let mode := fld c 0 2
  let l := laneOf P k
  let ramping := bit c 7
  let r1 := if ramping then rampStep l (l.ramp.getD r0) else r0
  let r := satMark 24 (r1 + l.share)
  let z := laneMath mode r.1 x l
  let run : LaneRun := ⟨edge, mode, z.2.1, z.2.2.1, z.2.2.2.1, z.2.2.2.2 ||| mark 0 r.2,
    bit c 4 && !lanesStopped P, fld c 2 2⟩
  laneSet k { z.1 with
    runs := l.runs ++ [run], ramp := if ramping then some r1 else l.ramp,
    hist := (⟨edge, aperture, z.2.2.1⟩ :: l.hist).take 8 } P

/-- A latched slot word names lane k. -/
def slotNames (k : Nat) (w : Word) : Bool := bit w (10 + k)

/-- The slot words converter n would run now (R162): its first LEN slot registers. -/
def convSlots (P : Pond) (n : Nat) : List Word :=
  (List.range (fld (rg P (0x210 + 4 * n)) 25 3 + 1)).map (fun i => rg P (0x220 + 32 * n + 4 * i))

/-- LE0 will still take a sample of this edge: one waits for the edge's boundary, or a burst of the
edge, running or on its way, names it in a slot to come. -/
def le0Awaited (P : Pond) (e : Edge) : Bool :=
  P.laneQ.any (fun x => x.lane == 0 && x.edge == e) ||
  (List.range 2).any (fun n =>
    match P.conv[n]? with
    | none => false
    | some c =>
      (match c.burst with
        | some b => b.edge == e && (b.slots.drop b.next).any (slotNames 0)
        | none => false) ||
      (c.trigs.contains e && (convSlots P n).any (slotNames 0)))

/-- The trigger of the converter that feeds LE0 was refused at this edge (R191). -/
def le0Refused (P : Pond) (e : Edge) : Bool :=
  (List.range 2).any (fun n =>
    match P.conv[n]? with
    | none => false
    | some c => c.refused == some e && (convSlots P n).any (slotNames 0))

/-- LE1 under cascade takes its sample (R191): with LE0's output of the same edge, waiting for it
where LE0 samples the edge, else with the latest output at least 80 ns older; without any it does
not compute. -/
def cascadeSample (edge : Edge) (aperture : Nat) (x : Int) (P : Pond) : Pond :=
  let l0 := laneOf P 0
  match l0.hist.find? (fun h => h.edge == edge) with
  | some h => laneCompute 1 edge aperture x h.out P
  | none =>
    if l0.last == some edge || le0Refused P edge then P
    else if le0Awaited P edge then laneSet 1 { laneOf P 1 with wait := some ⟨edge, aperture, x⟩ } P
    else
      match l0.hist.find? (fun h => decide (h.aperture + 1280 ≤ aperture)) with
      | some h => laneCompute 1 edge aperture x h.out P
      | none => P

/-- A code becomes lane k's sample for its trigger edge (R188, R189, R191). -/
def laneSample (k : Nat) (edge : Edge) (aperture : Nat) (x : Int) (P : Pond) : Pond :=
  let P0 := laneSet k { laneOf P k with last := some edge } P
  let c := leCfg P0 k
  if fld c 0 2 = 0 ∨ fld c 0 2 = 3 then
    if k = 0 then laneSet 1 { laneOf P0 1 with wait := none } P0 else P0
  else if k = 1 then
    if bit c 6 then cascadeSample edge aperture x P0
    else laneCompute 1 edge aperture x (effRef P0 1) P0
  else
    let P1 := laneCompute 0 edge aperture x (effRef P0 0) P0
    match (laneOf P1 1).wait with
    | none => P1
    | some w =>
      let P2 := laneSet 1 { laneOf P1 1 with wait := none } P1
      if w.edge = edge ∧ fld (leCfg P2 1) 0 2 ≠ 0 then
        laneCompute 1 w.edge w.aperture w.code (le0Latest P2) P2
      else P2

/-- The low 24 bits of a signed value as a register word, sign-extended (R202). -/
def word24 (v : Int) : Word := (BitVec.ofInt 24 v).signExtend 32

/-- A lane finishes its oldest computation (R187, R189): outputs, saturation marks, event latch,
PIC sources, and in hardware mode the preload of its generator. -/
def laneOutput (cy k : Nat) (P : Pond) : Pond :=
  let l := laneOf P k
  match l.runs with
  | [] => P
  | z :: rest =>
    let P1 := laneSet k { l with runs := rest } P
    let P2 := rset (0x430 + 4 * k) (word24 z.out) (rset (0x428 + 4 * k) (word24 z.err) P1)
    let P3 := rmod (0x448 + 4 * k) (fun w => w + 1) P2
    let P4 := if z.sat = 0 then P3 else
      let Q := rinc (0x440 + 4 * k) 0 16
        (rmod 0x404 (fun w => w ||| BitVec.ofNat 32 (z.sat * 2 ^ (8 * k))) P3)
      if fld (rg Q 0x400) (8 * k) 8 &&& z.sat = 0 then Q else picEvent (22 + k) Q
    let P5 := if z.mode = 1 then
        let Q := rset (0x438 + 4 * k) (BitVec.ofNat 32 z.duty) P4
        if z.tgtEn then pgLaneWrite cy k z.target z.duty Q else Q
      else P4
    picEvent (20 + k) (latch (2 + k) P5)

/-- A write to LE_REF_k (R190): the value is kept, RAMP cleared, and REF_SRC cleared unless the
block is locked. -/
def leRefWrite (k : Nat) (v : Word) (P : Pond) : Pond :=
  let P1 := rset (0x420 + 4 * k) (BitVec.ofNat 32 (fld v 0 24)) P
  let P2 := rmod (0x418 + 4 * k) (fun c =>
    let c1 := setBit c 7 false
    if bit (rg P1 0x400) 31 then c1 else setBit c1 5 false) P1
  laneSet k { laneOf P2 k with ramp := none } P2

/-- RAMP set on lane k (R190). -/
def setRamp (k : Nat) (P : Pond) : Pond := rbit (0x418 + 4 * k) 7 P

/-- MODE of lane k (R189). -/
def setLaneMode (k m : Nat) (P : Pond) : Pond := rmod (0x418 + 4 * k) (fun c => setFld c 0 2 m) P

/-- The words of the coefficient file that are WL (Table 7.7). -/
def coefLocked (i : Nat) : Bool := decide (i < 18)

/-- A word of the coefficient file as it reads: 24-bit signed words sign-extended. -/
def coefView (l : Lane) (i : Nat) : Word :=
  let w := l.coef.get i
  if i < 14 ∨ i = 16 ∨ i = 28 then (w.setWidth 24).signExtend 32
  else if i < 18 then BitVec.ofNat 32 (fld w 0 24)
  else if i = 19 ∨ i = 21 ∨ i = 23 ∨ i = 25 ∨ i = 27 then BitVec.ofNat 32 (fld w 0 8)
  else if i < 29 then w else 0

/-- The samples that waited for their edge's boundary reach their lanes, in the order in which they came
(R51, R188). -/
def laneDrain : Nat → Pond → Pond
  | 0, P => P
  | n + 1, P =>
    match P.laneQ with
    | [] => P
    | x :: r => laneDrain n (laneSample x.lane x.edge x.aperture x.code { P with laneQ := r })

/-- A word of the coefficient file written; reserved words are ignored. -/
def coefWrite (i : Nat) (v : Word) (l : Lane) : Lane :=
  if 28 < i then l
  else
    let w := if i < 18 ∨ i = 28 then BitVec.ofNat 32 (fld v 0 24)
      else if i = 19 ∨ i = 21 ∨ i = 23 ∨ i = 25 ∨ i = 27 then BitVec.ofNat 32 (fld v 0 8) else v
    { l with coef := l.coef.set i w }

/-- After an access to LE_COEF_DATA, AUTO increments INDEX (Table 7.6). -/
def coefAuto (P : Pond) : Pond :=
  if bit (rg P 0x408) 31 then rmod 0x408 (fun w => setFld w 0 5 (fld w 0 5 + 1)) P else P

/-- The word of the coefficient file that LE_COEF_SEL selects. -/
def coefSelected (P : Pond) : Word :=
  coefView (laneOf P (fld (rg P 0x408) 8 1)) (fld (rg P 0x408) 0 5)

/-- The selected word written; a WL word after LOCK is kept. -/
def coefStore (v : Word) (P : Pond) : Pond :=
  let i := fld (rg P 0x408) 0 5
  let k := fld (rg P 0x408) 8 1
  if coefLocked i && bit (rg P 0x400) 31 then P else laneSet k (coefWrite i v (laneOf P k)) P

/-- LANE_OUTPUT of lane k of pond p (R189). -/
def execLaneOutput (p : PondId) (k : Fin 2) (s : State) : Host.Outcome State Fault Refusal :=
  .next (onPond p (laneOutput (pctx s p).cyc k.val) s)

/-- LE_REF: a write to LE_REF_k lands (R190). -/
def execLeRef (p : PondId) (k : Fin 2) (v : Word) (s : State) : Host.Outcome State Fault Refusal :=
  .next (onPond p (leRefWrite k.val v) s)

end Sys2Proof.Machine
end

