-- ==== Sys2Proof/Machine/Post.lean ====
section
/-! DEFINITION. Message-class packets (chapter 9, sections 2 and 9): headers, posts through a send
port with the discard of R238, the acceptance of the post buffer's oldest post (R124), and the
receiver's classification of a message (R248 to R250, R50, R52). -/

namespace Sys2Proof.Machine

/-- A message header (Table 9.3). -/
def msgHead (dest src len inc apply port kind data0 : Nat) : BitVec 128 :=
  BitVec.ofNat 128 (dest % 128 + 2 ^ 8 * (src % 128) + 2 ^ 18 * (len % 8) + 2 ^ 24 * (inc % 256) +
    2 ^ 32 * (apply % 65536) + 2 ^ 48 * (port % 32) + 2 ^ 53 * (kind % 8) + 2 ^ 64 * (data0 % 2 ^ 64))

/-- A management header (Table 9.4). -/
def mgmtHead (dest src len tag op status addr data : Nat) : BitVec 128 :=
  BitVec.ofNat 128 (dest % 128 + 2 ^ 8 * (src % 128) + 2 ^ 16 + 2 ^ 18 * (len % 8) +
    2 ^ 24 * (tag % 256) + 2 ^ 32 * (op % 256) + 2 ^ 40 * (status % 256) +
    2 ^ 64 * (addr % 2 ^ 32) + 2 ^ 96 * (data % 2 ^ 32))

/-- A sluice is open at an epoch (R238). -/
def slOpenAt (c : PCtx) (n e : Nat) : Bool :=
  c.sl.any (fun r => r.1 == n && decide (r.2.1 ≤ e) &&
    (match r.2.2 with | none => true | some z => decide (e < z)))

/-- Word +0 of a send-port record (Table 9.6). -/
def sendWord (P : Pond) (port : Nat) : Word := P.sendRec.get (2 * port)

/-- The latency of a send port (R48). -/
def sendLat (c : PCtx) (P : Pond) (port : Nat) : Nat :=
  let l := fld (sendWord P port) 0 4
  if l = 0 then c.lat else l

/-- The packet of a post through a send port stamped with a send epoch and an incarnation; none
where the port has no record or its sluice is not open at that epoch (R194, R238). -/
def portPacket (c : PCtx) (P : Pond) (port kind epoch inc data0 : Nat) (body : List (BitVec 128)) :
    Option Packet :=
  let w := sendWord P port
  let head := msgHead (fld w 8 7) c.p body.length inc (epoch + sendLat c P port) port kind data0
  if !bit w 31 then none
  else if bit w 30 then
    if slOpenAt c (fld w 16 8) epoch then some ⟨head, body, some (fld w 16 8), 0⟩ else none
  else some ⟨head, body, none, 0⟩

/-- A packet handed to the pond's stop at a time. -/
def emit (ns : Nat) (k : Packet) (P : Pond) : Pond := { P with out := P.out ++ [{ k with since := ns }] }

/-- Two packets are the same but for their time. -/
def Packet.like (k x : Packet) : Bool := k.head == x.head && k.body == x.body && k.sluice == x.sluice

/-- A post discarded at the source (R238). -/
def discardPost (P : Pond) : Pond := rinc 0x644 0 32 P

/-- The packet of a post of a port (R124, R194). -/
def postPacket (c : PCtx) (P : Pond) (x : Post) : Option Packet :=
  portPacket c P x.port x.kind x.epoch x.inc.toNat x.data.toNat []

/-- A post that leaves the pond in the cycle in which it issued is remembered for that cycle (R43). -/
def keepPost (c : PCtx) (x : Post) (P : Pond) : Pond :=
  let l := P.lastPosts.filter (fun y => y.cyc == c.cyc)
  { P with lastPosts := if x.cyc = c.cyc then l ++ [x] else l }

/-- A post that issued in the pond cycle of a boundary registration belongs to the new epoch (R43). -/
def Post.renew (c : PCtx) (e : Nat) (x : Post) : Post := if x.cyc = c.cyc then { x with epoch := e } else x

/-- The packet of a post that left in this cycle is stamped anew; one whose sluice is not open at the
new epoch is discarded at the source (R43, R238). -/
def restampOut (c : PCtx) (e : Nat) (P : Pond) (x : Post) : Pond :=
  if x.cyc ≠ c.cyc then P else
  match postPacket c P x with
  | none => P
  | some old =>
    match postPacket c P (x.renew c e) with
    | some new => { P with out := modFirst (fun k => k.like old) (fun k => { new with since := k.since }) P.out }
    | none => discardPost { P with out := eraseFirst (fun k => k.like old) P.out }

/-- At the registration of epoch `e`, the posts of the same pond cycle take the new epoch (R43). -/
def restamp (c : PCtx) (e : Nat) (P : Pond) : Pond :=
  let P1 := P.lastPosts.foldl (restampOut c e) P
  { P1 with
    lastPosts := P1.lastPosts.map (Post.renew c e),
    core := { P1.core with pb := P1.core.pb.map (Post.renew c e), stalled := P1.core.stalled.map (Post.renew c e) } }

/-- The oldest post leaves the post buffer (R124): to the Weir, or discarded; a post that stalls
the core then enters the buffer and its store completes. -/
def postAccepted (c : PCtx) (P : Pond) : Pond :=
  match P.core.pb with
  | [] => P
  | x :: r =>
    if P.life.incWait then P else
    let P1 := { P with core := { P.core with pb := r } }
    let P2 := match postPacket c P x with
      | none => discardPost P1
      | some k => rmod 0x64C (fun w => w + 1) (keepPost c x (emit c.ns k P1))
    match P2.core.stalled with
    | none => P2
    | some y =>
      retire 1 (waited c { P2 with core := { P2.core with pb := P2.core.pb ++ [y], stalled := none } })

/-- POST_ACCEPTED by pond p (R124). -/
def execPostAccepted (p : PondId) (s : State) : Host.Outcome State Fault Refusal :=
  .next (onPond p (postAccepted (pctx s p)) s)

/-! ### Receiving -/

/-- Fields of a message header (Table 9.3). -/
def Packet.dest (k : Packet) : Nat := fld k.head 0 7
/-- SRC endpoint. -/
def Packet.src (k : Packet) : Nat := fld k.head 8 7
/-- CLASS. -/
def Packet.cls (k : Packet) : Nat := fld k.head 16 2
/-- LEN. -/
def Packet.len (k : Packet) : Nat := fld k.head 18 3
/-- INC of a message, TAG of a management packet. -/
def Packet.tag (k : Packet) : Nat := fld k.head 24 8
/-- APPLY of a message. -/
def Packet.apply (k : Packet) : Nat := fld k.head 32 16
/-- OP of a management packet. -/
def Packet.op (k : Packet) : Nat := fld k.head 32 8
/-- STATUS of a management response. -/
def Packet.status (k : Packet) : Nat := fld k.head 40 8
/-- SENDPORT of a message. -/
def Packet.sendPort (k : Packet) : Nat := fld k.head 48 5
/-- KIND of a message. -/
def Packet.kind (k : Packet) : Nat := fld k.head 53 3
/-- DATA0 of a message. -/
def Packet.data0 (k : Packet) : BitVec 64 := k.head.extractLsb' 64 64
/-- ADDR of a management packet. -/
def Packet.addr (k : Packet) : Nat := fld k.head 64 32
/-- DATA of a management packet. -/
def Packet.data (k : Packet) : Word := k.head.extractLsb' 96 32
/-- Payload bytes, in order. -/
def Packet.bytes (k : Packet) : List Byte := k.body.flatMap (fun f => leBytes f.toNat 16)

/-- The apply epoch with these low 16 bits nearest the current epoch C: from C − 32,767 to
C + 32,768 (section 5 of chapter 2). -/
def applyEpoch (c low : Nat) : Int :=
  let lo : Int := (c : Int) - 32767
  lo + ((low : Int) - lo).emod 65536

/-- The receive port bound to a source and a send port (R248). -/
def boundRx (P : Pond) (src port : Nat) : Option Nat :=
  (List.range 32).find? (fun n =>
    let w := P.recvRec.get n
    bit w 31 && fld w 8 7 == src && fld w 0 5 == port)

/-- A late message: counted, reported with the next energy post, its port marked (R52). -/
def countLate (rx : Option Nat) (P : Pond) : Pond :=
  let P1 := picEvent 55 (rinc 0x654 8 24 P)
  { P1 with
    tap := { P1.tap with lateNew := P1.tap.lateNew + 1 },
    lateRx := match rx with | some n => setBit P1.lateRx n true | none => P1.lateRx }

/-- A rejected message (R50). -/
def countReject (P : Pond) : Pond := picEvent 56 (rinc 0x654 0 8 P)

/-- The position of a pond in the group's configured list: its member index. -/
def memberIx (P : Pond) (p : Nat) : Option Nat :=
  let i := P.grp.config.idxOf p
  if i < P.grp.config.length then some i else none

/-- An exchange message read from its packet (Table 8.2). -/
def exchOf (k : Packet) (apply : Nat) : Exch :=
  let b := k.bytes
  { idx := fld (BitVec.ofNat 32 (leAt b 0x0C 4)) 8 4, send := 0, apply := apply, cword := k.data0,
    cfgVer := BitVec.ofNat 32 (leAt b 0 4), imageVer := BitVec.ofNat 32 (leAt b 4 4),
    share := BitVec.ofNat 32 (leAt b 8 4), info := BitVec.ofNat 32 (leAt b 0x0C 4) }

/-- The stop keeps the incarnation of a source: a receive port or a group slot is bound to it (R249). -/
def keepsInc (P : Pond) (src : Nat) : Bool :=
  (List.range 32).any (fun n => bit (P.recvRec.get n) 31 && fld (P.recvRec.get n) 8 7 == src) ||
  (memberIx P src).isSome

/-- A post, handover or exchange message reaches its pond (R248 to R250, R50, R206): filtered by
incarnation, rejected, late, or held for its apply epoch; of several for one port and one epoch, the
boundary takes the last (R51). -/
def acceptMsg (k : Packet) (P : Pond) : Pond :=
  let c := epochOf P
  let a := applyEpoch c k.apply
  let ix := if k.kind = 2 then memberIx P k.src else none
  let rx := if k.kind = 2 then none else boundRx P k.src k.sendPort
  let here := if k.kind = 2 then ix.isSome else rx.isSome
  if k.src < 64 && decide ((P.incTab.get k.src).toNat ≠ k.tag) && keepsInc P k.src then rinc 0x648 0 32 P
  else if !here then countReject P
  else if a ≤ (c : Int) then countLate rx P
  else if (c : Int) + 9 < a then countReject P
  else
    let an := a.toNat
    match rx with
    | some n => { P with held := P.held ++ [⟨n, k.src, BitVec.ofNat 8 k.tag, an, k.data0⟩] }
    | none =>
      let e := exchOf k an
      let e := { e with idx := ix.getD 0 }
      { P with grp := { P.grp with slots := P.grp.slots ++ [e] } }

end Sys2Proof.Machine
end

