-- ==== Sys2Proof/Machine/Groups.lean ====
section
/-! DEFINITION. Phase groups (chapter 8): the exchange message and its consensus word (R205, R208),
the verdict (R209), hold and shed (R210, R211), phase offsets (R212), current share (R213), start
and stop (R214, R215). -/

namespace Sys2Proof.Machine

/-- IMAGE_VER of the header in a bank (Table 14.12); 0 where the header does not read. -/
def imageVerOf (P : Pond) (bank : Bool) : Word :=
  match (pflArr P).read (0x40000 * b2n bank + 0x3FE0C) 4 with
  | some l => BitVec.ofNat 32 (ofLe l)
  | none => 0

/-- The group generators of this pond (R204): PGRP_CFG.PGMASK. -/
def groupGens (P : Pond) : List Nat := bitsOf 4 (fld (rg P 0x5C0) 24 4)

/-- The rank of a pond among the current members (R203). -/
def groupRank (P : Pond) (p : Nat) : Nat := (P.grp.members.filter (fun n => decide (n < p))).length

/-- The phase offset of generator k for rank i of n members (R212), in 62.5 ps units. -/
def groupOffset (len : Nat) (P : Pond) (k i n : Nat) : Nat :=
  let g := pgOf P k
  let per := match g.grid with
    | .running | .waiting true => g.period
    | _ => fld (rg P (0x3A0 + 4 * k)) 0 21
  (fld (rg P (0x3D0 + 4 * k)) 0 21 + i * per / max 1 n) % (16 * max 1 len)

/-- The grid of generator k moves to its group offset, from the present boundary (R212, R180); one
that waits in the gap of an earlier move waits for the new grid's next instant. -/
def groupMove (c : PCtx) (k : Nat) (P : Pond) : Pond :=
  let g := pgOf P k
  let o := groupOffset c.epochLen P k (groupRank P c.p) P.grp.members.length
  let b := 16 * c.epochLen * epochOf P + o
  let x := gridOrg c.epochLen P
  match g.grid with
  | .running => pgSet k { g with base := b, baseOrg := x, move := true } P
  | .pending => pgSet k { g with grid := .waiting false, base := b, nom := b, org := x, baseOrg := x } P
  | .waiting true =>
    pgSet k { g with
      base := b, nom := 16 * c.epochLen * epochOf P + o % max 1 g.period, org := x, baseOrg := x } P
  | .waiting false => pgSet k { g with base := b, nom := b, org := x, baseOrg := x } P
  | .stopped => P

/-- The grids of a started or re-formed group move at the boundary set for it (R212, R214). -/
def groupGrids (c : PCtx) (P : Pond) : Pond :=
  let e := epochOf P
  let P1 := if P.grp.startAt == some e then (groupGens P).foldl (fun Q k => pgSetEn k true Q) P else P
  if P.grp.startAt == some e || P.grp.moveAt == some e then
    let P2 := (groupGens P1).foldl (fun Q k => groupMove c k Q) P1
    { P2 with grp := { P2.grp with startAt := none, moveAt := none } }
  else P1

/-! ### The exchange -/

/-- The image version running from the present boundary: the other bank's where a swap has become due,
also while it still waits for its stop point (R217, R404). -/
def groupImageVer (P : Pond) : Word :=
  imageVerOf P (if P.life.swapDue.isSome then !P.pfl.bank else P.pfl.bank)

/-- CWORD for send epoch S (R208, Table 8.3). -/
def consensusWord (cfgVer imageVer : Word) (s : Nat) (members : List Nat) (group st : Nat) :
    BitVec 64 :=
  BitVec.ofNat 64 (ofLe ((sha384 (leBytes cfgVer.toNat 4 ++ leBytes imageVer.toNat 4 ++ leBytes s 8 ++
    leBytes (maskOf 64 (fun n => members.contains n)) 8 ++ [BitVec.ofNat 8 group, BitVec.ofNat 8 st] ++
    [0, 0])).take 8))

/-- The SHARE word of the exchange (R205). -/
def shareWord (P : Pond) : Word :=
  let code := if bit (rg P 0x5C0) 14 then P.gssPrev.b else P.gssPrev.a
  match code with
  | none => 0x80000000
  | some v =>
    if v = 0x8000 then 0x80000000
    else BitVec.ofNat 32 (fld (BitVec.ofInt 32 (v.toInt * 256)) 0 24)

/-- The exchange message of this member for the present boundary (Table 8.2). -/
def ownExchange (c : PCtx) (P : Pond) : Exch :=
  let s := epochOf P
  let ix := (memberIx P c.p).getD 0
  let cfg := rg P 0x5C4
  let img := groupImageVer P
  { idx := ix, send := s, apply := s + sendLat c P P.grp.sendPort,
    cword := consensusWord cfg img s P.grp.members P.grp.num P.grp.st,
    cfgVer := cfg, imageVer := img, share := shareWord P,
    info := BitVec.ofNat 32 (2 ^ 28 * P.grp.st + 2 ^ 16 * P.life.inc.toNat + 256 * ix + b2n P.alignB) }

/-- The payload flits of an exchange message after its word. -/
def exchBody (e : Exch) : List (BitVec 128) :=
  [BitVec.ofNat 128 (e.cfgVer.toNat + 2 ^ 32 * e.imageVer.toNat + 2 ^ 64 * e.share.toNat +
    2 ^ 96 * e.info.toNat), 0]

/-- EXCHANGE_POST at a boundary (R205); none at the boundary at which the pond's reset begins
(R216). -/
def groupPost (c : PCtx) (P : Pond) : Pond :=
  let st := P.grp.st
  if (st == 1 || st == 2 || st == 5) && !P.life.incWait && P.life.resetEnd.isNone then
    let e := ownExchange c P
    let P1 := { P with grp := { P.grp with
      slots := (P.grp.slots.filter (fun h => !(h.idx == e.idx && h.apply == e.apply))) ++ [e] } }
    match portPacket c P1 P.grp.sendPort 2 e.send P.life.inc.toNat e.cword.toNat (exchBody e) with
    | none => discardPost P1
    | some k => emit c.ns k P1
  else P

/-- The exchange messages of the present boundary take their group slots (R206, R207). -/
def groupApply (P : Pond) : Pond :=
  let e := epochOf P
  let now := P.grp.slots.filter (fun h => h.apply == e)
  { P with grp := { P.grp with
      slots := P.grp.slots.filter (fun h => decide (e < h.apply)),
      applied := now.foldl (fun l h => l.filter (fun x => x.idx != h.idx) ++ [h]) P.grp.applied } }

/-- The message of member pond n applied at the present boundary. -/
def groupMsg (P : Pond) (n : Nat) : Option Exch :=
  P.grp.applied.find? (fun h => h.apply == epochOf P && h.idx == P.grp.config.idxOf n)

/-! ### The verdict -/

/-- The lanes of this pond whose target is a group generator (R215). -/
def groupLanes (P : Pond) : List Nat :=
  [0, 1].filter (fun k => bit (leCfg P k) 4 && (groupGens P).contains (fld (leCfg P k) 2 2))

/-- Every share correction ends. -/
def clearShare (P : Pond) : Pond := { P with lane := P.lane.map (fun l => { l with share := 0 }) }

/-- Every hold of this pond's generators ends. -/
def clearHeld (P : Pond) : Pond := { P with pg := P.pg.map (fun g => { g with held := none }) }

/-- The state of the group block. -/
def groupSt (st stop : Nat) (P : Pond) : Pond := { P with grp := { P.grp with st := st, stop := stop } }

/-- GROUP_STOP (R215): the target lanes ramp, and the member enters STOPPED. -/
def groupStop (reason : Nat) (P : Pond) : Pond :=
  let P1 := (groupLanes P).foldl (fun Q k => setRamp k Q) P
  picEvent 51 (groupSt 3 reason (clearHeld (clearShare
    { P1 with grp := { P1.grp with moveAt := none, startAt := none } })))

/-- The word that more than half of the list sent, if any (section 4). -/
def majorityWord (l : List (Option (BitVec 64))) : Option (BitVec 64) :=
  (l.filterMap id).find? (fun w => decide (l.length < 2 * (l.filter (fun x => x == some w)).length))

/-- The word that the most members sent; the first of the list among equals (R214). -/
def mostWord (l : List (Option (BitVec 64))) : Option (BitVec 64) :=
  let count (w : BitVec 64) : Nat := (l.filter (fun x => x == some w)).length
  (l.filterMap id).foldl (fun a w =>
    match a with
    | none => some w
    | some v => if count v < count w then some w else a) none

/-- DISAGREE counted, with its event (R209). -/
def groupDisagree (P : Pond) : Pond := picEvent 49 (rinc 0x5D0 0 8 P)

/-- The share correction of R213 from the agreeing members' shares and the own share. -/
def shareCorrection (ks : Int) (shares : List Int) (own : Int) : Int :=
  let n : Int := shares.length
  if shares.isEmpty then 0 else
  let m := (2 * shares.foldl (· + ·) 0 + n).fdiv (2 * n)
  satI 24 (rndI (ks * (m - own)) 21)

/-- The signed share of a message; none where it is absent. -/
def shareOf (e : Exch) : Option Int := if bit e.share 31 then none else some (sfld e.share 0 24)

/-- SHARE_CORRECTION at the verdict of a running member (R213). -/
def groupShare (p : Nat) (maj : BitVec 64) (held : Bool) (P : Pond) : Pond :=
  let w := rg P 0x5C0
  let P0 := clearShare P
  if !bit w 15 || P.grp.st != 2 || held then P0 else
  let shares := P.grp.members.filterMap (fun n =>
    match groupMsg P n with
    | some e => if e.cword = maj then shareOf e else none
    | none => none)
  match (groupMsg P p).bind shareOf with
  | none => P0
  | some own =>
    let k := fld w 13 1
    laneSet k { laneOf P0 k with share := shareCorrection (sfld (rg P 0x5D4) 0 24) shares own } P0

/-- HOLD and release of this pond's group generators (R210). -/
def groupHold (held agrees : Bool) (P : Pond) : Pond :=
  (groupGens P).foldl (fun Q k =>
    let g := pgOf Q k
    if held then
      pgSet k { g with held := some (g.held.getD (if Q.grp.st = 5 then g.duty else g.agreed)) } Q
    else pgSet k { g with held := none, agreed := if agrees then g.duty else g.agreed } Q) P

/-- This member is shed (R211): its group generators stop, and it takes no further part. -/
def groupShed (P : Pond) : Pond :=
  groupSt 4 0 (clearHeld (clearShare ((groupGens P).foldl (fun Q k => pgSetEn k false Q)
    { P with grp := { P.grp with moveAt := none } })))

/-- Members shed at this boundary leave the current set, with the event of R211; the others' offsets
follow at the next boundary (R212). -/
def groupLeave (gone : List Nat) (P : Pond) : Pond :=
  if gone.isEmpty then P
  else picEvent 50 { P with grp := { P.grp with
    members := P.grp.members.filter (fun n => !gone.contains n), moveAt := some (epochOf P + 1) } }

/-- A REJOIN member whose first own post has not applied yet cannot tell that no majority exists (R216;
assumption 49). -/
def groupBlind (c : PCtx) (P : Pond) : Bool :=
  P.grp.st == 5 && !P.grp.applied.any (fun e => e.idx == (memberIx P c.p).getD 0)

/-- The verdict of R209 at a boundary of a running or rejoining member: timebase sheds, majority,
holds, sheds, and the stop that stands in for sheds that leave fewer than two. -/
def runVerdict (c : PCtx) (P : Pond) : Pond :=
  let cur := P.grp.members
  let word (n : Nat) : Option (BitVec 64) := (groupMsg P n).map (·.cword)
  let aligned := cur.filter (fun n => match groupMsg P n with | some e => bit e.info 0 | none => false)
  let rest := cur.filter (fun n => !aligned.contains n)
  let words := rest.map word
  let all := cur.map word
  let P1 := if all.any (fun w => w.isNone || w != all.headD none) then groupDisagree P else P
  match majorityWord words with
  | none =>
    if groupBlind c P then P1
    else if rest.length < 2 then groupStop 1 P1
    else
      let P2 := groupLeave aligned P1
      if aligned.contains c.p then groupShed P2 else groupStop 1 P2
  | some maj =>
    let ix (n : Nat) : Nat := P.grp.config.idxOf n
    let hold (n : Nat) : Nat := if word n = some maj then 0 else P.grp.holds.getD (ix n) 0 + 1
    let lim := fld (rg P 0x5C0) 16 6 + 1
    let gone := aligned ++ rest.filter (fun n => decide (lim < hold n))
    let left := cur.filter (fun n => !gone.contains n)
    let P2 := { P1 with grp := { P1.grp with
      holds := P.grp.config.zipIdx.map (fun x =>
        if rest.contains x.1 then hold x.1 else P.grp.holds.getD x.2 0) } }
    if !gone.isEmpty && decide (left.length < 2) then groupStop 3 P2 else
    let P3 := groupLeave gone P2
    if gone.contains c.p then groupShed P3
    else
      let own := hold c.p
      groupShare c.p maj (decide (0 < own)) (groupHold (decide (0 < own)) (decide (own = 0)) P3)

/-- The verdict of the start boundary G + L (R214). -/
def startVerdict (c : PCtx) (P : Pond) : Pond :=
  let msgs := P.grp.members.filterMap (fun n => groupMsg P n)
  let word (n : Nat) : Option (BitVec 64) := (groupMsg P n).map (·.cword)
  let words := P.grp.members.map word
  let P1 := if words.any (fun w => w.isNone || w != words.headD none) then groupDisagree P else P
  let same := msgs.all (fun e => match msgs with
    | [] => true
    | f :: _ => e.cfgVer == f.cfgVer && e.imageVer == f.imageVer)
  let fail (r : Nat) : Pond := picEvent 51 (groupSt 3 r P1)
  if !same then fail 2 else
  match mostWord words with
  | none => fail 3
  | some w =>
    let left := P.grp.members.filter (fun n => word n == some w)
    if left.length < 2 then fail 3
    else if !left.contains c.p then
      groupSt 0 0 { P1 with grp := { P1.grp with members := left } }
    else
      groupHold false true (groupSt 2 0 { P1 with grp := { P1.grp with
        members := left, holds := P.grp.config.map (fun _ => 0),
        startAt := some (epochOf P + 1) } })

/-- A posting state is entered with the members in service (R203). -/
def groupJoin (st : Nat) (P : Pond) : Pond :=
  groupSt st 0 { P with grp := { P.grp with members := P.grp.live, holds := P.grp.config.map (fun _ => 0) } }

/-- FORMING is entered at G by a started member; a member that starts later rejoins (R214). -/
def groupEnter (P : Pond) : Pond :=
  match P.grp.start with
  | none => P
  | some g =>
    if P.grp.st ≠ 0 || !P.life.started || !bit (rg P 0x5C0) 0 || P.life.resetEnd.isSome then P
    else if P.epoch = some g then groupJoin 1 P
    else P

/-- A pond that starts or restarts after its group's start epoch posts REJOIN (R216). -/
def groupRejoin (P : Pond) : Pond :=
  match P.grp.start, P.epoch with
  | some g, some e => if bit (rg P 0x5C0) 0 && decide (g < e) then groupJoin 5 P else P
  | _, _ => P

/-- VERDICT at a boundary (R207), for a member that has a verdict there. -/
def groupVerdict (c : PCtx) (P : Pond) : Pond :=
  match P.grp.st with
  | 1 =>
    if P.epoch = P.grp.start.map (· + sendLat c P P.grp.sendPort) then
      picEvent 48 (startVerdict c P)
    else P
  | 2 => picEvent 48 (runVerdict c P)
  | 5 => picEvent 48 (runVerdict c P)
  | _ => P

/-- GROUP_CONFIGURE at a pond of the named group (R298): a new run with G the present boundary. -/
def groupBegin (members : List Nat) (port : Nat) (P : Pond) : Pond :=
  clearHeld (clearShare { P with grp := { Grp.reset with
    config := members, live := members, start := P.epoch, sendPort := port, num := fld (rg P 0x5C0) 28 3 } })

/-- A current member of a group: it takes part in the run, or was stopped with it (Table 8.5). -/
def groupCurrent (P : Pond) : Bool := P.grp.st == 1 || P.grp.st == 2 || P.grp.st == 3 || P.grp.st == 5

/-- The run of the pond's group ends: a current member's exchange and share correction end and its state
becomes 0; one that was shed keeps its state (R298). -/
def groupEnd (P : Pond) : Pond :=
  let g := if groupCurrent P then Grp.reset else { Grp.reset with st := P.grp.st, stop := P.grp.stop }
  clearHeld (clearShare { P with grp := g })

end Sys2Proof.Machine
end

