-- ==== Sys2Proof/Machine/Cvu.lean ====
section
/-! DEFINITION. The check-value units (chapter 15): feeding, finishing and the words behind
CVU_DATA, the same for pond and Shore units. -/

namespace Sys2Proof.Machine

/-- The width w of a configuration word (Table 15.4). -/
def cvuWidth (cfg : Word) : Nat := fld cfg 0 6 + 1

/-- Bytes fed to a unit (R408, R410). -/
def Cvu.feed (cfg : Word) (l : List Byte) (u : Cvu) : Cvu :=
  let w := cvuWidth cfg
  { u with
    v := BitVec.ofNat 64 (crcFeed w u.poly.toNat (bit cfg 16) (u.v.toNat % 2 ^ w) l),
    count := u.count + BitVec.ofNat 32 l.length }

/-- START (R408). -/
def Cvu.start (cfg : Word) (u : Cvu) : Cvu :=
  { u with v := BitVec.ofNat 64 (u.init.toNat % 2 ^ cvuWidth cfg), count := 0 }

/-- The output of a unit (R408). -/
def Cvu.output (cfg : Word) (u : Cvu) : Nat :=
  crcOut (cvuWidth cfg) (bit cfg 17) (bit cfg 18) u.v.toNat

/-- Whether FINISH compares, and whether the output equals EXPECT (R413). -/
def Cvu.matches (cfg : Word) (u : Cvu) : Bool :=
  decide (u.output cfg = u.expect.toNat % 2 ^ cvuWidth cfg)

/-- FINISH: the output goes to RESULT (R413). -/
def Cvu.finish (cfg : Word) (u : Cvu) : Cvu := { u with result := BitVec.ofNat 64 (u.output cfg) }

/-- A change of the configuration word: a reduced width clears the bits of V above it (R409). -/
def Cvu.recfg (cfg : Word) (u : Cvu) : Cvu :=
  { u with v := BitVec.ofNat 64 (u.v.toNat % 2 ^ cvuWidth cfg) }

/-- Word `i` behind CVU_DATA (Table 15.5). -/
def Cvu.word (u : Cvu) (i : Nat) : Word :=
  match i with
  | 0 => u.poly.extractLsb' 0 32
  | 1 => u.poly.extractLsb' 32 32
  | 2 => u.init.extractLsb' 0 32
  | 3 => u.init.extractLsb' 32 32
  | 4 => u.v.extractLsb' 0 32
  | 5 => u.v.extractLsb' 32 32
  | 6 => u.expect.extractLsb' 0 32
  | 7 => u.expect.extractLsb' 32 32
  | 8 => u.result.extractLsb' 0 32
  | 9 => u.result.extractLsb' 32 32
  | 10 => u.count
  | _ => 0

/-- Words 0 to 3 are WL (Table 15.5). -/
def cvuWordLocked (i : Nat) : Bool := decide (i < 4)

/-- Word `i` behind CVU_DATA written; V keeps only its w bits (R408). -/
def Cvu.setWord (cfg : Word) (i : Nat) (x : Word) (u : Cvu) : Cvu :=
  let hi (d : BitVec 64) := setFld d 32 32 x.toNat
  let lo (d : BitVec 64) := setFld d 0 32 x.toNat
  match i with
  | 0 => { u with poly := lo u.poly }
  | 1 => { u with poly := hi u.poly }
  | 2 => { u with init := lo u.init }
  | 3 => { u with init := hi u.init }
  | 4 => Cvu.recfg cfg { u with v := lo u.v }
  | 5 => Cvu.recfg cfg { u with v := hi u.v }
  | 6 => { u with expect := lo u.expect }
  | 7 => { u with expect := hi u.expect }
  | _ => u

/-- The configuration word of pond unit k. -/
def cvuCfg (P : Pond) (k : Nat) : Word := rg P (0x548 + 4 * k)

/-- A pond unit replaced by a function of itself. -/
def cvuMod (k : Nat) (f : Cvu → Cvu) (P : Pond) : Pond :=
  { P with cvu := vset P.cvu k (f (vget P.cvu k Cvu.reset)) }

/-- Bytes fed to pond unit k. -/
def cvuFeed (k : Nat) (l : List Byte) (P : Pond) : Pond := cvuMod k (Cvu.feed (cvuCfg P k) l) P

/-- START of pond unit k. -/
def cvuStart (k : Nat) (P : Pond) : Pond := cvuMod k (Cvu.start (cvuCfg P k)) P

/-- FINISH of pond unit k: RESULT, DONE with its event, and the comparison (R413). -/
def cvuFinish (k : Nat) (P : Pond) : Pond :=
  let cfg := cvuCfg P k
  let u := vget P.cvu k Cvu.reset
  let P1 := picEvent (40 + k) (rbit 0x544 (8 * k) (cvuMod k (Cvu.finish cfg) P))
  if bit cfg 19 then
    if u.matches cfg then rbit 0x544 (8 * k + 1) P1
    else picEvent (42 + k) (rbit 0x544 (8 * k + 2) P1)
  else P1

/-- A BCRC is running on this unit: pokes to it are held (R412). -/
def cvuBusy (P : Pond) (k : Nat) : Bool :=
  match P.core.long with
  | some l => l.op == 0x39#6 && l.unit == k
  | none => false

end Sys2Proof.Machine
end

