-- ==== Sys2Proof/Machine/Events.lean ====
section
/-! DEFINITION. Comparators (chapter 6, section 5), fault and GPIO pins, capture units and event
timers (chapter 7, sections 5 to 7). -/

namespace Sys2Proof.Machine

/-- Comparator n replaced. -/
def cmpSet (n : Nat) (c : Cmp) (P : Pond) : Pond := { P with cmp := vset P.cmp n c }

/-- CMP_CTRL_n. -/
def cmpCtrl (P : Pond) (n : Nat) : Word := rg P (0x300 + 4 * n)

/-- A trip (R174). -/
def cmpTrip (n : Nat) (P : Pond) : Pond :=
  let c := cmpOf P n
  let m : BitVec 4 := BitVec.ofNat 4 (fld (cmpCtrl P n) 20 4)
  picEvent (10 + n) (rinc 0x314 (16 * n) 16 (rbit 0x310 n
    (cmpSet n { c with force := c.force ||| m, done := true } P)))

/-- The threshold of comparator n in units of 1/1024 nV: CODE × 2.5 V / 1,024 (R173). -/
def cmpLevel (P : Pond) (n : Nat) : Int := sfld (rg P (0x308 + 4 * n)) 0 10 * 2500000000

/-- The nominal hysteresis in the same units: 0, 5, 10 or 20 mV (R173). -/
def cmpHyst (P : Pond) (n : Nat) : Int := 1024 * 1000000 * [0, 5, 10, 20].getD (fld (cmpCtrl P n) 4 2) 0

/-- A voltage in nV at the watched input lies beyond the threshold: above it with POL 0, below it with
POL 1 (R173). -/
def cmpBeyond (P : Pond) (n : Nat) (nv : Int) : Bool :=
  if bit (cmpCtrl P n) 6 then decide (1024 * nv < cmpLevel P n) else decide (cmpLevel P n < 1024 * nv)

/-- The voltage lies back past the threshold by the hysteresis (R173). -/
def cmpBack (P : Pond) (n : Nat) (nv : Int) : Bool :=
  if bit (cmpCtrl P n) 6 then decide (cmpLevel P n + cmpHyst P n < 1024 * nv)
  else decide (1024 * nv < cmpLevel P n - cmpHyst P n)

/-- The filtered output of comparator n is active, its input at a voltage beyond the threshold: it
trips outside blanking, once for each time the output becomes active. -/
def cmpActive (n : Nat) (nv : Int) (P : Pond) : Pond :=
  if !bit (cmpCtrl P n) 0 || !cmpBeyond P n nv then P else
  let P1 := cmpSet n { cmpOf P n with out := true } P
  if (cmpOf P n).blank || (cmpOf P n).done then P1 else cmpTrip n P1

/-- Blanking ends (R174). -/
def cmpBlankEnd (n : Nat) (P : Pond) : Pond :=
  let c := cmpOf P n
  let P1 := cmpSet n { c with blank := false } P
  if c.blank && c.out && !c.done then cmpTrip n P1 else P1

/-- The output becomes inactive, its input back past the threshold and the hysteresis (R173). -/
def cmpInactive (n : Nat) (nv : Int) (P : Pond) : Pond :=
  if !cmpBack P n nv then P else
  cmpSet n { cmpOf P n with out := false, done := false } P

/-- A write of 1 to TRIPPED_n (R176, R13): nothing while the output is active; else the bit
clears, and a latched force ends. -/
def trippedClear (n : Nat) (P : Pond) : Pond :=
  let c := cmpOf P n
  if c.out then P else
  let P1 := rmod 0x310 (fun w => setBit w n false) P
  if bit (cmpCtrl P n) 7 then P1 else cmpSet n { c with force := 0 } P1

/-- CMP_TRIP: the voltage at a comparator's input has kept its output active past its filter (R173, R174). -/
def execCmpTrip (p : PondId) (x : CmpInput) (s : State) : Host.Outcome State Fault Refusal :=
  .next (onPond p (withEdges (cmpActive x.n.val x.nv)) s)

/-- BLANKING_END of comparator n of pond p (R174). -/
def execBlankingEnd (p : PondId) (n : Fin 2) (s : State) : Host.Outcome State Fault Refusal :=
  .next (onPond p (withEdges (cmpBlankEnd n.val)) s)

/-- CMP_OUTPUT_INACTIVE of a comparator of pond p with the voltage at its input (R173). -/
def execCmpOutputInactive (p : PondId) (x : CmpInput) (s : State) : Host.Outcome State Fault Refusal :=
  .next (onPond p (cmpInactive x.n.val x.nv) s)

/-- TRIPPED_CLEAR: a write of the mask to CMP_STATUS.TRIPPED (R176). -/
def execTrippedClear (p : PondId) (mask : BitVec 2) (s : State) : Host.Outcome State Fault Refusal :=
  .next (onPond p (withEdges (fun P =>
    (bitsOf 2 mask.toNat).foldl (fun Q n => trippedClear n Q) P)) s)

/-! ### Pins -/

/-- The level of pin i: FLT_0, FLT_1, GPIO_0, GPIO_1; a GPIO pin with its output enabled shows what
it drives (R201). -/
def pinLevel (P : Pond) (i : Nat) : Bool :=
  let w := rg P 0x500
  if 2 ≤ i ∧ bit w (14 + i) then bit w (16 + i) else bit P.cap.pins i

/-- FLT_n's active level (Table 7.10 FLT_POL). -/
def fltActive (P : Pond) (n : Nat) : Bool := pinLevel P n != bit (rg P 0x500) (28 + n)

/-- The PIC source of an edge on pin i (R199). -/
def edgeSource (i : Nat) : Nat := if i = 2 then 61 else if i = 3 then 62 else 63

/-- An edge selection 0 none, 1 rise, 2 fall, 3 both. -/
def edgeSelected (sel : Nat) (rise : Bool) : Bool := if rise then sel % 2 == 1 else decide (2 ≤ sel)

/-- FIFO i. -/
def capFifo (P : Pond) (i : Nat) : List Word := vget P.cap.fifo i []

/-- An edge appears on pin i, `sub` ns into a pond cycle (R198, R199): captured where selected, with the
timebase copy to 1 ns, and its PIC source. -/
def pinEdge (sub i : Nat) (rise : Bool) (P : Pond) : Pond :=
  let w := rg P 0x500
  let P1 :=
    if !edgeSelected (fld w (2 * i) 2) rise then P
    else if 4 ≤ (capFifo P i).length then picEvent (36 + i) (rbit 0x504 (28 + i) P)
    else
      let e : Word := BitVec.ofNat 32 (2 ^ 31 + 2 ^ 30 * b2n rise + (tbNow sub P).toNat % 2 ^ 30)
      picEvent (32 + i) (latch 6 { P with cap := { P.cap with
        fifo := vset P.cap.fifo i (capFifo P i ++ [e]) } })
  if edgeSelected (fld w (8 + 2 * i) 2) rise then picEvent (edgeSource i) P1 else P1

/-- The level driven on pin i from outside changes. -/
def pinDrive (sub i : Nat) (level : Bool) (P : Pond) : Pond :=
  let was := pinLevel P i
  let P1 := { P with cap := { P.cap with pins := setBit P.cap.pins i level } }
  if pinLevel P1 i != was then pinEdge sub i level P1 else P1

/-- The force of FLT_n (R200). -/
def fltForce (n : Nat) (P : Pond) : Pond :=
  let m : BitVec 4 := BitVec.ofNat 4 (fld (rg P 0x500) (20 + 4 * n) 4)
  let P1 := rbit 0x504 (24 + n) P
  if n = 0 then { P1 with cap := { P1.cap with force0 := P1.cap.force0 ||| m } }
  else { P1 with cap := { P1.cap with force1 := P1.cap.force1 ||| m } }

/-- A write of 1 to FLT_FORCED_n (R200). -/
def fltClear (n : Nat) (P : Pond) : Pond :=
  if fltActive P n then P else
  let P1 := rmod 0x504 (fun w => setBit w (24 + n) false) P
  if n = 0 then { P1 with cap := { P1.cap with force0 := 0 } }
  else { P1 with cap := { P1.cap with force1 := 0 } }

/-- FLT_ACTIVE: FLT_n of pond p is at its active level (R200). -/
def execFltActive (p : PondId) (n : Fin 2) (s : State) : Host.Outcome State Fault Refusal :=
  .next (onPond p (withEdges (fun P => if fltActive P n.val then fltForce n.val P else P)) s)

/-- FLT_FORCED_CLEAR: a write of the mask to CAP_STATUS.FLT_FORCED (R200). -/
def execFltForcedClear (p : PondId) (mask : BitVec 2) (s : State) : Host.Outcome State Fault Refusal :=
  .next (onPond p (withEdges (fun P =>
    (bitsOf 2 mask.toNat).foldl (fun Q n => fltClear n Q) P)) s)

/-- CAPTURE_EDGE: pin i of pond p changes to a level (R198, R199). -/
def execCaptureEdge (p : PondId) (i : Fin 4) (level : Bool) (s : State) :
    Host.Outcome State Fault Refusal :=
  .next (onPond p (pinDrive (pctx s p).sub i.val level) s)

/-- A core load of CAP_DATA_i (R199). -/
def capPop (i : Nat) (P : Pond) : Word × Pond :=
  match capFifo P i with
  | [] => (0, P)
  | w :: r => (w, { P with cap := { P.cap with fifo := vset P.cap.fifo i r } })

/-- CAP_DATA: a core load of CAP_DATA_i; its value goes to `rdata` (R199). -/
def execCapData (p : PondId) (i : Fin 4) (s : State) : Host.Outcome State Fault Refusal :=
  let r := capPop i.val (pondOf s p)
  .next { onPond p (fun _ => r.2) s with rdata := r.1 }

/-! ### Event timers -/

/-- A store to ET_CMP_HI_k (R197): bit 31 arms or disarms. -/
def etHi (k : Nat) (v : Word) (P : Pond) : Pond := rset (0x4A0 + 4 * k) v P

/-- A store to ET_CMP_LO_k disarms (R197). -/
def etLo (k : Nat) (v : Word) (P : Pond) : Pond :=
  rmod (0x4A0 + 4 * k) (fun w => setBit w 31 false) (rset (0x480 + 4 * k) v P)

/-- Timer k is armed and its compare value has passed (R196). -/
def etDue (P : Pond) (k : Nat) : Bool :=
  let hi := rg P (0x4A0 + 4 * k)
  let c : BitVec 64 := BitVec.ofNat 64 (2 ^ 32 * fld hi 0 31 + (rg P (0x480 + 4 * k)).toNat)
  bit hi 31 && decide ((P.tb - c).toNat < 2 ^ 63)

/-- Timer k fires if it is due (R196). -/
def etFire (k : Nat) (P : Pond) : Pond :=
  if etDue P k then picEvent (24 + k) (rmod (0x4A0 + 4 * k) (fun w => setBit w 31 false) P) else P

/-- ET_CMP_HI: a store to ET_CMP_HI_k of pond p (R197). -/
def execEtCmpHi (p : PondId) (k : Fin 8) (v : Word) (s : State) : Host.Outcome State Fault Refusal :=
  .next (onPond p (etHi k.val v) s)

/-- ET_CMP_LO: a store to ET_CMP_LO_k of pond p (R197). -/
def execEtCmpLo (p : PondId) (k : Fin 8) (v : Word) (s : State) : Host.Outcome State Fault Refusal :=
  .next (onPond p (etLo k.val v) s)

/-- ET_FIRE of timer k of pond p (R196). -/
def execEtFire (p : PondId) (k : Fin 8) (s : State) : Host.Outcome State Fault Refusal :=
  .next (onPond p (etFire k.val) s)

end Sys2Proof.Machine
end

