-- ==== Sys2Proof/Machine/Sampling.lean ====
section
/-! DEFINITION. The converters (chapter 6, sections 2 to 4): triggers, bursts, slot results with
their destinations, calibration and cover, the window handover (R194), and the tap's products
(R168, R314). -/

namespace Sys2Proof.Machine

/-- Converter n: 0 ADCA, 1 ADCB. -/
def convOf (P : Pond) (n : Nat) : Conv := vget P.conv n Conv.reset

/-- Converter n replaced. -/
def convSet (n : Nat) (c : Conv) (P : Pond) : Pond := { P with conv := vset P.conv n c }

/-- A GSS edge whose boundary the pond has not registered yet. -/
def edgeAhead (P : Pond) (e : Edge) : Bool :=
  e.kind == .gss && (match P.epoch with | none => true | some g => decide (g < e.num))

/-- The calibration of a converter as it stands for an edge: a GSS edge that the pond has not
registered already sees the calibration that begins or ends at its boundary (R169). -/
def calAt (P : Pond) (n : Nat) (e : Edge) : Option Bool :=
  let c := convOf P n
  let ahead := edgeAhead P e
  match c.cal with
  | some r => if ahead && r.endEp == some e.num then none else some r.cover
  | none => if ahead then c.calReq else none

/-- ADCB stands in for ADCA at this edge (R171). -/
def coverAt (P : Pond) (e : Edge) : Bool := calAt P 0 e == some true

/-! ### The energy tap's edges -/

/-- The converter of a named code: v at [4], i at [12] of ADC_TAP_SEL. -/
def tapConv (P : Pond) (i : Bool) : Nat := fld (rg P 0x278) (if i then 12 else 4) 1

/-- The slot of a named code. -/
def tapSlot (P : Pond) (i : Bool) : Nat := fld (rg P 0x278) (if i then 8 else 0) 3

/-- Converter n is named by the tap. -/
def tapNames (P : Pond) (n : Nat) : Bool := bit (rg P 0x278) 31 && (tapConv P false == n || tapConv P true == n)

/-- One product of the tap (R314): p × dt × TAP_K, to the epoch of its edge. -/
def tapProduct (len : Nat) (o : TapOpen) (v i : Int) (t : Tap) : Tap :=
  let far := match t.prev with | none => false | some q => decide (q + 2 ^ 27 < o.edge.nom)
  let dt : Nat := match t.prev with | none => 0 | some q => min (o.edge.nom - q) (2 ^ 27)
  { t with
    prev := some o.edge.nom, gaps := t.gaps + b2n far,
    pend := t.pend ++ [(o.edge.nom / (16 * max 1 len), v * i * (dt : Int) * (t.k : Int))] }

/-- Both named codes of an edge are ready and none is missing. -/
def TapOpen.whole (o : TapOpen) : Bool := !o.miss && o.v.isSome && o.i.isSome

/-- The tap's products formed in the order of their edges, while the oldest edge that misses no code is
complete. -/
def tapDrain (len : Nat) : Nat → Tap → Tap
  | 0, t => t
  | n + 1, t =>
    match t.opened.find? (fun o => !o.miss) with
    | none => t
    | some o =>
      match o.v, o.i with
      | some v, some i =>
        tapDrain len n (tapProduct len o v i { t with opened := t.opened.filter (fun x => x.edge != o.edge) })
      | _, _ => t

/-- A change of the tap's entry for an edge, opened if it is new, and then the complete edges. An edge
that comes to miss a code counts as one gap; its entry stays, so that its other code opens it no second
time (R168). -/
def tapEdge (len : Nat) (e : Edge) (f : TapOpen → TapOpen) (P : Pond) : Pond :=
  let t := P.tap
  let l := if t.opened.any (fun o => o.edge == e) then t.opened
    else t.opened ++ [⟨e, none, none, false⟩]
  let l1 := l.map (fun o => if o.edge == e then f o else o)
  let lost := (l1.filter (fun o => o.miss)).length - (l.filter (fun o => o.miss)).length
  { P with tap := tapDrain len l1.length { t with opened := l1, gaps := t.gaps + lost } }

/-- A reset cuts the edges that still wait for a code: they form no product and are no gap, since
R168 names other causes; the next product is the first (R314). -/
def tapCut (len : Nat) (t : Tap) : Tap :=
  let l := t.opened.filter TapOpen.whole
  { tapDrain len l.length { t with opened := l } with opened := [], prev := none }

/-- The trigger of converter n at an edge was refused, or its named slots lie beyond LEN, or it
is a software burst: the named codes are missing (R168, R314). -/
def tapTrigger (len n : Nat) (e : Edge) (slots : Nat) (P : Pond) : Pond :=
  if !tapNames P n then P else
  let bad (i : Bool) : Bool := tapConv P i == n && decide (slots ≤ tapSlot P i)
  tapEdge len e (fun o => { o with miss := o.miss || e.kind == .sw || bad false || bad true }) P

/-- A code of converter n, slot j reaches the tap, where the edge's trigger has opened an entry. -/
def tapCode (len n j : Nat) (e : Edge) (code : Int) (P : Pond) : Pond :=
  if !bit (rg P 0x278) 31 || !P.tap.opened.any (fun o => o.edge == e) then P else
  let hit (i : Bool) : Bool := tapConv P i == n && tapSlot P i == j
  if hit false || hit true then
    tapEdge len e (fun o => { o with
      v := if hit false then some code else o.v, i := if hit true then some code else o.i }) P
  else P

/-! ### Triggers -/

/-- A half of the latest GSS codes written; the register follows once both are known (Table 6.7). -/
def gssHalf (b : Bool) (code : BitVec 16) (P : Pond) : Pond :=
  let g : GssHalves := if b then { P.gss with b := some code } else { P.gss with a := some code }
  let P1 := { P with gss := g }
  match g.a, g.b with
  | some a, some c => rset 0x290 (BitVec.ofNat 32 (c.toNat * 65536 + a.toNat)) P1
  | _, _ => P1

/-- A refused trigger (R161): an overrun raises ADC_SEQ_OVR, a refusal only counts; the GSS half
then holds 0x8000. -/
def refuse (len n : Nat) (overrun : Bool) (e : Edge) (P : Pond) : Pond :=
  let P1 := if overrun then picEvent 8 (rinc 0x26C (16 * n) 16 P) else rinc 0x270 (16 * n) 16 P
  let P2 := convSet n { convOf P1 n with refused := some e } P1
  let P3 := if e.kind == .gss then gssHalf (n == 1) 0x8000 P2 else P2
  tapTrigger len n e 0 P3

/-- A trigger edge of converter n's own source (R160 to R162, R171): skipped under cover, refused,
or a burst with the configuration in force; ADCB runs ADCA's burst under cover. -/
def trigger (len n : Nat) (e : Edge) (P : Pond) : Pond :=
  let cover := coverAt P e
  if n = 1 ∧ cover then
    let P0 := convSet 1 { convOf P 1 with refused := some e } P
    let P1 := rinc 0x274 16 16 P0
    let P2 := if e.kind == .gss then gssHalf true 0x8000 P1 else P1
    tapTrigger len n e 0 P2
  else if !bit (rg P 0x200) n || !(convOf P n).ready || (calAt P n e).isSome && !(n == 0 && cover)
  then refuse len n false e P
  else
    let x := if n = 0 ∧ cover then 1 else n
    let c := convOf P x
    if decide (e.t < c.busyTill) then refuse len n true e P
    else
      let sl := convSlots P n
      let P1 := convSet x { c with
        burst := some ⟨e, n == 1, sl, 0⟩, busyTill := e.t + 800 * sl.length } P
      tapTrigger len n e sl.length P1

/-- The oldest trigger edge on its way to converter n reaches it. -/
def adcTrigger (len n : Nat) (P : Pond) : Pond :=
  let c := convOf P n
  match c.trigs with
  | [] => P
  | e :: r => trigger len n e (convSet n { c with trigs := r } P)

/-- A software trigger (R160): only where software is the source. -/
def swTrigger (len ns n : Nat) (P : Pond) : Pond :=
  if fld (rg P (0x210 + 4 * n)) 0 3 = 3 then trigger len n ⟨.sw, ns, 16 * ns, 0⟩ P else P

/-! ### Slot results -/

/-- The code of a voltage in nanovolts before the clamp (R158). -/
def rawCode (nv : Int) : Int := (131072 * nv + 2500000000).fdiv 5000000000

/-- ADCA still runs, or is about to run, slots of this edge that name lane k (R165). -/
def adcaNames (P : Pond) (k : Nat) (e : Edge) : Bool :=
  let c := convOf P 0
  let run (x : Conv) : Bool := match x.burst with
    | some b => b.edge == e && !b.owner && b.slots.any (slotNames k)
    | none => false
  run c || (c.trigs.contains e && (convSlots P 0).any (slotNames k))

/-- A slot's code delivered to lane k where the slot names it (R165); a sample of a GSS edge waits until
the pond has registered that edge's boundary, whose messages come first (R51, R188). -/
def toLane (k : Nat) (b : Burst) (w : Word) (code : Int) (P : Pond) : Pond :=
  if !slotNames k w then P
  else if (laneOf P k).last == some b.edge || P.laneQ.any (fun x => x.lane == k && x.edge == b.edge) ||
    (b.owner && adcaNames P k b.edge)
  then rbit 0x204 5 P
  else
    let t := b.edge.t + 800 * b.next
    if edgeAhead P b.edge then { P with laneQ := P.laneQ ++ [⟨k, b.edge, t, code⟩] }
    else laneSample k b.edge t code P

/-- The handover post of the first window trip of an epoch (R194). -/
def handoverPost (c : PCtx) (n : Nat) (P : Pond) : Pond :=
  let w := rg P 0x410
  if bit w 31 && decide (fld w 30 1 = n) && !P.handover then
    let P1 := { P with handover := true }
    let v : BitVec 64 := BitVec.ofInt 64 (sfld w 0 24)
    let x : Post := ⟨3, fld w 24 5, true, v, epochOf P1, P1.life.inc, c.cyc⟩
    match postPacket c P1 x with
    | none => discardPost P1
    | some k => rinc 0x414 0 16 (keepPost c x (emit c.ns k P1))
  else P

/-- The window check of converter n (R166). -/
def windowCheck (c : PCtx) (n : Nat) (code : Int) (P : Pond) : Pond :=
  let w := rg P (0x260 + 4 * n)
  if sfld w 16 16 < code ∨ code < sfld w 0 16 then
    handoverPost c n (picEvent (6 + n) (rbit 0x268 n P))
  else P

/-- An entry of the capture buffer (R167): stored, or dropped and counted. -/
def captureStore (n j : Nat) (cover : Bool) (code : BitVec 16) (P : Pond) : Pond :=
  if !bit (rg P 0x27C) 0 then P
  else if 2048 ≤ P.cbuf.length then rinc 0x280 16 16 P
  else
    let w : Word := BitVec.ofNat 32 (2 ^ 31 * n + 2 ^ 28 * j + 2 ^ 27 * b2n cover +
      2 ^ 26 * b2n (!P.cbufFirst) + code.toNat)
    { P with cbuf := P.cbuf ++ [(w, epochOf P)], cbufFirst := true }

/-- The code of the next slot of converter x's burst is ready (R158, R164 to R168). -/
def slotResult (c : PCtx) (x : Nat) (nv : Int) (P : Pond) : Pond :=
  match (convOf P x).burst with
  | none => P
  | some b =>
    match b.slots[b.next]? with
    | none => convSet x { convOf P x with burst := none } P
    | some w =>
      let n := b2n b.owner
      let j := b.next
      let raw := rawCode nv
      let code := clampI (-32767) 32767 raw
      let bits : BitVec 16 := BitVec.ofInt 16 code
      let P1 := if code = raw then P else rbit 0x294 (fld w 0 3) P
      let P2 := rmod (0x220 + 32 * n + 4 * j) (fun r => setFld r 16 16 bits.toNat) P1
      let P3 := rset (0x218 + 4 * n) (BitVec.ofNat 32 (65536 * j + bits.toNat)) P2
      let P4 := rmod (0x298 + 4 * n) (fun r => r + 1) P3
      let P5 := toLane 1 b w code (toLane 0 b w code P4)
      let P6 := if bit w 13 then windowCheck c n code P5 else P5
      let P7 := if bit w 14 then captureStore n j (!b.owner && x == 1) bits P6 else P6
      let P8 := if bit w 12 then picEvent (4 + n) (latch n P7) else P7
      let P9 := if j = 0 ∧ b.edge.kind = .gss then gssHalf b.owner bits P8 else P8
      let P10 := tapCode c.epochLen n j b.edge code P9
      convSet x { convOf P10 x with
        burst := if j + 1 < b.slots.length then some { b with next := j + 1 } else none } P10

/-! ### Calibration -/

/-- A converter's burst is cut short: its named codes still to come are missing (R168, R172), and a
lane that waits for one takes no sample of the edge (R191). -/
def cutBurst (len x : Nat) (P : Pond) : Pond :=
  match (convOf P x).burst with
  | none => P
  | some b =>
    let n := b2n b.owner
    let P1 := convSet x { convOf P x with burst := none } P
    tapTrigger len n b.edge b.next (convSet n { convOf P1 n with refused := some b.edge } P1)

/-- A calibration is recorded or runs. -/
def calAny (c : Conv) : Bool := c.calReq.isSome || c.cal.isSome

/-- A cover-mode calibration of ADCA is recorded or runs. -/
def coverAny (P : Pond) : Bool :=
  let c := convOf P 0
  c.calReq == some true || (match c.cal with | some r => r.cover | none => false)

/-- A write to ADC_CAL (R169): ignored in whole in the four cases, else recorded. -/
def calRequest (v : Word) (P : Pond) : Pond :=
  let a := bit v 0
  let b := bit v 1
  let cov := bit v 8
  if (a && calAny (convOf P 0)) || (b && calAny (convOf P 1)) ||
    (cov && (calAny (convOf P 1) || b)) || (b && coverAny P) then P
  else
    let P1 := if a then convSet 0 { convOf P 0 with calReq := some cov } P else P
    if b then convSet 1 { convOf P1 1 with calReq := some false } P1 else P1

/-- N_C (R169). -/
def calEpochs (len : Nat) : Nat := (1536000 + len - 1) / max 1 len

/-- RECALIBRATION_BEGIN at the boundary of epoch `e` (R169, R171, R172). -/
def calBegin (len e n : Nat) (P : Pond) : Pond :=
  let c := convOf P n
  match c.calReq with
  | none => P
  | some cov =>
    let P1 := cutBurst len n (convSet n { c with
      calReq := none, cal := some ⟨some (e + calEpochs len), cov, none⟩ } P)
    if cov then rbit 0x274 0 P1 else P1

/-- The result of a calibration taken over (R170): RES and FIDX, and the new set if it passed. -/
def calApply (n : Nat) (epoch : Word) (r : CalRes) (P : Pond) : Pond :=
  let P1 := rmod 0x20C (fun w => setFld (setFld w (8 * n) 2 r.res) (8 * n + 4) 4 r.fidx) P
  if r.res = 0 then
    rset (0x288 + 4 * n) epoch (convSet n { convOf P1 n with factors := r.factors } P1)
  else P1

/-- The return to service at the boundary of epoch `e` (R169, R170). -/
def calReturn (e n : Nat) (P : Pond) : Pond :=
  let c := convOf P n
  match c.cal with
  | none => P
  | some r =>
    if r.endEp ≠ some e then P else
    let P1 := convSet n { c with cal := none } P
    let P2 := match r.res with | some x => calApply n (BitVec.ofNat 32 e) x P1 | none => P1
    picEvent 9 (if r.cover then rmod 0x274 (fun w => setBit w 0 false) P2 else P2)

/-- A factor lies within its limit (Table 6.5). -/
def factorOk (i : Nat) (w : Word) : Bool :=
  if i = 1 then decide (97 * 2 ^ 31 ≤ 100 * w.toNat) && decide (100 * w.toNat ≤ 103 * 2 ^ 31)
  else
    let lim : Int := if i = 0 then 16384 else 1024
    decide (-lim ≤ w.toInt) && decide (w.toInt ≤ lim)

/-- The outcome of the measurements (R170, Table 6.7): reference not settled, the first failing
factor, or a pass. -/
def calResult (settled : Bool) (f : List Word) : CalRes :=
  let fs := (List.range 12).map (fun i => f.getD i 0)
  if !settled then ⟨2, 0, fs⟩
  else
    match (List.range 12).find? (fun i => !factorOk i (fs.getD i 0)) with
    | some i => ⟨1, i, fs⟩
    | none => ⟨0, 0, fs⟩

/-- The measurements of converter n end (R170): at device start the result acts at once, and the
converter accepts triggers once it passed; at run time it waits for the return to service. -/
def calEnd (n : Nat) (r : CalRes) (P : Pond) : Pond :=
  let c := convOf P n
  match c.cal with
  | none => P
  | some q =>
    match q.endEp with
    | some _ => convSet n { c with cal := some { q with res := some r } } P
    | none =>
      let P1 := calApply n 0 r (convSet n { c with cal := none, ready := true } P)
      if r.res = 0 then P1 else { P1 with life := { P1.life with nostart := true, calFail := true } }

/-- ADC_TRIGGER: the oldest trigger edge reaches converter n of pond p (R160, R161). -/
def execAdcTrigger (p : PondId) (n : Fin 2) (s : State) : Host.Outcome State Fault Refusal :=
  .next (onPond p (adcTrigger (pctx s p).epochLen n.val) s)

/-- SWTRIG: a store of the mask to ADC_CTRL.SWTRIG_A and _B (R160). -/
def execSwtrig (p : PondId) (mask : BitVec 2) (s : State) : Host.Outcome State Fault Refusal :=
  .next (onPond p (fun P => (bitsOf 2 mask.toNat).foldl
    (fun Q n => swTrigger (pctx s p).epochLen s.ns n Q) P) s)

/-- SLOT_RESULT: the next slot's code of converter x of pond p, from a voltage in nanovolts
(R158, R164). -/
def execSlotResult (p : PondId) (x : Fin 2) (nv : Int) (s : State) : Host.Outcome State Fault Refusal :=
  .next (onPond p (slotResult (pctx s p) x.val nv) s)

/-- ADC_CAL: a write to ADC_CAL (R169). -/
def execAdcCal (p : PondId) (v : Word) (s : State) : Host.Outcome State Fault Refusal :=
  .next (onPond p (calRequest v) s)

/-- CBUF_CLEAR: a write of CLEAR to ADC_CBUF_CTRL (R167). -/
def execCbufClear (p : PondId) (s : State) : Host.Outcome State Fault Refusal :=
  .next (onPond p (fun P => { P with cbuf := [] }) s)

/-- A core load of ADC_CBUF_DATA (R167): pops the oldest entry unless a stream owns the buffer. -/
def cbufPop (P : Pond) : Word × Pond :=
  if bit (rg P 0x27C) 31 then (0, P)
  else match P.cbuf with
    | [] => (0, P)
    | w :: r => (w.1, { P with cbuf := r })

/-- ADC_CBUF_DATA: a core load of the register; its value goes to `rdata` (R167). -/
def execAdcCbufData (p : PondId) (s : State) : Host.Outcome State Fault Refusal :=
  let r := cbufPop (pondOf s p)
  .next { onPond p (fun _ => r.2) s with rdata := r.1 }

end Sys2Proof.Machine
end

