-- ==== Sys2Proof/Machine/Sideband.lean ====
section
/-! DEFINITION. The sideband controller (chapter 16): commands and their refusals, transactions
from what the targets answer, arbitration loss and timeout, recovery rounds, the alert. -/

namespace Sys2Proof.Machine

/-- SB_STATUS with a field replaced. -/
def sbFld (lo len v : Nat) (P : Pond) : Pond := rmod 0x584 (fun w => setFld w lo len v) P

/-- The controller's own state replaced. -/
def sbMod (f : Sb → Sb) (P : Pond) : Pond := { P with sb := f P.sb }

/-- Every transaction and refusal ends so (R428). -/
def sbEnd (result : Nat) (P : Pond) : Pond :=
  let P1 := sbMod (fun b => { b with cmd := none, started := false }) P
  let P2 := picEvent 44 (latch 7 (sbFld 16 4 result (sbFld 21 1 1 (sbFld 31 1 0 P1))))
  if result = 0 then P2 else picEvent 45 P2

/-- The segments of a group command (R424): an address with bit 0 clear, a length of at least 1,
and the data; none where they do not fill the bytes exactly. -/
def sbSegments : Nat → List Byte → Option (List (Byte × List Byte))
  | _, [] => some []
  | 0, _ => none
  | n + 1, a :: l =>
    match l with
    | [] => none
    | len :: r =>
      if bit a 0 || len == 0 || decide (r.length < len.toNat) then none
      else (sbSegments n (r.drop len.toNat)).map (fun t => (a, r.take len.toNat) :: t)

/-- Transmit bytes 0 to WLEN − 1. -/
def sbTx (P : Pond) (n : Nat) : List Byte := P.sb.tx.bytes 0 n

/-- A malformed command (R426). -/
def sbMalformed (P : Pond) (w : Word) : Bool :=
  let kind := fld w 30 2
  let rlen := fld w 19 9
  let wlen := fld w 10 9
  decide (2 ≤ kind) || decide (256 < rlen) || decide (256 < wlen) || (bit w 28 && decide (rlen = 0)) ||
    (decide (kind = 1) && (decide (rlen ≠ 0) || (sbSegments wlen (sbTx P wlen)).isNone))

/-- A recovery round is in progress (R432). -/
def sbRecovering (now : Nat) (P : Pond) : Bool := P.sb.roundAt.any (fun t => decide (t ≤ now))

/-- tBUF in ns (Table 16.3). -/
def sbBuf (P : Pond) : Nat := [4700, 1300, 500].getD (fld (rg P 0x580) 4 2) 4700

/-- The bus after a STOP: free once tBUF has passed (R427). -/
def sbStop (now : Nat) (P : Pond) : Pond :=
  sbMod (fun b => { b with bus := some (now + sbBuf P, some (now + sbBuf P)) }) P

/-- A write to SB_CMD (R423 to R426). -/
def sbCmdWrite (now : Nat) (w : Word) (P : Pond) : Pond :=
  let st := rg P 0x584
  if !bit (rg P 0x580) 0 then P
  else if bit st 31 then sbFld 22 1 1 P
  else if bit st 29 || sbRecovering now P then sbEnd 7 P
  else if sbMalformed P w then sbEnd 9 P
  else sbFld 31 1 1 (sbMod (fun b => { b with cmd := some w, started := false }) P)

/-- START is sent once the bus is free (R427): no sooner than its times admit. -/
def sbStart (now : Nat) (P : Pond) : Pond :=
  if P.sb.cmd.isSome && !P.sb.started && P.sb.bus.any (fun x => decide (x.1 ≤ now)) then
    sbMod (fun b => { b with started := true, bus := none }) P
  else P

/-- The bytes the controller sends, each with whether it is an address byte, and the last PEC it
computes for the write side. -/
def sbSent (P : Pond) (w : Word) : List (Bool × Byte) × List Byte :=
  let pec := bit w 29
  let wlen := fld w 10 9
  let addr (rw : Nat) : Byte := BitVec.ofNat 8 (2 * fld w 1 7 + rw)
  let close (l : List Byte) : List Byte := if pec then l ++ [BitVec.ofNat 8 (crc8 l)] else l
  if fld w 30 2 = 1 then
    let segs := (sbSegments wlen (sbTx P wlen)).getD []
    let parts := segs.map (fun s => close (s.1 :: s.2))
    (parts.flatMap (fun l => match l with | [] => [] | a :: r => (true, a) :: r.map (fun b => (false, b))),
      (parts.getLast?).getD [])
  else if wlen = 0 ∧ fld w 19 9 = 0 then ([(true, addr (fld w 0 1))], [])
  else
    let ws := if wlen = 0 then [] else close (addr 0 :: sbTx P wlen)
    let wl := match ws with | [] => [] | a :: r => (true, a) :: r.map (fun b => (false, b))
    (wl ++ (if fld w 19 9 = 0 then [] else [(true, addr 1)]), ws)

/-- The last byte of a list, or 0. -/
def lastByte (l : List Byte) : Nat := (l.getLastD 0).toNat

/-- A transaction ends as its targets answered (R423 to R425, R428): `nack` is the position, among
the bytes the controller sends, of the first one not acknowledged; `rx` the bytes read, 0xFF past
its end; `pec` the PEC byte read. -/
def sbTransaction (now : Nat) (nack : Option Nat) (rx : List Byte) (pec : Byte) (P : Pond) : Pond :=
  match P.sb.cmd with
  | none => P
  | some w =>
    if !P.sb.started then P else
    let sent := sbSent P w
    let free (Q : Pond) : Pond := sbStop now Q
    let count (n : Nat) (Q : Pond) : Pond := sbFld 0 9 n Q
    match nack.bind (fun i => sent.1[i]?) with
    | some b => free (sbEnd (if b.1 then 1 else 2) (count 0 P))
    | none =>
      let P1 := if bit w 29 && !sent.2.isEmpty then
        rmod 0x598 (fun r => setFld r 0 8 (lastByte sent.2)) P else P
      let rlen := fld w 19 9
      if rlen = 0 ∨ fld w 30 2 = 1 then free (sbEnd 0 (count 0 P1))
      else
        let byte (i : Nat) : Byte := rx.getD i 0xFF
        let c := (byte 0).toNat
        let tooLong := bit w 28 && decide (rlen < c + 1)
        let n := if tooLong then rlen else if bit w 28 then c + 1 else rlen
        let got := (List.range n).map byte
        let P2 := count n (sbMod (fun b => { b with rx := b.rx.setBytes 0 got }) P1)
        if tooLong then free (sbEnd 6 P2)
        else if !bit w 29 then free (sbEnd 0 P2)
        else
          let line := sent.2 ++ [BitVec.ofNat 8 (2 * fld w 1 7 + 1)] ++ got
          let own := crc8 line
          let P3 := rset 0x598 (BitVec.ofNat 32 (256 * pec.toNat + own)) P2
          free (sbEnd (if own = pec.toNat then 0 else 4) P3)

/-- What had been received when a transaction was cut short (assumption 38): of a read that had started, a free
number of bytes, each free. -/
def sbCut (P : Pond) : Pond :=
  match P.sb.cmd with
  | none => P
  | some w =>
    let n := if P.sb.started && fld w 30 2 == 0 then (freeNow P).toNat % (fld w 19 9 + 1) else 0
    let got := (List.range n).map (fun i => Config.freeByte (65536 * P.fresh + i))
    useFree (sbFld 0 9 n (sbMod (fun b => { b with rx := b.rx.setBytes 0 got }) P))

/-- A new sequence of recovery rounds starts (R432, R433). -/
def sbSequence (now : Nat) (P : Pond) : Pond :=
  rmod 0x594 (fun w => setFld w 8 4 0) (sbMod (fun b =>
    { b with roundAt := some now, left := some (fld (rg P 0x594) 0 4), resetTill := none, bus := none }) P)

/-- The lines are released, and recovery starts while EN is 1 (R431, R432). -/
def sbRecover (now : Nat) (P : Pond) : Pond :=
  if bit (rg P 0x580) 0 then sbSequence now P
  else sbMod (fun b => { b with roundAt := none, left := none, resetTill := none, bus := none }) P

/-- A controller reset (R431): any transaction ends with RESET. -/
def sbReset (now : Nat) (P : Pond) : Pond :=
  sbRecover now (if P.sb.cmd.isSome then sbEnd 8 (sbCut P) else P)

/-- EN changes (R432; section 3). -/
def sbSetEn (now : Nat) (b : Bool) (P : Pond) : Pond :=
  let was := bit (rg P 0x580) 0
  let P1 := rmod 0x580 (fun w => setBit w 0 b) P
  if b && !was then sbSequence now P1
  else if was && !b && P.sb.cmd.isSome then sbReset now P1
  else P1

/-- The transaction loses arbitration (R429): when the other controller frees the bus is not known. -/
def sbArbLost (now : Nat) (P : Pond) : Pond :=
  if P.sb.cmd.isSome && P.sb.started then
    sbEnd 3 (rinc 0x59C 8 8 (sbMod (fun b => { b with sda := false, bus := some (now, none) }) (sbCut P)))
  else P

/-- SCL was held low for 25 ms (R430). -/
def sbTimeout (now : Nat) (P : Pond) : Pond :=
  if P.sb.cmd.isSome && P.sb.started && bit (rg P 0x580) 7 then
    sbRecover now (sbEnd 5 (rinc 0x59C 0 8 (sbCut P)))
  else P

/-- A recovery round ends (R432, R433): SCL stayed low, or SDA was high after `pulses` clocks (0:
at once; none: still low after the ninth). The next round follows a failed one after 35 ms. -/
def sbRound (now : Nat) (sclLow : Bool) (pulses : Option (Fin 10)) (P : Pond) : Pond :=
  if !sbRecovering now P then P else
  let ok := !sclLow && pulses.isSome
  let acted := ok && (match pulses with | some k => decide (k.val ≠ 0) | none => false)
  let P1 := rmod 0x594 (fun w => incFld w 8 4 1) (sbMod (fun b =>
    { b with scl := !sclLow, sda := ok }) P)
  let P2 := sbFld 20 1 (b2n sclLow) P1
  let done (Q : Pond) : Pond := sbMod (fun b => { b with roundAt := none, left := none }) Q
  if ok then
    let P3 := done (sbFld 28 2 0 P2)
    if acted then sbStop now (rinc 0x59C 24 8 (sbFld 23 1 1 P3))
    else sbMod (fun b => { b with bus := some (now, some (now + 50000)) }) P3
  else
    let P3 := picEvent 47 (rinc 0x59C 16 8 (sbFld 29 1 1 P2))
    match P.sb.left with
    | some (n + 1) => sbMod (fun b => { b with roundAt := some (now + 35000000), left := some n }) P3
    | some 0 =>
      let l := rg P 0x594
      if bit l 31 then
        sbMod (fun b => { b with resetTill := some (now + 1000 * max 1 (fld l 16 8)) }) (done P3)
      else sbFld 28 1 1 (done P3)
    | none => sbFld 28 1 1 (done P3)

/-- The SB_RESET_N pulse ends, and the final round follows after 1 ms (R433). -/
def sbPulseEnd (now : Nat) (P : Pond) : Pond :=
  match P.sb.resetTill with
  | some t =>
    if t ≤ now then sbMod (fun b => { b with resetTill := none, roundAt := some (now + 1000000), left := none }) P else P
  | none => P

/-- SB_ALERT_N changes level (R434). -/
def sbAlert (asserted : Bool) (P : Pond) : Pond :=
  let was := bit (rg P 0x584) 26
  let P1 := sbFld 26 1 (b2n asserted) P
  if asserted && !was then picEvent 46 P1 else P1

/-- The word that SB_BUF_SEL selects. -/
def sbBufWord (P : Pond) : Word :=
  let i := fld (rg P 0x58C) 0 7
  BitVec.ofNat 32 (ofLe (if i < 64 then P.sb.tx.bytes (4 * i) 4 else P.sb.rx.bytes (4 * (i - 64)) 4))

/-- AUTO increments INDEX after each access to SB_BUF_DATA (Table 16.5). -/
def sbBufAuto (P : Pond) : Pond :=
  if bit (rg P 0x58C) 31 then rmod 0x58C (fun w => setFld w 0 7 (fld w 0 7 + 1)) P else P

/-- The selected word written: ignored while BUSY, and for the receive words. -/
def sbBufStore (v : Word) (P : Pond) : Pond :=
  let i := fld (rg P 0x58C) 0 7
  if bit (rg P 0x584) 31 || decide (64 ≤ i) then P
  else sbMod (fun b => { b with tx := b.tx.setBytes (4 * i) (leBytes v.toNat 4) }) P

/-- SB_CMD: a write of the word to SB_CMD of pond p (R423, R426). -/
def execSbCmd (p : PondId) (w : Word) (s : State) : Host.Outcome State Fault Refusal :=
  .next (onPond p (sbCmdWrite s.ns w) s)

/-- GROUP_COMMAND: a write to SB_CMD with KIND 1 (R424). -/
def execGroupCommand (p : PondId) (w : Word) (s : State) : Host.Outcome State Fault Refusal :=
  .next (onPond p (sbCmdWrite s.ns (setFld w 30 2 1)) s)

/-- SB_START of pond p (R427). -/
def execSbStart (p : PondId) (s : State) : Host.Outcome State Fault Refusal :=
  .next (onPond p (sbStart s.ns) s)

/-- SB_TRANSACTION_END: the transaction ends as the targets answered (R428). -/
def execSbTransactionEnd (p : PondId) (nack : Option Nat) (rx : List Byte) (pec : Byte) (s : State) :
    Host.Outcome State Fault Refusal :=
  .next (onPond p (sbTransaction s.ns nack rx pec) s)

/-- ARB_LOST (R429). -/
def execArbLost (p : PondId) (s : State) : Host.Outcome State Fault Refusal :=
  .next (onPond p (sbArbLost s.ns) s)

/-- SB_TIMEOUT (R430). -/
def execSbTimeout (p : PondId) (s : State) : Host.Outcome State Fault Refusal :=
  .next (onPond p (sbTimeout s.ns) s)

/-- SB_CONTROLLER_RESET: a store of SB_CTRL.RESET, with a write to SB_CMD in the same cycle or
not (R431). -/
def execSbControllerReset (p : PondId) (withCmd : Bool) (s : State) :
    Host.Outcome State Fault Refusal :=
  .next (onPond p (fun P => if withCmd then sbFld 22 1 1 (sbReset s.ns P) else sbReset s.ns P) s)

/-- SB_EN: EN of SB_CTRL is written (R432). -/
def execSbEn (p : PondId) (b : Bool) (s : State) : Host.Outcome State Fault Refusal :=
  .next (onPond p (sbSetEn s.ns b) s)

/-- RECOVERY_ROUND of pond p (R432, R433). -/
def execRecoveryRound (p : PondId) (sclLow : Bool) (pulses : Option (Fin 10)) (s : State) :
    Host.Outcome State Fault Refusal :=
  .next (onPond p (sbRound s.ns sclLow pulses) s)

/-- SB_RESET_N_RELEASE of pond p (R433). -/
def execSbResetNRelease (p : PondId) (s : State) : Host.Outcome State Fault Refusal :=
  .next (onPond p (sbPulseEnd s.ns) s)

/-- SB_ALERT: SB_ALERT_N is asserted (R434). -/
def execSbAlert (p : PondId) (s : State) : Host.Outcome State Fault Refusal :=
  .next (onPond p (sbAlert true) s)

/-- SB_ALERT_N_RELEASE: SB_ALERT_N is released (R434). -/
def execSbAlertNRelease (p : PondId) (s : State) : Host.Outcome State Fault Refusal :=
  .next (onPond p (sbAlert false) s)

/-- SB_BUF_DATA: a read (none) or a write of the selected word (R435); the word goes to `rdata`. -/
def execSbBufData (p : PondId) (v : Option Word) (s : State) : Host.Outcome State Fault Refusal :=
  match v with
  | none => .next { onPond p sbBufAuto s with rdata := sbBufWord (pondOf s p) }
  | some x => .next (onPond p (fun P => sbBufAuto (sbBufStore x P)) s)

end Sys2Proof.Machine
end

