-- ==== Sys2Proof/Machine/PondRegs.lean ====
section
/-! DEFINITION. The pond's registers as they are read, loaded and stored (Tables 4.3 to 16.8,
R12, R13, R464, R465, R467), and the PIC's claim and completion (R151, R152). -/

namespace Sys2Proof.Machine

/-- The access codes of a register's bits (Table 0.3). -/
structure Acc where
  rw : Word := 0
  wl : Word := 0
  w1c : Word := 0
  w1s : Word := 0
  rc : Word := 0
  deriving DecidableEq, Repr

/-- A pond offset's access codes; none where the offset holds no register (R465). Bits that act
through a rule of their own are handled where they are stored. -/
def pondAcc (off : Nat) : Option Acc :=
  if off % 4 ≠ 0 then none
  else if off < 0x020 then
    match off with
    | 0x000 => some { rw := 0x1, w1s := 0x80000000 }
    | 0x004 => some {}
    | 0x008 => some { wl := 0x1 }
    | 0x00C => some { wl := 0xFFFFFF00 }
    | 0x010 => some { wl := 0xFFFFFFF8 }
    | 0x014 => some { rc := 0xFF000000 }
    | 0x018 => some {}
    | _ => some { rc := 0xFFFF00FF }
  else if 0x100 ≤ off ∧ off < 0x174 then
    match off with
    | 0x100 => some { w1s := 0x80000000 }
    | 0x104 => some { rw := 0xF }
    | 0x110 => some { w1c := 0x60000000 }
    | 0x118 => some { rc := 0xFFFF }
    | 0x11C => none
    | _ => if 0x120 ≤ off ∧ off < 0x150 then some { wl := 0xFFFFFFFF } else some {}
  else if 0x200 ≤ off ∧ off < 0x2A0 then
    match off with
    | 0x200 => some { wl := 0x3, w1s := 0x80000000 }
    | 0x204 => some { w1c := 0x20 }
    | 0x210 => some { wl := 0xFEFFFF77 }
    | 0x214 => some { wl := 0xFEFFFF77 }
    | 0x260 => some { rw := 0xFFFFFFFF }
    | 0x264 => some { rw := 0xFFFFFFFF }
    | 0x268 => some { w1c := 0x3 }
    | 0x26C => some { rc := 0xFFFFFFFF }
    | 0x270 => some { rc := 0xFFFFFFFF }
    | 0x274 => some { rc := 0xFFFF0000 }
    | 0x27C => some { rw := 0x1 }
    | 0x280 => some { rc := 0xFFFF0000 }
    | 0x294 => some { w1c := 0xFF }
    | _ => if 0x220 ≤ off ∧ off < 0x260 then some { wl := 0x7C07 } else some {}
  else if 0x300 ≤ off ∧ off < 0x318 then
    match off with
    | 0x300 => some { wl := 0x00FFFFFF, w1s := 0x80000000 }
    | 0x304 => some { wl := 0x00FFFFFF }
    | 0x310 => some {}
    | 0x314 => some { rc := 0xFFFFFFFF }
    | _ => some { rw := 0x3FF }
  else if 0x380 ≤ off ∧ off < 0x3E0 then
    match off with
    | 0x380 => some { w1s := 0x80000000 }
    | 0x384 => some { w1c := 0x0F000000 }
    | 0x388 => some { rc := 0xFFFFFFFF }
    | 0x38C => some { rc := 0xFFFFFFFF }
    | 0x390 => some { rw := 0x1, wl := 0xFFFFFF78 }
    | 0x398 => some { rw := 0x1, wl := 0xFFFFFF78 }
    | 0x394 => some { rw := 0x1, wl := 0x38 }
    | 0x39C => some { rw := 0x1, wl := 0x38 }
    | _ =>
      if 0x3D0 ≤ off then some { wl := 0x1FFFFF }
      else if 0x3A0 ≤ off ∧ off < 0x3C0 then some { rw := 0x1FFFFF } else some {}
  else if 0x400 ≤ off ∧ off < 0x450 then
    match off with
    | 0x400 => some { rw := 0xFFFF, w1s := 0x80000000 }
    | 0x404 => some { w1c := 0x0003FFFF }
    | 0x408 => some { rw := 0x8000011F }
    | 0x410 => some { wl := 0xDFFFFFFF }
    | 0x414 => some { rc := 0xFFFF }
    | 0x418 => some { rw := 0x83, wl := 0x1F3C }
    | 0x41C => some { rw := 0x83, wl := 0x1F7C }
    | 0x440 => some { rc := 0xFFFF }
    | 0x444 => some { rc := 0xFFFF }
    | _ => some {}
  else if 0x480 ≤ off ∧ off < 0x4C0 then some {}
  else if 0x500 ≤ off ∧ off < 0x518 then
    match off with
    | 0x500 => some { rw := 0x000FFFFF, wl := 0x3FF00000, w1s := 0x80000000 }
    | 0x504 => some { w1c := 0xF0000000 }
    | _ => some {}
  else if 0x540 ≤ off ∧ off < 0x560 then
    match off with
    | 0x540 => some { w1s := 0x80000000 }
    | 0x544 => some { w1c := 0x0707 }
    | 0x548 => some { rw := 0x00700000, wl := 0x000F003F }
    | 0x54C => some { rw := 0x00700000, wl := 0x000F003F }
    | 0x550 => some { rw := 0x10F }
    | _ => some {}
  else if 0x580 ≤ off ∧ off < 0x5A0 then
    match off with
    | 0x580 => some { wl := 0xB0, w1s := 0x80000000 }
    | 0x584 => some { w1c := 0x00E00000 }
    | 0x58C => some { rw := 0x8000007F }
    | 0x594 => some { wl := 0x80FF000F }
    | 0x59C => some { rc := 0xFFFFFFFF }
    | _ => some {}
  else if 0x5C0 ≤ off ∧ off < 0x5D8 then
    match off with
    | 0x5C0 => some { wl := 0x7F3FE001, w1s := 0x80000000 }
    | 0x5C4 => some { wl := 0xFFFFFFFF }
    | 0x5D0 => some { rc := 0xFF }
    | 0x5D4 => some { wl := 0x00FFFFFF }
    | _ => some {}
  else if 0x600 ≤ off ∧ off < 0x620 then
    match off with
    | 0x610 => some { rc := 0xFFFFFFFF }
    | 0x614 => some { rc := 0xFFFFFFFF }
    | 0x618 => some { rc := 0xFFFFFFFF }
    | _ => some {}
  else if 0x640 ≤ off ∧ off < 0x658 then
    match off with
    | 0x644 => some { rc := 0xFFFFFFFF }
    | 0x648 => some { rc := 0xFFFFFFFF }
    | 0x650 => some { rw := 0xFFFFFFFF }
    | 0x654 => some { rc := 0xFFFFFFFF }
    | _ => some {}
  else if 0x680 ≤ off ∧ off < 0x690 then some {}
  else none

/-- The register that holds the LOCK bit of an offset's block; none where the block has none
(Table 19.8). -/
def lockReg (off : Nat) : Option Nat :=
  if off < 0x100 then some 0x000
  else if off < 0x200 then some 0x100
  else if off < 0x300 then some 0x200
  else if off < 0x380 then some 0x300
  else if off < 0x400 then some 0x380
  else if off < 0x480 then some 0x400
  else if off < 0x500 then none
  else if off < 0x540 then some 0x500
  else if off < 0x580 then some 0x540
  else if off < 0x5C0 then some 0x580
  else if off < 0x600 then some 0x5C0
  else none

/-- The block of an offset is locked (R467). -/
def lockedAt (P : Pond) (off : Nat) : Bool :=
  match lockReg off with | some l => bit (rg P l) 31 | none => false

/-! ### Reading -/

/-- The value a claim would return (Table 5.12). -/
def claimView (P : Pond) : Word :=
  match picBest P with
  | none => 0
  | some n => BitVec.ofNat 32 (2 ^ 31 + 2 ^ 16 * picPrio P n + n)

/-- PIC_STATUS (Table 5.13). -/
def picStatus (P : Pond) : Word :=
  let act := ((List.range 96).filter (fun n => bit P.pic.act n)).length
  let best := match picBest P with | none => 0 | some n => 2 ^ 31 + 2 ^ 8 * n
  (rg P 0x110 &&& 0x60000000) ||| BitVec.ofNat 32 (best + 16 * (act % 16) + picRunning P)

/-- PG_STATUS (Table 7.4). -/
def pgStatus (P : Pond) : Word :=
  let m (f : Nat → Bool) : Nat := maskOf 4 f
  let run (k : Nat) : Bool := match (pgOf P k).grid with
    | .waiting _ => true | .running => true | _ => false
  (rg P 0x384 &&& 0x0F000000) ||| BitVec.ofNat 32 (2 ^ 16 * m (forced P) +
    2 ^ 12 * m (fun k => (pgOf P k).armed) + 2 ^ 8 * m (fun k => (pgOf P k).fresh) + m run)

/-- The members' numbers as a 64-bit mask. -/
def memberMask (l : List Nat) : Nat := maskOf 64 (fun n => l.contains n)

/-- This pond's rank among the current members (R203). -/
def rankOf (P : Pond) (p : Nat) : Nat := (P.grp.members.filter (fun n => decide (n < p))).length

/-- This pond's hold count. -/
def ownHold (P : Pond) (p : Nat) : Nat :=
  match memberIx P p with | some i => P.grp.holds.getD i 0 | none => 0

/-- This member is held: its count is 1 to PGRP_HOLD_EPOCHS while the group runs (R209). -/
def ownHeld (P : Pond) (p : Nat) : Bool :=
  let h := ownHold P p
  (P.grp.st == 2 || P.grp.st == 5) && decide (1 ≤ h) && decide (h ≤ fld (rg P 0x5C0) 16 6 + 1)

/-- PGRP_STATUS (Table 8.5). -/
def pgrpStatus (P : Pond) (p : Nat) : Word :=
  let g := P.grp
  let cur := g.members.contains p
  BitVec.ofNat 32 (2 ^ 28 * (g.st % 16) + 2 ^ 26 * (g.stop % 4) +
    2 ^ 25 * b2n (cur && decide (rankOf P p = 0)) + 2 ^ 24 * b2n (ownHeld P p) +
    2 ^ 20 * ((if cur then rankOf P p else 0) % 16) + 2 ^ 15 * (g.members.length % 32) +
    2 ^ 8 * (ownHold P p % 128) + fld (rg P 0x5D0) 0 8)

/-- The lowest dirty sector of the inactive bank (Table 14.15). -/
def lowDirty (P : Pond) : Option Nat :=
  (List.range 64).find? (fun k => P.pfl.dirty.get (64 * b2n (!P.pfl.bank) + k) != 0)

/-- PFL_STATUS (Table 14.15). -/
def pflStatus (P : Pond) : Word :=
  let f := P.pfl
  let d := lowDirty P
  BitVec.ofNat 32 (2 ^ 31 * b2n f.op.isSome +
    2 ^ 29 * (match f.op with | some o => o.owner % 4 | none => 0) + 2 ^ 28 * b2n f.verified +
    2 ^ 27 * b2n f.armed + 2 ^ 26 * b2n f.bank + 2 ^ 25 * b2n d.isSome +
    2 ^ 16 * fld (rg P 0x608) 16 4 + d.getD 0)

/-- CAP_STATUS (Table 7.11). -/
def capStatus (P : Pond) : Word :=
  (rg P 0x504 &&& 0xF3000000) ||| BitVec.ofNat 32 (
    (List.range 4).foldl (fun a i => a + 2 ^ (16 + i) * b2n (pinLevel P i) +
      2 ^ (4 * i) * ((capFifo P i).length % 8)) 0)

/-- ADC_STATUS (Table 6.7). -/
def adcStatus (c : PCtx) (P : Pond) : Word :=
  let busy (n : Nat) : Bool := decide (16 * c.ns < (convOf P n).busyTill)
  (rg P 0x204 &&& 0x20) ||| BitVec.ofNat 32 (2 ^ 11 * b2n (convOf P 1).cal.isSome +
    2 ^ 10 * b2n (convOf P 0).cal.isSome + 2 * b2n (busy 1) + b2n (busy 0))

/-- SB_STATUS (Table 16.6): the line levels while a transaction runs are free, and BUS_FREE while it is not known
whether the bus is free (assumptions 2 and 38). -/
def sbStatus (c : PCtx) (P : Pond) : Word :=
  let free : Bool := match P.sb.bus with
    | none => false
    | some (a, b) => decide (a ≤ c.ns) && (b.any (fun t => decide (t ≤ c.ns)) || bit (freeNow P) 2)
  let w := setBit (setBit (rg P 0x584) 30 (sbRecovering c.ns P)) 27 free
  if bit w 31 then setFld w 24 2 (freeNow P).toNat
  else setFld w 24 2 (2 * b2n P.sb.sda + b2n P.sb.scl)

/-- The selected word of a check-value unit. -/
def cvuSelected (P : Pond) : Word :=
  let sel := rg P 0x550
  (vget P.cvu (fld sel 8 1) Cvu.reset).word (fld sel 0 4)

/-- A register as a peek reads it: without a side effect. -/
def regView (c : PCtx) (P : Pond) (off : Nat) : Word :=
  let w := rg P off
  match off with
  | 0x000 => setBit w 4 P.core.ie
  | 0x004 => BitVec.ofNat 32 (2 ^ 16 * P.core.evt.toNat + 256 * P.core.nest + 128 * b2n P.core.df) |||
      (savedStatus P &&& 0x1F)
  | 0x108 => claimView P
  | 0x110 => picStatus P
  | 0x150 => P.pic.pend.extractLsb' 0 32
  | 0x154 => P.pic.pend.extractLsb' 32 32
  | 0x158 => P.pic.pend.extractLsb' 64 32
  | 0x15C => P.pic.act.extractLsb' 0 32
  | 0x160 => P.pic.act.extractLsb' 32 32
  | 0x164 => P.pic.act.extractLsb' 64 32
  | 0x168 => P.pic.lost.extractLsb' 0 32
  | 0x16C => P.pic.lost.extractLsb' 32 32
  | 0x170 => P.pic.lost.extractLsb' 64 32
  | 0x204 => adcStatus c P
  | 0x280 => (w &&& 0xFFFF0000) ||| BitVec.ofNat 32 (P.cbuf.length % 4096)
  | 0x284 => (P.cbuf.headD (0, 0)).1
  | 0x310 => (w &&& 0x3) ||| BitVec.ofNat 32 (32 * b2n (cmpOf P 1).out + 16 * b2n (cmpOf P 0).out)
  | 0x384 => pgStatus P
  | 0x40C => coefSelected P
  | 0x420 => word24 (leRefView P 0)
  | 0x424 => word24 (leRefView P 1)
  | 0x504 => capStatus P
  | 0x508 => (capFifo P 0).headD 0
  | 0x50C => (capFifo P 1).headD 0
  | 0x510 => (capFifo P 2).headD 0
  | 0x514 => (capFifo P 3).headD 0
  | 0x554 => cvuSelected P
  | 0x584 => sbStatus c P
  | 0x590 => sbBufWord P
  | 0x5C8 => BitVec.ofNat 32 (memberMask P.grp.members)
  | 0x5CC => BitVec.ofNat 32 (memberMask P.grp.members / 2 ^ 32)
  | 0x5D0 => pgrpStatus P c.p
  | 0x608 => pflStatus P
  | 0x640 => BitVec.ofNat 32 (256 * (P.core.pb.length % 16) + 16 * b2n P.life.incWait)
  | 0x680 => BitVec.ofNat 32 (65536 * c.p + Config.stepping.toNat % 256)
  | 0x684 => BitVec.ofNat 32 (256 * P.life.inc.toNat + fld w 0 4)
  | 0x68C => BitVec.ofNat 32 (4 * b2n P.life.imageValid +
      2 * b2n ((convOf P 0).ready && (convOf P 1).ready) + b2n P.life.started)
  | _ => w

/-- A claim (R151): the chosen source leaves pending and becomes active. -/
def claim (P : Pond) : Word × Pond :=
  match picBest P with
  | none => (0, P)
  | some n => (claimView P, { P with pic := { P.pic with
      pend := setBit P.pic.pend n false, act := setBit P.pic.act n true } })

/-- A completion (R152). -/
def complete (n : Nat) (P : Pond) : Pond :=
  if 96 ≤ n then rbit 0x110 29 P
  else if bit P.pic.act n then
    picLatch { P with pic := { P.pic with act := setBit P.pic.act n false } }
  else rbit 0x110 30 P

/-- A write to PIC_SWTRIG (R149). -/
def softTrigger (v : Word) (P : Pond) : Pond :=
  let n := fld v 0 7
  if !bit v 7 then P else if 96 ≤ n then rbit 0x110 29 P else picEvent n P

/-- The RC bits of a register cleared with the read (R12). -/
def clearRc (off : Nat) (P : Pond) : Pond :=
  match pondAcc off with
  | some a => if a.rc = 0 then P else rmod off (fun w => w &&& ~~~a.rc) P
  | none => P

/-- A load by the core: the value and the read's effect. -/
def loadReg (c : PCtx) (off : Nat) (P : Pond) : Word × Pond :=
  match off with
  | 0x108 => claim P
  | 0x284 => cbufPop P
  | 0x40C => (coefSelected P, coefAuto P)
  | 0x508 => capPop 0 P
  | 0x50C => capPop 1 P
  | 0x510 => capPop 2 P
  | 0x514 => capPop 3 P
  | 0x590 => (sbBufWord P, sbBufAuto P)
  | _ => (regView c P off, clearRc off P)

/-! ### Storing -/

/-- The stored word after a store under its access codes (R12, R467). -/
def mergeAcc (locked : Bool) (a : Acc) (cur v : Word) : Word :=
  let m := a.rw ||| (if locked then 0 else a.wl)
  (((cur &&& ~~~m) ||| (v &&& m)) &&& ~~~(v &&& a.w1c)) ||| (v &&& a.w1s)

/-- A store that only its access codes rule. -/
def storePlain (off : Nat) (v : Word) (P : Pond) : Pond :=
  match pondAcc off with
  | some a => rmod off (fun w => mergeAcc (lockedAt P off) a w v) P
  | none => P

/-- A pond reset requested (R80, R82), with its cause. -/
def askPondReset (cause : Nat) (P : Pond) : Pond :=
  if P.life.resetEnd.isSome || P.life.resetReq.isSome then P
  else { P with life := { P.life with resetReq := some cause, coreReq := none } }

/-- A core-only reset requested (R81, R82). -/
def askCoreReset (cause : Nat) (P : Pond) : Pond :=
  if P.life.resetEnd.isSome || P.life.coreReq.isSome then P
  else { P with life := { P.life with coreReq := some cause } }

/-- A write to MISC_RESET_REQ (Table 3.10). -/
def resetRequest (v : Word) (P : Pond) : Pond :=
  if fld v 16 16 ≠ 0xA5C3 then P
  else if bit v 1 then askPondReset 2 P
  else if bit v 0 then askCoreReset 4 P
  else P

/-- The value of a store with a field kept as it is where the value it carries is ignored. -/
def keepField (bad : Bool) (lo len : Nat) (cur v : Word) : Word :=
  if bad then setFld v lo len (fld cur lo len) else v

/-- A store to CMP_CTRL_n: a disabled comparator has no active output. -/
def storeCmpCtrl (n : Nat) (v : Word) (P : Pond) : Pond :=
  let P1 := storePlain (0x300 + 4 * n) v P
  if bit (cmpCtrl P1 n) 0 then P1
  else cmpSet n { cmpOf P1 n with out := false, blank := false, done := false } P1

/-- A store to ADC_TRIG_x that its lock lets land: the count of generator events begins anew, and an
event before the write starts no burst any more (R160; assumption 50). -/
def storeAdcTrig (n : Nat) (v : Word) (P : Pond) : Pond :=
  let off := 0x210 + 4 * n
  if lockedAt P off then P else
  let P1 := storePlain off (keepField (decide (3 < fld v 0 3)) 0 3 (rg P off) v) P
  let c := convOf P1 n
  convSet n { c with
    skip := 0,
    trigs := c.trigs.filter (fun e => match e.kind with | .pgStart _ => false | .pgCompare _ => false | _ => true) } P1

/-- A store to CAP_CTRL: what the GPIO outputs drive may change a pin (R201). -/
def storeCapCtrl (sub : Nat) (v : Word) (P : Pond) : Pond :=
  let P1 := storePlain 0x500 v P
  [2, 3].foldl (fun Q i =>
    if pinLevel P i != pinLevel P1 i then pinEdge sub i (pinLevel P1 i) Q else Q) P1

/-- A store to CVU_CTRL: START before FINISH (R413). -/
def storeCvuCtrl (v : Word) (P : Pond) : Pond :=
  let go (k : Nat) (Q : Pond) : Pond :=
    let Q1 := if bit v (4 * k) then cvuStart k Q else Q
    if bit v (4 * k + 1) then cvuFinish k Q1 else Q1
  go 1 (go 0 (storePlain 0x540 v P))

/-- A store to CVU_CFG_k: FEEDN outside 1 to 4 is ignored; a reduced width cuts V (R409). -/
def storeCvuCfg (k : Nat) (v : Word) (P : Pond) : Pond :=
  let n := fld v 20 3
  let P1 := storePlain (0x548 + 4 * k) (keepField (n == 0 || decide (4 < n)) 20 3 (cvuCfg P k) v) P
  cvuMod k (Cvu.recfg (cvuCfg P1 k)) P1

/-- A store to CVU_DATA. -/
def storeCvuData (v : Word) (P : Pond) : Pond :=
  let sel := rg P 0x550
  let k := fld sel 8 1
  let i := fld sel 0 4
  if cvuWordLocked i && lockedAt P 0x540 then P else cvuMod k (Cvu.setWord (cvuCfg P k) i v) P

/-- A store to CVU_FEED_k (R410). -/
def storeFeed (k : Nat) (v : Word) (P : Pond) : Pond :=
  cvuFeed k (leBytes v.toNat (fld (cvuCfg P k) 20 3)) P

/-- A store to SB_CTRL (Table 16.5, R431, R432). -/
def storeSbCtrl (now : Nat) (v : Word) (P : Pond) : Pond :=
  let P1 := sbSetEn now (bit v 0) (storePlain 0x580 (keepField (fld v 4 2 == 3) 4 2 (rg P 0x580) v) P)
  if bit v 8 then sbReset now P1 else P1

/-- A store to a pond register (R12, R467), by the core, a poke or a CONFIGURE entry. PFL_CMD and
PFL_SRC accept stores only from a gate body (R143): a core store faults before it comes here, and
a poke changes nothing. -/
def storeReg (c : PCtx) (off : Nat) (v : Word) (P : Pond) : Pond :=
  if 0x120 ≤ off ∧ off < 0x150 then picLatch (storePlain off v P)
  else if 0x390 ≤ off ∧ off < 0x3A0 then
    withEdges (pgSetCfg ((off - 0x390) / 4)
      (match pondAcc off with
        | some a => mergeAcc (lockedAt P off) a (rg P off) v
        | none => rg P off)) P
  else if 0x3A0 ≤ off ∧ off < 0x3B0 then pgStorePeriod c.cyc ((off - 0x3A0) / 4) v P
  else if 0x3B0 ≤ off ∧ off < 0x3C0 then pgStorePreload c.cyc ((off - 0x3B0) / 4) v P
  else if 0x480 ≤ off ∧ off < 0x4A0 then etLo ((off - 0x480) / 4) v P
  else if 0x4A0 ≤ off ∧ off < 0x4C0 then etHi ((off - 0x4A0) / 4) v P
  else
    match off with
    | 0x000 =>
      let P1 := storePlain off v P
      { P1 with core := { P1.core with ie := bit v 4 } }
    | 0x004 => { P with core := { P.core with flags := ⟨bit v 3, bit v 2, bit v 1, bit v 0, bit v 4⟩ } }
    | 0x104 => picLatch (storePlain off v P)
    | 0x10C => complete (fld v 0 7) P
    | 0x114 => softTrigger v P
    | 0x168 => { P with pic := { P.pic with lost := P.pic.lost &&& ~~~(v.setWidth 96) } }
    | 0x16C => { P with pic := { P.pic with lost := P.pic.lost &&& ~~~((v.setWidth 96) <<< 32) } }
    | 0x170 => { P with pic := { P.pic with lost := P.pic.lost &&& ~~~((v.setWidth 96) <<< 64) } }
    | 0x200 => (bitsOf 2 (fld v 8 2)).foldl (fun Q n => swTrigger c.epochLen c.ns n Q) (storePlain off v P)
    | 0x208 => calRequest v P
    | 0x210 => storeAdcTrig 0 v P
    | 0x214 => storeAdcTrig 1 v P
    | 0x27C =>
      let P1 := storePlain off v P
      if bit v 1 then { P1 with cbuf := [] } else P1
    | 0x300 => storeCmpCtrl 0 v P
    | 0x304 => storeCmpCtrl 1 v P
    | 0x310 => withEdges (fun Q => (bitsOf 2 (fld v 0 2)).foldl (fun Q n => trippedClear n Q) Q) P
    | 0x380 => (bitsOf 4 (fld v 0 4)).foldl (fun Q k => pgClearFresh c.cyc k Q) (storePlain off v P)
    | 0x40C => coefAuto (coefStore v P)
    | 0x418 =>
      let P1 := storePlain off (keepField (fld v 0 2 == 3) 0 2 (rg P off) v) P
      if bit (rg P1 off) 7 then P1 else laneSet 0 { laneOf P1 0 with ramp := none } P1
    | 0x41C =>
      let P1 := storePlain off (keepField (fld v 0 2 == 3) 0 2 (rg P off) v) P
      if bit (rg P1 off) 7 then P1 else laneSet 1 { laneOf P1 1 with ramp := none } P1
    | 0x420 => leRefWrite 0 v P
    | 0x424 => leRefWrite 1 v P
    | 0x500 => storeCapCtrl c.sub v P
    | 0x504 => withEdges (fun Q => (bitsOf 2 (fld v 24 2)).foldl (fun Q n => fltClear n Q)
        (storePlain off v Q)) P
    | 0x540 => storeCvuCtrl v P
    | 0x548 => storeCvuCfg 0 v P
    | 0x54C => storeCvuCfg 1 v P
    | 0x554 => storeCvuData v P
    | 0x558 => storeFeed 0 v P
    | 0x55C => storeFeed 1 v P
    | 0x580 => storeSbCtrl c.ns v P
    | 0x588 => sbCmdWrite c.ns v P
    | 0x590 => sbBufAuto (sbBufStore v P)
    | 0x61C =>
      let a := fld v 6 26 * 64
      if 0x20000000 ≤ a ∧ a ≤ 0x2001FEC0 then rset off (BitVec.ofNat 32 a) P else P
    | 0x688 => resetRequest v P
    | _ => storePlain off v P

/-- The WL bits that a poke or a CONFIGURE entry to an offset carries (R467), with the selected
word's code for the two registers that are windows. -/
def wlMask (P : Pond) (off : Nat) : Word :=
  match off with
  | 0x40C => if coefLocked (fld (rg P 0x408) 0 5) then 0xFFFFFFFF else 0
  | 0x554 => if cvuWordLocked (fld (rg P 0x550) 0 4) then 0xFFFFFFFF else 0
  | _ => match pondAcc off with | some a => a.wl | none => 0

/-- A poke or a CONFIGURE entry would change a locked WL field (R467). -/
def lockHit (c : PCtx) (P : Pond) (off : Nat) (v : Word) : Bool :=
  lockedAt P off && (regView c P off ^^^ v) &&& wlMask P off != 0

/-- PIC_CLAIM: a load of the register by the core (R151); the value goes to `rdata`. -/
def execPicClaim (p : PondId) (s : State) : Host.Outcome State Fault Refusal :=
  let r := claim (pondOf s p)
  .next { onPond p (fun _ => r.2) s with rdata := r.1 }

/-- PIC_COMPLETE: a store of the word to the register (R152). -/
def execPicComplete (p : PondId) (v : Word) (s : State) : Host.Outcome State Fault Refusal :=
  .next (onPond p (complete (fld v 0 7)) s)

/-- PIC_SWTRIG: a write of the word to the register (R149). -/
def execPicSwtrig (p : PondId) (v : Word) (s : State) : Host.Outcome State Fault Refusal :=
  .next (onPond p (softTrigger v) s)

/-- LE_COEF_DATA: a read (none) or a write of the selected coefficient word (R202). -/
def execLeCoefData (p : PondId) (v : Option Word) (s : State) : Host.Outcome State Fault Refusal :=
  match v with
  | none => .next { onPond p coefAuto s with rdata := coefSelected (pondOf s p) }
  | some x => .next (onPond p (fun P => coefAuto (coefStore x P)) s)

/-- CVU_START of unit k of pond p (R408). -/
def execCvuStart (p : PondId) (k : Fin 2) (s : State) : Host.Outcome State Fault Refusal :=
  .next (onPond p (cvuStart k.val) s)

/-- CVU_FEED: a store to CVU_FEED_k (R410). -/
def execCvuFeed (p : PondId) (k : Fin 2) (v : Word) (s : State) : Host.Outcome State Fault Refusal :=
  .next (onPond p (storeFeed k.val v) s)

/-- CVU_FINISH of unit k of pond p (R413). -/
def execCvuFinish (p : PondId) (k : Fin 2) (s : State) : Host.Outcome State Fault Refusal :=
  .next (onPond p (cvuFinish k.val) s)

/-- MISC_RESET_REQ_POND: firmware writes the register with a key and POND set (R80, R82). -/
def execMiscResetReqPond (p : PondId) (key : BitVec 16) (s : State) : Host.Outcome State Fault Refusal :=
  .next (onPond p (resetRequest (BitVec.ofNat 32 (65536 * key.toNat + 2))) s)

/-- MISC_RESET_REQ_CORE: firmware writes the register with a key and CORE set (R81, R82). -/
def execMiscResetReqCore (p : PondId) (key : BitVec 16) (s : State) : Host.Outcome State Fault Refusal :=
  .next (onPond p (resetRequest (BitVec.ofNat 32 (65536 * key.toNat + 1))) s)

end Sys2Proof.Machine
end

