-- ==== Sys2Proof/Machine/Shore.lean ====
section
/-! DEFINITION. The Shore's shared operations: its registers, the ledger's marks, ports and
contexts, the completion reserve (R273, R276, R278), breaks (R258), and alarms with their
notices and the erase (R364 to R368). -/

namespace Sys2Proof.Machine

/-! ### The Shore's registers and marks -/

/-- The Shore replaced by a function of itself. -/
def onShore (f : Shore → Shore) (s : State) : State := { s with shore := f s.shore }

/-- A Shore register word by its offset from the Shore's first register. -/
def sreg (s : State) (off : Nat) : Word := s.shore.regs.get off

/-- A Shore register replaced by a function of itself. -/
def smod (off : Nat) (f : Word → Word) (s : State) : State :=
  onShore (fun h => { h with regs := h.regs.set off (f (h.regs.get off)) }) s

/-- A Shore register stored. -/
def sset (off : Nat) (v : Word) (s : State) : State := smod off (fun _ => v) s

/-- A count field of a Shore register raised by `k`, saturating (R13). -/
def sinc (off lo len k : Nat) (s : State) : State := smod off (fun w => incFld w lo len k) s

/-- The Shore's epoch (R43): 0 before the first boundary. -/
def shoreEpoch (s : State) : Nat := s.shore.tbs.epoch.getD 0

/-- TBS_LAT_DEFAULT. -/
def latOf (s : State) : Nat := fld (sreg s 0x600C) 0 4

/-- TBS_EPOCH_LEN. -/
def lenOf (s : State) : Nat := fld (sreg s 0x6008) 0 17

/-- The counter of the Shore's free values advanced. -/
def useShoreFree (s : State) : State := onShore (fun h => { h with fresh := h.fresh + 1 }) s

/-- `n` free bytes of the Shore (assumption 2). -/
def freeBytes (s : State) (n : Nat) : List Byte :=
  (List.range n).map (fun i => Config.freeByte (65536 * s.shore.fresh + i))

/-- A pond by number; past 63 a pond at reset. -/
def pondAt (s : State) (n : Nat) : Pond := vget s.ponds n Pond.reset

/-- Pond n replaced by a function of itself. -/
def onPondN (n : Nat) (f : Pond → Pond) (s : State) : State :=
  { s with ponds := vset s.ponds n (f (pondAt s n)) }

/-- What pond n needs of the rest of the machine. -/
def pctxN (s : State) (n : Nat) : PCtx := { pctx s 0 with p := n, dbg := bit s.shore.keys.unlocked n }

/-- The ledger replaced by a function of itself. -/
def onLedger (f : Ledger → Ledger) (s : State) : State :=
  onShore (fun h => { h with ledger := f h.ledger }) s

/-- The counters of the open interval replaced. -/
def onCount (f : IvCount → IvCount) (s : State) : State := onLedger (fun l => { l with cnt := f l.cnt }) s

/-- A bit of the open interval's flags set (Table 12.5). -/
def markFlag (i : Nat) (s : State) : State := onCount (fun c => { c with flags := setBit c.flags i true }) s

/-- The interval in progress is marked timing-dependent (R331). -/
def markTiming (s : State) : State := markFlag 0 s

/-- One state-changing ASAP command or poke (R57, R61). -/
def countAsap (s : State) : State :=
  markTiming (onCount (fun c => { c with asap := c.asap + 1 }) (sinc 0x603C 0 32 1 s))

/-- One same-epoch collision (R59). -/
def countCollide (s : State) : State :=
  markTiming (onCount (fun c => { c with collide := c.collide + 1 }) (sinc 0x6040 0 32 1 s))

/-- `k` late messages added to TBS_LATE_TOTAL and the interval's counter (R52). -/
def countLateTotal (k : Nat) (s : State) : State :=
  onCount (fun c => { c with late := c.late + k })
    (onShore (fun h => { h with tbs := { h.tbs with late := h.tbs.late + BitVec.ofNat 64 k } }) s)

/-- A packet handed to the hub's stop. -/
def hubEmit (k : Packet) (s : State) : State :=
  onShore (fun h => { h with weir := { h.weir with hubOut := h.weir.hubOut ++ [{ k with since := s.ns }] } }) s

/-- A word that the spec gives no value (assumption 2). -/
def shoreFree (s : State) (i : Nat) : Word := Config.freeWord (64 * s.shore.fresh + i)

/-- A word of the OTP row as latched at step 3 of Table 3.2 (R393, R394). -/
def otpWord (s : State) (i : Nat) : Word := s.shore.otp.latched.get i

/-- The latched word was uncorrectable (R394). -/
def otpBad (s : State) (i : Nat) : Bool := s.shore.otp.latchedBad.get i == 2

/-- Bytes of the latched OTP row; a word with two bad cells reads 0 (R394). -/
def otpBytes (s : State) (off len : Nat) : List Byte :=
  (List.range len).map (fun j =>
    let i := (off + j) / 4
    if otpBad s i then 0 else BitVec.ofNat 8 ((otpWord s i).toNat >>> (8 * ((off + j) % 4))))

/-- Pond n is in service. -/
def inService (s : State) (n : Nat) : Bool := decide (n < 64) && (pondAt s n).life.inService

/-! ### Ports and contexts -/

/-- Port h. -/
def portOf (s : State) (h : Nat) : Port := vget s.shore.ports h Port.reset

/-- Port h replaced by a function of itself. -/
def onPort (h : Nat) (f : Port → Port) (s : State) : State :=
  onShore (fun x => { x with ports := vset x.ports h (f (vget x.ports h Port.reset)) }) s

/-- Context n of port h. -/
def ctxOf (s : State) (h n : Nat) : Ctx := vget (portOf s h).ctx n Ctx.reset

/-- Context n of port h replaced by a function of itself. -/
def onCtx (h n : Nat) (f : Ctx → Ctx) (s : State) : State :=
  onPort h (fun p => { p with ctx := vset p.ctx n (f (vget p.ctx n Ctx.reset)) }) s

/-- The port may issue memory requests (R256). -/
def canRequest (p : Port) : Bool := p.link && p.bme && !p.d3 && !p.perst

/-- The offset of a port's registers. -/
def hpBase (h : Nat) : Nat := 0x400 * h

/-- HP_CPL_LOST of a port raised (R276). -/
def cplLost (h k : Nat) (s : State) : State := sinc (hpBase h + 0x024) 0 32 k s

/-- A failed or abandoned read of a port at a host address (R271, R295). -/
def dmaErr (h addr : Nat) (s : State) : State :=
  sset (hpBase h + 0x070) (BitVec.ofNat 32 (addr / 2 ^ 32))
    (sset (hpBase h + 0x06C) (BitVec.ofNat 32 addr) (sinc (hpBase h + 0x068) 0 32 1 s))

/-- The write TLPs that carry some bytes to host memory, none of more than `size` of them (R256); their
Relaxed Ordering and No Snoop are 0. -/
def tlps (size : Nat) (k : WriteKind) : Nat → Nat → List Byte → List HostWrite
  | 0, _, _ => []
  | fuel + 1, a, l =>
    if l.length ≤ size then [⟨a, l, k, 0⟩]
    else ⟨a, l.take size, k, 0⟩ :: tlps size k fuel (a + size) (l.drop size)

/-- Max_Payload_Size of a port, in bytes. -/
def maxPayload (p : Port) : Nat := 128 * 2 ^ p.cfg.mps.val

/-- Bytes of one kind posted by a port to a host address. -/
def postWrite (h addr : Nat) (l : List Byte) (k : WriteKind) (s : State) : State :=
  onPort h (fun p => { p with posted := p.posted ++ tlps (maxPayload p) k (l.length + 1) addr l }) s

/-- The two writes of a completion (R274, R275, Table 10.7). -/
def cplWrites (c : Ctx) (b : Block) (n lost : Nat) (e : Cpl) : List HostWrite :=
  let m := 2 ^ b.cplLog
  let a := b.cplBase + 32 * (e.seq.toNat % m)
  [ ⟨a, e.head ++ leBytes e.index.toNat 4 ++ leBytes c.gen.toNat 2 ++ leBytes (satTo 16 lost) 2, .cplHead, 0⟩,
    ⟨a + 28, [BitVec.ofNat 8 n, BitVec.ofNat 8 (b2n e.replay), 0,
      BitVec.ofNat 8 (128 * b2n (e.seq.toNat / m % 2 == 0))], .cplTail n e.seq, 0⟩ ]

/-- One completion of the reserve written; the first after an entry to REPLAYING reports the
losses (R278). -/
def sendCpl (h : Nat) (e : Cpl) (s : State) : State :=
  let c := ctxOf s h e.ctx
  match c.block with
  | none => s
  | some b =>
    let lost := if c.report then c.loss else 0
    let s2 := onPort h (fun p => { p with
      posted := p.posted ++ cplWrites c b e.ctx lost e,
      reserve := modFirst (fun x => x.ctx == e.ctx && x.seq == e.seq)
        (fun x => { x with sent := true }) p.reserve }) s
    if c.report then onCtx h e.ctx (fun c => { c with report := false, loss := 0 }) s2 else s2

/-- A context writes completions: REPLAYING, RUNNING or DRAINING. -/
def ctxWrites (c : Ctx) : Bool := c.st == 2 || c.st == 3 || c.st == 4

/-- Every completion of a port that waits and can be written is written. -/
def portFlush (h : Nat) (s : State) : State :=
  if !canRequest (portOf s h) then s else
  (portOf s h).reserve.foldl (fun t e =>
    if !e.sent && ctxWrites (ctxOf t h e.ctx) then sendCpl h e t else t) s

/-- A context enters RUNNING: the first doorbell read is issued where the port can (R269). -/
def ctxRun (h n : Nat) (s : State) : State :=
  let go := canRequest (portOf s h)
  onCtx h n (fun c => { c with
    st := 3, replaying := false, polling := go,
    pollAt := if go then some s.shore.tbs.tb.toNat else none }) s

/-- A REPLAYING context whose entries have left the reserve runs; a DRAINING context with nothing
owed is DISABLED (R278, R265). -/
def ctxSettle (h n : Nat) (s : State) : State :=
  let c := ctxOf s h n
  if (portOf s h).reserve.any (fun e => e.ctx == n) then s
  else if c.st = 2 then ctxRun h n s
  else if c.st = 4 ∧ c.owed = 0 then onCtx h n (fun c => { c with st := 0, replaying := false }) s
  else if c.st = 4 then onCtx h n (fun c => { c with replaying := false }) s
  else s

/-- COMPLETION_PRODUCED (R273, R276): a sequence number and a place in the reserve, or a loss. -/
def produceCpl (h n life : Nat) (index : Word) (order : Nat) (head : List Byte) (s : State) : State :=
  let c := ctxOf s h n
  if c.life ≠ life then cplLost h 1 s
  else if 256 ≤ (portOf s h).reserve.length then
    ctxSettle h n (onCtx h n (fun c => { c with owed := c.owed - 1, loss := c.loss + 1 }) (cplLost h 1 s))
  else
    let s1 := onCtx h n (fun c => { c with owed := c.owed - 1, seq := c.seq + 1 }) s
    let s2 := onPort h (fun p => { p with reserve := p.reserve ++ [⟨n, c.seq, head, index, order, false, c.replaying⟩] }) s1
    let s3 := smod (hpBase h + 0x028) (fun w => peakFld w 16 9 (portOf s2 h).reserve.length) s2
    portFlush h s3

/-- A break of a port (R258): reads abandoned, contexts paused, a mirror write abandoned, data of
unacknowledged results lost (R306). Operand reads of commands are abandoned by `portBreak`. -/
def breakPort (h : Nat) (s : State) : State :=
  let p := portOf s h
  let lost (e : Cpl) : Cpl :=
    let bad := p.posted.any (fun w => match w.kind with | .data o => o == e.order | _ => false)
    { e with
      sent := false,
      head := if bad then e.head.set 2 (e.head.getD 2 0 ||| 8) else e.head }
  let ctx (c : Ctx) : Ctx :=
    let c1 := { c with
      fetched := [], asked := [], polling := false, pollAt := none,
      cut := c.cut || c.replaying }
    if c.st = 1 then { c1 with st := 0 }
    else if c.st = 2 ∨ c.st = 3 ∨ c.st = 4 then { c1 with st := 5, cause := 1 } else c1
  let s1 := if p.mirBusy.isSome then
      sinc (0x8060 + 0x40 * h) 0 32 1 (sinc 0x8014 0 32 1 s)
    else s
  onPort h (fun p => { p with
    breaks := p.breaks + 1, posted := [], mirBusy := none, mirDue := none,
    reserve := p.reserve.map lost, ctx := p.ctx.map ctx }) s1

/-! ### Alarms -/

/-- The default level of a source, 0 A to 3 D (Table 13.6). -/
def alarmDefault (n : Nat) : Nat := [2, 2, 0, 2, 0, 0, 1, 1].getD n 0

/-- The highest fusible level of a source (Table 13.6). -/
def alarmHighest (n : Nat) : Nat := [3, 3, 1, 3, 2, 2, 3, 3].getD n 0

/-- The effective level of a source (R364, R394). -/
def alarmLevel (s : State) (n : Nat) : Nat :=
  let w := otpWord s 45
  if otpBad s 45 then alarmHighest n
  else if bit w 31 then max (alarmDefault n) (min (alarmHighest n) (fld w (2 * n) 2))
  else alarmDefault n

/-- D_PERMIT as latched (R364, R394). -/
def dPermit (s : State) : Bool := bit (otpWord s 46) 0 && !otpBad s 46

/-- The level at which a source acts: D without D_PERMIT acts as C. -/
def alarmActs (s : State) (n : Nat) : Nat :=
  if alarmLevel s n = 3 ∧ !dPermit s then 2 else alarmLevel s n

/-- The level in effect, coded as HP_ALARM: 0 none, 1 A to 4 D (R367). -/
def alarmState (s : State) : Nat :=
  (List.range 8).foldl (fun m n =>
    if bit s.shore.alarms.active n then max m (alarmActs s n + 1) else m) s.shore.alarms.latch

/-- Key use is blocked (R351, R370, R374). -/
def keyBlocked (s : State) : Bool :=
  bit s.shore.keys.unlocked 64 ||
  (List.range 8).any (fun n => bit s.shore.alarms.active n && decide (1 ≤ alarmActs s n))

/-- The key unit holds derived keys. -/
def keysHeld (s : State) : Bool := decide (s.shore.keys.root ≠ 0)

/-- A refused key use (R351). -/
def keyDenied (s : State) : State := sinc 0x200C 0 32 1 s

/-- ERASE (R368, R440): W, roots, keys, DRBG, SPDM state and content keys are gone. -/
def eraseKeys (s : State) : State :=
  onShore (fun h => { h with
    keys := { h.keys with
      w := none, root := 0, rootKey := [], kSetup := none, kId := none, kAlias := none,
      kSeal := none, kWrap := none, erased := true, inhibit := true, drbg := none,
      spdm := Vector.replicate 4 0, transcript := [],
      ceks := h.keys.ceks.map (fun c => { c with key := none, spoiled := true }) } }) s

/-- ALARM_NOTICE (R365): a message to every in-service pond, its DATA0 2^63 + the source
(assumption 21). -/
def alarmNotice (n : Nat) (s : State) : State :=
  (List.range 64).foldl (fun t p =>
    if inService s p then
      hubEmit ⟨msgHead p 64 0 0 (shoreEpoch s + latOf s) 0 4 (2 ^ 63 + n), [], none, 0⟩ t
    else t) s

/-- The log entry and the per-source records of a registration (Table 13.10). -/
def alarmLog (n : Nat) (s : State) : State :=
  let e := shoreEpoch s
  let k := (sreg s 0x2198).toNat % 32
  let lo : Word := BitVec.ofNat 32 e
  let hi : Word := BitVec.ofNat 32 (e / 2 ^ 32)
  let s1 := if s.shore.alarms.raised = 0 then sset 0x21B0 hi (sset 0x21AC lo s) else s
  let s2 := sset (0x2154 + 8 * n) hi (sset (0x2150 + 8 * n) lo (sinc (0x2110 + 4 * n) 0 32 1 s1))
  smod 0x2198 (fun w => w + 1) (onShore (fun h => { h with alarms := { h.alarms with
    log := h.alarms.log.setAll (4 * k) 1 [lo, hi,
      BitVec.ofNat 32 (n + 256 * (alarmActs s n + 1)), s.shore.tbs.tb.extractLsb' 0 32] } }) s2)

/-- A source is registered and acts at its level (R365 to R367). -/
def alarmRaise (n : Nat) (s : State) : State :=
  let before := alarmState s
  let act := alarmActs s n
  let s0 := if alarmLevel s n = 3 ∧ act = 2 then sinc 0x21B8 16 16 1 s else s
  let s1 := alarmLog n s0
  let s2 := onShore (fun h => { h with alarms := { h.alarms with
    active := setBit h.alarms.active n true, raised := setBit h.alarms.raised n true,
    latch := if 2 ≤ act then max h.alarms.latch (act + 1) else h.alarms.latch } }) s1
  let s3 := if before ≠ 0 ∧ before < act + 1 then sinc 0x21BC 0 32 1 s2 else s2
  let s4 := alarmNotice n s3
  if 2 ≤ act then
    let s5 := if s4.shore.alarms.erase.isSome then s4 else
      onShore (fun h => { h with alarms := { h.alarms with erase := some s.ns } }) (eraseKeys s4)
    if act = 3 ∧ s5.shore.boot.lc ≠ 3 then
      onShore (fun h => { h with
        alarms := { h.alarms with huskWait := true }, boot := { h.boot with lcPending := 3 } }) s5
    else s5
  else s4

/-- Several sources of one cycle, in number order (R367). -/
def alarmRaises (m : BitVec 8) (s : State) : State := (bitsOf 8 m.toNat).foldl (fun t n => alarmRaise n t) s

end Sys2Proof.Machine
end

