-- ==== Sys2Proof/Machine/Ledger.lean ====
section
/-! DEFINITION. The energy ledger (chapter 12): the tap's post (R315 to R317), bookings and the
continuity check (R318, R319, R325), the conservation check (R326), account records (R323), and
the close of an interval with its merge into a full queue (R328 to R330, R334). -/

namespace Sys2Proof.Machine

/-! ### The tap's post -/

/-- An edge that the tap still waits on: a burst of it runs or its trigger is on its way. -/
def tapAwaited (P : Pond) (o : TapOpen) : Bool :=
  [0, 1].any (fun n =>
    let c := convOf P n
    (match c.burst with | some b => b.edge == o.edge | none => false) || c.trigs.contains o.edge)

/-- An edge of an epoch before `e`. -/
def tapEarlier (len e : Nat) (o : TapOpen) : Bool := decide (o.edge.nom / (16 * max 1 len) < e)

/-- The products of the epochs before `e` taken into X. Of the edges of those epochs, one that waits for a code
that nothing will bring is a gap (R168); one that missed a code is remembered while another may still come. -/
def tapTake (len e : Nat) (awaited : TapOpen → Bool) (t : Tap) : Tap :=
  let l := t.opened.filter (fun o => !tapEarlier len e o || o.miss || o.whole)
  let d := tapDrain len l.length { t with opened := l, gaps := t.gaps + (t.opened.length - l.length) }
  { d with
    opened := d.opened.filter (fun o => !tapEarlier len e o || awaited o),
    x := (d.pend.filter (fun q => decide (q.1 < e))).foldl (fun a q => a + q.2) d.x,
    pend := d.pend.filter (fun q => decide (e ≤ q.1)) }

/-- CORE of Table 12.2. -/
def coreState (P : Pond) : Nat :=
  if P.core.run == .locked then 1
  else if P.core.df then 2
  else if !P.life.started || P.life.nostart || P.life.resetEnd.isSome then 3 else 0

/-- The energy post of a pond (R317, Table 12.2). -/
def energyPacket (c : PCtx) (P : Pond) (quanta cum : Int) : Packet :=
  let e := epochOf P
  let t := P.tap
  let last := 64 * coreState P + 32 * b2n (decide (0 < t.carried)) + 16 * b2n P.alignPost + P.grp.st % 16
  let flit : BitVec 128 := BitVec.ofNat 128 ((BitVec.ofInt 64 cum).toNat + 2 ^ 64 * t.tag.toNat +
    2 ^ 96 * satTo 16 t.lateNew + 2 ^ 112 * satTo 8 t.gaps + 2 ^ 120 * last)
  let sl := match t.sluice with | some n => if slOpenAt c n e then some n else none | none => none
  ⟨msgHead 64 c.p 1 P.life.inc.toNat (e + c.lat) 0 1 (BitVec.ofInt 64 quanta).toNat, [flit], sl, c.ns⟩

/-- ENERGY_POST (R315, R316): nothing while no post is due, an earlier edge is awaited, or the
incarnation is not confirmed. -/
def energyPost (c : PCtx) (P : Pond) : Pond :=
  let e := epochOf P
  if !P.tap.due || P.life.incWait || !P.life.inService ||
    P.tap.opened.any (fun o => tapEarlier c.epochLen e o && !o.miss && tapAwaited P o) then P
  else
    let t := tapTake c.epochLen e (tapAwaited P) P.tap
    let w := t.x.fdiv ((2 ^ 48 : Nat) : Int)
    let P1 := { P with tap := t }
    let k := energyPacket c P1 w ((t.cum : Int) + w)
    emit c.ns k { P1 with
      alignPost := false,
      tap := { t with
        x := t.x - w * ((2 ^ 48 : Nat) : Int), cum := t.cum + w, due := false, gaps := 0,
        carried := 0, lateNew := 0 } }

/-- ENERGY_POST of pond p. -/
def execEnergyPost (p : PondId) (s : State) : Host.Outcome State Fault Refusal :=
  let before := (pondOf s p).out.length
  let s1 := onPond p (energyPost (pctx s p)) s
  .next (onShore (fun h => { h with weir := { h.weir with
    energy := h.weir.energy ++ (pondOf s1 p).out.drop before } }) s1)

/-! ### Accounts -/

/-- Account n. -/
def acctOf (l : Ledger) (n : Nat) : Acct := KMap.get Acct.free l.accts n

/-- Account n replaced by a function of itself. -/
def acctMod (n : Nat) (f : Acct → Acct) (l : Ledger) : Ledger :=
  { l with accts := KMap.set Acct.free l.accts n (f (acctOf l n)) }

/-- The account open under a tag; tag 0 is account 0. -/
def acctByTag (l : Ledger) (tag : Word) : Option Nat :=
  if tag = 0 then some 0
  else (l.accts.find? (fun e => e.2.st == 1 && e.2.tag == tag && decide (e.1 ≠ 0))).map (·.1)

/-- The lowest free account of 1 to 255. -/
def acctFree (l : Ledger) : Option Nat :=
  (List.range 256).find? (fun n => decide (0 < n) && (acctOf l n).st == 0)

/-- An account opened under a tag (R303). -/
def acctOpen (n : Nat) (tag : Word) (l : Ledger) : Ledger :=
  acctMod n (fun _ => ⟨tag, 1, true, false, 0, 0⟩) l

/-- An account closed (R322). -/
def acctClose (n : Nat) (l : Ledger) : Ledger := acctMod n (fun a => { a with st := 2 }) l

/-- The ponds assigned to an account. -/
def acctPonds (s : State) (n : Nat) : BitVec 64 :=
  BitVec.ofNat 64 (maskOf 64 (fun p => inService s p && (s.shore.ledger.assign.get p).toNat == n))

/-- The number of ponds of a mask. -/
def popMask (m : BitVec 64) : Nat := (bitsOf 64 m.toNat).length

/-- The record of account n for the open interval. -/
def acctRec (s : State) (n : Nat) : AcctRec :=
  let a := acctOf s.shore.ledger n
  { num := n, tag := a.tag,
    flags := 8 * b2n a.redirect + 4 * b2n (a.st == 2) + 2 * b2n a.opened + b2n (a.st == 1),
    interval := a.interval, total := a.total, mask := acctPonds s n }

/-- The port to which an open tag is bound (R304). -/
def boundPort (s : State) (tag : Word) : Option Nat :=
  (s.shore.binds.find? (fun b => b.1 == tag)).map (·.2)

/-- The 32 bytes of an account record; a seal carries no binding (Table 12.3). -/
def acctBytes (r : AcctRec) (bound : Option Nat) : List Byte :=
  leBytes r.tag.toNat 4 ++ [BitVec.ofNat 8 r.num, BitVec.ofNat 8 r.flags,
    BitVec.ofNat 8 (match bound with | some p => 128 + p | none => 0), BitVec.ofNat 8 (popMask r.mask)] ++
  leBytes (BitVec.ofInt 64 r.interval).toNat 8 ++ leBytes (BitVec.ofInt 64 r.total).toNat 8 ++
  leBytes r.mask.toNat 8

/-- The record of account n as ACCT_READ and the mirror write it (R323). -/
def acctNow (s : State) (n : Nat) : List Byte :=
  let r := acctRec s n
  acctBytes r (if n = 0 then none else boundPort s r.tag)

/-! ### Checks and bookings -/

/-- A failed conservation check of epoch `e` (R327): kind 0 continuity of a pond, 1 sum. -/
def checkFail (kind pond e : Nat) (d : Int) (s : State) : State :=
  let b : BitVec 64 := BitVec.ofInt 64 d
  let s1 := if bit (sreg s 0x3070) 31 then s else
    sset 0x307C (b.extractLsb' 32 32) (sset 0x3078 (b.extractLsb' 0 32)
      (sset 0x3074 (BitVec.ofNat 32 e)
        (sset 0x3070 (BitVec.ofNat 32 (2 ^ 31 + 256 * kind + pond % 64)) s)))
  alarmRaise 4 (markFlag 6 (sinc 0x3044 0 32 1 s1))

/-- Quanta credited to an account and to LDG_MEASURED (R324). -/
def credit (n : Nat) (q : Int) (s : State) : State :=
  onLedger (fun l =>
    let l1 := acctMod n (fun a => { a with interval := a.interval + q, total := a.total + q }) l
    { l1 with
      cnt := { l1.cnt with measured := l1.cnt.measured + q }, measuredAll := l1.measuredAll + q,
      chkM := l1.chkM + q, chkA := l1.chkA + q }) s

/-- A 64-bit count of two registers raised by 1. -/
def inc64 (off : Nat) (s : State) : State :=
  let v := (sreg s off).toNat + 2 ^ 32 * (sreg s (off + 4)).toNat + 1
  sset (off + 4) (BitVec.ofNat 32 (v / 2 ^ 32)) (sset off (BitVec.ofNat 32 v) s)

/-- CONTINUITY_CHECK of a booking (R325). -/
def continuity (h : HeldPost) (s : State) : State :=
  let l := s.shore.ledger
  let want := KMap.get 0 l.cumL h.pond + h.quanta
  let d := h.cum - want
  let s1 := onLedger (fun l => { l with
    cumL := KMap.set 0 l.cumL h.pond h.cum,
    lastDiff := if d = 0 then l.lastDiff else KMap.set 0 l.lastDiff h.pond d }) s
  if d = 0 then s1 else checkFail 0 h.pond (shoreEpoch s) d (sinc 0x3048 0 32 1 (credit 0 d s1))

/-- ENERGY_BOOKING (R319): into the account open under the tag, or account 0. -/
def bookPost (h : HeldPost) (s : State) : State :=
  let s1 := match acctByTag s.shore.ledger h.tag with
    | some n => credit n h.quanta s
    | none =>
      onCount (fun c => { c with redirects := c.redirects + 1 })
        (onLedger (acctMod 0 (fun a => { a with redirect := true })) (sinc 0x3050 0 32 1 (credit 0 h.quanta s)))
  let s2 := onCount (fun c => { c with gaps := c.gaps + h.gaps })
    (sinc 0x3054 0 32 h.gaps (inc64 0x3144 s1))
  let s3 := onLedger (fun l => { l with
    lastPost := l.lastPost.set h.pond (BitVec.ofNat 32 (shoreEpoch s)) }) s2
  let s4 := continuity h s3
  if h.deferred then markTiming s4 else s4

/-- The Shore's record of a pond's latest post, beyond the registers (Table 10.9): word 0 late
increments, word 1 byte 0x0F of the post, words 2 and 3 the epoch. -/
def postRec (p i : Nat) : Nat := 0x10000 + 16 * p + 4 * i

/-- A late energy post: counted, and booked into the current epoch (R318, R52). -/
def latePost (h : HeldPost) (s : State) : State :=
  let s1 := sinc 0x608C 0 32 1 (sinc (0x3154 + 4 * (h.pond / 8)) 0 32 1 (sinc 0x304C 0 32 1 (countLateTotal 1 s)))
  bookPost h (onCount (fun x => { x with latePosts := x.latePosts + 1 }) s1)

/-- An energy post read from its packet (Table 12.2). -/
def heldPostOf (k : Packet) (apply ns : Nat) : HeldPost :=
  let b := k.bytes
  { apply := apply, pond := k.src % 64, quanta := k.data0.toInt,
    cum := (BitVec.ofNat 64 (leAt b 0 8)).toInt, tag := BitVec.ofNat 32 (leAt b 8 4),
    gaps := leAt b 14 1, deferred := leAt b 15 1 / 32 % 2 == 1, came := ns }

/-- What an energy post reports reaches the Shore (R52). -/
def postReport (k : Packet) (s : State) : State :=
  let b := k.bytes
  let p := k.src % 64
  let late := leAt b 12 2
  let e := shoreEpoch s
  let s1 := sinc (0x606C + 4 * (p / 8)) 0 32 late (countLateTotal late s)
  let s2 := smod (postRec p 0) (fun w => w + BitVec.ofNat 32 late) s1
  sset (postRec p 3) (BitVec.ofNat 32 (e / 2 ^ 32)) (sset (postRec p 2) (BitVec.ofNat 32 e)
    (sset (postRec p 1) (BitVec.ofNat 32 (leAt b 15 1)) s2))

/-- An energy post reaches the ledger (R318): held for its apply epoch, or booked late. -/
def energyArrive (k : Packet) (s : State) : State :=
  let c := shoreEpoch s
  let a := applyEpoch c k.apply
  let s1 := postReport k s
  if (c : Int) < a ∧ a ≤ (c : Int) + 9 then
    onLedger (fun l => { l with held := l.held ++ [heldPostOf k a.toNat s.ns] }) s1
  else latePost (heldPostOf k c s.ns) s1

/-- The oldest packet that waits at an endpoint and satisfies `f` taken. -/
def takeEjected (e : Nat) (f : Packet → Bool) (s : State) : Option (Packet × State) :=
  let l := KMap.get [] s.shore.weir.ejected e
  match l.find? f with
  | none => none
  | some k => some (k, onShore (fun h => { h with weir := { h.weir with
      ejected := KMap.set [] h.weir.ejected e (eraseFirst f l) } }) s)

/-- ENERGY_POST_ARRIVAL: the oldest energy post at the hub reaches the ledger (R318). -/
def execEnergyPostArrival (s : State) : Host.Outcome State Fault Refusal :=
  .next (match takeEjected 64 (fun k => k.cls == 0 && k.kind == 1) s with
    | some (k, s1) =>
      energyArrive k (onShore (fun h => { h with weir := { h.weir with
        energy := eraseFirst (fun x => x == k) h.weir.energy } }) s1)
    | none => s)

/-! ### Intervals -/

/-- UTC of a boundary under the anchor in force; 0 with none (R329). -/
def utcAt (s : State) (e : Nat) : Int :=
  match s.shore.ledger.anchor with
  | none => 0
  | some (a, u) => (u : Int) + ((e : Int) - (a : Int)) * (lenOf s : Int)

/-- An interval ends at boundary `e` (R328, R329). -/
def intervalEnds (s : State) (e : Nat) : Bool :=
  let m : Int := 60000000000
  match s.shore.ledger.anchor with
  | none => decide (0 < e) && decide ((e - 1) * lenOf s / 60000000000 < e * lenOf s / 60000000000)
  | some (a, _) => decide (a < e) && decide ((utcAt s (e - 1)).fdiv m < (utcAt s e).fdiv m)

/-- UTC of a boundary in a seal (R329): that of the anchor in force, 0 for a boundary before the first
anchor. -/
def utcSeal (s : State) (e : Nat) : Int :=
  match s.shore.ledger.anchorFirst with
  | none => 0
  | some a => if e < a then 0 else utcAt s e

/-- The flags of the interval in progress (Table 12.5): those of its events, UNANCHORED while no anchor is in
force, FIRST_AFTER_COLD. -/
def ivFlags (s : State) : Word :=
  let l := s.shore.ledger
  l.cnt.flags ||| (if l.anchor.isNone then 2 else 0) ||| (if l.cold then 0x80 else 0)

/-- A snapshot of the interval in progress that ends at `stop` with flags added. -/
def ivSnap (stop : Nat) (add : Word) (s : State) : IvSnap :=
  let l := s.shore.ledger
  { start := l.ivStart, stop := stop, utcStart := utcSeal s l.ivStart, utcStop := utcSeal s stop,
    cnt := { l.cnt with flags := ivFlags s ||| add },
    recs := (List.range 256).filterMap (fun n => if (acctOf l n).st = 0 then none else some (acctRec s n)),
    lc := s.shore.boot.lc, bound := 0, len := lenOf s, closed := s.ns }

/-- A record at its place in account order, after those of the same number. -/
def recInsert (r : AcctRec) : List AcctRec → List AcctRec
  | [] => [r]
  | x :: t => if r.num < x.num then r :: x :: t else x :: recInsert r t

/-- Records of two intervals merged, in account order (R332; assumption 22); OPEN is that of the
end. -/
def mergeRecs (a b : List AcctRec) : List AcctRec :=
  let up (r : AcctRec) : AcctRec :=
    match a.find? (fun x => x.num == r.num && x.tag == r.tag) with
    | some x => { r with
        interval := x.interval + r.interval, flags := (x.flags ||| r.flags) / 2 * 2 + r.flags % 2 }
    | none => r
  let old := a.filter (fun x => !b.any (fun r => r.num == x.num && r.tag == x.tag))
  (old ++ b.map up).foldl (fun l r => recInsert r l) []

/-- Two counts added; the flags are combined (R334). -/
def IvCount.merge (a b : IvCount) : IvCount :=
  { flags := a.flags ||| b.flags ||| 0x200, gaps := a.gaps + b.gaps, late := a.late + b.late,
    latePosts := a.latePosts + b.latePosts, redirects := a.redirects + b.redirects,
    asap := a.asap + b.asap, collide := a.collide + b.collide, measured := a.measured + b.measured }

/-- INTERVAL_MERGE (R334). -/
def IvSnap.merge (a b : IvSnap) : IvSnap :=
  { a with stop := b.stop, utcStop := b.utcStop, cnt := a.cnt.merge b.cnt, recs := mergeRecs a.recs b.recs }

/-- A snapshot enters the queue, or merges into its youngest entry (R334). -/
def ivEnqueue (x : IvSnap) (s : State) : State :=
  let q := s.shore.ledger.queue
  if q.length < 8 then onLedger (fun l => { l with queue := q ++ [x] }) s
  else sinc 0x3058 0 32 1 (onLedger (fun l => { l with
    queue := q.dropLast ++ (q.getLast?.map (fun y => y.merge x)).toList }) s)

/-- INTERVAL_CLOSE: the interval in progress ends at `stop`; the next begins at `next`. -/
def ivClose (stop next : Nat) (add : Word) (s : State) : State :=
  let s1 := ivEnqueue (ivSnap stop add s) s
  onLedger (fun l => { l with
    accts := (l.accts.filter (fun e => e.2.st != 2)).map (fun e =>
      (e.1, { e.2 with opened := false, redirect := false, interval := 0 })),
    cnt := IvCount.zero, ivStart := next, cold := false }) s1

/-- CONSERVATION_CHECK at a boundary: the sum over the epoch just ended (R326). -/
def conserve (s : State) : State :=
  let d := s.shore.ledger.chkM - s.shore.ledger.chkA
  let s1 := onLedger (fun l => { l with chkM := 0, chkA := 0 }) s
  if d = 0 then s1 else checkFail 1 0 (shoreEpoch s - 1) d s1

/-- The posts held for boundary `e` are booked (R318); one that arrived in the Shore cycle of its registration
is late (R50). -/
def bookDue (e : Nat) (s : State) : State :=
  let now := s.shore.ledger.held.filter (fun h => decide (h.apply ≤ e))
  now.foldl (fun t h => if h.came = s.ns then latePost h t else bookPost h t)
    (onLedger (fun l => { l with held := l.held.filter (fun h => decide (e < h.apply)) }) s)

end Sys2Proof.Machine
end

