-- ==== Sys2Proof/Machine/CmdBase.lean ====
section
/-! DEFINITION. What every host command shares (chapter 11, sections 1 and 2): the opcode table
(R292), the checks at consumption (R289), authority (R26 to R29), the completion head (R286), the
decision of the commands of one epoch in commit order (R59, R287), and consumption (R272). -/

namespace Sys2Proof.Machine

/-- What Table 11.4 gives for an opcode. `who`: 0 T, 1 T/L, 2 S, 3 Any, 4 PEEK's own; `targets`:
bit 0 a pond, bit 1 the Shore, bit 2 the setup slot, bit 3 none; `used`: the operand bits, by
first bit in the descriptor and length. -/
structure OpInfo where
  who : Nat
  state : Bool
  targets : Nat
  used : List (Nat × Nat)
  deriving DecidableEq, Repr

/-- A whole operand of `len` bytes at a descriptor offset. -/
def opnd (off len : Nat) : Nat × Nat := (8 * off, 8 * len)

/-- Table 11.4; none for an opcode it does not assign. -/
def opInfo (code : Nat) : Option OpInfo :=
  match code with
  | 0x01 => some ⟨3, false, 8, []⟩
  | 0x02 => some ⟨3, false, 8, [opnd 0x10 8]⟩
  | 0x10 => some ⟨0, true, 1, [(0x80, 2), (0x84, 2), opnd 0x14 4]⟩
  | 0x11 => some ⟨0, true, 1, []⟩
  | 0x12 => some ⟨2, true, 8, []⟩
  | 0x20 => some ⟨4, false, 3, [opnd 0x10 4]⟩
  | 0x21 => some ⟨0, true, 3, [opnd 0x10 4, opnd 0x14 4]⟩
  | 0x30 => some ⟨0, true, 1, [opnd 0x10 8, opnd 0x18 1]⟩
  | 0x31 => some ⟨1, true, 1, [(0x80, 6), (0x88, 4)]⟩
  | 0x32 => some ⟨1, true, 1, [(0x80, 6)]⟩
  | 0x33 => some ⟨1, true, 1, [(0x80, 2), opnd 0x14 3, opnd 0x18 3]⟩
  | 0x34 => some ⟨0, true, 8, [(0x80, 3), opnd 0x11 1, opnd 0x18 8, opnd 0x20 4]⟩
  | 0x40 => some ⟨0, true, 8, [opnd 0x10 1, opnd 0x18 8]⟩
  | 0x41 => some ⟨0, true, 8, [opnd 0x10 1]⟩
  | 0x42 => some ⟨1, true, 1, [(0x80, 1), opnd 0x11 1, opnd 0x18 8, (0x100, 5)]⟩
  | 0x50 => some ⟨0, true, 8, [opnd 0x10 4]⟩
  | 0x51 => some ⟨0, true, 8, [opnd 0x10 4]⟩
  | 0x52 => some ⟨0, true, 1, [opnd 0x10 4]⟩
  | 0x53 => some ⟨0, false, 8, [opnd 0x10 4, (0xA0, 2)]⟩
  | 0x54 => some ⟨0, false, 8, [opnd 0x10 4]⟩
  | 0x55 => some ⟨3, false, 8, [opnd 0x10 4, opnd 0x18 8]⟩
  | 0x56 => some ⟨3, false, 8, [opnd 0x10 8, opnd 0x18 8, opnd 0x20 4]⟩
  | 0x57 => some ⟨0, true, 8, [opnd 0x10 8]⟩
  | 0x60 => some ⟨0, false, 7, [opnd 0x10 2, opnd 0x14 2]⟩
  | 0x61 => some ⟨0, false, 7, [opnd 0x10 4, opnd 0x14 4, opnd 0x18 8]⟩
  | 0x62 => some ⟨0, false, 7, []⟩
  | 0x63 => some ⟨0, true, 7, []⟩
  | 0x70 => some ⟨3, false, 8, [opnd 0x10 8, opnd 0x18 4, opnd 0x1C 4, opnd 0x20 8]⟩
  | 0x71 => some ⟨0, true, 8, [opnd 0x10 4]⟩
  | _ => none

/-- The opcode of a command. -/
def Cmd.op (c : Cmd) : Nat := leAt c.desc 0 1

/-- TARGET of a command. -/
def Cmd.target (c : Cmd) : Nat := leAt c.desc 4 1

/-- A little-endian operand of a command. -/
def Cmd.arg (c : Cmd) (off len : Nat) : Nat := leAt c.desc off len

/-- APPLY of a descriptor that means ASAP (Table 11.2). -/
def asapValue : Nat := 0xFFFFFFFFFFFFFFFF

/-- Offsets at which an operand breaks a limit of Table 11.4. -/
def limitFails (d : List Byte) : List Nat :=
  let a (off len : Nat) : Nat := leAt d off len
  let bad (b : Bool) (off : Nat) : List Nat := if b then [off] else []
  match a 0 1 with
  | 0x02 => bad (a 0x10 8 % 32 != 0) 0x10
  | 0x10 => bad (a 0x10 1 / 16 % 4 == 3) 0x10 ++
      bad (decide (a 0x14 4 < 1000) || decide (10000000 < a 0x14 4)) 0x14
  | 0x20 => bad (a 0x10 4 % 4 != 0) 0x10
  | 0x30 => bad (a 0x10 8 % 8 != 0) 0x10 ++ bad (a 0x18 1 == 0 || decide (188 < a 0x18 1)) 0x18
  | 0x31 =>
    let lanes := a 0x10 1 / 16 % 4
    let m0 := a 0x11 1 % 4
    let m1 := a 0x11 1 / 4 % 4
    let ok (named : Bool) (m : Nat) : Bool := !named || m == 1 || m == 2
    bad (a 0x10 1 % 64 == 0) 0x10 ++ bad (!ok (lanes % 2 == 1) m0 || !ok (decide (2 ≤ lanes)) m1) 0x11
  | 0x32 => bad (a 0x10 1 % 64 == 0) 0x10
  | 0x33 =>
    let m := a 0x10 1 % 4
    bad (m == 0) 0x10 ++ bad (m % 2 == 0 && a 0x14 3 != 0) 0x14 ++ bad (decide (m < 2) && a 0x18 3 != 0) 0x18
  | 0x40 => bad (decide (191 < a 0x10 1)) 0x10 ++ bad (a 0x18 8 % 64 != 0) 0x18
  | 0x42 =>
    if a 0x10 1 % 2 = 1 then
      bad (a 0x18 8 % 4096 != 0) 0x18 ++
        bad (decide (a 0x20 1 % 32 < 12) || decide (24 < a 0x20 1 % 32)) 0x20
    else bad (a 0x11 1 != 0) 0x11 ++ bad (a 0x18 8 != 0) 0x18 ++ bad (a 0x20 1 != 0) 0x20
  | 0x50 => bad (a 0x10 4 == 0) 0x10
  | 0x51 => bad (a 0x10 4 == 0) 0x10
  | 0x53 => bad (a 0x10 4 == 0) 0x10
  | 0x54 => bad (a 0x10 4 == 0) 0x10
  | 0x55 => bad (a 0x18 8 % 32 != 0) 0x18
  | 0x56 => bad (a 0x18 8 % 8 != 0) 0x18
  | 0x60 => bad (a 0x14 2 == 0) 0x14
  | 0x61 =>
    bad (a 0x10 4 % 32 != 0) 0x10 ++
      bad (decide (a 0x14 4 < 32) || decide (4096 < a 0x14 4) || a 0x14 4 % 32 != 0) 0x14 ++
      bad (a 0x18 8 % 4 != 0) 0x18
  | 0x70 => bad (decide (a 0x18 4 < 4) || decide (4096 < a 0x18 4)) 0x18 ++
      bad (decide (a 0x1C 4 < 4) || decide (4096 < a 0x1C 4)) 0x1C
  | 0x71 => bad (a 0x10 4 == 0) 0x10 ++ ([0x11, 0x12, 0x13].filter (fun o => a o 1 != 0)).take 1
  | _ => []

/-- The first byte that holds a bit outside the fields in use (R285, R11). -/
def reservedFail (i : OpInfo) (d : List Byte) : List Nat :=
  let ok : List (Nat × Nat) := [(0, 8), (16, 16), (32, 8), (64, 64)] ++ i.used
  ((List.range 64).find? (fun j =>
    (List.range 8).any (fun b =>
      bit (d.getD j 0) b && !ok.any (fun u => decide (u.1 ≤ 8 * j + b) && decide (8 * j + b < u.1 + u.2))))).toList

/-- TARGET is one the opcode's entry names (R292). -/
def targetOk (i : OpInfo) (t : Nat) : Bool :=
  (decide (t < 64) && i.targets % 2 == 1) || (t == 64 && i.targets / 2 % 2 == 1) ||
  (t == 65 && i.targets / 4 % 2 == 1) || (t == 255 && i.targets / 8 % 2 == 1)

/-- Check 3 of R289: the descriptor offset of the first failing byte. -/
def badField (i : OpInfo) (d : List Byte) : Option Nat :=
  let op := leAt d 0 1
  let l := reservedFail i d ++ (if targetOk i (leAt d 4 1) then [] else [4]) ++
    (if (!i.state || op == 0x21) && leAt d 8 8 != asapValue then [8] else []) ++ limitFails d
  l.foldl (fun m x => match m with | none => some x | some y => some (min x y)) none

/-- The recovery subset (R290). -/
def recoveryOk (op t : Nat) : Bool :=
  [0x01, 0x02, 0x12, 0x10, 0x11, 0x20, 0x21, 0x31, 0x32, 0x33].contains op ||
  ((op == 0x60 || op == 0x61) && (t == 64 || t == 65))

/-- HP_START.RECOVERY: no valid Shore firmware runs. -/
def recovery (s : State) : Bool := s.shore.boot.fwInvalid

/-- Check 4 of R289: the role may be permitted the opcode. -/
def roleOk (role : Nat) (i : OpInfo) (t : Nat) : Bool :=
  match i.who with
  | 0 => role == 0
  | 1 => role == 0 || role == 1
  | 2 => role == 0
  | 3 => true
  | _ => role == 0 || (role == 1 && decide (t < 64))

/-- The ponds a descriptor names. -/
def namedPonds (d : List Byte) : List Nat :=
  (if leAt d 4 1 < 64 then [leAt d 4 1] else []) ++
  (if leAt d 0 1 = 0x34 then bitsOf 64 (leAt d 0x18 8) else [])

/-- The future-dated commands held (R56): those with an explicit apply epoch. -/
def schedUsed (s : State) : Nat :=
  (s.shore.cmds.filter (fun c => !c.asap && (opInfo c.op).any (·.state) &&
    (match c.phase with
      | .held _ => true | .reading _ _ => true | .acted _ _ _ => true | .record => true | _ => false))).length

/-- Checks 1 to 6 of R289, and LEASE's check of R293: the status and detail of the first that
fails. -/
def consumeChecks (s : State) (h : Nat) (d : List Byte) : Option (Nat × Nat) :=
  let op := leAt d 0 1
  match opInfo op with
  | none => some (0x01, 0)
  | some i =>
    if recovery s && !recoveryOk op (leAt d 4 1) then some (0x03, 0) else
    match badField i d with
    | some off => some (0x02, off)
    | none =>
      if !roleOk (portOf s h).role i (leAt d 4 1) then some (0x04, 0) else
      match (namedPonds d).find? (fun p => !inService s p) with
      | some p => some (0x05, p)
      | none =>
        let a := leAt d 8 8
        let c := shoreEpoch s
        if i.state && op != 0x21 && a != asapValue && decide (a < c + latOf s) then some (0x06, 0)
        else if i.state && op != 0x21 && a != asapValue && decide (c + 2 ^ 32 < a) then some (0x07, 0)
        else if i.state && op != 0x21 && a != asapValue && decide (512 ≤ schedUsed s) then some (0x08, 0)
        else if op == 0x10 && (portOf s (leAt d 0x10 1 % 4)).role != 1 then some (0x02, 0x10)
        else none

/-- The token and lease checks (R26 to R29): the status and detail of the first that fails. They do not
look at whether the lease's orphan policy has acted: a command consumed before the silence whose epoch
comes after the policy acted still takes effect, though its port has consumed nothing since
(DESIGN CHOICE, log 58: R31 says when authority returns and not that a held command has lost it). -/
def authority (s : State) (token : Option Nat) (lease : Option Lease) (c : Cmd) : Option (Nat × Nat) :=
  match opInfo c.op with
  | none => none
  | some i =>
    let role := (portOf s c.port).role
    let other := match lease with | some l => l.port != c.port | none => true
    if (i.who == 0 || ((i.who == 1 || i.who == 4) && role == 0)) && token != some c.port then some (0x09, 0)
    else if i.who == 1 && role == 0 then lease.map (fun l => (0x0A, l.port))
    else if (i.who == 1 || i.who == 4) && role == 1 && other then some (0x0B, 0)
    else if c.op == 0x10 then lease.map (fun l => (0x0A, l.port))
    else if c.op == 0x11 && lease.isNone then some (0x0B, 0)
    else none

/-- The lease of a pond. -/
def leaseOf (s : State) (p : Nat) : Option Lease := KMap.get none s.shore.leases p

/-- The two checks against the state in force. -/
def authorityNow (s : State) (c : Cmd) : Option (Nat × Nat) :=
  authority s s.shore.token (if c.target < 64 then leaseOf s c.target else none) c

/-! ### Completions -/

/-- Bytes 0x00 to 0x13 of a completion (Table 11.3). -/
def cplHead (c : Cmd) (status detail commit applied : Nat) (result : Word) (lost : Bool) : List Byte :=
  [BitVec.ofNat 8 status, BitVec.ofNat 8 c.op,
    BitVec.ofNat 8 (8 * b2n lost + 4 * b2n c.collide + 2 * b2n c.timing + b2n c.asap),
    BitVec.ofNat 8 detail] ++
  slice c.desc 2 2 ++ leBytes commit 2 ++ leBytes applied 8 ++ leBytes result.toNat 4

/-- A command replaced by a function of itself. -/
def onCmd (order : Nat) (f : Cmd → Cmd) (s : State) : State :=
  onShore (fun h => { h with cmds := modFirst (fun c => c.order == order) f h.cmds }) s

/-- The command of this consumption order. -/
def cmdOf (s : State) (order : Nat) : Option Cmd := s.shore.cmds.find? (fun c => c.order == order)

/-- A command completes: it leaves the list, and its completion is produced (R273, R287). -/
def finish (c : Cmd) (status detail commit applied : Nat) (result : Word) (lost : Bool) (s : State) :
    State :=
  produceCpl c.port c.ctx c.life c.index c.order (cplHead c status detail commit applied result lost)
    (onShore (fun h => { h with cmds := eraseFirst (fun x => x.order == c.order) h.cmds }) s)

/-- A command ends at consumption, or changes no state: APPLIED is the epoch at consumption. -/
def finishNow (c : Cmd) (status detail : Nat) (result : Word) (s : State) : State :=
  finish c status detail 0 c.epoch result false s

/-- A command put in a phase. -/
def setPhase (c : Cmd) (ph : Phase) (s : State) : State := onCmd c.order (fun x => { x with phase := ph }) s

/-- Result data written to host memory, then the completion (R306); data that cannot be written
is lost. -/
def finishData (c : Cmd) (addr : Nat) (data : List Byte) (result : Word) (s : State) : State :=
  let go := canRequest (portOf s c.port)
  let s1 := if go then postWrite c.port addr data (.data c.order) s else s
  finish c 0 0 0 c.epoch result (!go) s1

/-! ### The commands of one epoch -/

/-- A command that waits for its apply epoch. -/
def Cmd.waits (c : Cmd) : Bool :=
  match c.phase with | .held _ => true | .acted _ _ _ => true | _ => false

/-- The commands held for epoch `a`, in consumption order, which is their commit order (R59). -/
def heldFor (s : State) (a : Nat) : List Cmd := s.shore.cmds.filter (fun c => c.waits && c.apply == a)

/-- The lease that a LEASE command grants at this moment (R27, R30). -/
def leaseFrom (s : State) (c : Cmd) : Lease :=
  { port := c.arg 0x10 1 % 4, policy := c.arg 0x10 1 / 16 % 4, timeout := c.arg 0x14 4, start := s.shore.tbs.lastNs,
    acted := false, due := none, done := false }

/-- The authority checks of a list of commands in order, from a token and leases: the order of each,
with the status and detail of its failure where it fails. -/
def decideAll (s : State) : Option Nat → KMap (Option Lease) → List Cmd → List (Nat × Option (Nat × Nat))
  | _, _, [] => []
  | tok, ls, c :: r =>
    match authority s tok (if c.target < 64 then KMap.get none ls c.target else none) c with
    | some f => (c.order, some f) :: decideAll s tok ls r
    | none =>
      let tok1 := if c.op = 0x12 then some c.port else tok
      let ls1 := if c.op = 0x10 then KMap.set none ls c.target (some (leaseFrom s c))
        else if c.op = 0x11 then KMap.set none ls c.target none else ls
      (c.order, none) :: decideAll s tok1 ls1 r

/-- A command of an operator port over its leased pond. -/
def operatorCmd (s : State) (c : Cmd) : Bool :=
  (opInfo c.op).any (fun i => i.who == 1) && (portOf s c.port).role == 1

/-- A RELEASE of the command's pond, consumed after it, takes effect at the same epoch: the release
applies first (R28). -/
def releasedFirst (l : List Cmd) (ds : List (Nat × Option (Nat × Nat))) (c : Cmd) : Bool :=
  l.any (fun x => x.op == 0x11 && x.target == c.target && decide (c.order < x.order) &&
    ds.any (fun d => d.1 == x.order && d.2.isNone))

/-- The verdicts of the authority checks at epoch `a` from the state in force (R289, R28). -/
def decisions (s : State) (a : Nat) : List (Nat × Option (Nat × Nat)) :=
  let l := heldFor s a
  let ds := decideAll s s.shore.token s.shore.leases l
  ds.map (fun d =>
    if d.2.isNone && l.any (fun c => c.order == d.1 && operatorCmd s c && releasedFirst l ds c)
    then (d.1, some (0x0B, 0)) else d)

/-- A command passes the authority checks of its epoch. -/
def passesIn (ds : List (Nat × Option (Nat × Nat))) (order : Nat) : Bool :=
  ds.any (fun d => d.1 == order && d.2.isNone)

/-- The verdict of a command of epoch `a` for its pond: the Shore's, or, where the Shore has not
registered the boundary yet, the one it will reach (assumption 23). -/
def passes (s : State) (order a : Nat) : Bool :=
  match cmdOf s order with
  | none => false
  | some c =>
    match c.phase with
    | .decided => true
    | .held _ => passesIn (decisions s a) order
    | _ => false

/-! ### Commands that take effect -/

/-- The key under which commands of two ports collide (R59): a pond, or 64 the token. -/
def collideKeys (c : Cmd) : List Nat := if c.op = 0x12 then [64] else namedPonds c.desc

/-- Two commands of different ports act on one pond or on the token (R59). -/
def meets (port : Nat) (keys : List Nat) (t : Taken) : Bool :=
  t.port != port && t.keys.any (fun k => keys.contains k)

/-- The commands of epoch `a` that took effect so far. -/
def takenAt (s : State) (a : Nat) : List Taken := s.shore.taken.filter (fun t => t.epoch == a)

/-- A command takes effect at its apply epoch (R59). A collision is counted when the second port takes
effect on a pond or the token, once for each pond or token and epoch, however many commands of however
many ports meet there (DESIGN CHOICE, log 51: R59 does not say how often). -/
def takeEffect (c : Cmd) (s : State) : State :=
  let ks := collideKeys c
  let old := takenAt s c.apply
  let two (k : Nat) : Bool := old.any (fun t => t.keys.contains k && old.any (meets t.port [k]))
  let hit := ks.filter (fun k => old.any (meets c.port [k]) && !two k)
  onShore (fun h => { h with taken := h.taken ++ [⟨c.apply, c.order, c.port, ks⟩] })
    (hit.foldl (fun t _ => countCollide t) s)

/-- A command of its epoch that is not decided yet. -/
def Cmd.openAt (a : Nat) (x : Cmd) : Bool :=
  x.apply == a && (match x.phase with | .decided => true | .held _ => true | .acted _ _ _ => true | _ => false)

/-- COMMIT and COLLIDE of a command that took effect are settled: no command before it, and none that it
could meet, is undecided. -/
def settled (s : State) (c : Cmd) : Bool :=
  !s.shore.cmds.any (fun x => x.openAt c.apply &&
    (decide (x.order < c.order) || meets c.port (collideKeys c) ⟨x.apply, x.order, x.port, collideKeys x⟩))

/-- The completion of a command that took effect (R60, R287): COMMIT numbers the commands that took
effect in its epoch, in consumption order. -/
def settleCmd (s : State) (c : Cmd) : State :=
  match c.phase with
  | .over r =>
    if !settled s c then s else
    let l := takenAt s c.apply
    let hit := l.any (meets c.port (collideKeys c))
    finish { c with collide := c.collide || hit, timing := c.timing || hit }
      0 0 (l.filter (fun t => decide (t.order < c.order))).length c.apply r false s
  | _ => s

/-- The commands of epoch `a` that are settled complete; an epoch with no command left is forgotten. -/
def settle (a : Nat) (s : State) : State :=
  let s1 := (s.shore.cmds.filter (fun c => c.apply == a)).foldl settleCmd s
  onShore (fun h => { h with
    taken := h.taken.filter (fun t => h.cmds.any (fun c => c.apply == t.epoch)),
    judged := h.judged.filter (fun j => h.cmds.any (fun c => c.order == j.1)) }) s1

/-- A held command has had its effect: it completes once its COMMIT is known. -/
def effect (c : Cmd) (result : Word) (s : State) : State :=
  settle c.apply (setPhase c (.over result) (takeEffect c s))

/-- A held command fails at its epoch, and has no effect. -/
def noEffect (c : Cmd) (status detail : Nat) (s : State) : State :=
  settle c.apply (finish c status detail 0 c.apply 0 false s)

/-- What a pond reports of a command: it completes, or, before the Shore's boundary, its outcome
waits. -/
def pondOutcome (order status detail : Nat) (result : Word) (s : State) : State :=
  match cmdOf s order with
  | none => s
  | some c =>
    match c.phase with
    | .decided => if status = 0 then effect c result s else noEffect c status detail s
    | .held _ => setPhase c (.acted status detail result) s
    | _ => s

/-! ### Consumption -/

/-- The head descriptor of a context is consumed now (R272). -/
def canConsume (s : State) (h n : Nat) : Bool :=
  let c := ctxOf s h n
  match c.block with
  | none => false
  | some b =>
    c.st == 3 && !c.fetched.isEmpty &&
    decide ((c.seq - c.head).toNat + c.owed < 2 ^ b.cplLog) &&
    decide ((portOf s h).reserve.length < 256)

/-- The moment at which the silence of a lease's port reaches its timeout (R30). -/
def leaseMoment (s : State) (l : Lease) : Nat :=
  max l.start ((portOf s l.port).lastUse.getD l.start) + 1000 * l.timeout

/-- The port of a lease is silent past its timeout (R30). -/
def leaseSilent (s : State) (l : Lease) : Bool := decide (leaseMoment s l ≤ s.ns)

/-- The first boundary at or after the moment of a lease whose port is silent (R30): one that the Shore has
still to register where the moment lies before the latest GSS edge, else the next one. -/
def leaseDue (s : State) (l : Lease) : Nat :=
  if leaseMoment s l ≤ s.shore.tbs.lastNs ∧ 0 < s.shore.tbs.edges then shoreEpoch s + 1
  else shoreEpoch s + s.shore.tbs.edges + 1

/-- A lease when its port consumes a descriptor (R30, R31): the port regains authority; a policy whose
moment has come before still acts, at the first boundary from that moment. -/
def leaseHeard (s : State) (l : Lease) : Lease :=
  if l.acted then { l with acted := false, due := none, done := false }
  else if l.due.isSome then l
  else if leaseSilent s l then { l with due := some (leaseDue s l) }
  else l

/-- The counts of a consumption, and the end of the port's silence (R30, R31). -/
def consumeCounts (h n : Nat) (s : State) : State :=
  let s1 := onCtx h n (fun c => { c with
    fetched := c.fetched.drop 1, consumed := c.consumed + 1, owed := c.owed + 1 }) s
  let s2 := onPort h (fun p => { p with lastUse := some s.ns }) s1
  onShore (fun x => { x with
    order := x.order + 1,
    leases := x.leases.map (fun e => (e.1, e.2.map (fun l =>
      if l.port = h then leaseHeard s l else l))) }) s2

/-- Consumption of the head descriptor: the counts, the checks of R289, then `f`. -/
def consumeWith (h n : Nat) (f : Cmd → State → State) (s : State) : State :=
  let x := ctxOf s h n
  let d := padTo 64 (x.fetched.headD [])
  let c := shoreEpoch s
  let asap := leAt d 8 8 == asapValue
  let cmd : Cmd :=
    { port := h, ctx := n, life := x.life, index := x.consumed, desc := d, order := s.shore.order,
      epoch := c, apply := if asap then c + latOf s else leAt d 8 8, asap := asap,
      phase := .queued, data := [], mark := 0, collide := false, timing := false }
  let s1 := onShore (fun y => { y with cmds := y.cmds ++ [cmd] }) (consumeCounts h n s)
  match consumeChecks s h d with
  | some (st, det) => finishNow cmd st det 0 s1
  | none => f cmd s1

/-- The head descriptor of a context carries this opcode. -/
def headIs (s : State) (h n op : Nat) : Bool :=
  match (ctxOf s h n).fetched with | [] => false | d :: _ => leAt d 0 1 == op

/-- A command row: the head descriptor of context n of port h is consumed where it carries the
opcode and R272 holds; otherwise the event cannot occur (assumption 12). -/
def consumeOp (op : Nat) (h : PortId) (n : CtxId) (f : Cmd → State → State) (s : State) :
    Host.Outcome State Fault Refusal :=
  .next (if canConsume s h.val n.val && headIs s h.val n.val op then consumeWith h.val n.val f s else s)

/-- A command that changes no state: the token and lease checks, then `f` (R289). -/
def atOnce (f : Cmd → State → State) (c : Cmd) (s : State) : State :=
  match authorityNow s c with
  | some (st, det) => finishNow c st det 0 s
  | none => f c s

/-- A command reads an operand from host memory (R295): at once abandoned where the port cannot. -/
def readOperand (addr len : Nat) (c : Cmd) (s : State) : State :=
  if canRequest (portOf s c.port) then setPhase c (.reading addr len) s
  else finishNow c 0x0F 0 0 (dmaErr c.port addr s)

/-- DETAIL of a record read that fails after `n` bytes of its record came: the index of the first entry that did
not (R295); 0 for the operands that are no configuration record. -/
def readDetail (c : Cmd) (n : Nat) : Nat := if c.op = 0x30 then min (n / 8) (c.arg 0x18 1) else 0

/-- A break of a port, with the operand reads of its commands abandoned (R258, R295); how many bytes of a read
had come is free (assumption 63). -/
def portBreak (h : Nat) (s : State) : State :=
  let s1 := breakPort h s
  (s1.shore.cmds.filter (fun c => c.port == h)).foldl (fun t c =>
    match c.phase with
    | .reading addr len =>
      finishNow c 0x0F (readDetail c ((shoreFree t 30).toNat % max 1 len)) 0 (useShoreFree (dmaErr h addr t))
    | _ => t) s1

end Sys2Proof.Machine
end

