-- ==== Sys2Proof/Machine/Sluice.lean ====
section
/-! DEFINITION. Sluices (chapter 9, section 6; R299, R300): links and stops by index (Table 9.2),
the path check of a sluice record, the delivery bound, opening, closing and freeing. -/

namespace Sys2Proof.Machine

/-- The ring of a link index (Table 9.2). -/
def linkRing (l : Nat) : Nat := l / 18

/-- The position of a link's sending stop in its ring. -/
def linkFrom (l : Nat) : Nat := l % 18 / 2

/-- The position at which a link arrives. -/
def linkTo (l : Nat) : Nat := if l % 2 = 0 then (linkFrom l + 1) % 9 else (linkFrom l + 8) % 9

/-- The stop index of a ring position (R219, Table 9.2). -/
def stopAt (ring pos : Nat) : Nat :=
  if ring = 8 then (if pos = 0 then 72 else 63 + pos)
  else if pos = 0 then 64 + ring else 8 * ring + pos - 1

/-- The stop a link leaves, and the one at which it arrives. -/
def linkSrc (l : Nat) : Nat := stopAt (linkRing l) (linkFrom l)
/-- The stop at which a link arrives. -/
def linkDst (l : Nat) : Nat := stopAt (linkRing l) (linkTo l)

/-- The stop of an endpoint. -/
def endStop (e : Nat) : Nat := if e < 64 then e else 72

/-- Link l. -/
def linkOf (s : State) (l : Nat) : Link := KMap.get Link.idle s.shore.weir.links l

/-- The fabric replaced by a function of itself. -/
def onWeir (f : Weir → Weir) (s : State) : State := onShore (fun h => { h with weir := f h.weir }) s

/-- Link l replaced by a function of itself. -/
def onLink (l : Nat) (f : Link → Link) (s : State) : State :=
  onWeir (fun w => { w with links := KMap.set Link.idle w.links l (f (KMap.get Link.idle w.links l)) }) s

/-- The wheel slots of a link that are reserved (R235). -/
def reservedSlots (w : Weir) (l : Nat) : Nat :=
  ((List.range 16).filter (fun j => (KMap.get Link.idle w.links l).wheel.get j != 0)).length

/-- The position of the first failing link of a path (R299). -/
def pathFail : Nat → Nat → List Nat → List Nat → Option Nat
  | _, _, _, [] => none
  | i, at_, used, l :: r =>
    if 161 < l || linkSrc l != at_ || used.contains l then some i
    else pathFail (i + 1) (linkDst l) (l :: used) r

/-- The record's check (R299): none where it passes, else DETAIL of BAD_PATH. -/
def sluiceCheck (d : List Byte) : Option Nat :=
  let b (i : Nat) : Nat := leAt d i 1
  let h := b 0
  let path := (List.range h).map (fun i => b (4 + i))
  if h = 0 ∨ 44 < h ∨ b 1 = 0 ∨ 12 < b 1 ∨ b 2 = 0 ∨ 5 < b 2 ∨ 64 < b 3 then some 0xFF
  else
    match pathFail 0 (endStop (b 3)) [] path with
    | some i => some i
    | none =>
      let drops := leAt d 0x30 10
      let arrives := path.map linkDst
      if (List.range 44).any (fun i => decide (h ≤ i) && b (4 + i) != 0xFF) ||
        decide (2 ^ 73 ≤ drops) ||
        (bitsOf 73 drops).any (fun n => !arrives.contains n) ||
        leAt d 0x3A 6 != 0 then some 0xFF
      else none

/-- The delivery bound D of R237 in ns, rounded up. -/
def sluiceBound (h f s : Nat) : Nat :=
  ((h + (f + s - 1) / max 1 s) * 1024 + 300 * h + 99) / 100

/-- A sluice read from its record. -/
def sluiceOf (n openAt : Nat) (d : List Byte) : SluiceRec :=
  let b (i : Nat) : Nat := leAt d i 1
  { num := n, src := b 3, slots := b 1, flits := b 2, path := (List.range (b 0)).map (fun i => b (4 + i)),
    drops := leAt d 0x30 10, bound := sluiceBound (b 0) (b 2) (b 1), openAt := openAt, closeAt := none }

/-- The sluice of this number that is open or still counted. -/
def sluiceRec (s : State) (n : Nat) : Option SluiceRec := s.shore.weir.sluices.find? (fun r => r.num == n)

/-- Sluice n is open at epoch e. -/
def sluiceOpenAt (s : State) (n e : Nat) : Bool :=
  match sluiceRec s n with
  | some r => decide (r.openAt ≤ e) && (match r.closeAt with | none => true | some z => decide (e < z))
  | none => false

/-- The position of the first link that cannot take the slots (R236). -/
def sluiceFull (w : Weir) (r : SluiceRec) : Option Nat :=
  r.path.findIdx? (fun l => decide (12 < reservedSlots w l + r.slots))

/-- The lowest free slots of a wheel given to a sluice. -/
def wheelTake (num n : Nat) (l : Link) : Link :=
  let free := ((List.range 16).filter (fun j => l.wheel.get j == 0)).take n
  { l with wheel := free.foldl (fun w j => w.set j (BitVec.ofNat 8 (num + 1))) l.wheel }

/-- A sluice opened: its slots reserved on every link of its path (R234, R238). -/
def sluiceAdd (r : SluiceRec) (s : State) : State :=
  let s1 := r.path.foldl (fun t l => onLink l (wheelTake r.num r.slots) t) s
  onWeir (fun w => { w with sluices := w.sluices ++ [r] }) s1

/-- A send port carries the exchange of the pond's group: by the group's entry in the setup image, or by the
group's present run. -/
def exchangePort (s : State) (P : Pond) (n : Nat) : Bool :=
  KMap.get none s.shore.groupPorts (fld (rg P 0x5C0) 28 3) == some n ||
  (!P.grp.config.isEmpty && P.grp.sendPort == n)

/-- The latest issue offset of a send port's posts in ns: 40 for group-exchange posts, else what the setup
image declares (R237). -/
def issueOffset (s : State) (P : Pond) (n : Nat) : Nat :=
  if exchangePort s P n then 40 else fld (P.sendRec.get (2 * n + 1)) 0 16

/-- A send port of a pond names the sluice and its bound breaks R49 (R300). -/
def sluiceSlow (s : State) (r : SluiceRec) : Bool :=
  (List.range 64).any (fun p =>
    let P := pondAt s p
    (List.range 32).any (fun n =>
      let w := sendWord P n
      bit w 31 && bit w 30 && fld w 16 8 == r.num &&
      decide (sendLat (pctxN s p) P n * lenOf s < issueOffset s P n + r.bound + 100)))

/-- SLUICE_OPEN at its apply epoch (R300): the status and detail of a failing check. -/
def sluiceOpenFails (s : State) (r : SluiceRec) : Option (Nat × Nat) :=
  if (sluiceRec s r.num).isSome then some (0x13, 0)
  else
    match sluiceFull s.shore.weir r with
    | some i => some (0x14, i)
    | none => if sluiceSlow s r then some (0x28, 0) else none

/-- A capture stream ends (R301): OWNER is 0. -/
def streamEnd (p : Nat) (s : State) : State :=
  onShore (fun h => { h with streams := h.streams.filter (fun x => x.pond != p) })
    (onPondN p (fun P => { rmod 0x27C (fun w => setBit w 31 false) P with stream := none }) s)

/-- A sluice closes at epoch `a` (R238); a stream on it ends (R301). -/
def sluiceClose (n a : Nat) (s : State) : State :=
  let s1 := onWeir (fun w => { w with
    sluices := w.sluices.map (fun r => if r.num = n then { r with closeAt := some a } else r) }) s
  (s.shore.streams.filter (fun x => x.sluice == n)).foldl (fun t x => streamEnd x.pond t) s1

/-- The slots of a sluice freed. -/
def sluiceFree (r : SluiceRec) (s : State) : State :=
  let mark : BitVec 8 := BitVec.ofNat 8 (r.num + 1)
  let s1 := r.path.foldl (fun t l => onLink l (fun k => { k with wheel := k.wheel.filter (fun e => e.2 != mark) }) t) s
  onWeir (fun w => { w with sluices := w.sluices.filter (fun x => x.num != r.num) }) s1

/-- Closed sluices whose close lies nine epochs back are freed (R238). -/
def sluicesFree (s : State) : State :=
  (s.shore.weir.sluices.filter (fun r => match r.closeAt with
    | some a => decide (a + 9 ≤ shoreEpoch s)
    | none => false)).foldl (fun t r => sluiceFree r t) s

/-- SLUICE_SLOTS_FREED: the slots of sluices closed at A are freed at boundary A + 9 (R238). -/
def execSluiceSlotsFreed (s : State) : Host.Outcome State Fault Refusal := .next (sluicesFree s)

end Sys2Proof.Machine
end

