-- ==== Sys2Proof/Machine/SysFlash.lean ====
section
/-! DEFINITION. System flash and the OTP row (chapter 14): reads with read-retry (R382), program
and erase jobs of a bank (R376), the select log (R390), marks (R386), OTP programming (R393). -/

namespace Sys2Proof.Machine

/-- System flash replaced by a function of itself. -/
def onSfl (f : Sfl → Sfl) (s : State) : State := onShore (fun h => { h with sfl := f h.sfl }) s

/-- System flash as an array of words. -/
def sflArr (s : State) : FArr := ⟨s.shore.sfl.words, s.shore.sfl.dirty⟩

/-- The array put back. -/
def sflPut (a : FArr) (s : State) : State := onSfl (fun f => { f with words := a.words, dirty := a.dirty }) s

/-- What a read of one word records (R382, R383). -/
def sflWordRead (i : Nat) (s : State) : State :=
  let a := sflArr s
  match a.cls i with
  | 0 => s
  | 1 =>
    let st := (a.word i).step
    if st = 0 then s
    else if st ≤ 5 then
      sinc 0x4014 0 16 1 (sset 0x400C (BitVec.ofNat 32 (2 ^ 31 + 2 ^ 28 * st + 32 * i)) s)
    else sinc 0x4014 24 8 1 (sset 0x400C (BitVec.ofNat 32 (2 ^ 31 + 2 ^ 28 * 7 + 32 * i)) s)
  | _ => sinc 0x4014 16 8 1 (sset 0x4010 (BitVec.ofNat 32 (2 ^ 31 + 32 * i)) s)

/-- `len` bytes of system flash; none where a word is torn or uncorrectable. -/
def sflRead (addr len : Nat) (s : State) : Option (List Byte) × State :=
  ((sflArr s).read addr len,
    (List.range ((addr + len + 31) / 32 - addr / 32)).foldl (fun t i => sflWordRead (addr / 32 + i) t) s)

/-- Words of system flash read in order, up to the first that is no data (R382, R383). -/
def sflReads (l : List Nat) (s : State) : State :=
  (l.foldl (fun (x : Bool × State) i =>
    if x.1 then x else (!(sflArr x.2).good i, sflWordRead i x.2)) (false, s)).2

/-- The row of Table 14.6 that holds a flash address. -/
def sflArea (a : Nat) : Nat :=
  if a < 0x100000 then 0 else if a < 0x140000 then 1 else if a < 0x1C0000 then 2
  else if a < 0x1C4000 then 3 else if a < 0x200000 then 4 else if a < 0x300000 then 5
  else if a < 0x340000 then 6 else if a < 0x350000 then 7 else if a < 0x360000 then 8 else 9

/-- A completed sector erase. -/
def sflErase (sector : Nat) (s : State) : State :=
  sinc (0x4040 + 4 * sflArea (4096 * sector)) 0 32 1 (sflPut ((sflArr s).erase sector) s)

/-- Committed words written from a word index upward. -/
def sflWrite (i : Nat) (l : List (BitVec 256)) (s : State) : State :=
  sflPut ((l.zipIdx i).foldl (fun a x => a.put x.2 (FWord.committed x.1)) (sflArr s)) s

/-! ### The select log -/

/-- What a select record holds from TARGET on (Table 14.7). -/
def selTail (target sel : Nat) (a b : List Byte) : List Byte :=
  [BitVec.ofNat 8 target, BitVec.ofNat 8 sel] ++ List.replicate 6 0 ++ padTo 8 a ++ padTo 8 b

/-- The bytes of a select record (Table 14.7). -/
def selBytes (seq : Nat) (tail : List Byte) : List Byte := [0x4B, 0x36, 0x34, 0x42] ++ leBytes seq 4 ++ tail

/-- The place of record number k of a half. -/
def selPlace (half k : Nat) : Nat := (0x340000 + 0x8000 * half) / 32 + k

/-- One record written at the next place of the current half; the records of the last 1 ms may be uncommitted
yet (R390). -/
def selPut (tail : List Byte) (s : State) : State :=
  let f := s.shore.sfl
  let i := selPlace f.selHalf f.selCount
  onSfl (fun f => { f with
      selCount := f.selCount + 1, selSeq := f.selSeq + 1,
      selNew := f.selNew.filter (fun e => decide (s.ns < e.1 + 1000000)) ++ [(s.ns, i)] })
    (sflWrite i (flashWords 1 (selBytes f.selSeq tail)) s)

/-- A snapshot record of every selection (R390). -/
def selSnapshot (s : State) : State :=
  let f := s.shore.sfl
  selPut (selTail 0xFF 0
    (leBytes (maskOf 64 (fun n => (pondAt s n).pfl.bank)) 8)
    [BitVec.ofNat 8 f.fwNext, BitVec.ofNat 8 f.setupNext]) s

/-- A full half is left for the other, which is erased first (R390). -/
def selTurn (s : State) : State :=
  let f := s.shore.sfl
  if f.selCount < 1024 then s else
  let h := 1 - f.selHalf
  let s1 := (List.range 8).foldl (fun t k => sflErase (0x340 + 8 * h + k) t) s
  selSnapshot (onSfl (fun f => { f with selHalf := h, selCount := 0, selTurns := f.selTurns + 1 }) s1)

/-- The records that wait are written while bank 1 runs no operation (R376). -/
def selKick (s : State) : State :=
  if s.shore.sfl.op1.isSome then s
  else s.shore.sfl.selWait.foldl (fun t l => selPut l (selTurn t)) (onSfl (fun f => { f with selWait := [] }) s)

/-- SELECT_RECORD (R390): a record is appended, at once where the bank is free. -/
def selectRecord (target sel epoch : Nat) (meas : List Byte) (s : State) : State :=
  selKick (onSfl (fun f => { f with selWait := f.selWait ++ [selTail target sel (leBytes epoch 8) meas] }) s)

/-- The place of a flash word in the log, where it lies there. -/
def selIndex (i : Nat) : Bool := decide (selPlace 0 0 ≤ i) && decide (i < selPlace 2 0)

/-- The committed records of both halves with their places (R390): one that holds a torn or uncorrectable word
is skipped (R383). -/
def selRecords (s : State) : List (Nat × List Byte) :=
  s.shore.sfl.words.filterMap (fun e =>
    if selIndex e.1 && (sflArr s).cls e.1 == 1 then
      ((sflArr s).read (32 * e.1) 32).bind (fun b =>
        if b.take 4 = [0x4B, 0x36, 0x34, 0x42] then some (e.1, b) else none)
    else none)

/-- The record of the highest SEQ of a list. -/
def selNewest (l : List (Nat × List Byte)) : Option (Nat × List Byte) :=
  l.foldl (fun a r => match a with
    | some x => if leAt x.2 4 4 ≤ leAt r.2 4 4 then some r else a
    | none => some r) none

/-- The selection of a target in the log (R390): bank 0 or slot 0 where no record names it. -/
def selOf (l : List (Nat × List Byte)) (target : Nat) : Nat :=
  match selNewest (l.filter (fun r => leAt r.2 8 1 == target || leAt r.2 8 1 == 0xFF)) with
  | none => 0
  | some (_, r) =>
    (if leAt r 8 1 ≠ 0xFF then leAt r 9 1
    else if target < 64 then leAt r 0x10 8 / 2 ^ target
    else leAt r (0x18 + (target - 64)) 1) % 2

/-- The log read at step 3 (R390): the bank of each pond, the slots, and where the log goes on. -/
def selLoad (s0 : State) : State :=
  let keys := (s0.shore.sfl.words.map (·.1)).filter selIndex
  let s := keys.foldl (fun t i => sflWordRead i t) s0
  let l := selRecords s
  let half := match selNewest l with | some (i, _) => (i - selPlace 0 0) / 1024 | none => 0
  let used := (keys.filter (fun i => decide (selPlace half 0 ≤ i) && decide (i < selPlace (half + 1) 0))).foldl max 0
  let s1 := onSfl (fun f => { f with
    fwNext := selOf l 64, setupNext := selOf l 65, selHalf := half,
    selCount := if used = 0 then 0 else used + 1 - selPlace half 0,
    selSeq := match selNewest l with | some (_, r) => leAt r 4 4 + 1 | none => 0 }) s
  (List.range 64).foldl (fun t n =>
    onPondN n (fun P => { P with pfl := { P.pfl with bank := selOf l n == 1 } }) t) s1

/-- The log at the beginning of a device start: of the records of the last 1 ms a free number is not committed,
the first of them torn or erased, and those that wait are lost (R390, R387). -/
def selCut (s : State) : State :=
  let new := s.shore.sfl.selNew.filter (fun e => decide (s.ns < e.1 + 1000000))
  let w := (shoreFree s 36).toNat
  let gone := new.drop (new.length - w / 2 % (new.length + 1))
  let undo (t : State) (x : (Nat × Nat) × Nat) : State :=
    let a := sflArr t
    sflPut (a.put x.1.2 (if x.2 = 0 ∧ w % 2 = 1 then FWord.torn (a.word x.1.2).data else FWord.erased)) t
  useShoreFree (onSfl (fun f => { f with selWait := [], selNew := [] }) (gone.zipIdx.foldl undo s))

/-! ### Targets 64 and 65 -/

/-- The first flash address of a slot of target 64 or 65. -/
def slotBase (target slot : Nat) : Nat := 0x200000 * slot + (if target = 64 then 0 else 0x100000)

/-- The slot used at this device start. -/
def slotUse (s : State) (target : Nat) : Nat := if target = 64 then s.shore.sfl.fwUse else s.shore.sfl.setupUse

/-- The slot for the next device start. -/
def slotNext (s : State) (target : Nat) : Nat := if target = 64 then s.shore.sfl.fwNext else s.shore.sfl.setupNext

/-- The first address of the area a program command of target 64 or 65 acts on (R388). -/
def targetBase (s : State) (target : Nat) : Nat := slotBase target (1 - slotUse s target)

/-- The verified mark of a target (R386). -/
def verifiedMark (s : State) (target : Nat) : Bool :=
  if target < 64 then (pondAt s target).pfl.verified
  else if target = 64 then s.shore.sfl.fwVer else s.shore.sfl.setupVer

/-- How often the verified mark of a target has been cleared (R309). -/
def markClears (s : State) (target : Nat) : Nat :=
  if target < 64 then (pondAt s target).pfl.cleared
  else if target = 64 then s.shore.sfl.fwCleared else s.shore.sfl.setupCleared

/-- The verified mark set or cleared; a clear is counted. -/
def setVerified (target : Nat) (b : Bool) (s : State) : State :=
  if target < 64 then onPondN target (fun P => { P with pfl := P.pfl.setMark b }) s
  else if target = 64 then onSfl (fun f => { f with fwVer := b, fwCleared := f.fwCleared + b2n (!b) }) s
  else onSfl (fun f => { f with setupVer := b, setupCleared := f.setupCleared + b2n (!b) }) s

/-- A slot selected for the next start. -/
def setNext (target slot : Nat) (s : State) : State :=
  if target = 64 then onSfl (fun f => { f with fwNext := slot }) s
  else onSfl (fun f => { f with setupNext := slot }) s

/-- The measurement stored with a target's verified mark. -/
def verifiedMeas (s : State) (target : Nat) : List Byte := KMap.get [] s.shore.keys.verified target

/-- A program or erase of a slot of target 64 or 65 begins: its mark clears, and a slot that was
selected for the next start is deselected (R386, R390). -/
def slotTouched (target : Nat) (s : State) : State :=
  let s1 := setVerified target false s
  let use := slotUse s1 target
  if slotNext s1 target = use then s1
  else selectRecord target use 0 ((KMap.get [] s.shore.keys.meas (target - 63)).take 8) (setNext target use s1)

/-- The operation of system flash bank b. -/
def sysOpOf (s : State) (b : Nat) : Option SysOp := if b = 0 then s.shore.sfl.op0 else s.shore.sfl.op1

/-- The operation of bank b replaced. -/
def sysOpSet (b : Nat) (o : Option SysOp) (s : State) : State :=
  onSfl (fun f => if b = 0 then { f with op0 := o } else { f with op1 := o }) s

/-- A system flash operation starts; an erase first marks its sector (R381). -/
def sysStart (b : Nat) (o : SysOp) (s : State) : State :=
  let s1 := sysOpSet b (some o) s
  if o.op.erase then sflPut ((sflArr s1).markDirty (o.op.word / 128)) s1 else s1

/-- Every system flash operation is abandoned (R387, Table 14.9). -/
def sysAbandon (s : State) : State :=
  [0, 1].foldl (fun t b =>
    match sysOpOf t b with
    | none => t
    | some o =>
      let w := (shoreFree t 33).toNat
      sysOpSet b none (useShoreFree (sflPut ((sflArr t).abandon o.op (w / 2) (w % 2 = 1)) t))) s

/-! ### OTP -/

/-- The OTP row replaced by a function of itself. -/
def onOtp (f : Otp → Otp) (s : State) : State := onShore (fun h => { h with otp := f h.otp }) s

/-- The number of bits set in a word. -/
def popWord (w : Word) : Nat := (bitsOf 32 w.toNat).length

/-- Table 11: a steward may program OTP word i now: OWNER_PK_HASH, ROLE_POLICY, ALARM_POLICY or
D_PERMIT, in Chrysalis (R393). -/
def otpField (i : Nat) : Bool := decide (0x80 / 4 ≤ i) && decide (i ≤ 0xB8 / 4)

/-- OTP_PROG_GO accepted (R393): refused, or the program starts. -/
def otpGo (s : State) : State :=
  let i := fld (sreg s 0x4084) 2 10
  let ok := s.shore.boot.lc == 1 && otpField i && s.shore.otp.words.get i == 0 &&
    s.shore.otp.bad.get i == 0 && s.shore.otp.prog.isNone && !bit (sreg s 0x4000) 31
  if bit (sreg s 0x4000) 31 then s
  else if ok then onOtp (fun o => { o with prog := some (i, sreg s 0x4088) }) s
  else smod 0x4080 (fun w => setFld (setBit w 30 true) 2 10 i) s

/-- A word as later starts read it, and its class of bad cells, where the bits `wrong` of `v` did not take: one
bad cell is corrected, two are not (R394), and what more of them read as is free (assumption 61). -/
def otpTaken (s : State) (v wrong : Word) : Word × BitVec 2 :=
  match popWord wrong with
  | 0 => (v, 0)
  | 1 => (v, 1)
  | 2 => (v &&& ~~~wrong, 2)
  | _ => (shoreFree s 37, BitVec.ofNat 2 ((shoreFree s 38).toNat % 3))

/-- An OTP word and its SEC-DED cells programmed together (R393). -/
def otpPut (i : Nat) (x : Word × BitVec 2) (s : State) : State :=
  onOtp (fun o => { o with words := o.words.set i x.1, bad := o.bad.set i x.2 }) s

/-- OTP_PROGRAM_DONE: the word is programmed, with `wrong` the bits that did not take; a
read-back mismatch raises alarm source 7 (R393). -/
def execOtpProgramDone (wrong : Word) (s : State) : Host.Outcome State Fault Refusal :=
  .next (match s.shore.otp.prog with
    | none => s
    | some (i, v) =>
      let bad := wrong &&& v
      let s1 := useShoreFree (otpPut i (otpTaken s v bad) (onOtp (fun o => { o with prog := none }) s))
      if bad = 0 then s1 else alarmRaise 7 s1)

/-- Words programmed into the OTP row from a byte offset; a program of a word that is not blank is refused
and shown in OTP_STATUS (R393). -/
def otpFill (off : Nat) (l : List Byte) (s : State) : State :=
  (List.range (l.length / 4)).foldl (fun t j =>
    let i := off / 4 + j
    if leAt l (4 * j) 4 = 0 then t
    else if t.shore.otp.words.get i = 0 ∧ t.shore.otp.bad.get i = 0 then
      otpPut i (BitVec.ofNat 32 (leAt l (4 * j) 4), 0) t
    else smod 0x4080 (fun w => setFld (setBit w 30 true) 2 10 i) t) s

end Sys2Proof.Machine
end

