-- ==== Sys2Proof/Machine/Images.lean ====
section
/-! DEFINITION. Images (chapter 14, section 6): the header and body checks of R395 to R397 and
R400 steps 1 to 3, the framing of a setup image (R469), accepted signers (R354), measurements. -/

namespace Sys2Proof.Machine

/-- Offset of the header, offset of the body and largest body of an image kind (R395). -/
def imgPlace (kind : Nat) : Nat × Nat × Nat :=
  match kind with
  | 1 => (0x3FE00, 0, 0x3FE00)
  | 2 => (0, 0x200, 0x100000 - 512)
  | _ => (0, 0x200, 0x40000 - 576)

/-- Every byte of a part of a header is 0. -/
def zeroAt (h : List Byte) (off len : Nat) : Bool := (slice h off len).all (· == 0)

/-- The FLAGS of a header. -/
def imgFlags (h : List Byte) : Nat := leAt h 6 2

/-- ENCRYPTED of a header. -/
def imgEncrypted (h : List Byte) : Bool := imgFlags h / 2 % 2 == 1

/-- BODY_LEN of a header. -/
def imgLen (h : List Byte) : Nat := leAt h 8 4

/-- A header breaks R395 or R396 for an image kind. -/
def headerBad (kind : Nat) (h : List Byte) : Bool :=
  let f := imgFlags h
  slice h 0 4 != [0x4B, 0x36, 0x34, 0x49] || leAt h 4 1 != kind || leAt h 5 1 != 1 ||
  decide (8 ≤ f) || (f / 2 % 2 == 1 && kind != 1) || (f / 4 % 2 == 1 && kind != 3) ||
  decide ((imgPlace kind).2.2 < imgLen h) || imgLen h % 32 != 0 ||
  (kind != 1 && leAt h 0x0C 4 != 0) || !zeroAt h 0x14 12 || !zeroAt h 0xEE 146 || !zeroAt h 0x190 16 ||
  (f / 2 % 2 == 0 && !(zeroAt h 0x81 97 && zeroAt h 0xE2 12 && zeroAt h 0x180 16))

/-- An entry of a setup image: TYPE, POND, SUB and its payload. -/
structure SetupEntry where
  typ : Nat
  pond : Nat
  sub : Nat
  data : List Byte
  deriving DecidableEq, Repr

/-- The row of Table 14.18 admits an entry. -/
def entryOk (e : SetupEntry) : Bool :=
  let n := e.data.length
  let dev := e.pond == 0xFF
  let pond := decide (e.pond < 64)
  match e.typ with
  | 1 => dev && e.sub == 0 && n == 16 && zeroAt e.data 7 9
  | 2 => pond && e.sub == 0 && decide (8 ≤ n) && decide (n ≤ 4096) && n % 8 == 0
  | 3 => pond && e.sub == 0 && n == 16
  | 4 => pond && decide (e.sub < 32) && n == 8
  | 5 => pond && decide (e.sub < 32) && n == 16 && zeroAt e.data 4 4
  | 6 => dev && decide (e.sub < 192) && n == 64
  | 7 => dev && decide (e.sub < 81) && n == 24 && zeroAt e.data 0x14 4
  | 8 => dev && decide (e.sub < 8) && n == 24 && zeroAt e.data 0x0E 2
  | 9 => dev && e.sub == 0 && n == 8 && leAt e.data 0 4 != 0 && zeroAt e.data 4 4
  | 10 => pond && e.sub == 0 && n == 8 && zeroAt e.data 4 4
  | 11 => pond && e.sub == 0 && n == 24 && decide (leAt e.data 0x11 1 < 2) &&
    zeroAt e.data 0x12 6
  | _ => false

/-- The entries of a body in order; none where the framing or an entry breaks R469. -/
def setupEntries : Nat → List Byte → Option (List SetupEntry)
  | 0, l => if l.isEmpty then some [] else none
  | fuel + 1, l =>
    if l.isEmpty then some [] else
    if l.length < 8 then none else
    let n := leAt l 4 4
    if l.length < 8 + n then none else
    let e : SetupEntry := ⟨leAt l 0 1, leAt l 1 1, leAt l 2 2, (l.drop 8).take n⟩
    if entryOk e then (setupEntries fuel (l.drop (8 + n))).map (fun r => e :: r) else none

/-- The entry words of a pond body lie in the body (R397). -/
def pondEntriesOk (body : List Byte) : Bool :=
  [0x00, 0x28].all (fun o => let a := leAt body o 4
    decide (o + 4 ≤ body.length) && a % 4 == 0 && decide (a < body.length))

/-- What the body of an image kind must hold (R400 step 3). -/
def bodyHolds (kind : Nat) (body : List Byte) : Bool :=
  match kind with
  | 1 => pondEntriesOk body
  | 3 => (setupEntries (body.length / 8 + 1) body).isSome
  | _ => true

/-- The result of R400 steps 1 to 3 on an array from a base offset: the reason of the first
failure, or the header and the body. -/
def imgRead (a : FArr) (base kind : Nat) : Nat ⊕ (List Byte × List Byte) :=
  let pl := imgPlace kind
  if a.cls ((base + pl.1) / 32) = 0 then .inl 1 else
  match a.read (base + pl.1) 512 with
  | none => .inl 4
  | some h =>
    if headerBad kind h then .inl 2 else
    match a.read (base + pl.2.1) (imgLen h) with
    | none => .inl 4
    | some b =>
      if crc32c b ≠ leAt h 0x10 4 then .inl 3
      else if bodyHolds kind b then .inr (h, b) else .inl 2

/-- The words that the check of an image reads, in order: its header, and the body that a good header names. -/
def imgWords (a : FArr) (base kind : Nat) : List Nat :=
  let pl := imgPlace kind
  let head := List.range' ((base + pl.1) / 32) 16
  match a.read (base + pl.1) 512 with
  | none => head
  | some h =>
    if a.cls ((base + pl.1) / 32) = 0 ∨ headerBad kind h then head
    else head ++ List.range' ((base + pl.2.1) / 32) (imgLen h / 32)

/-- Shore check-value unit u. -/
def scvuOf (s : State) (u : Nat) : Cvu := vget s.shore.scvu u Cvu.reset

/-- The configuration word of Shore unit u. -/
def scvuCfg (s : State) (u : Nat) : Word := sreg s (0x7008 + 0x20 * u)

/-- The hardware that holds Shore unit u puts these bytes through it: START, the bytes fed, FINISH with the unit's
own configuration (R413, R415, R419; assumption 74). -/
def scvuHard (u : Nat) (l : List Byte) (s : State) : State :=
  let cfg := scvuCfg s u
  let x := Cvu.finish cfg (Cvu.feed cfg l (Cvu.start cfg (scvuOf s u)))
  smod (0x7004 + 0x20 * u) (fun w => w ||| 1) (onShore (fun h => { h with scvu := vset h.scvu u x }) s)

/-- The body that the CHECK step of an image covers, where its header and body can be read (R396, R400). -/
def imgBody (a : FArr) (base kind : Nat) : Option (List Byte) :=
  let pl := imgPlace kind
  match a.read (base + pl.1) 512 with
  | none => none
  | some h =>
    if a.cls ((base + pl.1) / 32) = 0 ∨ headerBad kind h then none else a.read (base + pl.2.1) (imgLen h)

/-- The CHECK step of an image on Shore unit u, which the flash verify path holds (R415, R416). -/
def scvuImage (u : Nat) (a : FArr) (base kind : Nat) (s : State) : State :=
  match imgBody a base kind with
  | some b => scvuHard u b s
  | none => s

/-- Words of a pond's bank read in order, up to the first that is no data (R382, R383). -/
def pflReads (inactive : Bool) (l : List Nat) (P : Pond) : Pond :=
  (l.foldl (fun (x : Bool × Pond) i =>
    if x.1 then x else (!(pflArr x.2).good i, (flashRead x.2 inactive (32 * (i % 8192)) 4).2)) (false, P)).2

/-- The measurement of an image (R397, R345): SHA-384 of its signed portion. -/
def imgMeasure (h b : List Byte) : List Byte := sha384 (h.take 0x180 ++ b)

/-- GRAMOND_PK_HASH and OWNER_PK_HASH as latched (Table 14.10, R394). -/
def otpHash (s : State) (owner : Bool) : List Byte :=
  let o := if owner then 0x80 else 0x50
  if (List.range 12).any (fun i => otpBad s (o / 4 + i)) then List.replicate 48 0 else otpBytes s o 48

/-- The signer of a header is one of a hash; a hash of zeros matches no key (R354). -/
def signedBy (s : State) (owner : Bool) (h : List Byte) : Bool :=
  let x := otpHash s owner
  !x.all (· == 0) && sha384 (slice h 0x20 97) == x

/-- Table 13.3: the signer is accepted in the life-cycle state. -/
def signerOk (s : State) (kind : Nat) (h : List Byte) : Bool :=
  let lc := s.shore.boot.lc
  let gramond := signedBy s false h
  let owner := signedBy s true h
  if kind = 2 then gramond
  else match lc with
    | 0 => gramond
    | 1 => gramond || owner
    | _ => owner

/-- The TEST flag is permitted (Table 13.3): examined for pond images only. -/
def testOk (s : State) (kind : Nat) (h : List Byte) : Bool :=
  kind != 1 || (imgFlags h % 2 == (if s.shore.boot.lc = 0 then 1 else 0))

/-- R400 steps 5 and 6: the reason of the first failure. -/
def signFail (s : State) (kind : Nat) (h b : List Byte) : Option Nat :=
  if !signerOk s kind h then some 0x10
  else if !testOk s kind h then some 0x13
  else if !ecdsaVerify (slice h 0x20 97) (imgMeasure h b) (slice h 0x1A0 96) then some 0x11
  else none

/-- The first byte offset of a bank of the pond flash array. -/
def bankBase (bank : Bool) : Nat := 0x40000 * b2n bank

/-- The check value of a pond's active bank passes (R80 step 4). -/
def activeOk (P : Pond) : Bool :=
  match imgRead (pflArr P) (bankBase P.pfl.bank) 1 with | .inr _ => true | .inl _ => false

/-- What the check of a bank's image leaves in the pond's flash records (R382). -/
def imgReads (inactive : Bool) (P : Pond) : Pond :=
  pflReads inactive (imgWords (pflArr P) (bankBase (windowBank P inactive)) 1) P

/-- A word of the active bank, 0 where it does not read. -/
def activeWord (P : Pond) (off : Nat) : Word :=
  match (pflArr P).read (bankBase P.pfl.bank + off) 4 with
  | some l => BitVec.ofNat 32 (ofLe l)
  | none => 0

end Sys2Proof.Machine
end

