-- ==== Sys2Proof/Machine/LongStop.lean ====
section
/-! DEFINITION. The progress record of a long instruction (Table 4.20) and its stop at a unit
boundary (R114, R121). -/

namespace Sys2Proof.Machine

/-- A word of a record entered into the store buffer (R116). -/
def recWord (base off : Nat) (v : Word) (P : Pond) : Pond :=
  pushSb ⟨base + off, false, v.setWidth 64⟩ P

/-- The header of a record written: OP, STATE and DONE. -/
def recHeader (base : Nat) (op : BitVec 6) (st done : Nat) (P : Pond) : Pond :=
  recWord base 4 (BitVec.ofNat 32 done)
    (recWord base 0 (BitVec.ofNat 32 (2 ^ 24 * op.toNat + st)) P)

/-- The saved state of a BCRC: VALUE, 8 bytes (Table 4.22). -/
def recValue (base : Nat) (v : BitVec 64) (P : Pond) : Pond := pushSb ⟨base + 0x18, true, v⟩ P

/-- The working value of check-value unit k. -/
def cvuV (P : Pond) (k : Nat) : BitVec 64 := match P.cvu[k]? with | some u => u.v | none => 0

/-- The record written with STATE 1: DONE, and VALUE for a BCRC. -/
def recStop (l : LongRun) (P : Pond) : Pond :=
  let P1 := recHeader l.base l.op 1 l.done P
  if l.op = 0x39#6 then recValue l.base (cvuV P l.unit) P1 else P1

/-- A long instruction stops at its unit boundary (R114 step 5, R121). -/
def stopLong (P : Pond) : Pond :=
  match P.core.long with
  | none => P
  | some l =>
    let P1 := recStop l P
    { P1 with core := { P1.core with long := none } }

end Sys2Proof.Machine
end

