-- ==== Sys2Proof/Machine/PondLife.lean ====
section
/-! DEFINITION. A pond's start, resets and program swap (chapter 3 sections 1, 3 and 4; chapter 14
section 8), and what a boundary does inside a pond (R40, R51, R52, R54, R470). -/

namespace Sys2Proof.Machine

/-! ### Start -/

/-- The ENABLE operand acts (R297): generators and lanes enabled with their modes, or disabled. -/
def enableAct (on : Bool) (m : Nat) (P : Pond) : Pond :=
  let P1 := (bitsOf 4 m).foldl (fun Q k => withEdges (pgSetEn k on) Q) P
  (bitsOf 2 (m / 16)).foldl (fun Q k =>
    setLaneMode k (if on then m / (if k = 0 then 256 else 1024) % 4 else 0) Q) P1

/-- The register entries of the setup image stored (R70, R178); ADC_TAP_SEL is excepted. -/
def loadSetup (c : PCtx) (P : Pond) : Pond :=
  P.setup.foldl (fun Q e => if e.1 = 0x278 then Q else storeReg c e.1 e.2 Q) P

/-- An entry word of the active bank is read (R382). -/
def readEntry (off : Nat) (P : Pond) : Pond := (flashRead P false off 4).2

/-- The core begins at the reset entry of the active bank with the state of R98. -/
def coreBegin (P : Pond) : Pond :=
  { readEntry 0 P with core := { Core.reset with run := .running, pc := activeWord P 0, halted := P.core.halted } }

/-- The initial references of an AUTOSTART entry are the values of LE_REF_k; REF_SRC and RAMP stay as the
setup image loaded them (R70, R202; assumption 50). -/
def startRefs (P : Pond) : Pond :=
  if P.life.auto then rset 0x424 P.life.ref1 (rset 0x420 P.life.ref0 P) else P

/-- A pond starts under its autostart entry (R70, R248). -/
def startPond (P : Pond) : Pond :=
  let P1 := coreBegin { P with
    rx := P.recvDef, life := { P.life with started := true, calLate := false } }
  enableAct true P1.life.enables (startRefs P1)

/-- A pond may start: in service, its image and its calibration good, not already started. -/
def canStart (P : Pond) : Bool :=
  P.life.inService && P.life.bistDone && P.life.imageValid && !P.life.nostart && !P.life.started &&
  P.life.resetEnd.isNone && (convOf P 0).ready && (convOf P 1).ready

/-! ### Resets -/

/-- N_R (R80). -/
def resetEpochs (len : Nat) : Nat := (400000 + len - 1) / max 1 len

/-- Registers that a pond reset keeps (Table 3.5): ADC_TAP_SEL, the calibration epochs and
conversion counts, the PFL block, MSG_DISCARD. -/
def resetKeeps (off : Nat) : Bool :=
  off == 0x278 || off == 0x288 || off == 0x28C || off == 0x298 || off == 0x29C || off == 0x644 ||
  (decide (0x600 ≤ off) && decide (off < 0x620))

/-- A converter after a pond reset: its factors are kept; a run-time calibration ends, one of the
device start goes on (R170). -/
def convPondReset (c : Conv) : Conv :=
  { Conv.reset with
    ready := c.ready, factors := c.factors,
    cal := match c.cal with | some r => if r.endEp.isNone then some r else none | none => none }

/-- The registers and blocks of a pond at their reset values. -/
def pondClear (P : Pond) : Pond :=
  { P with
    core := Core.reset, pic := ⟨0, 0, 0⟩,
    regs := P.regs.foldl (fun m e => if resetKeeps e.1 then m.set e.1 e.2 else m) pondRegs0,
    sram := [], ecc := [], conv := P.conv.map convPondReset, gss := ⟨none, none⟩,
    gssPrev := ⟨none, none⟩, cbuf := [], cbufFirst := false, handover := false,
    cmp := Vector.replicate 2 { out := false, blank := false, force := 0, done := false },
    pg := Vector.replicate 4 Pg.reset, lane := Vector.replicate 2 Lane.reset, laneQ := [],
    cap := { P.cap with fifo := Vector.replicate 4 [], force0 := 0, force1 := 0 },
    cvu := Vector.replicate 2 Cvu.reset, sb := { Sb.reset with sda := P.sb.sda, scl := P.sb.scl },
    grp := { Grp.reset with config := P.grp.config, live := P.grp.live, start := P.grp.start, sendPort := P.grp.sendPort,
                            num := P.grp.num },
    held := [], lateRx := 0, applied := [], came := [], lastPosts := [], stream := none }

/-- A pond reset begins at the boundary of epoch `e` (R79, R80, R84). -/
def pondResetBegin (len e cause : Nat) (P : Pond) : Pond :=
  let lost := P.core.pb.length + b2n P.core.stalled.isSome
  let P1 := rmod 0x644 (fun w => incFld w 0 32 lost) (pflAbandon (drainSb P))
  let P2 := pondClear { P1 with tap := tapCut len P1.tap }
  rset 0x684 (BitVec.ofNat 32 cause) { P2 with
    life := { P2.life with
      started := false, resetEnd := some (e + resetEpochs len), resetReq := none, coreReq := none,
      swapDue := none, swapped := none, swapWaited := false, inc := P2.life.inc + 1, incWait := true,
      pinsLow := true } }

/-- A pond reset ends (R80 steps 4 and 5): the ROM boot's check, then the setup load. -/
def pondResetEnd (c : PCtx) (P : Pond) : Pond :=
  let ok := activeOk P
  let P1 := { imgReads false P with
    core := { P.core with run := .rom },
    life := { P.life with resetEnd := none, pinsLow := false, imageValid := ok,
                          nostart := P.life.calFail || !ok } }
  loadSetup c P1

/-- The restart is due and the incarnation confirmed. -/
def restartDue (P : Pond) : Bool :=
  (match P.life.resetEnd with | some r => decide (r ≤ epochOf P) | none => false) && !P.life.incWait

/-- The pond's start, where it may start and its start epoch has come. -/
def startDue (P : Pond) : Bool := canStart P && decide (P.life.startEp ≤ epochOf P) && P.epoch.isSome

/-- POND_RESTART (R80): the reset ends, and the pond starts again. -/
def pondRestart (c : PCtx) (P : Pond) : Pond :=
  if !restartDue P then P else
  let P1 := pondResetEnd c P
  if startDue P1 then groupRejoin (startPond P1) else P1

/-- Every post of the post buffer reaches the Weir (R79). -/
def drainPosts (c : PCtx) (P : Pond) : Pond :=
  (List.range (P.core.pb.length + 1)).foldl (fun Q _ => postAccepted c Q) P

/-- Every active claim is completed (R78, R142, R152). -/
def completeAll (P : Pond) : Pond := picLatch { P with pic := { P.pic with act := 0 } }

/-- The PCORE registers at their reset values, but for PCORE_LOCKPOLICY (R98). -/
def pcoreClear (P : Pond) : Pond :=
  let kept (m : SMap 32) (e : Nat × Word) : SMap 32 := if e.1 < 0x20 ∧ e.1 ≠ 0x008 then m else m.set e.1 e.2
  { P with regs := P.regs.foldl kept [(0x010, 0x2001FFC0)] }

/-- CORE_ONLY_RESET (R79, R81): at a unit boundary and outside a gate body (R148), after a swap
due at the same boundary. -/
def coreOnlyReset (c : PCtx) (P : Pond) : Pond :=
  match P.life.coreReq with
  | none => P
  | some cause =>
    if P.core.gate.isSome || P.life.swapDue.isSome || P.life.resetEnd.isSome then P else
    let P1 := completeAll (drainPosts c (drainSb (stopLong P)))
    let P2 := pcoreClear { P1 with life := { P1.life with coreReq := none } }
    let P3 := rset 0x684 (BitVec.ofNat 32 cause) P2
    if P3.life.started then picLatch (coreBegin P3)
    else { P3 with core := { Core.reset with run := P.core.run } }

/-! ### The program swap -/

/-- The handover header (R404). -/
def handoverBytes (a : Nat) (old new stopPc prog : Word) (bank : Bool) (long claims : Bool) (P : Pond) :
    List Byte :=
  [0x4B, 0x36, 0x34, 0x48] ++ leBytes old.toNat 4 ++ leBytes new.toNat 4 ++
  [BitVec.ofNat 8 (b2n bank), P.life.inc,
    BitVec.ofNat 8 (b2n long + 2 * b2n P.life.swapWaited + 4 * b2n claims), 0] ++
  leBytes a 8 ++ leBytes stopPc.toNat 4 ++ leBytes prog.toNat 4

/-- Steps 1 to 7 of R402 at the stop point. A core that stayed in ROM begins too: NOSTART ends
(DEDUCED, log 42), and AUTOSTARTED of MISC_BOOT_STATUS reads 1 from then on, though no autostart entry started
the pond (DESIGN CHOICE, log 56: R94 is silent on a swap). -/
def swapPond (c : PCtx) (a : Nat) (P : Pond) : Pond :=
  let old := imageVerOf P P.pfl.bank
  let new := imageVerOf P (!P.pfl.bank)
  let claims := P.pic.act != 0
  let prog : Word := match P.core.long with | some l => BitVec.ofNat 32 l.base | none => 0
  let P1 := completeAll (drainPosts c (drainSb (stopLong P)))
  let bytes := handoverBytes a old new P.core.pc prog P.pfl.bank P.core.long.isSome claims P1
  let at_ := rg P1 0x61C
  let P2 := pcoreClear { P1 with
    pfl := { P1.pfl.setMark false with bank := !P1.pfl.bank, armed := false },
    sram := P1.sram.setBytes (at_.toNat - 0x20000000) bytes,
    life := { P1.life with
      swapDue := none, swapped := some a, swapWaited := false, imageValid := true,
      started := P1.life.started || P1.life.nostart, nostart := false } }
  let P3 := { readEntry 0x28 P2 with core := { Core.reset with
    run := .running, pc := activeWord P2 0x28, halted := P.core.halted } }
  picLatch (gset 0 at_ P3)

/-! ### The boundary inside a pond -/

/-- The timebase at a boundary (R40, R41, R470): the boundary flag, the slew or the step, and the
timers that a step passes; with the offset d. -/
def boundaryTime (len : Nat) (P : Pond) : Int × Pond :=
  let d : Int := (P.stamp.toNat : Int) - ((epochOf P * len : Nat) : Int)
  if 2 < d.natAbs then
    let P1 := { P with
      tb := P.tb - BitVec.ofInt 64 d, slew := 0, alignB := true, alignPost := true }
    (d, (List.range 8).foldl (fun Q k => etFire k Q) (picEvent 1 P1))
  else (d, { P with slew := if 0 < d then -1 else if d < 0 then 1 else 0, alignB := false })

/-- GSS_CODES of the boundary record: of the edge before this one; 0x8000 where none. -/
def gssWord (g : GssHalves) : Word :=
  BitVec.ofNat 32 ((g.b.getD 0x8000).toNat * 65536 + (g.a.getD 0x8000).toNat)

/-- The 64 bytes of the boundary record (Table 2.3). -/
def boundaryRecord (len : Nat) (P : Pond) : List Byte :=
  let e := epochOf P
  leBytes e 8 ++ leBytes (e * len) 8 ++ leBytes P.cap.sampled.toNat 4 ++ leBytes P.lateRx.toNat 4 ++
  (List.range 4).map (fun i => BitVec.ofNat 8 (capFifo P i).length) ++
  leBytes (256 * P.life.inc.toNat + b2n P.alignB) 4 ++ leBytes (gssWord P.gssPrev).toNat 4 ++
  List.replicate 28 0

/-- The record written into the last 64 bytes of SRAM (R54). -/
def writeRecord (len : Nat) (P : Pond) : Pond :=
  sramWrite 0x1FFC0 (boundaryRecord len P) P

/-- Of the messages of one epoch for one port, the later one in arrival order replaces the earlier
(R51). -/
def lastOfPort : List HeldMsg → List HeldMsg
  | [] => []
  | h :: r => if r.any (fun x => x.rx == h.rx) then lastOfPort r else h :: lastOfPort r

/-- The messages of the present epoch applied (R51), and the substitutions of R52 for ports whose
message came late. -/
def applyMessages (P : Pond) : Pond :=
  let e := epochOf P
  let now := lastOfPort (P.held.filter (fun h => h.apply == e))
  let P1 := { P with
    held := P.held.filter (fun h => decide (e < h.apply)),
    applied := (P.applied.filter (fun h => !now.any (fun x => x.src == h.src && x.rx == h.rx))) ++ now }
  let P2 := now.foldl (fun Q h => picEvent (64 + h.rx) { Q with rx := Q.rx.set h.rx h.value }) P1
  let subs := (bitsOf 32 P.lateRx.toNat).filter (fun n =>
    bit (rg P 0x650) n && !now.any (fun h => h.rx == n))
  let P3 := subs.foldl (fun Q n => picEvent (64 + n) { Q with rx := Q.rx.set n (Q.recvDef.get n) }) P2
  { P3 with lateRx := 0 }

/-- The epoch that the next registration gives. -/
def nextEpoch (P : Pond) : Nat := match P.epoch with | none => 0 | some x => x + 1

/-- The next edge is counted as the pond's registered epoch (R43). -/
def registerEdge (P : Pond) : Pond := { P with edges := P.edges - 1, epoch := some (nextEpoch P) }

/-- A message held in this cycle is taken back (R50): the newest entry that it made. -/
def takeBack (e : Nat) (P : Pond) (k : Packet) : Pond :=
  let last {α : Type} (f : α → Bool) (l : List α) : List α := (eraseFirst f l.reverse).reverse
  if k.kind = 2 then
    let ix := (memberIx P k.src).getD 16
    { P with grp := { P.grp with
        slots := last (fun h => h.idx == ix && h.apply == e && h.cword == k.data0) P.grp.slots } }
  else if k.kind = 4 then
    let n := k.data0.toNat
    let mine (a : Act) : Bool :=
      a.apply == e && (if 2 ^ 63 ≤ n then a.kind == .alarm else a.order == n && a.kind != .alarm)
    let swap := P.acts.any (fun a => mine a && (match a.kind with | .swap _ => true | _ => false))
    { P with acts := last mine P.acts, pfl := if swap then { P.pfl with armed := false } else P.pfl }
  else
    { P with held := last (fun h => h.src == k.src && h.apply == e && h.value == k.data0 &&
        some h.rx == boundRx P k.src k.sendPort) P.held }

/-- The messages for epoch `e` whose last flit was accepted in this pond cycle: with the registration of
`e` in the same cycle they are late (R50). -/
def cameFor (cyc e : Nat) (P : Pond) : List Packet :=
  (P.came.filter (fun x => x.1 == cyc && applyEpoch (epochOf P) x.2.apply == (e : Int))).map (·.2)

/-- The registration of a boundary up to the messages, and the grids enabled before it (R43, R54, R51,
R180). -/
def boundaryOpen (c : PCtx) (P : Pond) : Int × Pond :=
  let e := nextEpoch P
  let P0 := { registerEdge ((cameFor c.cyc e P).foldl (takeBack e) P) with
    came := [], cbufFirst := false, handover := P.lastPosts.any (fun x => x.kind == 3 && x.cyc == c.cyc) }
  let r := boundaryTime c.epochLen (restamp c e P0)
  let P1 := groupApply (applyMessages (writeRecord c.epochLen (latch 4 (picEvent 0 r.2))))
  (r.1, (List.range 4).foldl (fun Q k => gridStart c.epochLen k Q) P1)

/-- The registration of a boundary in an island that is out of service: its timebase receiver and its
epoch count go on (R38, R40, R43). -/
def boundaryIdle (len : Nat) (P : Pond) : Int × Pond :=
  let P0 := registerEdge P
  let r := boundaryTime len P0
  (r.1, { P0 with tb := r.2.tb, slew := r.2.slew, alignB := r.2.alignB, alignPost := r.2.alignPost })

/-- Calibrations that return or begin (R169). -/
def boundaryCal (len : Nat) (P : Pond) : Pond :=
  let e := epochOf P
  [0, 1].foldl (fun Q n => calBegin len e n (calReturn e n Q)) P

/-- SWAP_DONE at the boundary after a swap (R405). -/
def boundarySwapDone (P : Pond) : Pond :=
  match P.life.swapped with
  | none => P
  | some a =>
    if a < epochOf P then picEvent 2 { P with life := { P.life with swapped := none } } else P

/-- The tag that governs the posts of send epoch `e` (R321). -/
def tapTags (e : Nat) (t : Tap) : Tap :=
  { t with
    tag := t.tags.foldl (fun a x => if x.1 ≤ e then x.2 else a) t.tag,
    tags := t.tags.filter (fun x => decide (e < x.1)) }

/-- The end of a boundary: the group's post, but not where the pond's reset begins, the samples that
waited for the boundary, the tap's due post and tag. No post is due at the boundary of epoch 0 (R315),
nor at one at which the incarnation is not confirmed (R316). -/
def boundaryClose (resets : Bool) (c : PCtx) (P : Pond) : Pond :=
  let P1 := boundarySwapDone P
  let P2 := if resets then P1 else groupPost c P1
  let P3 := laneDrain P2.laneQ.length P2
  let e := epochOf P3
  let t := P3.tap
  { P3 with tap := tapTags e { t with
      due := decide (0 < e) && !P3.life.incWait, carried := t.carried + b2n t.due + b2n P3.life.incWait } }

/-- The calibration of the device start has not ended at the boundary of the start epoch (R70). -/
def markCalLate (P : Pond) : Pond :=
  if P.epoch == some P.life.startEp && !((convOf P 0).ready && (convOf P 1).ready) then
    { P with life := { P.life with calLate := true } }
  else P

end Sys2Proof.Machine
end

