-- ==== Sys2Proof/Machine/Held.lean ====
section
/-! DEFINITION. Commands held for their apply epoch (chapter 11): their action packets (R58, R291),
the pond's checks and effects (R296, R297, R301, R303, R309), and the Shore's checks and effects
(R25, R27 to R29, R298 to R301, R303, R305, R309, R311). -/

namespace Sys2Proof.Machine

/-! ### Actions of ponds -/

/-- The entries of a configuration record. -/
def cfgEntries (n : Nat) (d : List Byte) : List (Nat × Word) :=
  (List.range n).map (fun i => (leAt d (8 * i) 4, BitVec.ofNat 32 (leAt d (8 * i + 4) 4)))

/-- The effect that a command has in its pond. -/
def actKind (c : Cmd) : ActKind :=
  match c.op with
  | 0x30 => .configure (cfgEntries (c.arg 0x18 1) c.data)
  | 0x31 => .enable true (c.arg 0x10 2)
  | 0x32 => .enable false (c.arg 0x10 2)
  | 0x33 => .setRef (c.arg 0x10 1 % 4) (BitVec.ofNat 32 (c.arg 0x14 4)) (BitVec.ofNat 32 (c.arg 0x18 4))
  | 0x42 => .stream (c.arg 0x10 1 % 2 == 1) (c.arg 0x11 1)
  | 0x52 => .assign (BitVec.ofNat 32 (c.arg 0x10 4))
  | _ => .swap c.mark

/-- A command whose effect lies in a pond (R58). -/
def pondCmd (c : Cmd) : Bool :=
  [0x30, 0x31, 0x32, 0x33, 0x42, 0x52].contains c.op || (c.op == 0x63 && decide (c.target < 64))

/-- The action packet of a command (R58; assumption 21). -/
def actionPacket (c : Cmd) : Packet := ⟨msgHead c.target 64 0 0 c.apply 0 4 c.order, [], none, 0⟩

/-- The action packet posted. -/
def postAction (c : Cmd) (s : State) : State := setPhase c (.held true) (hubEmit (actionPacket c) s)

/-- A command that passed its checks at consumption is held (R289); its action packet goes at once
where epoch A − L has come. -/
def holdCmd (c : Cmd) (s : State) : State :=
  let s0 := setPhase c (.held false) s
  let s1 := smod 0x609C (fun w => peakFld w 0 10 (schedUsed s0)) s0
  if pondCmd c && decide (c.apply ≤ shoreEpoch s + latOf s) then postAction c s1 else s1

/-- The actions of epoch `e` plus the latency are posted. -/
def postActions (e : Nat) (s : State) : State :=
  (s.shore.cmds.filter (fun c => pondCmd c && (match c.phase with | .held false => true | _ => false) &&
    decide (c.apply ≤ e + latOf s))).foldl (fun t c => postAction c t) s

/-- A pond's register that holds only RO fields. -/
def pondRo (off : Nat) : Bool :=
  [0x018, 0x108, 0x20C, 0x218, 0x21C, 0x278, 0x284, 0x288, 0x28C, 0x290, 0x298, 0x29C, 0x448, 0x44C,
    0x598, 0x5C8, 0x5CC, 0x608, 0x60C, 0x640, 0x64C, 0x680, 0x684, 0x68C].contains off ||
  (decide (0x150 ≤ off) && decide (off < 0x168)) || (decide (0x3C0 ≤ off) && decide (off < 0x3D0)) ||
  (decide (0x428 ≤ off) && decide (off < 0x440)) || (decide (0x508 ≤ off) && decide (off < 0x518))

/-- The status of a poke or an entry that a pond turns away (R294, R296): ADDR_BAD 0x0D or LOCKED
0x11. -/
def entryFail (c : PCtx) (P : Pond) (off : Nat) (v : Word) : Option Nat :=
  if (pondAcc off).isNone || pondRo off || off == 0x600 || off == 0x604 then some 0x0D
  else if lockHit c P off v then some 0x11 else none

/-- What a later entry's check sees of an earlier entry: the word that a window register selects, and
what the windows hold; locks stay as they were before the record (R296, R467; log 43). -/
def entrySeen (c : PCtx) (off : Nat) (v : Word) (P : Pond) : Pond :=
  if off = 0x408 ∨ off = 0x40C ∨ off = 0x550 ∨ off = 0x554 then storeReg c off v P else P

/-- The first entry of a record that fails, with its status and index (R296); `i` entries came before. -/
def configFail (c : PCtx) : Nat → List (Nat × Word) → Pond → Option (Nat × Nat)
  | _, [], _ => none
  | i, e :: r, P =>
    match entryFail c P e.1 e.2 with
    | some st => some (st, i)
    | none => configFail c (i + 1) r (entrySeen c e.1 e.2 P)

/-- SET_REF (R297). -/
def setRefAct (m : Nat) (r0 r1 : Word) (P : Pond) : Pond :=
  (bitsOf 2 m).foldl (fun Q k => leRefWrite k (if k = 0 then r0 else r1) Q) P

/-- An orphan policy in its pond (R31). -/
def orphanAct (policy : Nat) (P : Pond) : Pond :=
  let P1 := picEvent 57 P
  match policy with
  | 1 => setRamp 1 (setRamp 0 P1)
  | 2 => setLaneMode 1 0 (setLaneMode 0 0 P1)
  | _ => P1

/-- The core has given up its program: only a reset leads out of lockdown and of the double-fault
handler (R142, R401). -/
def coreLost (P : Pond) : Bool := P.core.run == .locked || P.core.df

/-- A swap at the boundary of A is refused (R309, R401): the mark does not stand, or was cleared since the
command's consumption. -/
def swapCancelled (mark : Nat) (P : Pond) : Bool :=
  !P.pfl.verified || P.pfl.cleared != mark || P.life.swapDue.isSome || coreLost P

/-- A swap becomes due at A; it waits for a gate body (R404). -/
def swapArm (a : Nat) (P : Pond) : Pond :=
  { P with life := { P.life with swapDue := some a, swapWaited := P.core.gate.isSome } }

/-- The effect of an action that needs no more checks of the Shore: the status, its detail, and the
pond; none for a swap, whose outcome comes with PROGRAM_SWAP. -/
def pondAct (c : PCtx) (a : Act) (P : Pond) : Option (Nat × Nat) × Pond :=
  let ends : Bool := match a.kind with | .group g l _ => !l.contains c.p && P.grp.num == g && !P.grp.config.isEmpty | _ => false
  if ends then (none, groupEnd P)
  else if P.life.resetEnd.isSome then (some (0x0E, 0), P) else
  match a.kind with
  | .configure l =>
    match configFail c 0 l P with
    | some f => (some f, P)
    | none => (some (0, 0), picEvent 59 (l.foldl (fun Q e => storeReg c e.1 e.2 Q) P))
  | .enable on m => (some (0, 0), picEvent 59 (enableAct on m P))
  | .setRef m r0 r1 => (some (0, 0), picEvent 59 (setRefAct m r0 r1 P))
  | .swap mark => if swapCancelled mark P then (some (0x25, 0), P) else (none, swapArm a.apply P)
  | .group _ l port => (none, if l.contains c.p then groupEnter (groupBegin l port P) else P)
  | .lease => (none, picEvent 58 P)
  | .orphan q => (none, orphanAct q P)
  | .alarm => (none, picEvent 60 P)
  | .stream _ _ => (none, P)
  | .assign _ => (none, P)

/-- An action the Shore itself placed, beside no command of its own. -/
def ActKind.ofShore : ActKind → Bool
  | .group _ _ _ => true
  | .lease => true
  | .orphan _ => true
  | .alarm => true
  | _ => false

/-- An action whose effect the Shore and the pond share (R301, R321). -/
def ActKind.shared : ActKind → Bool
  | .stream _ _ => true
  | .assign _ => true
  | _ => false

/-- An action leaves its pond's list. -/
def dropAct (p order : Nat) (s : State) : State :=
  onPondN p (fun P => { P with
    acts := P.acts.filter (fun a => a.order != order || a.kind.ofShore),
    pfl := if P.acts.any (fun a => a.order == order && (match a.kind with | .swap _ => true | _ => false))
      then { P.pfl with armed := false } else P.pfl }) s

/-- The outcome of a command in its pond, reported (R60). -/
def report (order : Nat) (f : Option (Nat × Nat)) (s : State) : State :=
  match f with
  | some (st, det) => pondOutcome order st det 0 s
  | none => s

/-! ### Messages at a pond's stop -/

/-- WEIR_STOP_STATUS of a stop. -/
def stopStatus (n : Nat) : Nat := 0x1198 + 4 * n

/-- A packet discarded at a stop and counted in BAD (R225). -/
def countBad (n : Nat) (s : State) : State := sinc (stopStatus n) 8 8 1 s

/-- A message-class packet discarded at a stop and counted in DROP (R221). -/
def countDrop (n : Nat) (s : State) : State := sinc (stopStatus n) 16 16 1 s

/-- A late message of a sluice is marked (Table 9.7 WEIR_SL_LATE). -/
def markSluiceLate (k : Packet) (s : State) : State :=
  match k.sluice with
  | some n => smod (0x1048 + 4 * (n / 32)) (fun w => setBit w (n % 32) true) s
  | none => s

/-- An action packet reaches its pond (R58, R365): on time it is held, late it is counted. -/
def actionArrive (p : Nat) (k : Packet) (s : State) : State :=
  let P := pondAt s p
  let c := epochOf P
  let a := applyEpoch c k.apply
  let n := k.data0.toNat
  let notice := decide (2 ^ 63 ≤ n)
  let hold (e : Nat) (kind : ActKind) (t : State) : State :=
    onPondN p (fun P => { P with
      acts := P.acts ++ [⟨e, n, kind⟩],
      pfl := match kind with | .swap _ => { P.pfl with armed := true } | _ => P.pfl }) t
  if a ≤ (c : Int) then
    let s1 := onPondN p (countLate none) s
    if notice then hold (c + 1) .alarm s1 else pondOutcome n 0x0C 0 0 s1
  else if (c : Int) + 9 < a then onPondN p countReject s
  else if notice then hold a.toNat .alarm s
  else match cmdOf s n with
    | some x => hold a.toNat (actKind x) s
    | none => s

/-- A message that the pond now holds is remembered for this pond cycle (R50). -/
def noteCame (cyc : Nat) (k : Packet) (P Q : Pond) : Pond :=
  if Q.held.length + Q.grp.slots.length + Q.acts.length = P.held.length + P.grp.slots.length + P.acts.length
  then Q else { Q with came := Q.came.filter (fun x => x.1 == cyc) ++ [(cyc, k)] }

/-- A message-class packet reaches a pond's stop as its destination (R221, R225, R50). -/
def pondMessage (p : Nat) (k : Packet) (s : State) : State :=
  let P := pondAt s p
  if !P.life.inService then countDrop p s
  else if P.life.resetEnd.isSome then
    let s1 := countDrop p s
    if k.kind = 4 ∧ k.data0.toNat < 2 ^ 63 then pondOutcome k.data0.toNat 0x0E 0 0 s1 else s1
  else if k.kind = 0 ∨ k.kind = 2 ∨ k.kind = 3 then
    let s1 := onPondN p (fun P => noteCame (pctxN s p).cyc k P (acceptMsg k P)) s
    if (pondAt s1 p).tap.lateNew ≠ P.tap.lateNew then markSluiceLate k s1 else s1
  else if k.kind = 4 then
    onPondN p (fun Q => noteCame (pctxN s p).cyc k P Q) (actionArrive p k s)
  else countBad p s

/-! ### Actions that the Shore and a pond share -/

/-- A capture stream starts or ends (R301). -/
def streamAct (c : Cmd) (s : State) : State :=
  let p := c.target
  if c.arg 0x10 1 % 2 = 1 then
    let x : Stream := ⟨p, c.port, c.arg 0x11 1, c.arg 0x18 8, c.arg 0x20 1 % 32, 1, 0⟩
    onShore (fun h => { h with streams := h.streams ++ [x] })
      (onPondN p (fun P => picEvent 59 { rmod 0x27C (fun w => setBit w 31 true) P with stream := some x.sluice }) s)
  else streamEnd p (onPondN p (picEvent 59) s)

/-- The checks of R301 at A: none where they pass. -/
def streamFail (c : Cmd) (s : State) : Option (Nat × Nat) :=
  if c.arg 0x10 1 % 2 = 0 then none else
  let n := c.arg 0x11 1
  if !sluiceOpenAt s n c.apply then some (0x15, 0)
  else match sluiceRec s n with
    | some r =>
      if r.src != c.target || r.flits != 5 || !r.drops.testBit 72 then some (0x16, 0xFF)
      else if s.shore.streams.any (fun x => x.pond == c.target) then some (0x17, 0) else none
    | none => some (0x15, 0)

/-- The records that the stream of a pond discarded (R301, R302). -/
def streamLost (p : Nat) (s : State) : Word :=
  match s.shore.streams.find? (fun x => x.pond == p) with
  | some x => BitVec.ofNat 32 x.lost
  | none => 0

/-- A pond moves to the account of a tag (R303, R321): its posts from send epoch A + 1 carry the tag. The
move holds in a reset too, which keeps the tap (R78). -/
def assignAct (c : Cmd) (s : State) : State :=
  let tag : Word := BitVec.ofNat 32 (c.arg 0x10 4)
  let n := (acctByTag s.shore.ledger tag).getD 0
  onLedger (fun l => { l with assign := l.assign.set c.target (BitVec.ofNat 8 n) })
    (onPondN c.target (fun P =>
      let Q := { P with tap := { P.tap with tags := P.tap.tags ++ [(c.apply + 1, tag)] } }
      if P.life.resetEnd.isSome then Q else picEvent 59 Q) s)

/-- A shared action whose packet has arrived acts, and its command completes. -/
def sharedAct (c : Cmd) (s : State) : State :=
  let s1 := dropAct c.target c.order s
  if c.op = 0x52 then effect c 0 (assignAct c s1)
  else if (pondAt s c.target).life.resetEnd.isSome then noEffect c 0x0E 0 s1
  else
    let w := if c.arg 0x10 1 % 2 = 1 then 0 else streamLost c.target s1
    effect c w (streamAct c s1)

/-! ### A pond's boundary: its actions -/

/-- One action of pond p at its boundary. -/
def boundaryAct (p : Nat) (s : State) (a : Act) : State :=
  let run (t : State) : State :=
    let r := pondAct (pctxN t p) a (pondAt t p)
    let t1 := onPondN p (fun _ => r.2) t
    if a.kind.ofShore then t1 else report a.order r.1 t1
  if a.kind.ofShore then
    run (onPondN p (fun P => { P with acts := eraseFirst (fun x => x == a) P.acts }) s)
  else if a.kind.shared then
    match cmdOf s a.order with
    | none => dropAct p a.order s
    | some c =>
      match c.phase with
      | .decided => sharedAct c s
      | _ => s
  else if passes s a.order a.apply then
    let s1 := run (dropAct p a.order s)
    if (pondAt s1 p).life.swapDue.isSome then
      onPondN p (fun P => { P with pfl := { P.pfl with armed := true } }) s1
    else s1
  else dropAct p a.order s

/-- Actions in consumption order, orphan policies and alarm notices after the commands (R437). -/
def actsInOrder : List Act → List Act → List Act
  | out, [] => out
  | out, a :: r =>
    let late (x : Act) : Bool := match x.kind with | .orphan _ => true | .alarm => true | _ => false
    let before (x : Act) : Bool := if late a then !late x || decide (x.order ≤ a.order) else !late x && decide (x.order ≤ a.order)
    actsInOrder (out.takeWhile before ++ [a] ++ out.dropWhile before) r

/-- An action of the Shore placed in pond p; a pond that registered the boundary before the Shore has
acted there already (assumption 23). -/
def placeAct (p : Nat) (a : Act) (s : State) : State :=
  if (pondAt s p).epoch.any (fun e => decide (a.apply ≤ e)) then s
  else onPondN p (fun P => { P with acts := P.acts ++ [a] }) s

/-! ### GROUP_CONFIGURE -/

/-- A send port of a pond carries a sluice. -/
def portNames (P : Pond) (sl n : Nat) : Bool :=
  bit (sendWord P n) 31 && bit (sendWord P n) 30 && fld (sendWord P n) 16 8 == sl

/-- The group's send port where the sluice carries it (R298): that of the group's entry in the setup image
(Table 14.18), and for a group without one the lowest send port on the sluice (assumption 52). -/
def groupPort (s : State) (P : Pond) (g sl : Nat) : Option Nat :=
  match KMap.get none s.shore.groupPorts g with
  | some n => if portNames P sl n then some n else none
  | none => (List.range 32).find? (portNames P sl)

/-- The action of GROUP_CONFIGURE in pond n. -/
def groupAct (c : Cmd) (s : State) (n : Nat) : Act :=
  let g := c.arg 0x10 1 % 8
  ⟨c.apply, c.order, .group g (bitsOf 64 (c.arg 0x18 8))
    ((groupPort s (pondAt s n) g (c.arg 0x11 1)).getD 0)⟩

/-- A member pond, as it stands before the command, fails the checks of R298. -/
def memberFail (c : Cmd) (s : State) (P : Pond) (n : Nat) : Bool :=
  let g := c.arg 0x10 1 % 8
  let sl := c.arg 0x11 1
  let w := rg P 0x5C0
  !bit w 0 || fld w 28 3 != g || (rg P 0x5C4).toNat != c.arg 0x20 4 || !P.life.started ||
  (groupCurrent P && P.grp.num != g) ||
  !sluiceOpenAt s sl c.apply ||
  !(match sluiceRec s sl with | some r => r.drops.testBit n | none => false) ||
  (groupPort s P g sl).isNone

/-- The verdict of a GROUP_CONFIGURE's own check, once judged: none before, else DETAIL of GROUP_BAD or
none where it passes. -/
def judgedAs (s : State) (order : Nat) : Option (Option Nat) :=
  (s.shore.judged.find? (fun j => j.1 == order)).map (fun j => j.2.2)

/-- Pond n as it stands at the boundary before the command: the actions of the commands before it that the
pond has still to do there are seen as done; `me` is the pond at whose boundary this is asked (R298, R59;
assumption 23). -/
def pondBefore (c : Cmd) (s : State) (me n : Nat) : Pond :=
  let P := pondAt s n
  if n ≠ me && P.epoch.any (fun e => decide (c.apply ≤ e)) then P else
  let ds := decisions s c.apply
  let earlier := (heldFor s c.apply).filter (fun x => decide (x.order < c.order) && passesIn ds x.order)
  earlier.foldl (fun Q x =>
    if x.op = 0x30 ∧ x.target = n then (pondAct (pctxN s n) ⟨x.apply, x.order, actKind x⟩ Q).2
    else if x.op = 0x34 ∧ judgedAs s x.order = some none then (pondAct (pctxN s n) (groupAct x s n) Q).2
    else Q) P

/-- GROUP_CONFIGURE's check at A: DETAIL of GROUP_BAD (R298). -/
def groupFail (c : Cmd) (s : State) (me : Nat) : Option Nat :=
  let l := bitsOf 64 (c.arg 0x18 8)
  if l.isEmpty then none
  else if l.length < 2 then some 0xFF
  else l.find? (fun n => memberFail c s (pondBefore c s me n) n)

/-- The GROUP_CONFIGURE commands of epoch `a` that pass the checks of authority are judged, once, at the
first registration of that boundary in any island. -/
def judgeGroups (a me : Nat) (s : State) : State :=
  let ds := decisions s a
  (heldFor s a).foldl (fun t c =>
    if c.op = 0x34 ∧ passesIn ds c.order ∧ judgedAs t c.order = none then
      onShore (fun h => { h with judged := h.judged ++ [(c.order, a, groupFail c t me)] }) t
    else t) s

/-- A pond in which a GROUP_CONFIGURE may have to end or start a run. -/
def grouped (P : Pond) : Bool :=
  !P.grp.config.isEmpty || P.acts.any (fun a => match a.kind with | .group _ _ _ => true | _ => false)

/-- GROUP_CONFIGURE's effect (R298): the run of the group ends in every pond it had, and starts in
its members. -/
def groupConfigure (c : Cmd) (s : State) : State :=
  let l := bitsOf 64 (c.arg 0x18 8)
  ((List.range 64).filter (fun n => l.contains n || grouped (pondAt s n))).foldl
    (fun t n => placeAct n (groupAct c t n) t) s

/-! ### A pond that registers a boundary before the Shore (assumption 23) -/

/-- A lease's policy takes effect at boundary `e` (R30). -/
def orphanDue (e : Nat) (s : State) (l : Lease) : Bool :=
  !l.acted && !l.done && (l.due.any (fun d => decide (d ≤ e)) || decide (leaseMoment s l ≤ s.shore.tbs.lastNs))

/-- The actions that the Shore's commands of epoch `e` place in pond p. -/
def shoreActs (p e : Nat) (s : State) : List Act :=
  let ds := decisions s e
  (heldFor s e).filterMap (fun c =>
    if !passesIn ds c.order then none
    else if (c.op = 0x10 ∨ c.op = 0x11) ∧ c.target = p then some ⟨e, c.order, .lease⟩
    else if c.op = 0x34 ∧ judgedAs s c.order = some none then some (groupAct c s p)
    else none)

/-- The orphan policy that acts in pond p at boundary `e`, if one does. -/
def orphanHere (p e : Nat) (s : State) : Option Lease :=
  if (shoreActs p e s).any (fun a => a.kind == .lease) then none
  else match leaseOf s p with
    | some l => if orphanDue e s l then some l else none
    | none => none

/-- What pond p finds due at its boundary of epoch `e` where the Shore has not registered it: what the Shore
will place there, found now by the same rules; an orphan policy that acts is remembered. -/
def foreAct (p e : Nat) (s : State) : State :=
  if s.shore.tbs.epoch.any (fun x => decide (e ≤ x)) then s else
  let s1 := judgeGroups e p s
  let s2 := onPondN p (fun P => { P with acts := P.acts ++ shoreActs p e s1 }) s1
  match orphanHere p e s1 with
  | none => s2
  | some l =>
    onShore (fun h => { h with
        leases := KMap.set none h.leases p (some { l with due := some e, done := true }) })
      (onPondN p (fun P => { P with acts := P.acts ++ [⟨e, s.shore.order, .orphan l.policy⟩] }) s2)

/-- The actions due at pond p's boundary of epoch `e` (R437). -/
def boundaryActs (p e : Nat) (s : State) : State :=
  let s1 := foreAct p e s
  let due := (pondAt s1 p).acts.filter (fun a => decide (a.apply ≤ e))
  (actsInOrder [] due).foldl (fun t a => boundaryAct p t a) s1

/-! ### The Shore's commands -/

/-- The condition of a source persists (Table 13.6). -/
def alarmLive (s : State) (n : Nat) : Bool := bit s.shore.alarms.live n

/-- ALARM_CLEAR's check at A (R311, R370): the first active source it may not clear. -/
def clearFail (m : Nat) (s : State) : Option Nat :=
  (bitsOf 8 m).find? (fun n => bit s.shore.alarms.active n && (decide (2 ≤ alarmLevel s n) || alarmLive s n))

/-- The named sources cleared; clearing source 6 resets the strikes (R370). -/
def alarmClear (m : Nat) (s : State) : State :=
  let was6 := m.testBit 6 && bit s.shore.alarms.active 6
  sinc 0x21B4 0 32 (bitsOf 8 (s.shore.alarms.active &&& BitVec.ofNat 8 m).toNat).length <| onShore (fun h => { h with
    alarms := { h.alarms with active := h.alarms.active &&& ~~~(BitVec.ofNat 8 m) },
    keys := if was6 then { h.keys with strikes := 0 } else h.keys }) s

/-- A verified slot selected for the next start (R309, R390). -/
def slotSwap (t : Nat) (s : State) : State :=
  let slot := 1 - slotUse s t
  selectRecord t slot 0 ((verifiedMeas s t).take 8) (setNext t slot s)

/-- The lease granted by LEASE at A (R27, R30). -/
def leaseGrant (c : Cmd) (s : State) : State :=
  onShore (fun h => { h with leases := KMap.set none h.leases c.target (some (leaseFrom s c)) }) s

/-- The own check and the effect at A of a command whose effect lies in the Shore, and its
completion; `again`: an earlier PROG_SWAP names its target and epoch. -/
def shoreEffect (c : Cmd) (again : Bool) (s : State) : State :=
  let ok (r : Word) (t : State) : State := effect c r t
  let fail (st det : Nat) : State := noEffect c st det s
  let led (f : Ledger → Ledger) : State := onLedger f s
  let tag : Word := BitVec.ofNat 32 (c.arg 0x10 4)
  match c.op with
  | 0x10 => ok 0 (placeAct c.target ⟨c.apply, c.order, .lease⟩ (leaseGrant c s))
  | 0x11 =>
    ok 0 (placeAct c.target ⟨c.apply, c.order, .lease⟩
      (onShore (fun h => { h with leases := KMap.set none h.leases c.target none }) s))
  | 0x12 => ok 0 (onShore (fun h => { h with token := some c.port }) s)
  | 0x34 =>
    match judgedAs s c.order with
    | some (some d) => fail 0x12 d
    | _ => ok 0 (groupConfigure c s)
  | 0x40 =>
    let r := sluiceOf (c.arg 0x10 1) c.apply c.data
    match sluiceOpenFails s r with
    | some (st, d) => fail st d
    | none => ok (BitVec.ofNat 32 r.bound) (sluiceAdd r s)
  | 0x41 => if sluiceOpenAt s (c.arg 0x10 1) c.apply then ok 0 (sluiceClose (c.arg 0x10 1) c.apply s) else fail 0x15 0
  | 0x50 =>
    if (acctByTag s.shore.ledger tag).isSome then fail 0x18 0
    else match acctFree s.shore.ledger with
      | none => fail 0x1A 0
      | some k => ok (BitVec.ofNat 32 k) (led (acctOpen k tag))
  | 0x51 =>
    match acctByTag s.shore.ledger tag with
    | none => fail 0x19 0
    | some k =>
      if acctPonds s k ≠ 0 then fail 0x1B 0
      else ok 0 (onShore (fun h => { h with binds := h.binds.filter (fun b => b.1 != tag) }) (led (acctClose k)))
  | 0x57 =>
    ok 0 (markFlag 2 (led (fun l => { l with
      anchor := some (c.apply, c.arg 0x10 8),
      anchorFirst := some (l.anchorFirst.getD c.apply) })))
  | 0x63 =>
    if verifiedMark s c.target && markClears s c.target == c.mark && !again then ok 0 (slotSwap c.target s)
    else fail 0x25 0
  | 0x71 => match clearFail (c.arg 0x10 4) s with
    | some d => fail 0x27 d
    | none => ok 0 (alarmClear (c.arg 0x10 4) s)
  | _ => s

/-- A pond command that passed at A (R289): a shared action acts where its packet has arrived; one
that acted in its pond already completes; the others wait for their pond. -/
def decidePond (c : Cmd) (s : State) : State :=
  match c.phase with
  | .acted st det r => if st = 0 then effect c r s else noEffect c st det s
  | _ =>
    let here := (pondAt s c.target).acts.any (fun a => a.order == c.order && !a.kind.ofShore)
    let own :=
      if c.op = 0x42 then streamFail c s
      else if c.op = 0x52 ∧ (acctByTag s.shore.ledger (BitVec.ofNat 32 (c.arg 0x10 4))).isNone then some (0x19, 0)
      else none
    match own with
    | some (st, d) => noEffect c st d (dropAct c.target c.order s)
    | none =>
      if (c.op = 0x42 ∨ c.op = 0x52) ∧ here then sharedAct c s
      else setPhase c .decided s

/-- One command of epoch `a` decided by its verdict (R289): a failing command completes, a passing one acts
or waits for its pond. An ASAP command is timing-dependent. -/
def decideOne (again : Nat → Bool) (s : State) (d : Nat × Option (Nat × Nat)) : State :=
  let s1 := onCmd d.1 (fun c => { c with timing := c.timing || c.asap }) s
  match cmdOf s1 d.1 with
  | none => s1
  | some c =>
    match d.2 with
    | some (st, det) => noEffect c st det (if pondCmd c then dropAct c.target c.order s1 else s1)
    | none => if pondCmd c then decidePond c s1 else shoreEffect c (again c.order) s1

/-- The commands of epoch `a` decided at the Shore's boundary (R59, R287, R291). Every ASAP command of the
epoch is counted here, the ones that then fail too (DESIGN CHOICE, log 53: R57 names the moment for A
only). -/
def decideEpoch (a : Nat) (s : State) : State :=
  let s1 := judgeGroups a 64 s
  let ds := decisions s1 a
  let l := heldFor s1 a
  let swaps := l.filter (fun c => c.op == 0x63 && passesIn ds c.order)
  let again (n : Nat) : Bool :=
    swaps.any (fun c => c.order == n && swaps.any (fun x => x.target == c.target && decide (x.order < n)))
  settle a (ds.foldl (decideOne again) ((l.filter (·.asap)).foldl (fun t _ => countAsap t) s1))

end Sys2Proof.Machine
end

