-- ==== Sys2Proof/Machine/Mirror.lean ====
section
/-! DEFINITION. The telemetry mirror (chapter 10, section 9): when it runs, a snapshot's bytes
(Tables 10.8 and 10.9), its writing and its end. -/

namespace Sys2Proof.Machine

/-- A port's mirror runs (R281). -/
def mirrorRuns (s : State) (h : Nat) : Bool :=
  let c := ctxOf s h 0
  c.st == 3 && (match c.block with | some b => b.mirBase != 0 | none => false) && !bit (sreg s 0x8000) 0

/-- The block in use of a port's mirror: SET and INTERVAL. -/
def mirSet (s : State) (h : Nat) : Nat × Nat :=
  match (ctxOf s h 0).block with
  | some b => (fld b.mirCfg 16 2, fld b.mirCfg 0 16)
  | none => (0, 0)

/-- The block size (R281). -/
def mirSize (set : Nat) : Nat := 64 + (if set % 2 = 1 then 2048 else 0) + (if 2 ≤ set then 8192 else 0) + 8

/-- HP_SEAL_SEQ: the latest seal emitted. -/
def sealSeq (s : State) : Nat := s.shore.ledger.nextSeq - 1

/-- A pond's record (Table 10.9), of what the Shore holds (R281): the core's state and the group's state are
those of the pond's latest energy post (Table 12.2). -/
def pondRecord (s : State) (h n : Nat) : List Byte :=
  let P := pondAt s n
  let last := sreg s (postRec n 1)
  let core := fld last 6 2
  let st : Nat :=
    if !P.life.inService then 0
    else if P.life.resetEnd.isSome then 4
    else if !P.life.started || core == 3 then 1
    else if core = 1 then 3
    else if core = 2 then 5 else 2
  let l := leaseOf s n
  let swap := P.life.swapDue.isSome || s.shore.cmds.any (fun c => c.op == 0x63 && c.target == n && c.waits)
  let b1 := 32 * b2n swap + 16 * b2n (bit (sreg s (0x6028 + 4 * (n / 32))) (n % 32)) +
    8 * b2n (bit (leCfg P 0) 7 || bit (leCfg P 1) 7) + 4 * b2n (l.any (·.acted)) +
    2 * b2n (l.any (fun x => x.port == h)) + b2n l.isSome
  let b3 := 128 * b2n (P.grp.config.contains n) + 16 * (P.grp.num % 8) + fld last 0 4
  let w (i : Nat) : Nat := (sreg s (postRec n i)).toNat
  [BitVec.ofNat 8 st, BitVec.ofNat 8 b1, P.life.inc, BitVec.ofNat 8 b3] ++ leBytes (w 0) 4 ++
  leBytes (w 2) 4 ++ leBytes (w 3) 4 ++ leBytes (imageVerOf P P.pfl.bank).toNat 4 ++
  leBytes (acctOf s.shore.ledger (s.shore.ledger.assign.get n).toNat).tag.toNat 4 ++ List.replicate 8 0

/-- The port may read account n (R23). -/
def mayRead (s : State) (h n : Nat) : Bool :=
  (portOf s h).role == 0 || (n != 0 && boundPort s (acctOf s.shore.ledger n).tag == some h)

/-- A slot of the account section (R283). -/
def acctSlot (s : State) (h n : Nat) : List Byte :=
  if (acctOf s.shore.ledger n).st ≠ 0 && mayRead s h n then acctNow s n else List.replicate 32 0

/-- The bytes of a snapshot of boundary X (Table 10.8, R281), its tail SEQ_END included. -/
def mirBytes (s : State) (h x : Nat) : List Byte :=
  let set := (mirSet s h).1
  let p := portOf s h
  leBytes x 8 ++ leBytes x 8 ++ leBytes s.shore.tbs.tb.toNat 8 ++ leBytes (ctxOf s h 0).gen.toNat 2 ++
  [BitVec.ofNat 8 (16 * b2n (s.shore.token == some h) + p.role), BitVec.ofNat 8 (alarmState s)] ++
  leBytes (sreg s (hpBase h + 0x024)).toNat 4 ++ leBytes (mirSize set) 4 ++ leBytes (sealSeq s) 4 ++
  leBytes p.mirSkips 4 ++ List.replicate 20 0 ++
  (if set % 2 = 1 then (List.range 64).flatMap (fun n => pondRecord s h n) else []) ++
  (if 2 ≤ set then (List.range 256).flatMap (fun n => acctSlot s h n) else []) ++ leBytes x 8

/-- TMIR registers of port h. -/
def tmir (h off : Nat) : Nat := 0x8040 + 0x40 * h + off

/-- The snapshots due at the registration of boundary `e` (R281, R282). -/
def mirDue (e : Nat) (s : State) : State :=
  (List.range 4).foldl (fun t h =>
    let m := mirSet t h
    if !mirrorRuns t h || m.1 == 0 || m.2 == 0 || e % m.2 != 0 then t
    else if (portOf t h).mirBusy.isSome || (portOf t h).mirDue.isSome then
      onPort h (fun p => { p with mirSkips := p.mirSkips + 1 })
        (sinc (tmir h 0x1C) 0 32 1 (sinc 0x8010 0 32 1 t))
    else onPort h (fun p => { p with mirDue := some (e, mirBytes t h e), mirAt := t.ns }) t) s

/-- The parts of a snapshot before SEQ_END, in the order of R282: SEQ_BEGIN, the rest of the header, the pond
section and the account section, each with its place in the block. -/
def mirParts (set : Nat) (l : List Byte) : List (Nat × List Byte) :=
  let pond := if set % 2 = 1 then 2048 else 0
  let acct := if 2 ≤ set then 8192 else 0
  [(0, l.take 8), (8, slice l 8 56)] ++ (if pond = 0 then [] else [(64, slice l 64 pond)]) ++
  (if acct = 0 then [] else [(64 + pond, slice l (64 + pond) acct)])

/-- MIRROR_SNAPSHOT: the port begins to write its due snapshot: all but SEQ_END, which ends it (R282). -/
def mirStart (h : Nat) (s : State) : State :=
  let p := portOf s h
  match p.mirDue, (ctxOf s h 0).block with
  | some (x, l), some b =>
    if !canRequest p || !mirrorRuns s h || p.mirBusy.isSome then s else
    let delay := s.ns - p.mirAt
    let s1 := (mirParts (fld b.mirCfg 16 2) l).foldl (fun t x => postWrite h (b.mirBase + x.1) x.2 .mirror t) s
    let s2 := sset (tmir h 0x3C) (BitVec.ofNat 32 x) (sset (tmir h 0x30) (BitVec.ofNat 32 delay) s1)
    let s3 := if 1000 < delay then sinc (tmir h 0x34) 0 32 1 s2 else s2
    onPort h (fun p => { p with
      mirDue := none, mirBusy := some (x, leAt l 0x28 4, s.ns), mirTail := b.mirBase + (l.length - 8) }) s3
  | _, _ => s

/-- SNAPSHOT_WRITE_END (R282, Table 10.10): SEQ_END is written last; the skips that the snapshot reported are
told (Table 10.8). -/
def mirEnd (h : Nat) (s : State) : State :=
  match (portOf s h).mirBusy with
  | none => s
  | some (x, k, t) =>
    let d := s.ns - t
    let lo : Word := BitVec.ofNat 32 x
    let hi : Word := BitVec.ofNat 32 (x / 2 ^ 32)
    let s1 := sset (tmir h 0x14) hi (sset (tmir h 0x10) lo (smod (tmir h 0x18) (fun w => w + 1) s))
    let s2 := smod (tmir h 0x28) (fun w => peakFld w 0 32 d) (sset (tmir h 0x24) (BitVec.ofNat 32 d) s1)
    let s3 := sset 0x801C (BitVec.ofNat 32 h) (smod 0x8018 (fun w => peakFld w 0 32 d) (inc64 0x8008 s2))
    postWrite h (portOf s h).mirTail (leBytes x 8) .mirror (onPort h (fun p => { p with
      mirBusy := none, mirSkips := p.mirSkips - k, posted := p.posted.filter (fun w => w.kind != .mirror) }) s3)

/-- MIRROR_SNAPSHOT of port h. -/
def execMirrorSnapshot (h : PortId) (s : State) : Host.Outcome State Fault Refusal := .next (mirStart h.val s)

/-- SNAPSHOT_WRITE_END of port h. -/
def execSnapshotWriteEnd (h : PortId) (s : State) : Host.Outcome State Fault Refusal := .next (mirEnd h.val s)

end Sys2Proof.Machine
end

