-- ==== Sys2Proof/Machine/Boundary.lean ====
section
/-! DEFINITION. The global sample strobe and the boundaries (chapter 2): GSS edges, GSS_IN and the
flywheel (R42, R45), a pond's registration of a boundary (R43, R437) and the Shore's; orphan
policies (R30, R31), and the resets and swaps that boundaries begin. -/

namespace Sys2Proof.Machine

/-- The timebase unit replaced by a function of itself. -/
def onTbs (f : Tbs → Tbs) (s : State) : State := onShore (fun h => { h with tbs := f h.tbs }) s

/-- Every pond replaced by a function of it. -/
def onPonds (f : Pond → Pond) (s : State) : State := { s with ponds := s.ponds.map f }

/-- TBS_GSS_CTRL.MODE. -/
def gssMode (s : State) : Nat := fld (sreg s 0x6020) 0 2

/-! ### The strobe -/

/-- The time at which the next boundary is expected (R38, R45). -/
def gssExpected (s : State) : Option Nat :=
  match s.shore.tbs.runAt with
  | none => none
  | some r => some (if s.shore.tbs.issued = 0 then r + 1000 else s.shore.tbs.lastNs + lenOf s)

/-- What a GSS edge does at a converter (R160, R163): a trigger, or the half 0x8000 where no burst
starts. -/
def gssConv (len e ns n : Nat) (P : Pond) : Pond :=
  let t := rg P (0x210 + 4 * n)
  if fld t 0 3 = 1 ∧ e % (fld t 28 4 + 1) = 0 then
    convSet n { convOf P n with trigs := (convOf P n).trigs ++ [⟨.gss, e, 16 * ns, 16 * e * len⟩] } P
  else gssHalf (n == 1) 0x8000 P

/-- The pins and comparator outputs sampled at a GSS edge (Table 2.3). -/
def pinSample (P : Pond) : Word :=
  BitVec.ofNat 32 (32 * b2n (cmpOf P 1).out + 16 * b2n (cmpOf P 0).out + maskOf 4 (pinLevel P))

/-- A GSS edge reaches a pond, `sub` ns into a pond cycle (R40, R42). -/
def gssPond (len e ns sub : Nat) (P : Pond) : Pond :=
  let P1 := if e = 0 then { P with tb := 0, tbRun := true } else P
  let P2 := { P1 with
    edges := P1.edges + 1, edgeNs := ns, stamp := if e = 0 then 0 else tbNow sub P1,
    gssPrev := if e = 0 then ⟨none, none⟩ else P1.gss, gss := ⟨none, none⟩,
    cap := { P1.cap with sampled := pinSample P1 } }
  if P2.life.inService then gssConv len e ns 1 (gssConv len e ns 0 P2) else P2

/-- LOCKED of TBS_GSS_EXT_STATUS (R45). -/
def extLocked (t : Tbs) : Bool := t.ext == 0xFFFF

/-- A GSS edge issued; `ext` where GSS_IN gave it. The first begins epoch 0 and ends start-up
(R38, Table 3.2 step 12); pond cycles are counted from it (assumption 1). GSS_OUT drives a copy of the edge
in PRIMARY and is held low otherwise (R44). -/
def gssIssue (ext : Bool) (s : State) : State :=
  let e := s.shore.tbs.issued
  let s0 := if e = 0 then
      sset 0x5048 (BitVec.ofNat 32 (fld (BitVec.ofNat 32 ((s.ns - s.shore.boot.startNs) / 1000)) 0 24))
        (onShore (fun h => { h with
          boot := { h.boot with phase := 12 },
          tbs := { h.tbs with tb := 0, tbRun := true, odd := s.ns % 2 == 1 } }) s)
    else s
  let s1 := onTbs (fun t => { t with
    issued := e + 1, edges := t.edges + 1, stamp := t.tb, lastNs := s0.ns,
    gssOut := if gssMode s0 = 1 then some s0.ns else none,
    ext := (t.ext <<< 1) ||| (if ext then 1 else 0) }) s0
  onPonds (gssPond (lenOf s1) e s1.ns (pondClock s1 % 2)) s1

/-- GSS_EDGE: the Shore timebase reaches a nominal epoch start; the first edge comes 1 µs after
RUN (R38, R42, R44). -/
def gssEdge (s : State) : State :=
  let t := s.shore.tbs
  match t.runAt with
  | none => s
  | some r =>
    if t.issued = 0 then (if r + 1000 ≤ s.ns then gssIssue false s else s)
    else if gssMode s ≠ 2 ∧ t.issued * lenOf s ≤ t.tb.toNat then gssIssue false s
    else s

/-- GSS_EDGE. -/
def execGssEdge (s : State) : Host.Outcome State Fault Refusal := .next (gssEdge s)

/-- GSS_IN_EDGE: accepted within 8 ns of the expected boundary, else ignored (R45). -/
def gssInEdge (s : State) : State :=
  match gssExpected s with
  | none => s
  | some x =>
    if gssMode s = 2 ∧ 0 < s.shore.tbs.issued ∧ x ≤ s.ns + 8 ∧ s.ns ≤ x + 8 then
      gssIssue true (sset 0x6090 (BitVec.ofNat 32 (fld (BitVec.ofInt 32 ((s.ns : Int) - (x : Int))) 0 8)) s)
    else s

/-- GSS_IN_EDGE. -/
def execGssInEdge (s : State) : Host.Outcome State Fault Refusal := .next (gssInEdge s)

/-- FLYWHEEL_EDGE: no edge came by 8 ns after the expected time (R45). -/
def flywheelEdge (s : State) : State :=
  match gssExpected s with
  | none => s
  | some x =>
    if gssMode s = 2 ∧ 0 < s.shore.tbs.issued ∧ x + 8 ≤ s.ns then
      gssIssue false (sinc 0x6024 16 16 1 s)
    else s

/-- FLYWHEEL_EDGE. -/
def execFlywheelEdge (s : State) : Host.Outcome State Fault Refusal := .next (flywheelEdge s)

/-! ### A pond's boundary -/

/-- The skew of an offset d recorded for a pond, with its flag and count where it stepped (R40). -/
def recordSkew (p : Nat) (d : Int) (stepped : Bool) (s : State) : State :=
  let s1 := smod (0x6048 + 4 * (p / 8)) (fun w => peakFld w 0 8 d.natAbs) s
  if stepped then
    sinc 0x6094 0 32 1 (smod (0x6028 + 4 * (p / 32)) (fun w => setBit w (p % 32) true) s1)
  else s1

/-- The PROG_SWAP command of a pond at epoch `a` that waits for its outcome. -/
def swapCmd (s : State) (p a : Nat) : Option Cmd :=
  s.shore.cmds.find? (fun c => c.op == 0x63 && c.target == p && c.apply == a)

/-- The unit of a verify that runs is given back (R415). -/
def unitFree (c : Cmd) (s : State) : State :=
  match c.phase with
  | .check u => onShore (fun h => { h with scvuHeld := setBit h.scvuHeld u false }) s
  | _ => s

/-- A program command that has begun, or waits for its turn. -/
def progPhase (c : Cmd) : Bool :=
  match c.phase with | .queued => true | .flash _ => true | .unit => true | .check _ => true | _ => false

/-- The program commands of a pond that a pond reset cuts (R387). -/
def cutByReset (p : Nat) (s : State) : State :=
  (s.shore.cmds.filter (fun c => c.target == p && progPhase c)).foldl
    (fun t c => finishNow c 0x0E 0 0 (unitFree c t)) s

/-- An incarnation notice for pond p (R85, R249): DATA the low bits of B, ADDR the pond and the new
incarnation. -/
def noticePacket (dest p inc b : Nat) : Packet :=
  ⟨mgmtHead dest 64 0 0 0x10 0 (p + 256 * inc) (b % 65536), [], none, 0⟩

/-- The stops that keep an incarnation of pond p: a receive port bound to it, or a group slot. -/
def noticeStops (s : State) (p : Nat) : List Nat :=
  (List.range 64).filter (fun n =>
    let P := pondAt s n
    P.life.inService &&
    ((List.range 32).any (fun k => bit (P.recvRec.get k) 31 && fld (P.recvRec.get k) 8 7 == p) ||
      (n != p && P.grp.config.contains p)))

/-- The tap cannot issue the post that is due: its quanta stay for the next post (R316). -/
def tapHold (P : Pond) : Pond :=
  { P with tap := { P.tap with due := false, carried := P.tap.carried + b2n P.tap.due } }

/-- The Shore learns of a pond reset: its own receiver, and the notices (R85, R249). -/
def sendNotices (p b : Nat) (s : State) : State :=
  let inc := (pondAt s p).life.inc
  let stops := noticeStops s p
  let s1 := onShore (fun h => { h with
    weir := { h.weir with inc := h.weir.inc.set p inc },
    notices := h.notices.filter (fun x => x.1 != p) ++ (if stops.isEmpty then [] else [(p, stops)]) }) s
  let s2 := stops.foldl (fun t n => hubEmit (noticePacket n p inc.toNat b) t) s1
  if stops.isEmpty then
    onPondN p (fun P => { P with life := { P.life with incWait := false } }) s2
  else onPondN p tapHold s2

/-- A block write that a pond reset cuts is answered with STATUS 1 (R232). -/
def cutAnswer (p ns : Nat) (P : Pond) : Pond :=
  match P.pfl.op with
  | some o =>
    if o.owner = 2 ∧ !o.erase then emit ns ⟨mgmtHead 64 p 0 o.tag 6 1 0 0, [], none, 0⟩ P else P
  | none => P

/-- A pond reset begins at the boundary just registered (R80, R84, R436). -/
def resetBegin (p cause : Nat) (s : State) : State :=
  let P := pondAt s p
  let e := epochOf P
  let s1 := match P.life.swapDue with
    | none => s
    | some a => match swapCmd s p a with
      | none => s
      | some c => pondOutcome c.order 0x0E 0 0 s
  let s2 := sinc (0x50E0 + 4 * (p / 4)) (8 * (p % 4)) 8 1 (streamEnd p (cutByReset p s1))
  sendNotices p e (onPondN p (fun Q => pondResetBegin (lenOf s) e cause (cutAnswer p s.ns Q)) s2)

/-- The restart or the start of a pond, where one is due (R80, R70); a pond that starts at its group's start
epoch does not rejoin (R214, R216). -/
def pondBegin (c : PCtx) (P : Pond) : Pond :=
  if restartDue P then pondRestart c P
  else if startDue P then
    let Q := startPond P
    if Q.grp.start == Q.epoch then Q else groupRejoin Q
  else P

/-- The restart or the start of pond p; one that its calibration made late is recorded (R70). -/
def pondStarts (p : Nat) (s : State) : State :=
  let P := pondAt s p
  let Q := pondBegin (pctxN s p) P
  let s1 := onPondN p (fun _ => Q) s
  if P.life.calLate && Q.life.started then
    onShore (fun h => { h with boot := { h.boot with late := setBit h.boot.late p true } }) s1
  else s1

/-- BOUNDARY_REGISTRATION in a pond in service (R437). A message accepted in the same pond cycle is late
(R50); a reset requested in the epoch that ends begins last, and one that a command of this boundary
requests waits for the next (R80). -/
def pondBoundary (p : Nat) (s : State) : State :=
  let len := lenOf s
  let c := pctxN s p
  let P := pondAt s p
  let r := boundaryOpen c P
  let e := epochOf r.2
  let s1 := recordSkew p r.1 r.2.alignB (onPondN p (fun _ => markCalLate r.2) s)
  let s2 := boundaryActs p e ((cameFor c.cyc e P).foldl (fun t k => pondMessage p k t) s1)
  let s3 := pondStarts p (onPondN p (fun Q => boundaryCal len (withEdges (groupVerdict c) (groupGrids c Q))) s2)
  let s4 := onPondN p (fun Q => boundaryClose P.life.resetReq.isSome (pctxN s3 p) (groupEnter Q)) s3
  match P.life.resetReq with
  | some cause => resetBegin p cause s4
  | none => s4

/-- BOUNDARY_REGISTRATION of pond p: nothing where no GSS edge waits for it; of a pond out of service, the
timebase receiver and the epoch count go on (R38, R40, R43). -/
def boundaryReg (p : Nat) (s : State) : State :=
  let P := pondAt s p
  if P.edges = 0 then s
  else if P.life.inService then pondBoundary p s
  else
    let r := boundaryIdle (lenOf s) P
    recordSkew p r.1 r.2.alignB (onPondN p (fun _ => r.2) s)

/-- BOUNDARY_REGISTRATION of pond p (R43). -/
def execBoundaryRegistration (p : PondId) (s : State) : Host.Outcome State Fault Refusal :=
  .next (boundaryReg p.val s)

/-- POND_RESTART of pond p, where its confirmation came after the boundary at which the restart was
due (R80). -/
def execPondRestart (p : PondId) (s : State) : Host.Outcome State Fault Refusal :=
  .next (if restartDue (pondOf s p) then pondStarts p.val s else s)

/-- CORE_ONLY_RESET of pond p (R81). -/
def execCoreOnlyReset (p : PondId) (s : State) : Host.Outcome State Fault Refusal :=
  .next (onPondN p.val (coreOnlyReset (pctxN s p.val)) s)

/-- The Shore's part of a swap (R405): the swap log, KEY_SWAPPED, the select record. -/
def swapDone (p a : Nat) (s : State) : State :=
  let m := padTo 48 (verifiedMeas s p)
  let s1 := onShore (fun h => { h with keys := { h.keys with
    swapLog := sha384 (h.keys.swapLog ++ [BitVec.ofNat 8 p] ++ leBytes a 8 ++ m),
    swaps := h.keys.swaps + 1 } }) s
  let s2 := smod (0x2018 + 4 * (p / 32)) (fun w => setBit w (p % 32) true) s1
  selectRecord p (b2n (pondAt s2 p).pfl.bank) a (m.take 8) s2

/-- A swap that waited for its stop point does not take place: the mark fell by an operation of the bank, or
the core is lost (R376, R386, R401; log 42). -/
def swapDrop (P : Pond) : Pond :=
  { P with life := { P.life with swapDue := none, swapWaited := false }, pfl := { P.pfl with armed := false } }

/-- PROGRAM_SWAP of pond p at its stop point (R402, R405). -/
def programSwap (p : Nat) (s : State) : State :=
  let P := pondAt s p
  match P.life.swapDue with
  | none => s
  | some a =>
    if P.core.gate.isSome then s
    else if !P.pfl.verified || coreLost P then
      let s1 := onPondN p swapDrop s
      match swapCmd s1 p a with
      | none => s1
      | some c => pondOutcome c.order 0x25 0 0 s1
    else
    let s1 := swapDone p a (onPondN p (fun P => picEvent 59 (swapPond (pctxN s p) a P)) s)
    match swapCmd s1 p a with
    | none => s1
    | some c => pondOutcome c.order 0 0 0 s1

/-- PROGRAM_SWAP of pond p. -/
def execProgramSwap (p : PondId) (s : State) : Host.Outcome State Fault Refusal := .next (programSwap p.val s)

/-! ### The Shore's boundary -/

/-- The Shore's timebase at a boundary (R40, R470). -/
def shoreTime (e : Nat) (s : State) : State :=
  let t := s.shore.tbs
  let d : Int := (t.stamp.toNat : Int) - ((e * lenOf s : Nat) : Int)
  let s1 := if gssMode s = 2 then smod 0x6068 (fun w => peakFld w 0 8 d.natAbs) s else s
  if 2 < d.natAbs then
    sinc 0x6094 0 32 1 (smod 0x6030 (fun w => setBit w 0 true)
      (onTbs (fun t => { t with tb := t.tb - BitVec.ofInt 64 d, slew := 0, align := true }) s1))
  else onTbs (fun t => { t with slew := if 0 < d then -1 else if d < 0 then 1 else 0, align := false }) s1

/-- An orphan policy acts in pond p at boundary `e` (R31, R32). Where the port has consumed a descriptor since
its moment, it has its authority again, and a later silence brings the policy again. -/
def orphanAt (p e : Nat) (l : Lease) (s : State) : State :=
  let s1 := onShore (fun h => { h with
    leases := KMap.set none h.leases p
      (some { l with acted := leaseSilent s l, due := none, done := false }) }) (markTiming s)
  if l.done then s1 else placeAct p ⟨e, s.shore.order, .orphan l.policy⟩ s1

/-- The orphan policies due at boundary `e`. -/
def orphans (e : Nat) (s : State) : State :=
  s.shore.leases.foldl (fun t x =>
    match x.2 with
    | none => t
    | some l => if l.done || orphanDue e t l then orphanAt x.1 e l t else t) s

/-- Unlocks and other work that waits for a boundary of the Shore (R374). -/
def unlockAt (e : Nat) (s : State) : State :=
  match s.shore.keys.unlockDue with
  | none => s
  | some m =>
    sset 0x20D8 (BitVec.ofNat 32 e) (markTiming (onShore (fun h => { h with
      keys := { h.keys with unlocked := m, unlockDue := none } }) s))

/-- A late message at the Shore's own receivers (R52). -/
def countLateShore (s : State) : State := sinc 0x608C 0 32 1 (countLateTotal 1 s)

/-- Stream packets for epoch `e` that were accepted in the Shore cycle of its registration are late (R50,
R52). -/
def streamsLate (e : Nat) (s : State) : State :=
  let late (k : Packet) : Bool := k.since == s.ns && applyEpoch e k.apply == (e : Int)
  let gone := s.shore.weir.streamIn.filter late
  gone.foldl (fun t _ => countLateShore t)
    (onWeir (fun w => { w with streamIn := w.streamIn.filter (fun k => !late k) }) s)

/-- SHORE_BOUNDARY: the Shore registers the next boundary (R43). -/
def shoreBoundary (s : State) : State :=
  if s.shore.tbs.edges = 0 then s else
  let e := match s.shore.tbs.epoch with | none => 0 | some x => x + 1
  let s1 := shoreTime e (onTbs (fun t => { t with edges := t.edges - 1, epoch := some e }) s)
  let s2 := conserve s1
  let s3 := if intervalEnds s2 e then ivClose e e 0 s2 else s2
  let s4 := decideEpoch e (sluicesFree s3)
  let s5 := unlockAt e (orphans e (bookDue e (streamsLate e s4)))
  mirDue e (postActions e s5)

/-- SHORE_BOUNDARY. -/
def execShoreBoundary (s : State) : Host.Outcome State Fault Refusal := .next (shoreBoundary s)

/-- ORPHAN_POLICY of pond p's lease (R30): the silence has reached the timeout, and the policy acts
at the next boundary. -/
def execOrphanPolicy (p : PondId) (s : State) : Host.Outcome State Fault Refusal :=
  .next (match leaseOf s p.val with
    | none => s
    | some l =>
      if !l.acted && leaseSilent s l then
        onShore (fun h => { h with leases := KMap.set none h.leases p.val
                                     (some { l with due := some (l.due.getD (leaseDue s l)) }) }) s
      else s)

end Sys2Proof.Machine
end

