-- ==== Sys2Proof/Machine/Gcm.lean ====
section
/-! DEFINITION. AES-256 and GCM, chunk by chunk (R356, R399; assumption 20). -/

namespace Sys2Proof.Machine

/-- Multiplication by x in the field of AES. -/
def aesX (a : Byte) : Byte := (a <<< 1) ^^^ (if bit a 7 then 0x1B else 0)

/-- A product in the field of AES, over the low `n` bits of b. -/
def aesMul : Nat → Byte → Byte → Byte
  | 0, _, _ => 0
  | n + 1, a, b => (if bit b 0 then a else 0) ^^^ aesMul n (aesX a) (b >>> 1)

/-- The inverse of a byte: its power 254. -/
def aesInv (a : Byte) : Byte :=
  let m (x y : Byte) : Byte := aesMul 8 x y
  let a2 := m a a
  let a3 := m a2 a
  let a12 := m (m a3 a3) (m a3 a3)
  let a15 := m a12 a3
  let a240 := (List.range 4).foldl (fun x _ => m x x) a15
  m (m a240 a12) a2

/-- The S-box. -/
def aesSub (a : Byte) : Byte :=
  let b := aesInv a
  b ^^^ b.rotateLeft 1 ^^^ b.rotateLeft 2 ^^^ b.rotateLeft 3 ^^^ b.rotateLeft 4 ^^^ 0x63

/-- Bytes added bit by bit. -/
def xorBytes (a b : List Byte) : List Byte := List.zipWith (fun x y => x ^^^ y) a b

/-- The round-key words (4 bytes each) of a 32-byte key, latest first, extended by `n`. -/
def aesWords : Nat → Nat → Byte → List (List Byte) → List (List Byte)
  | 0, _, _, w => w
  | n + 1, i, rc, w =>
    let t := w.headD []
    let u := w.getD 7 []
    if i % 8 = 0 then
      let v := xorBytes (xorBytes ((t.drop 1 ++ t.take 1).map aesSub) [rc, 0, 0, 0]) u
      aesWords n (i + 1) (aesX rc) (v :: w)
    else
      let v := xorBytes (if i % 8 = 4 then t.map aesSub else t) u
      aesWords n (i + 1) rc (v :: w)

/-- The 15 round keys. -/
def aesKeys (key : List Byte) : List (List Byte) :=
  let w0 := ((List.range 8).map (fun i => slice key (4 * i) 4)).reverse
  let w := (aesWords 52 8 1 w0).reverse
  (List.range 15).map (fun i => ((List.range 4).map (fun j => w.getD (4 * i + j) [])).flatten)

/-- ShiftRows of a state in column order. -/
def aesShift (s : List Byte) : List Byte := (List.range 16).map (fun i => s.getD ((i + 4 * (i % 4)) % 16) 0)

/-- MixColumns. -/
def aesMix (s : List Byte) : List Byte :=
  (List.range 16).map (fun i =>
    let c := 4 * (i / 4)
    let b (j : Nat) : Byte := s.getD (c + (i + j) % 4) 0
    aesX (b 0) ^^^ aesX (b 1) ^^^ b 1 ^^^ b 2 ^^^ b 3)

/-- AES-256 of one block. -/
def aesBlock (key block : List Byte) : List Byte :=
  let ks := aesKeys key
  let s := ((ks.drop 1).take 13).foldl (fun s k => xorBytes (aesMix (aesShift (s.map aesSub))) k)
    (xorBytes block (ks.headD []))
  xorBytes (aesShift (s.map aesSub)) (ks.getD 14 [])

/-- A product in the field of GHASH, over `n` bits of x from its first. -/
def ghMul : Nat → BitVec 128 → BitVec 128 → BitVec 128 → BitVec 128
  | 0, _, _, z => z
  | n + 1, x, v, z =>
    ghMul n (x <<< 1) ((v >>> 1) ^^^ (if bit v 0 then 0xE1000000000000000000000000000000 else 0))
      (if bit x 127 then z ^^^ v else z)

/-- GHASH continued over the first `n` blocks of bytes. -/
def ghash : Nat → BitVec 128 → BitVec 128 → List Byte → BitVec 128
  | 0, _, y, _ => y
  | n + 1, h, y, l =>
    ghash n h (ghMul 128 (y ^^^ BitVec.ofNat 128 (ofBe (padTo 16 l))) h 0) (l.drop 16)

/-- The hash key. -/
def gcmH (key : List Byte) : BitVec 128 := BitVec.ofNat 128 (ofBe (aesBlock key (List.replicate 16 0)))

/-- Bytes in counter mode from byte offset `off` of the text, a multiple of 16. -/
def gcmCtr (key iv : List Byte) (off : Nat) (l : List Byte) : List Byte :=
  let ks := (List.range ((l.length + 15) / 16)).flatMap (fun i => aesBlock key (iv ++ beBytes (2 + off / 16 + i) 4))
  xorBytes l ks

/-- The tag from the GHASH of the additional data and the text, with their lengths in bytes. -/
def gcmTag (key iv : List Byte) (y : BitVec 128) (aad len : Nat) : List Byte :=
  let s := ghash 1 (gcmH key) y (beBytes (8 * aad) 8 ++ beBytes (8 * len) 8)
  xorBytes (beBytes s.toNat 16) (aesBlock key (iv ++ beBytes 1 4))

end Sys2Proof.Machine
end

