-- ==== Sys2Proof/Machine/Weir.lean ====
section
/-! DEFINITION. The fabric's hops (chapter 9): routes (R226, R231) and lanes (R229), the sending of
a flit (R233, R235), its receipt and check (R242), ejection and the turn through a gateway (R228),
credits and their audit (R239 to R241), retry and retraining (R242 to R244). -/

namespace Sys2Proof.Machine

/-! ### Routes -/

/-- What happens to a packet at a stop. -/
inductive Hop where
  /-- It goes on: the link and the lane. -/
  | link (l lane : Nat)
  | eject
  | turn
  /-- It is unroutable here and waits. -/
  | wait
  deriving DecidableEq, Repr

/-- How a packet came to a stop's side: on a link's lane, injected, or through the gateway. -/
inductive Came where
  | lane (v : Nat)
  | inject
  | turn
  deriving DecidableEq, Repr

/-- The link leaving a ring position in a direction. -/
def outLink (ring pos dir : Nat) : Nat := 18 * ring + 2 * pos + dir

/-- The links that arrive at a ring position. -/
def inLinks (ring pos : Nat) : List Nat := [outLink ring ((pos + 8) % 9) 0, outLink ring ((pos + 1) % 9) 1]

/-- The table of a stop's side (Table 9.2). -/
def tableAt (ring pos : Nat) : Nat :=
  if ring = 8 then (if pos = 0 then 80 else 71 + pos) else if pos = 0 then 64 + ring else stopAt ring pos

/-- A gateway stands at this position. -/
def gatewayAt (ring pos : Nat) : Bool := if ring = 8 then pos != 0 else pos == 0

/-- The gateway at a position. -/
def gatewayNum (ring pos : Nat) : Nat := if ring = 8 then pos - 1 else ring

/-- The routing entry of a table for a destination (R226). -/
def rtEntry (s : State) (table dest : Nat) : Nat :=
  fld (s.shore.weir.rt.get (5 * table + dest / 16)) (2 * (dest % 16)) 2

/-- The fixed route of VC2 (R231). -/
def spillHop (ring pos dest : Nat) (came : Came) : Hop :=
  let on : Hop := .link (outLink ring pos 0) 2
  let turned := came == .turn
  if ring = 8 then
    if pos = 0 then (if dest = 64 then .eject else on)
    else if dest ≠ 64 ∧ dest / 8 = pos - 1 ∧ !turned then .turn else on
  else if pos = 0 then (if dest = 64 ∧ !turned then .turn else on)
  else if dest = stopAt ring pos then .eject else on

/-- The lane on which a message goes on from a position (R229). -/
def laneAt (ring pos : Nat) (came : Came) : Nat :=
  match came with
  | .inject => if ring = 8 then 1 else 0
  | .turn => if ring = 8 then 0 else 1
  | .lane v => if pos = 0 ∧ v = 0 then 1 else v

/-- The hop of a packet by its header (R226, R229, R231). -/
def hop (s : State) (ring pos : Nat) (came : Came) (head : BitVec 128) : Hop :=
  let dest := fld head 0 7
  if fld head 16 2 = 1 then spillHop ring pos dest came
  else
    match rtEntry s (tableAt ring pos) dest with
    | 0 => if gatewayAt ring pos then (if came = .turn then .wait else .turn) else .eject
    | 1 => .link (outLink ring pos 0) (laneAt ring pos came)
    | 2 => .link (outLink ring pos 1) (laneAt ring pos came)
    | _ => .wait

/-- The ring and position of an endpoint's stop. -/
def endPlace (e : Nat) : Nat × Nat := if e < 64 then (e / 8, e % 8 + 1) else (8, 0)

/-- Packets that wait at an endpoint for injection. -/
def outOf (s : State) (e : Nat) : List Packet := if e < 64 then (pondAt s e).out else s.shore.weir.hubOut

/-- The packets that wait at an endpoint replaced. -/
def outSet (e : Nat) (l : List Packet) (s : State) : State :=
  if e < 64 then onPondN e (fun P => { P with out := l }) s else onWeir (fun w => { w with hubOut := l }) s

/-- An endpoint accepts a management OP (R225, R232): a pond its requests and notices, the hub the answers. -/
def opAccepted (e op : Nat) : Bool :=
  if e < 64 then [1, 2, 5, 0x10].contains op else [3, 4, 6, 0x11].contains op

/-- A packet ejected at an endpoint; a management packet whose OP the endpoint does not accept is discarded
and counted (R225). -/
def ejectAt (e : Nat) (k : Packet) (s : State) : State :=
  if k.cls = 0 ∨ (k.cls = 1 ∧ opAccepted e k.op) then
    onWeir (fun w => { w with ejected := KMap.set [] w.ejected e (KMap.get [] w.ejected e ++ [k]) }) s
  else countBad (endStop e) s

/-- A packet whose stop is its own destination is ejected there (R226). -/
def localDeliver (e : Nat) (s : State) : State :=
  let pl := endPlace e
  let here (k : Packet) : Bool := k.sluice.isNone && hop s pl.1 pl.2 .inject k.head == .eject
  match (outOf s e).find? here with
  | none => s
  | some k => ejectAt e k (outSet e (eraseFirst here (outOf s e)) s)

/-! ### Flits -/

/-- The flits of a packet (R223). -/
def Packet.flits (k : Packet) : List Flit :=
  ((k.head :: k.body).zipIdx).map (fun x => ⟨x.1, x.2 == 0, x.2 == k.body.length, k.sluice⟩)

/-- The side field of a flit: HEAD, TAIL, LANE and CHECK (R223). -/
def sideOf (f : Flit) (lane seq : Nat) : BitVec 16 :=
  let top := 8 * b2n f.head + 4 * b2n f.tail + lane % 4
  BitVec.ofNat 16 (4096 * top + flitCheck f.data top seq)

/-- The link constant of a lane (R228). -/
def laneSize (v : Nat) : Nat := [8, 8, 4, 16].getD v 0

/-- The flits of sluice n in a link's reserved entries: sent and not accepted, or in the buffer. -/
def sluiceFill (k : Link) (n : Nat) : Nat :=
  (k.retry.filter (fun w => decide (k.seqR ≤ w.seq) && w.flit.sluice == some n)).length +
  ((vget k.buf 3 []).filter (fun f => f.sluice == some n)).length

/-- The key of a transfer buffer: gateway, direction (0 up, 1 down) and class. -/
def turnKey (g dir cls : Nat) : Nat := 4 * g + 2 * dir + cls

/-- The next flit of a packet that waits at an endpoint for link `l` on a lane. -/
def injectFlit (s : State) (l lane : Nat) : Option Flit :=
  let e := if linkSrc l = 72 then 64 else linkSrc l
  if linkSrc l ≠ 72 ∧ 64 ≤ linkSrc l then none else
  match (outOf s e).find? (fun k =>
    k.sluice.isNone && hop s (linkRing l) (linkFrom l) .inject k.head == .link l lane) with
  | some k => k.flits[(s.shore.weir.sent.get (256 * l + lane)).toNat]?
  | none => none

/-- The transfer buffer that feeds link `l` on a lane, where a gateway stands at its start. -/
def turnOf (l lane : Nat) : Option Nat :=
  if gatewayAt (linkRing l) (linkFrom l) then
    some (turnKey (gatewayNum (linkRing l) (linkFrom l)) (if linkRing l = 8 then 0 else 1) (if lane = 2 then 1 else 0))
  else none

/-- The flit at a source for link `l` on a lane. -/
def srcFlit (s : State) (l lane : Nat) : FlitSrc → Option Flit
  | .rx x => (vget (linkOf s (x / 4)).buf (x % 4) []).head?
  | .inject => injectFlit s l lane
  | .turn => match turnOf l lane with
    | some k => (KMap.get [] s.shore.weir.turns k).head?
    | none => none

/-- A source holds a header that goes to link `l` on a lane. -/
def srcReady (s : State) (l lane : Nat) (x : FlitSrc) : Bool :=
  let came : Came := match x with | .rx y => .lane (y % 4) | .inject => .inject | .turn => .turn
  match srcFlit s l lane x with
  | some f => f.head && hop s (linkRing l) (linkFrom l) came f.data == .link l lane
  | none => false

/-- The sources that could begin a packet on a lane of link `l`. -/
def srcsOf (s : State) (l lane : Nat) : List FlitSrc :=
  ((inLinks (linkRing l) (linkFrom l)).flatMap (fun k => (List.range 3).map (fun v => FlitSrc.rx (4 * k + v))) ++
    [FlitSrc.inject, FlitSrc.turn]).filter (srcReady s l lane)

/-- The source that serves a lane of link `l` now: the packet in progress, else one of the ready
ones, by a free choice where there are several. -/
def laneSrc (s : State) (l lane : Nat) : Option FlitSrc :=
  match vget (linkOf s l).own lane none with
  | some x => if (srcFlit s l lane x).isSome then some x else none
  | none =>
    let r := srcsOf s l lane
    r[(Config.freeWord (64 * s.shore.fresh + 40)).toNat % max 1 r.length]?

/-- The lane of R233 (2): round-robin after the lane served last, a flit and a credit at hand. -/
def pickLane (s : State) (l : Nat) : Option (Nat × FlitSrc) :=
  let k := linkOf s l
  [1, 2, 3].findSome? (fun i =>
    let v := (k.rr + i) % 3
    if vget k.used v 0 < laneSize v then (laneSrc s l v).map (fun x => (v, x)) else none)

/-- The flit of the sluice that owns wheel slot `j`, where its entry is free (R233 (1));
with the link behind, none at the source. -/
def pickSluice (s : State) (l j : Nat) : Option (Nat × Option Nat × Flit) :=
  let k := linkOf s l
  match (k.wheel.get j).toNat with
  | 0 => none
  | m + 1 =>
    match sluiceRec s m with
    | none => none
    | some r =>
      if r.slots ≤ sluiceFill k m then none else
      match r.path.idxOf l with
      | 0 =>
        match (outOf s r.src).find? (fun q => q.sluice == some m) with
        | some q => (q.flits[(s.shore.weir.sent.get (256 * l + 3 + m)).toNat]?).map (fun f => (m, none, f))
        | none => none
      | i + 1 =>
        let b := r.path.getD i 0
        ((vget (linkOf s b).buf 3 []).find? (fun f => f.sluice == some m)).map (fun f => (m, some b, f))

/-! ### Ejection and turns -/

/-- A flit leaves a receive buffer: its credit returns (R239). While the link retrains there is no return
channel; the credits are then exchanged anew from what the receiver holds (R243). -/
def popRx (l lane : Nat) (p : Flit → Bool) (s : State) : State :=
  onLink l (fun k => { k with
    buf := vset k.buf lane (eraseFirst p (vget k.buf lane [])),
    ret := if 2 ≤ k.st then k.ret else k.ret ++ [.credit lane] }) s

/-- A flit ejected at the stop where link `l` arrives; the last one completes its packet. -/
def ejectFlit (l key : Nat) (f : Flit) (s : State) : State :=
  let d := linkDst l
  let e := if d = 72 then 64 else d
  let got := KMap.get [] (linkOf s l).asm key ++ [f.data]
  if f.tail then
    let s1 := onLink l (fun k => { k with asm := KMap.set [] k.asm key [] }) s
    if 64 ≤ d ∧ d < 72 then s1
    else match got with
      | h :: b => ejectAt e ⟨h, b, f.sluice, s.ns⟩ s1
      | [] => s1
  else onLink l (fun k => { k with asm := KMap.set [] k.asm key got }) s

/-- A flit enters the transfer buffer of a gateway (R228). -/
def turnFlit (l lane : Nat) (f : Flit) (s : State) : Option State :=
  let g := gatewayNum (linkRing l) (linkTo l)
  let dir := if linkRing l = 8 then 1 else 0
  let cls := if lane = 2 then 1 else 0
  let key := turnKey g dir cls
  let b := KMap.get [] s.shore.weir.turns key
  let owner := (s.shore.weir.turnFrom.get key).toNat
  let me := 4 * l + lane + 1
  let size := if cls = 1 then 4 else 16
  if b.length < size ∧ ((f.head ∧ owner = 0) ∨ owner = me) then
    let s1 := onWeir (fun w => { w with
      turns := KMap.set [] w.turns key (b ++ [f]),
      turnFrom := w.turnFrom.set key (BitVec.ofNat 16 (if f.tail then 0 else me)) }) s
    some (if cls = 0 then
      smod (0x1178 + 4 * g) (fun w => peakFld w (if dir = 0 then 8 else 0) 8 (b.length + 1)) s1 else s1)
  else none

/-- The flit in front of a receive buffer is ejected or turned, where it is due to. -/
def frontMove (l lane : Nat) (s : State) : State :=
  match vget (linkOf s l).buf lane [] with
  | [] => s
  | f :: _ =>
    let out (h : Hop) : State :=
      match h with
      | .eject => popRx l lane (fun _ => true) (ejectFlit l lane f s)
      | .turn => match turnFlit l lane f s with
        | some t => popRx l lane (fun _ => true) t
        | none => s
      | _ => s
    if f.head then out (hop s (linkRing l) (linkTo l) (.lane lane) f.data)
    else if (KMap.get [] (linkOf s l).asm lane).isEmpty then out .turn
    else out .eject

/-- Everything in the receive buffers of a link that can be ejected or turned. -/
def settleRx (l : Nat) (s : State) : State :=
  (List.range 16).foldl (fun t _ => (List.range 3).foldl (fun u v => frontMove l v u) t) s

/-- A sluice flit accepted at the end of link `l`: a copy is ejected at a drop stop on its first
visit, and the flit is freed where the path ends (R234). -/
def sluiceAccept (l : Nat) (f : Flit) (s : State) : State :=
  match f.sluice with
  | none => s
  | some n =>
    match sluiceRec s n with
    | none => popRx l 3 (fun x => x.sluice == some n) s
    | some r =>
      let d := linkDst l
      let first := (r.path.find? (fun k => linkDst k == d)) == some l
      let s1 := if r.drops.testBit d && first then ejectFlit l (4 + n) f s else s
      if r.path.getLast? = some l then popRx l 3 (fun x => x.sluice == some n) s1 else s1

/-! ### Sending -/

/-- A handshake in wheel slot `j`: the next slot follows, and every 1,024th handshake is one to audit (R235,
R240). -/
def Link.shake (j : Nat) (k : Link) : Link := { k with hs := k.hs + 1, slot := (j + 1) % 16 }

/-- The next handshake of a link is one to audit (R240). -/
def Link.auditDue (k : Link) : Bool := (k.hs + 1) % 1024 == 0

/-- A flit put on the wires of link `l` in wheel slot `j`, as the next of its sequence. -/
def sendFlit (l lane j : Nat) (f : Flit) (s : State) : State :=
  onLink l (fun k =>
    let w : WireFlit := ⟨f, lane, k.seqS, sideOf f lane k.seqS, k.round, k.auditDue⟩
    { k.shake j with
      seqS := k.seqS + 1, used := vset k.used lane (vget k.used lane 0 + 1),
      retry := k.retry ++ [w], wire := k.wire ++ [w] }) s

/-- The stop's record of an injection wait (Table 9.7 WEIR_STOP_STALL): the longest, of VC2 and of message
class, in ns. -/
def noteStall (e : Nat) (k : Packet) (s : State) : State :=
  smod (0x12BC + 4 * endStop e) (fun w => peakFld w (if k.cls = 1 then 16 else 0) 16 (s.ns - k.since)) s

/-- The flit of an injected packet counted; the packet leaves the queue with its last one. -/
def injectStep (l key : Nat) (e : Nat) (f : Flit) (mine : Packet → Bool) (s0 : State) : State :=
  let s := match (outOf s0 e).find? mine with
    | some k => if f.head then noteStall e k s0 else s0
    | none => s0
  if f.tail then
    outSet e (eraseFirst mine (outOf s e)) (onWeir (fun w => { w with sent := w.sent.set (256 * l + key) 0 }) s)
  else onWeir (fun w => { w with sent := w.sent.set (256 * l + key) (w.sent.get (256 * l + key) + 1) }) s

/-- The flit sent leaves its source. -/
def leaveSrc (l lane : Nat) (x : FlitSrc) (f : Flit) (s : State) : State :=
  match x with
  | .rx y => settleRx (y / 4) (popRx (y / 4) (y % 4) (fun _ => true) s)
  | .inject =>
    let e := if linkSrc l = 72 then 64 else linkSrc l
    injectStep l lane e f (fun k =>
      k.sluice.isNone && hop s (linkRing l) (linkFrom l) .inject k.head == .link l lane) s
  | .turn =>
    match turnOf l lane with
    | none => s
    | some key =>
      let s1 := onWeir (fun w => { w with turns := KMap.set [] w.turns key ((KMap.get [] w.turns key).drop 1) }) s
      let g := gatewayNum (linkRing l) (linkFrom l)
      let feeders := if linkRing l = 8 then inLinks g 0 else inLinks 8 (g + 1)
      feeders.foldl (fun t k => settleRx k t) s1

/-- The next flit of a replay (R242); it is a handshake as any other, and takes no second credit (R239). -/
def sendReplay (l q : Nat) (s : State) : State :=
  onLink l (fun k =>
    match k.retry.find? (fun w => w.seq == q) with
    | none => { k with replay := none, st := 0 }
    | some w =>
      let more := k.retry.any (fun x => x.seq == q + 1)
      { k.shake k.slot with
        wire := k.wire ++ [{ w with round := k.round, audit := w.audit || k.auditDue }],
        replay := if more then some (q + 1) else none, st := if more then 1 else 0 }) s

/-- A sluice flit sent in wheel slot `j` (R233 (1)). -/
def sendSluice (l j : Nat) (x : Nat × Option Nat × Flit) (s : State) : State :=
  let n := x.1
  let s1 := sendFlit l 3 j x.2.2 s
  match x.2.1 with
  | none =>
    injectStep l (3 + n) (match sluiceRec s n with | some r => r.src | none => 64) x.2.2
      (fun q => q.sluice == some n) s1
  | some b => popRx b 3 (fun f => f.sluice == some n) s1

/-- The wheel slots after the present one, in turn, of which the first with a flit of its sluice at hand is
used when no lane has a flit (R235; assumption 55). -/
def idleSlots (s : State) (l : Nat) : Option (Nat × (Nat × Option Nat × Flit)) :=
  ((List.range 15).map (fun i => ((linkOf s l).slot + 1 + i) % 16)).findSome?
    (fun j => (pickSluice s l j).map (fun x => (j, x)))

/-- FLIT_SEND on link `l` (R233, R235, R239, R242). -/
def flitSend (l : Nat) (s : State) : State :=
  let k := linkOf s l
  if 2 ≤ k.st then s else
  match k.replay with
  | some q => sendReplay l q s
  | none =>
    if 32 ≤ k.retry.length then s else
    match pickSluice s l k.slot with
    | some x => sendSluice l k.slot x s
    | none =>
      match pickLane s l with
      | none => match idleSlots s l with | some x => sendSluice l x.1 x.2 s | none => s
      | some (v, x) =>
        match srcFlit s l v x with
        | none => s
        | some f =>
          let s1 := leaveSrc l v x f (useShoreFree (sendFlit l v k.slot f s))
          onLink l (fun k => { k with rr := v, own := vset k.own v (if f.tail then none else some x) }) s1

/-- FLIT_SEND. -/
def execFlitSend (l : LinkId) (s : State) : Host.Outcome State Fault Refusal := .next (flitSend l.val s)

/-! ### Receiving -/

/-- A retraining begins (R243): both ends drop what is on the wires and the return channel. -/
def retrain (l : Nat) (s : State) : State :=
  if (linkOf s l).st = 2 then s else
  sinc (0x10C4 + 4 * linkRing l) 0 32 1
    (onLink l (fun k => { k with st := 2, wire := [], ret := [], replay := none, roundR := k.round, fails := 0 }) s)

/-- A flit that passed its check is accepted; with that of a 1,024th handshake the audit is due (R240). -/
def acceptFlit (l : Nat) (f : Flit) (lane : Nat) (audit : Bool) (s : State) : State :=
  let s1 := onLink l (fun k => { k with
    seqR := k.seqR + 1, fails := 0, audit := k.audit || audit,
    buf := vset k.buf lane (vget k.buf lane [] ++ [f]), ret := k.ret ++ [.ack k.seqR] }) s
  if lane = 3 then sluiceAccept l f s1
  else
    let s2 := if lane = 2 then
        smod (0x1154 + 4 * linkRing l) (fun w => peakFld w 0 8 (vget (linkOf s1 l).buf 2 []).length) s1
      else s1
    settleRx l s2

/-- A flit arrives with these data and side bits (R242, R243): one sent before the sender took up the latest
NAK is discarded; one that fails its check is answered by a NAK, or by a retraining where the sender has still
to resend flits of a replay, or where it is the fourth failure in a row of the flit expected (assumption 55). -/
def arriveFlit (l : Nat) (w : WireFlit) (data : BitVec 128) (side : BitVec 16) (s : State) : State :=
  let k := linkOf s l
  if w.round ≠ k.roundR then s
  else if flitCheck data (fld side 12 4) k.seqR = fld side 0 12 then
    acceptFlit l { w.flit with data := data, head := bit side 15, tail := bit side 14 } (fld side 12 2) w.audit s
  else
    let s1 := sinc (0x10E8 + 4 * linkRing l) 0 32 1 s
    if k.replay.isSome || decide (3 ≤ k.fails) then retrain l s1
    else onLink l (fun k => { k with fails := k.fails + 1, roundR := k.roundR + 1, ret := k.ret ++ [.nak k.seqR] }) s1

/-- FLIT_RECEIVE at the end of link `l`: the oldest flit on the wires, with what the wires do to it. -/
def flitReceive (l : Nat) (x : WireFault) (s : State) : State :=
  match (linkOf s l).wire with
  | [] => s
  | w :: r =>
    let s1 := onLink l (fun k => { k with wire := r }) s
    match x with
    | .none => arriveFlit l w w.flit.data w.side s1
    | .altered d e => arriveFlit l w (w.flit.data ^^^ d) (w.side ^^^ e) s1
    | .dropped => s1
    | .doubled => arriveFlit l w w.flit.data w.side s

/-- FLIT_RECEIVE. -/
def execFlitReceive (l : LinkId) (x : WireFault) (s : State) : Host.Outcome State Fault Refusal :=
  .next (flitReceive l.val x s)

/-! ### The return channel -/

/-- The oldest return message of a kind taken; one that fails its check retrains the link (R243). -/
def takeRet (l : Nat) (p : RetMsg → Bool) (bad : Bool) (f : RetMsg → Link → Link) (s : State) : State :=
  match (linkOf s l).ret.find? p with
  | none => s
  | some m =>
    let s1 := onLink l (fun k => { k with ret := eraseFirst p k.ret }) s
    if bad then retrain l s1 else onLink l (f m) s1

/-- The sender after a NAK that names a flit: it resends from there, where the flit has been sent already. -/
def nakLink (m : RetMsg) (k : Link) : Link :=
  match m with
  | .nak q =>
    let again := k.retry.any (fun w => w.seq == q)
    { k with round := k.round + 1, replay := if again then some q else none, st := if again then 1 else 0 }
  | _ => k

/-- The sender after a credit return. -/
def creditLink (m : RetMsg) (k : Link) : Link :=
  match m with | .credit v => { k with used := vset k.used v (vget k.used v 0 - 1) } | _ => k

/-- The sender after an acknowledgement. -/
def ackLink (m : RetMsg) (k : Link) : Link :=
  match m with | .ack q => { k with retry := k.retry.filter (fun w => decide (q < w.seq)) } | _ => k

/-- NAK (R242). -/
def nakArrive (l : Nat) (bad : Bool) (s : State) : State :=
  let has := (linkOf s l).ret.any (fun m => match m with | .nak _ => true | _ => false)
  let s1 := takeRet l (fun m => match m with | .nak _ => true | _ => false) bad nakLink s
  if has && !bad then sinc (0x10A0 + 4 * linkRing l) 0 32 1 s1 else s1

/-- NAK reaches the sender of link `l`. -/
def execNak (l : LinkId) (bad : Bool) (s : State) : Host.Outcome State Fault Refusal :=
  .next (nakArrive l.val bad s)

/-- CREDIT_RETURN reaches the sender of link `l` (R239). -/
def execCreditReturn (l : LinkId) (bad : Bool) (s : State) : Host.Outcome State Fault Refusal :=
  .next (takeRet l.val (fun m => match m with | .credit _ => true | _ => false) bad creditLink s)

/-- LINK_ACKNOWLEDGEMENT reaches the sender of link `l` (R242). -/
def execLinkAcknowledgement (l : LinkId) (bad : Bool) (s : State) : Host.Outcome State Fault Refusal :=
  .next (takeRet l.val (fun m => match m with | .ack _ => true | _ => false) bad ackLink s)

/-! ### The audit and retraining -/

/-- The sum of R239 for lane v, given the credits that the sender holds: they, the flits sent and not freed at
the receiver, and the credit returns on their way. -/
def creditSum (k : Link) (v held : Nat) : Nat :=
  held + (k.retry.filter (fun w => w.lane == v && decide (k.seqR ≤ w.seq))).length + (vget k.buf v []).length +
    (k.ret.filter (fun m => m == .credit v)).length

/-- The credits that the sender holds for lane v. -/
def creditsHeld (k : Link) (v : Nat) : Nat := laneSize v - vget k.used v 0

/-- The sum for lane v that the audit observes, where a disturbance has put the sender's credit counter of one
lane to a value of its own (assumption 55). -/
def auditSum (k : Link) (upset : Option (Fin 4 × Word)) (v : Nat) : Nat :=
  creditSum k v (match upset with
    | some (u, x) => if u.val = v then x.toNat else creditsHeld k v
    | none => creditsHeld k v)

/-- CREDIT_AUDIT of link `l` (R240, R241): the sum of R239 is compared with the constant for each lane; the
first lane that does not agree is logged, an alarm is raised, and the link retrains, which gives every lane its
credits anew. -/
def creditAudit (l : Nat) (upset : Option (Fin 4 × Word)) (s : State) : State :=
  let k := linkOf s l
  if !k.audit then s else
  let s1 := onLink l (fun k => { k with audit := false }) s
  match (List.range 4).find? (fun v => auditSum k upset v != laneSize v) with
  | none => s1
  | some v =>
    let s2 := if bit (sreg s1 0x1020) 31 then s1 else
      sset 0x102C (BitVec.ofNat 32 k.hs) (sset 0x1028 (BitVec.ofNat 32 (auditSum k upset v))
        (sset 0x1024 (BitVec.ofNat 32 (laneSize v))
          (sset 0x1020 (BitVec.ofNat 32 (2 ^ 31 + 65536 * v + l)) s1)))
    retrain l (alarmRaise 5 (sinc (0x110C + 4 * linkRing l) 0 32 1 s2))

/-- CREDIT_AUDIT. -/
def execCreditAudit (l : LinkId) (upset : Option (Fin 4 × Word)) (s : State) : Host.Outcome State Fault Refusal :=
  .next (creditAudit l.val upset s)

/-- The bit of WEIR_FAILED of a link. -/
def failedBit (l : Nat) (b : Bool) (s : State) : State :=
  smod (0x1130 + 4 * linkRing l) (fun w => setBit w (l % 18) b) s

/-- Credits after a retraining: what the receiver holds and what is to be replayed is in use. -/
def creditsAnew (k : Link) : Link :=
  let waiting := k.retry.filter (fun w => decide (k.seqR ≤ w.seq))
  { k with
    retry := waiting, ret := [],
    used := Vector.ofFn (fun v : Fin 4 =>
      (vget k.buf v.val []).length + (waiting.filter (fun w => w.lane == v.val)).length) }

/-- RETRAIN_DONE of link `l` (R243, R244). -/
def retrainDone (l : Nat) (ok : Bool) (s : State) : State :=
  let k := linkOf s l
  if k.st ≠ 2 then s
  else if ok then
    failedBit l false (onLink l (fun k =>
      let k1 := creditsAnew k
      { k1 with
        rfails := 0, replay := if k1.retry.isEmpty then none else some k1.seqR,
        st := if k1.retry.isEmpty then 0 else 1 }) s)
  else
    let s1 := onLink l (fun k => { k with rfails := k.rfails + 1 }) s
    if 8 ≤ k.rfails + 1 then failedBit l true (onLink l (fun k => { k with st := 3 }) s1)
    else retrain l (onLink l (fun k => { k with st := 0 }) s1)

/-- RETRAIN_DONE. -/
def execRetrainDone (l : LinkId) (ok : Bool) (s : State) : Host.Outcome State Fault Refusal :=
  .next (retrainDone l.val ok s)

/-- RETRAIN_TIMER of link `l`: a failed link retrains again (R244). -/
def execRetrainTimer (l : LinkId) (s : State) : Host.Outcome State Fault Refusal :=
  .next (if (linkOf s l.val).st = 3 then retrain l.val s else s)

/-- RETRAIN: a steward's write of WEIR_CTRL.RETRAIN with LINK (R244, R252). -/
def execRetrain (l : LinkId) (s : State) : Host.Outcome State Fault Refusal := .next (retrain l.val s)

end Sys2Proof.Machine
end

