-- ==== Sys2Proof/Machine/Messages.lean ====
section
/-! DEFINITION. Packets at their endpoints (chapter 9): messages (R50, R225, R248), incarnation
notices (R249, R250), the management endpoint of a pond (R232, R294, R398) and its answers, and
capture streams (R302). -/

namespace Sys2Proof.Machine

/-! ### Messages -/

/-- A capture-stream packet reaches the hub (R249, R50 to R52): one of an old incarnation is discarded and
counted in DROP, a late one counted, one too early discarded; the others wait for their apply epoch. -/
def streamArrive (k : Packet) (s : State) : State :=
  let c := shoreEpoch s
  let a := applyEpoch c k.apply
  if k.tag ≠ (s.shore.weir.inc.get (k.src % 64)).toNat then countDrop 72 s
  else if a ≤ (c : Int) then countLateShore s
  else if (c : Int) + 9 < a then s
  else onWeir (fun w => { w with streamIn := w.streamIn ++ [{ k with since := s.ns }] }) s

/-- MESSAGE_ARRIVAL at an endpoint: the oldest message-class packet there that no other row
handles; the hub accepts no other KIND (R225). -/
def messageArrival (e : Nat) (s : State) : State :=
  match takeEjected e (fun k => k.cls == 0 && !(e == 64 && k.kind == 1)) (localDeliver e s) with
  | none => s
  | some (k, s1) =>
    if e < 64 then pondMessage e k s1 else if k.kind = 5 then streamArrive k s1 else countBad 72 s1

/-- MESSAGE_ARRIVAL at endpoint e: 0 to 63 a pond, 64 the Shore. -/
def execMessageArrival (e : Fin 65) (s : State) : Host.Outcome State Fault Refusal :=
  .next (messageArrival e.val s)

/-! ### Incarnation -/

/-- A message from an older incarnation that applies after B. -/
def staleMsg (src : Nat) (inc : BitVec 8) (b : Int) (h : HeldMsg) : Bool :=
  h.src == src && h.inc != inc && decide (b < (h.apply : Int))

/-- The incarnation that an exchange message carries (Table 8.2). -/
def Exch.inc (e : Exch) : Nat := fld e.info 16 8

/-- A notice reaches a stop (R249, R250). -/
def noticeAt (k : Packet) (P : Pond) : Pond :=
  let src := k.addr % 256
  let inc : BitVec 8 := BitVec.ofNat 8 (k.addr / 256)
  let b := applyEpoch (epochOf P) (fld k.data 0 16)
  let ix := P.grp.config.idxOf src
  let stale (e : Exch) : Bool := e.idx == ix && e.inc != inc.toNat && decide (b < (e.apply : Int))
  let gone := (P.held.filter (staleMsg src inc b)).length + (P.grp.slots.filter stale).length
  let late := (P.applied.filter (fun h => h.src == src && decide (b < (h.apply : Int)))).length +
    (P.grp.applied.filter (fun e => e.idx == ix && decide (b < (e.apply : Int)))).length
  let P1 := { P with
    incTab := P.incTab.set src inc, held := P.held.filter (fun h => !staleMsg src inc b h),
    grp := { P.grp with slots := P.grp.slots.filter (fun e => !stale e) } }
  let P2 := rmod 0x648 (fun w => incFld w 0 32 gone) P1
  if late = 0 then P2 else countLate none P2

/-- The oldest management packet with this OP at an endpoint. -/
def takeMgmt (e op : Nat) (s : State) : Option (Packet × State) :=
  takeEjected e (fun k => k.cls == 1 && k.op == op) s

/-- INCARNATION_NOTICE at pond p's stop (R249). -/
def execIncarnationNotice (p : PondId) (s : State) : Host.Outcome State Fault Refusal :=
  .next (match takeMgmt p.val 0x10 s with
    | none => s
    | some (k, s1) =>
      onPondN p.val (fun P => emit s.ns ⟨mgmtHead 64 p.val 0 0 0x11 0 k.addr 0, [], none, 0⟩ (noticeAt k P)) s1)

/-- NOTICE_ACKNOWLEDGE at the hub: the last one releases the pond's posting (R85). -/
def execNoticeAcknowledge (s : State) : Host.Outcome State Fault Refusal :=
  .next (match takeMgmt 64 0x11 s with
    | none => s
    | some (k, s1) =>
      let p := k.addr % 256
      match s1.shore.notices.find? (fun x => x.1 == p) with
      | none => s1
      | some x =>
        let left := x.2.filter (fun n => n != k.src)
        let rest := s1.shore.notices.filter (fun y => y.1 != p)
        if left.isEmpty then
          onPondN p (fun P => { P with life := { P.life with incWait := false } })
            (onShore (fun h => { h with notices := rest }) s1)
        else onShore (fun h => { h with notices := rest ++ [(p, left)] }) s1)

/-! ### Management requests -/

/-- The lowest tag that no outstanding request of a pond uses. -/
def freeTag (s : State) (p : Nat) : Nat :=
  ((List.range 256).find? (fun t => !s.shore.mreqs.any (fun r => r.pond == p && r.tag == t))).getD 0

/-- A management request of a command sent, or kept until one of four is free (R232). -/
def mgmtSend (p order : Nat) (k : Packet) (s : State) : State :=
  if 4 ≤ (s.shore.mreqs.filter (fun r => r.pond == p)).length then
    onShore (fun h => { h with mwait := h.mwait ++ [(order, k)] }) s
  else
    let t := freeTag s p
    let head := setFld k.head 24 8 t
    hubEmit { k with head := head } (onShore (fun h => { h with mreqs := h.mreqs ++ [⟨p, t, order⟩] }) s)

/-- A request is answered: the command's order, and the next waiting request sent. -/
def mgmtDone (p tag : Nat) (s : State) : Option (Nat × State) :=
  match s.shore.mreqs.find? (fun r => r.pond == p && r.tag == tag) with
  | none => none
  | some r =>
    let s1 := onShore (fun h => { h with mreqs := eraseFirst (fun x => x == r) h.mreqs }) s
    let mine (x : Nat × Packet) : Bool := x.2.dest == p
    match s1.shore.mwait.find? mine with
    | none => some (r.order, s1)
    | some x => some (r.order, mgmtSend p x.1 x.2 (onShore (fun h => { h with mwait := eraseFirst mine h.mwait }) s1))

/-- The answer of a pond's endpoint to a request. -/
def answer (ns p : Nat) (k : Packet) (op status data : Nat) (P : Pond) : Pond :=
  emit ns ⟨mgmtHead 64 p 0 k.tag op status k.addr data, [], none, 0⟩ P

/-- An address that a peek of a pond accepts (Table 11.5). -/
def peekable (a : Nat) : Bool :=
  decide (a < 0x40000) || (decide (0x08000000 ≤ a) && decide (a < 0x08040000)) ||
  (decide (0x20000000 ≤ a) && decide (a < 0x20020000)) || (decide (0x40000000 ≤ a) && decide (a < 0x40000700))

/-- An address that a poke of a pond accepts, registers apart from RO ones (Table 11.5). -/
def pokeable (a : Nat) : Bool :=
  (decide (0x20000000 ≤ a) && decide (a < 0x2001FFC0)) || (decide (0x40000000 ≤ a) && decide (a < 0x40000700))

/-- A word as a peek reads it (R294): STATUS and the word; a torn or uncorrectable flash word is
turned away (R383), and live line levels are free. -/
def peekPond (c : PCtx) (a : Nat) (P : Pond) : Nat × Word × Pond :=
  if 0x40000000 ≤ a then
    if (pondAcc (a - 0x40000000)).isNone then (2, 0, P)
    else (0, regView c P (a - 0x40000000), useFree P)
  else if 0x20000000 ≤ a then (0, BitVec.ofNat 32 (ofLe (P.sram.bytes (a - 0x20000000) 4)), P)
  else
    let r := flashRead P (decide (0x08000000 ≤ a)) (a % 0x08000000) 4
    match r.1 with
    | some v => (0, BitVec.ofNat 32 v, r.2)
    | none => (2, 0, r.2)

/-- A peek of the inactive window waits while an operation runs there (R378). -/
def peekWaits (P : Pond) (a : Nat) : Bool :=
  decide (0x08000000 ≤ a) && decide (a < 0x20000000) && P.pfl.op.isSome

/-- A word poked (R294, R467): STATUS. -/
def pokePond (c : PCtx) (a : Nat) (v : Word) (P : Pond) : Nat × Pond :=
  if 0x40000000 ≤ a then
    match entryFail c P (a - 0x40000000) v with
    | some 0x0D => (2, P)
    | some _ => (3, P)
    | none => (0, storeReg c (a - 0x40000000) v P)
  else
    let off := a - 0x20000000
    (0, { P with sram := P.sram.setBytes off (leBytes v.toNat 4), ecc := P.ecc.set (off / 4) 0 })

/-- A request served by the endpoint of pond p, with the OP of its answer; STATUS 1 in a reset, and
nothing where the pond is out of service (R221, R232). -/
def serve (p op ans : Nat) (waits : Pond → Packet → Bool) (f : PCtx → Packet → Pond → Nat × Nat × Pond)
    (s : State) : State :=
  match takeMgmt p op s with
  | none => s
  | some (k, s1) =>
    let P := pondAt s1 p
    if !P.life.inService then s1
    else if P.life.resetEnd.isSome then onPondN p (answer s.ns p k ans 1 0) s1
    else if waits P k then s
    else
      let r := f (pctxN s1 p) k P
      onPondN p (fun _ => answer s.ns p k ans r.1 r.2.1 r.2.2) s1

/-- MANAGEMENT_READ at pond p's endpoint (R232, R294). -/
def execManagementRead (p : PondId) (s : State) : Host.Outcome State Fault Refusal :=
  .next (serve p.val 1 3 (fun P k => peekWaits P k.addr)
    (fun c k P => let r := peekPond c k.addr P; (r.1, r.2.1.toNat, r.2.2)) s)

/-- MANAGEMENT_WRITE at pond p's endpoint (R232, R294). -/
def execManagementWrite (p : PondId) (s : State) : Host.Outcome State Fault Refusal :=
  .next (serve p.val 2 4 (fun _ _ => false)
    (fun c k P => let r := pokePond c k.addr k.data P; (r.1, 0, r.2)) s)

/-- What an acknowledge carries for a block that meets a firmware operation (R307, R384): the code of
FLASH_BUSY beside the reasons of Table 14.5 (DESIGN CHOICE, log 32). -/
def flashBusy : Nat := 0x21

/-- BLOCK_WRITE at pond p's endpoint (R398): the flash program starts; it is acknowledged when it
ends, or at once where a firmware operation runs. -/
def blockWrite (p : Nat) (s : State) : State :=
  match takeMgmt p 5 s with
  | none => s
  | some (k, s1) =>
    let P := pondAt s1 p
    if !P.life.inService then s1
    else if P.life.resetEnd.isSome then onPondN p (answer s.ns p k 6 1 0) s1
    else if P.pfl.op.any (fun o => o.owner == 1) then onPondN p (answer s.ns p k 6 0 flashBusy) s1
    else if P.pfl.op.isSome then s
    else
      let d := k.body.map (fun f => leBytes f.toNat 16) |>.flatten
      onPondN p (pflStart ⟨2, false, inactiveBase P + k.addr / 32, flashWords 2 d, k.tag⟩) s1

/-- BLOCK_WRITE at pond p. -/
def execBlockWrite (p : PondId) (s : State) : Host.Outcome State Fault Refusal := .next (blockWrite p.val s)

/-- The status of a command whose answer carries STATUS (R294). -/
def answerStatus (st : Nat) : Nat := match st with | 0 => 0 | 1 => 0x0E | 2 => 0x0D | _ => 0x11

/-- READ_RESPONSE at the hub completes its PEEK (R294). -/
def execReadResponse (s : State) : Host.Outcome State Fault Refusal :=
  .next (match takeMgmt 64 3 s with
    | none => s
    | some (k, s1) =>
      match mgmtDone k.src k.tag s1 with
      | none => s1
      | some (order, s2) =>
        match cmdOf s2 order with
        | none => s2
        | some c => finishNow c (answerStatus k.status) 0 (if k.status = 0 then k.data else 0) s2)

/-- A poke completes (R61): one that wrote is counted as an ASAP command. -/
def pokeEnd (c : Cmd) (st : Nat) (s : State) : State :=
  if st = 0 then
    finish { c with timing := true } 0 0 0 (shoreEpoch s) 0 false (countAsap s)
  else finish { c with timing := true } st 0 0 c.epoch 0 false s

/-- WRITE_ACKNOWLEDGE at the hub completes its POKE (R61, R294). -/
def execWriteAcknowledge (s : State) : Host.Outcome State Fault Refusal :=
  .next (match takeMgmt 64 4 s with
    | none => s
    | some (k, s1) =>
      match mgmtDone k.src k.tag s1 with
      | none => s1
      | some (order, s2) =>
        match cmdOf s2 order with
        | none => s2
        | some c => pokeEnd c (answerStatus k.status) s2)

/-! ### Capture streams -/

/-- The payload flits of a stream packet: up to 12 entries of 4 bytes, then zeros. -/
def streamBody (l : List Word) : List (BitVec 128) :=
  (List.range 4).map (fun i => BitVec.ofNat 128 (ofLe (padTo 16 (((l.drop (4 * i)).take 4).flatMap (fun w => leBytes w.toNat 4)))))

/-- STREAM_PACKET_SEND (R302): up to 12 entries leave the buffer in one packet on the stream's
sluice; DATA0 holds their first epoch's low word and their number (assumption 21). -/
def streamSend (c : PCtx) (P : Pond) : Pond :=
  match P.stream, P.cbuf with
  | some n, w :: _ =>
    let l := P.cbuf.take 12
    let e := epochOf P
    let P1 := { P with cbuf := P.cbuf.drop 12 }
    if slOpenAt c n e then
      emit c.ns ⟨msgHead 64 c.p 4 P.life.inc.toNat (e + c.lat) 0 5 (w.2 % 2 ^ 32 + 2 ^ 32 * l.length),
        streamBody (l.map (·.1)), some n, 0⟩ P1
    else discardPost P1
  | _, _ => P

/-- STREAM_PACKET_SEND by pond p. -/
def execStreamPacketSend (p : PondId) (s : State) : Host.Outcome State Fault Refusal :=
  .next (onPond p (streamSend (pctx s p)) s)

/-- The 64 bytes of a stream record (Table 11.7). -/
def streamRecordBytes (seq : Nat) (k : Packet) : List Byte :=
  let n := k.data0.toNat / 2 ^ 32
  leBytes seq 8 ++ leBytes k.data0.toNat 4 ++ [BitVec.ofNat 8 n, 0, 0, 0] ++
  padTo 48 (k.bytes.take (4 * n))

/-- A stream packet whose apply epoch has come (R51). -/
def streamReady (s : State) (k : Packet) : Bool := decide (applyEpoch (shoreEpoch s) k.apply ≤ (shoreEpoch s : Int))

/-- STREAM_RECORD: the oldest stream packet held whose apply epoch has come is written by the issuing port,
or discarded and counted where the port is broken (R302); one from an incarnation that has ended since is
discarded and counted in DROP (R249). -/
def streamRecord (s : State) : State :=
  match s.shore.weir.streamIn.find? (streamReady s) with
  | none => s
  | some k =>
    let s1 := onWeir (fun w => { w with streamIn := eraseFirst (fun x => x == k) w.streamIn }) s
    if k.tag ≠ (s1.shore.weir.inc.get (k.src % 64)).toNat then countDrop 72 s1 else
    match s1.shore.streams.find? (fun x => x.pond == k.src) with
    | none => s1
    | some x =>
      let up (f : Stream → Stream) (t : State) : State :=
        onShore (fun h => { h with streams := h.streams.map (fun y => if y.pond = x.pond then f y else y) }) t
      if canRequest (portOf s1 x.port) then
        let slots := 2 ^ (x.log2 - 6)
        up (fun y => { y with seq := y.seq + 1 })
          (postWrite x.port (x.base + 64 * ((x.seq - 1) % slots)) (streamRecordBytes x.seq k) .stream s1)
      else up (fun y => { y with seq := y.seq + 1, lost := y.lost + 1 }) s1

/-- STREAM_RECORD. -/
def execStreamRecord (s : State) : Host.Outcome State Fault Refusal := .next (streamRecord s)

end Sys2Proof.Machine
end

