-- ==== Sys2Proof/Machine/Port.lean ====
section
/-! DEFINITION. Host ports (chapter 10): links and breaks (R254 to R259), context states and their
block (R263 to R266), the doorbell and descriptor fetches (R267 to R271), acknowledgements (R276),
and the setup BAR (R260 to R262, Tables 10.3 and 10.4). -/

namespace Sys2Proof.Machine

/-! ### Links and breaks -/

/-- A link that the port can train (Table 10.2): a speed of 2.5 to 64 GT/s, Flit mode at 64 GT/s, and x1, x2
or x4. -/
def linkTrains (speed : BitVec 4) (width : BitVec 3) (flit : Bool) : Bool :=
  decide (1 ≤ speed.toNat) && decide (speed.toNat ≤ 6) && (speed != 6 || flit) &&
  (width == 1 || width == 2 || width == 4)

/-- LINK_UP of port h (R72): training ends; it begins only after PERST_N release and step 2. -/
def execLinkUp (h : PortId) (speed : BitVec 4) (width : BitVec 3) (flit : Bool) (s : State) :
    Host.Outcome State Fault Refusal :=
  .next (if s.shore.boot.por || decide (s.shore.boot.phase < 2) || !linkTrains speed width flit then s else
    onPort h.val (fun p => { p with
      perst := false, link := true, ready := true, speed := speed.toNat, width := width.toNat,
      flit := flit }) s)

/-- The event changes the port now (R257). -/
def breaks (p : Port) (k : BreakKind) : Bool :=
  match k with
  | .linkDown => p.link
  | .perst => !p.perst
  | .flr => p.link
  | .bmeClear => p.bme
  | .d3hot => p.link && !p.d3

/-- What the event itself does to the port: PERST_N and a Function Level Reset return configuration
space to its defaults (R259). -/
def breakEffect (k : BreakKind) (p : Port) : Port :=
  match k with
  | .linkDown => { p with link := false }
  | .perst => { p with
      perst := true, link := false, ready := false, bme := false, d3 := false, cfg := PortCfg.reset }
  | .flr => { p with bme := false, d3 := false, cfg := PortCfg.reset }
  | .bmeClear => { p with bme := false }
  | .d3hot => { p with d3 := true }

/-- CONFIG_WRITE of port h: Bus Master Enable set, the return from D3hot to D0, the sizes of R256, or the
setup BAR's place (Table 10.2: 64 KiB, so its low 16 bits are 0). -/
def execConfigWrite (h : PortId) (k : ConfigKind) (s : State) : Host.Outcome State Fault Refusal :=
  .next (if !(portOf s h.val).link then s else
    portFlush h.val (onPort h.val (fun p => match k with
      | .bmeSet => { p with bme := true }
      | .d0 => { p with d3 := false }
      | .control mps mrrs => { p with cfg := { p.cfg with mps := mps, mrrs := mrrs } }
      | .bar mem base => { p with cfg := { p.cfg with mem := mem, bar := base &&& ~~~(0xFFFF : BitVec 64) } }) s))

/-- The Device ID of a part (Table 10.2). -/
def deviceId (part : Nat) : Nat := if part = 48 then 0xA048 else if part = 32 then 0xA032 else 0xA064

/-- A word of the type 0 header of port h's function 0 (R254, R255, Table 10.2); the Interrupt Status bit of
its Status register reads 0. Fields that the table and the standard leave to the part are free. -/
def cfgWord (s : State) (h off : Nat) : Word :=
  let p := portOf s h
  let id (a : Nat) : Nat := leAt (otpBytes s a 2) 0 2
  match off with
  | 0x00 => BitVec.ofNat 32 (id 0x10 + 65536 * deviceId (leAt (otpBytes s 0x16 1) 0 1))
  | 0x04 => BitVec.ofNat 32 (2 * b2n p.cfg.mem + 4 * b2n p.bme + 2 ^ 20)
  | 0x08 => 0x0B4000B0
  | 0x0C => 0
  | 0x10 => p.cfg.bar.extractLsb' 0 32 ||| 4
  | 0x14 => p.cfg.bar.extractLsb' 32 32
  | 0x2C => BitVec.ofNat 32 (id 0x12 + 65536 * id 0x14)
  | 0x34 => shoreFree s 48 &&& 0xFC
  | _ => 0

/-! ### Contexts -/

/-- A fault of a context (R265, R270, R271): its CAUSE, and its bit in HP_CTX_FAULT. -/
def ctxFault (h n st cause : Nat) (s : State) : State :=
  smod (hpBase h + 0x038) (fun w => setBit w n true)
    (onCtx h n (fun c => { c with st := st, cause := cause, asked := [], polling := false, pollAt := none }) s)

/-- A context enters REPLAYING (R277, R278). -/
def ctxReplay (h n : Nat) (s : State) : State :=
  let s1 := onCtx h n (fun c => { c with
    st := 2, gen := if c.cut then c.gen else c.gen + 1, cut := false, report := true, replaying := true }) s
  let s2 := onPort h (fun p => { p with
    reserve := p.reserve.map (fun e => if e.ctx = n then { e with sent := false, replay := true } else e) }) s1
  ctxSettle h n (portFlush h s2)

/-- A write of EN = 1 (Table 10.6). -/
def ctxEnable (h n : Nat) (s : State) : State :=
  match (ctxOf s h n).st with
  | 0 => onCtx h n (fun c => { c with st := 1, fetched := [], asked := [], polling := false }) s
  | 5 => ctxReplay h n s
  | 4 => portFlush h (ctxRun h n s)
  | _ => s

/-- A write of EN = 0 (Table 10.6). -/
def ctxDisable (h n : Nat) (s : State) : State :=
  match (ctxOf s h n).st with
  | 1 => onCtx h n (fun c => { c with st := 0 }) s
  | 2 => ctxSettle h n (onCtx h n (fun c => { c with st := 4 }) s)
  | 3 => ctxSettle h n (onCtx h n (fun c => { c with st := 4 }) s)
  | _ => s

/-- A write of ABANDON = 1 with EN = 0 (R266). -/
def ctxAbandon (h n : Nat) (s : State) : State :=
  let c := ctxOf s h n
  if c.st ≠ 5 ∧ c.st ≠ 0 then s else
  let mine := ((portOf s h).reserve.filter (fun e => e.ctx == n)).length
  let s1 := onPort h (fun p => { p with reserve := p.reserve.filter (fun e => e.ctx != n) }) (cplLost h mine s)
  onCtx h n (fun c => { c with
    st := 0, life := c.life + 1, owed := 0, consumed := 0, seq := 0, fetched := [], asked := [],
    polling := false, pollAt := none, replaying := false, report := false, cut := false }) s1

/-- CONTEXT_ENABLE. -/
def execContextEnable (h : PortId) (n : CtxId) (s : State) : Host.Outcome State Fault Refusal :=
  .next (ctxEnable h.val n.val s)

/-- CONTEXT_DISABLE. -/
def execContextDisable (h : PortId) (n : CtxId) (s : State) : Host.Outcome State Fault Refusal :=
  .next (ctxDisable h.val n.val s)

/-- ABANDON. -/
def execAbandon (h : PortId) (n : CtxId) (s : State) : Host.Outcome State Fault Refusal :=
  .next (ctxAbandon h.val n.val s)

/-- A context block read from its 64 bytes (Table 10.5). -/
def blockOf (d : List Byte) : Block :=
  { cmdBase := leAt d 0 8, cplBase := leAt d 8 8, db := leAt d 0x10 8, cmdLog := leAt d 0x18 2,
    cplLog := leAt d 0x1A 2, poll := leAt d 0x1C 4, mirBase := leAt d 0x20 8,
    mirCfg := BitVec.ofNat 32 (leAt d 0x28 4) }

/-- The block of context n obeys Table 10.5 and R263. -/
def blockOk (n : Nat) (d : List Byte) : Bool :=
  let b := blockOf d
  let w := leAt d 0x28 4
  b.cmdBase % 64 == 0 && b.cplBase % 64 == 0 && b.db % 8 == 0 &&
  decide (4 ≤ b.cmdLog) && decide (b.cmdLog ≤ 12) && decide (4 ≤ b.cplLog) && decide (b.cplLog ≤ 12) &&
  decide (250 ≤ b.poll) && decide (b.poll ≤ 1048576) && b.mirBase % 64 == 0 && decide (w < 2 ^ 18) &&
  (slice d 0x2C 20).all (· == 0) &&
  (if n = 0 then b.mirBase == 0 || decide (1 ≤ w % 65536) else (slice d 0x20 16).all (· == 0))

/-- The mirror fields of context 0's block break Table 10.5 (R263): MIR_BASE unaligned, a reserved
bit of word 0x28 set, or no INTERVAL for a mirror. -/
def mirFieldsBad (n : Nat) (d : List Byte) : Bool :=
  let b := blockOf d
  let w := leAt d 0x28 4
  n == 0 && (b.mirBase % 64 != 0 || decide (2 ^ 18 ≤ w) || (b.mirBase != 0 && w % 65536 == 0))

/-- The address of a context's block. -/
def blockAddr (c : Ctx) : Nat := c.lo.toNat + 2 ^ 32 * c.hi.toNat

/-- CONTEXT_BLOCK_READ (R265), once epoch 0 has begun (R73). A block whose mirror fields fail also
counts in TMIR_ERR_p (Table 10.10; DEDUCED, log 40). -/
def blockRead (h n : Nat) (d : Option (List Byte)) (s : State) : State :=
  let c := ctxOf s h n
  if c.st ≠ 1 ∨ !canRequest (portOf s h) ∨ s.shore.boot.phase ≠ 12 then s else
  match d with
  | none => ctxFault h n 0 2 (dmaErr h (blockAddr c) s)
  | some l =>
    let x := padTo 64 l
    if blockOk n x then portFlush h (ctxRun h n (onCtx h n (fun c => { c with block := some (blockOf x) }) s))
    else ctxFault h n 0 3 (if mirFieldsBad n x then sinc (0x8078 + 0x40 * h) 0 32 1 s else s)

/-- CONTEXT_BLOCK_READ. -/
def execContextBlockRead (h : PortId) (n : CtxId) (d : Option (List Byte)) (s : State) :
    Host.Outcome State Fault Refusal := .next (blockRead h.val n.val d s)

/-! ### The doorbell and descriptors -/

/-- The reads that a port has outstanding: doorbells, descriptors and operands. -/
def portReads (s : State) (h : Nat) : Nat :=
  ((List.range 32).map (fun n => let c := ctxOf s h n; b2n c.polling + c.asked.length)).foldl (· + ·) 0 +
  (s.shore.cmds.filter (fun c => c.port == h && (match c.phase with | .reading _ _ => true | _ => false))).length

/-- DOORBELL_POLL (R269): POLL ns are counted on the Shore timebase; at most 64 requests of the port are
outstanding (Table 10.2). -/
def doorbellPoll (h n : Nat) (s : State) : State :=
  let c := ctxOf s h n
  let now := s.shore.tbs.tb.toNat
  let due : Bool := match c.pollAt, c.block with
    | some t, some b => decide (t + b.poll ≤ now)
    | _, _ => true
  if c.st = 3 ∧ !c.polling ∧ canRequest (portOf s h) ∧ due ∧ portReads s h < 64 then
    onCtx h n (fun c => { c with polling := true, pollAt := some now }) s
  else s

/-- DOORBELL_POLL. -/
def execDoorbellPoll (h : PortId) (n : CtxId) (s : State) : Host.Outcome State Fault Refusal :=
  .next (doorbellPoll h.val n.val s)

/-- The descriptors that one read of a port may carry: 8, or what Max_Read_Request_Size admits (R256,
R271). -/
def fetchMost (p : Port) : Nat := min 8 (2 * 2 ^ p.cfg.mrrs.val)

/-- The descriptor reads for `left` descriptors from an index in a ring of `size`, at most `most` a read
(R271). -/
def fetchPlan (size most : Nat) : Nat → Word → Nat → List (Word × Nat)
  | 0, _, _ => []
  | fuel + 1, i, left =>
    if left = 0 then [] else
    let k := min (min most left) (size - i.toNat % size)
    (i, k) :: fetchPlan size most fuel (i + BitVec.ofNat 32 k) (left - k)

/-- Descriptors asked for and not yet arrived. -/
def askedCount (c : Ctx) : Nat := c.asked.foldl (fun a x => a + x.2) 0

/-- CMD_TAIL and CPL_HEAD of the doorbell word's 8 bytes (R268). -/
def doorbellOf (d : List Byte) : Word × Word := (BitVec.ofNat 32 (leAt d 0 4), BitVec.ofNat 32 (leAt d 4 4))

/-- DOORBELL_DATA (R270, R271). A read that fails consumes nothing and is counted; the next poll is
issued as after any read (R269, R270; DEDUCED, log 40). -/
def doorbellData (h n : Nat) (d : Option (List Byte)) (s : State) : State :=
  let c := ctxOf s h n
  if !c.polling then s else
  let s1 := onCtx h n (fun c => { c with polling := false }) s
  if c.st ≠ 3 then s1 else
  match c.block, d with
  | some b, some w =>
    let tail := (doorbellOf w).1
    let head := (doorbellOf w).2
    let size := 2 ^ b.cmdLog
    if size < (tail - c.consumed).toNat then ctxFault h n 5 4 s1
    else if 2 ^ b.cplLog < (c.seq - head).toNat then ctxFault h n 5 5 s1
    else
      let have_ := c.fetched.length + askedCount c
      let plan := fetchPlan size (fetchMost (portOf s h)) size (c.consumed + BitVec.ofNat 32 have_) ((tail - c.consumed).toNat - have_)
      onCtx h n (fun c => { c with tail := tail, head := head, asked := c.asked ++ plan }) s1
  | some b, none => dmaErr h b.db s1
  | none, _ => s1

/-- DOORBELL_DATA. -/
def execDoorbellData (h : PortId) (n : CtxId) (d : Option (List Byte)) (s : State) :
    Host.Outcome State Fault Refusal := .next (doorbellData h.val n.val d s)

/-- DESCRIPTOR_DATA: the oldest descriptor read of the context returns or fails (R271). -/
def descriptorData (h n : Nat) (d : Option (List Byte)) (s : State) : State :=
  let c := ctxOf s h n
  match c.asked, c.block with
  | (i, k) :: r, some b =>
    match d with
    | none => ctxFault h n 5 6 (dmaErr h (b.cmdBase + 64 * (i.toNat % 2 ^ b.cmdLog)) s)
    | some l =>
      let got := (List.range k).map (fun j => padTo 64 ((l.drop (64 * j)).take 64))
      onCtx h n (fun c => { c with asked := r, fetched := c.fetched ++ got }) s
  | _, _ => s

/-- DESCRIPTOR_DATA. -/
def execDescriptorData (h : PortId) (n : CtxId) (d : Option (List Byte)) (s : State) :
    Host.Outcome State Fault Refusal := .next (descriptorData h.val n.val d s)

/-! ### Delivery -/

/-- The writes after the oldest second write of a completion, and that write's context and
sequence number. -/
def firstTail : List HostWrite → Option ((Nat × Word) × List HostWrite)
  | [] => none
  | w :: r =>
    match w.kind with
    | .cplTail n q => some ((n, q), r)
    | _ => firstTail r

/-- COMPLETION_ACK (R276): the oldest second write sent, and all before it, are acknowledged; the
completion leaves the reserve. -/
def completionAck (h : Nat) (s : State) : State :=
  if !(portOf s h).link then s else
  match firstTail (portOf s h).posted with
  | none => s
  | some ((n, q), r) =>
    ctxSettle h n (onPort h (fun p => { p with
      posted := r, reserve := p.reserve.filter (fun e => !(e.ctx == n && e.seq == q)) }) s)

/-- COMPLETION_ACK of port h. -/
def execCompletionAck (h : PortId) (s : State) : Host.Outcome State Fault Refusal :=
  .next (completionAck h.val s)

/-! ### The setup BAR -/

/-- Half i of a mask over the ponds. -/
def pondHalf (i : Nat) (f : Nat → Bool) : Word :=
  BitVec.ofNat 32 (maskOf 32 (fun n => f (32 * i + n)))

/-- A mask over the contexts of a port. -/
def ctxMask (s : State) (h : Nat) (f : Ctx → Bool) : Word :=
  BitVec.ofNat 32 (maskOf 32 (fun n => f (ctxOf s h n)))

/-- Bits [31:28] and [3:0] of CRL_START_STATUS (Table 3.8). -/
def startStatus (s : State) : Nat :=
  let b := s.shore.boot
  2 ^ 28 * b.phase + 8 * b2n b.setupInvalid + 4 * b2n b.fwInvalid + 2 * b2n b.keysAbsent + b2n b.otpTorn

/-- A pond's NOSTART bit. -/
def noStart (s : State) (n : Nat) : Bool :=
  let l := (pondAt s n).life
  l.inService && l.nostart

/-- The words of Table 10.4 of a context. -/
def ctxView (s : State) (h n off : Nat) : Word :=
  let c := ctxOf s h n
  let en := c.st == 1 || c.st == 2 || c.st == 3
  match off with
  | 0 => c.lo
  | 4 => c.hi
  | 8 => BitVec.ofNat 32 (2 ^ 31 * b2n en + 2 ^ 24 * c.st + 2 ^ 20 * c.cause + c.gen.toNat)
  | _ => c.consumed

/-- The half of a 64-bit value that an offset names. -/
def half64 (v off : Nat) : Word := BitVec.ofNat 32 (if off % 8 = 0 then v else v / 2 ^ 32)

/-- A port register's value (Tables 10.3 and 10.4); none where the offset is reserved. -/
def hpView (s : State) (h off : Nat) : Option Word :=
  let p := portOf s h
  if off % 4 ≠ 0 then none
  else if 0x100 ≤ off ∧ off < 0x300 then some (ctxView s h ((off - 0x100) / 16) (off % 16))
  else
    let w (n : Nat) : Option Word := some (BitVec.ofNat 32 n)
    match off with
    | 0x000 => w (65536 * leAt (otpBytes s 0x16 1) 0 1 + 0xB000 + h)
    | 0x004 => w (256 * b2n p.forced + 16 * b2n (s.shore.token == some h) + p.role)
    | 0x008 => w (startStatus s + 256 * b2n (recovery s))
    | 0x00C => w (256 * 65536 + 32)
    | 0x010 => some (half64 (shoreEpoch s) 0)
    | 0x014 => some (half64 (shoreEpoch s) 4)
    | 0x018 => some (half64 s.shore.tbs.tb.toNat 0)
    | 0x01C => some (half64 s.shore.tbs.tb.toNat 4)
    | 0x020 => w (65536 * p.breaks.toNat + 256 * (p.speed % 16) + 16 * (p.width % 8) + 2 * b2n p.flit + b2n p.link)
    | 0x028 => some (setFld (sreg s (hpBase h + 0x028)) 0 9 p.reserve.length)
    | 0x02C => some (match p.lastUse with
      | none => 0xFFFFFFFF
      | some t => BitVec.ofNat 32 (satTo 32 ((s.ns - t) / 1000)))
    | 0x030 => some (ctxMask s h (fun c => c.st == 1 || c.st == 2 || c.st == 3))
    | 0x034 => some (ctxMask s h (fun c => c.st == 5))
    | 0x03C => some (ctxMask s h (fun c => decide (0 < c.loss)))
    | 0x040 => some (pondHalf 0 (inService s))
    | 0x044 => some (pondHalf 1 (inService s))
    | 0x048 => some (s.shore.boot.fused.extractLsb' 0 32)
    | 0x04C => some (s.shore.boot.fused.extractLsb' 32 32)
    | 0x050 => some (pondHalf 0 (noStart s))
    | 0x054 => some (pondHalf 1 (noStart s))
    | 0x058 => some (pondHalf 0 (fun n => fld (sreg s (postRec n 1)) 6 2 == 1))
    | 0x05C => some (pondHalf 1 (fun n => fld (sreg s (postRec n 1)) 6 2 == 1))
    | 0x060 => some (pondHalf 0 (fun n => (leaseOf s n).any (fun l => l.port == h)))
    | 0x064 => some (pondHalf 1 (fun n => (leaseOf s n).any (fun l => l.port == h)))
    | 0x074 => w (alarmState s)
    | 0x078 => w (sealSeq s)
    | _ => if off < 0x080 then some (sreg s (hpBase h + off)) else none

/-- Port registers whose _LO half latches the next word. -/
def latchesHi (off : Nat) : Bool := off == 0x010 || off == 0x018

/-- The RC bits of a port register (Table 10.3). -/
def hpRc (off : Nat) : Word :=
  match off with
  | 0x028 => 0x01FF0000
  | 0x068 => 0xFFFFFFFF
  | _ => 0

/-- A port register's value as a read finds it: a _HI word that a read of its _LO latched shows what was
latched (Table 10.3). -/
def hpSeen (s : State) (h off : Nat) : Option Word :=
  match latchesHi (off - 4), KMap.get none (portOf s h).hi off with
  | true, some x => some x
  | _, _ => hpView s h off

/-- A read of a port register with its effects: RC fields cleared, a _HI word latched, or a latch used up
(R12, R260, Table 10.3). -/
def barReg (h off : Nat) (s : State) : Word × State :=
  let v := (hpSeen s h off).getD 0
  let s1 := if hpRc off = 0 then s else smod (hpBase h + off) (fun w => w &&& ~~~(hpRc off)) s
  let latch (x : Option Word) (o : Nat) : State := onPort h (fun p => { p with hi := KMap.set none p.hi o x }) s1
  if latchesHi off then (v, latch (hpView s h (off + 4)) (off + 4))
  else if latchesHi (off - 4) && (KMap.get none (portOf s h).hi off).isSome then (v, latch none off)
  else (v, s1)

/-- SETUP_BAR_READ: 1 to 8 bytes within one aligned unit of 8 (R260); a longer one, or one that crosses a
unit, is an Unsupported Request. Nothing reaches a port that is not ready. -/
def barRead (h off len : Nat) (s : State) : State :=
  let p := portOf s h
  if !p.link || !p.ready || len == 0 then s
  else if 8 < off % 8 + len then { s with barUr := true }
  else
  let base := off - off % 8
  let lo := decide (off % 8 < 4)
  let hi := decide (4 < off % 8 + len)
  let r0 := if lo then barReg h base s else (0, s)
  let r1 := if hi then barReg h (base + 4) r0.2 else (0, r0.2)
  let v := (r0.1.toNat + 2 ^ 32 * r1.1.toNat) / 2 ^ (8 * (off % 8)) % 2 ^ (8 * len)
  { r1.2 with rdata64 := BitVec.ofNat 64 v, barUr := false }

/-- SETUP_BAR_READ. -/
def execSetupBarRead (h : PortId) (off : BitVec 16) (len : Nat) (s : State) :
    Host.Outcome State Fault Refusal := .next (barRead h.val off.toNat len s)

/-- A write of a context register (Table 10.4). -/
def ctxWrite (h n off : Nat) (v : Word) (s : State) : State :=
  match off with
  | 0 => onCtx h n (fun c => if c.st = 0 then { c with lo := setFld v 0 6 0 } else c) s
  | 4 => onCtx h n (fun c => if c.st = 0 then { c with hi := v } else c) s
  | 8 =>
    let st := (ctxOf s h n).st
    if bit v 31 then ctxEnable h n s
    else if bit v 30 && (st == 0 || st == 5) then ctxAbandon h n s
    else ctxDisable h n s
  | _ => s

/-- A write of a port register (R261, R262). -/
def hpWrite (h off : Nat) (v : Word) (s : State) : State :=
  if off % 4 ≠ 0 then s
  else if 0x100 ≤ off ∧ off < 0x300 then ctxWrite h ((off - 0x100) / 16) (off % 16) v s
  else if off = 0x038 then smod (hpBase h + off) (fun w => w &&& ~~~v) s
  else if off = 0x07C then sset (hpBase h + off) v s
  else s

/-- A write through the setup BAR (R261): one that is not an aligned write of 4 bytes with all byte enables
set is discarded and handled as an Unsupported Request. -/
def barWrite (h off : Nat) (full : Bool) (v : Word) (s : State) : State :=
  if !(portOf s h).link || !(portOf s h).ready then s
  else if full && off % 4 == 0 then { hpWrite h off v s with barUr := false } else { s with barUr := true }

end Sys2Proof.Machine
end

