-- ==== Sys2Proof/Machine/Keys.lean ====
section
/-! DEFINITION. The key unit (chapter 13, sections 2 and 3): derivation (R345 to R352), the DRBG;
seals and their archive (chapter 12, R332 to R336); alarm rows, the erase and the Husk mark
(R365 to R370, R89). -/

namespace Sys2Proof.Machine

/-- The key unit replaced by a function of itself. -/
def onKeys (f : Keys → Keys) (s : State) : State := onShore (fun h => { h with keys := f h.keys }) s

/-- The alarm unit replaced by a function of itself. -/
def onAlarms (f : Alarms → Alarms) (s : State) : State :=
  onShore (fun h => { h with alarms := f h.alarms }) s

/-- Start-up replaced by a function of itself. -/
def onBoot (f : Boot → Boot) (s : State) : State := onShore (fun h => { h with boot := f h.boot }) s

/-! ### Derivation -/

/-- SERIAL (R348). -/
def serialBytes (s : State) : List Byte := otpBytes s 0 16

/-- The label of the root of a life-cycle state (R348). -/
def rootLabel (lc : Nat) : String :=
  match lc with | 0 => "K64/ROOT/LARVA" | 1 => "K64/ROOT/CHRYSALIS" | _ => "K64/ROOT/IMAGO"

/-- The root, and the keys whose context is not BOOT_DIGEST (R348 to R351); nothing in Husk or
without W. -/
def deriveRoot (s : State) : State :=
  let lc := s.shore.boot.lc
  match s.shore.keys.w with
  | none => s
  | some w =>
    if lc = 3 then s else
    let root := kdf w (rootLabel lc) (serialBytes s ++ otpHash s true) 384
    onKeys (fun k => { k with
      root := lc + 1, rootKey := root, kSetup := some (kdf root "K64/SETUP" [] 384),
      kWrap := some (privateKey (kdf root "K64/WRAP" [] 448)),
      kId := if lc = 0 then none else some (privateKey (kdf w "K64/ID" (serialBytes s) 448)) }) s

/-- The measurement of a block of Table 13.5 that holds an image's. -/
def measOf (s : State) (b : Nat) : List Byte := KMap.get [] s.shore.keys.meas b

/-- A measurement stored. -/
def measSet (b : Nat) (m : List Byte) (s : State) : State :=
  onKeys (fun k => { k with meas := KMap.set [] k.meas b m }) s

/-- BOOT_DIGEST (R346). -/
def bootDigest (s : State) : List Byte :=
  sha384 (measOf s 1 ++ measOf s 2 ++ (List.range 64).flatMap (fun n => measOf s (0x10 + n)))

/-- HMAC_DRBG update. -/
def drbgUpdate (d : List Byte) (x : List Byte × List Byte) : List Byte × List Byte :=
  let k1 := hmac384 x.1 (x.2 ++ [0] ++ d)
  let v1 := hmac384 k1 x.2
  if d.isEmpty then (k1, v1) else
  let k2 := hmac384 k1 (v1 ++ [1] ++ d)
  (k2, hmac384 k2 v1)

/-- Output blocks of the DRBG. -/
def drbgBlocks : Nat → List Byte → List Byte → List Byte × List Byte
  | 0, _, v => ([], v)
  | n + 1, k, v =>
    let v1 := hmac384 k v
    let r := drbgBlocks n k v1
    (v1 ++ r.1, r.2)

/-- `n` bytes of the DRBG, at most 96; zeros where it is not seeded. -/
def drbgNext (n : Nat) (s : State) : List Byte × State :=
  match s.shore.keys.drbg with
  | none => (List.replicate n 0, s)
  | some (k, v) =>
    let r := drbgBlocks 2 k v
    (r.1.take n, onKeys (fun x => { x with drbg := some (drbgUpdate [] (k, r.2)) }) s)

/-- KEY_ID of a seal key (Table 12.4), also KEY_ALIAS_SERIAL's form (R352): 16 bytes. -/
def keyId (d : Nat) : List Byte := (sha384 (ecBytes (ecPublic d))).take 16

/-! ### The alias certificate -/

/-- The length octets of a DER value. -/
def derLen (n : Nat) : List Byte :=
  if n < 128 then [BitVec.ofNat 8 n]
  else if n < 256 then [0x81, BitVec.ofNat 8 n]
  else 0x82 :: beBytes n 2

/-- A DER value. -/
def der (tag : Byte) (c : List Byte) : List Byte := tag :: (derLen c.length ++ c)

/-- A DER SEQUENCE. -/
def derSeq (l : List (List Byte)) : List Byte := der 0x30 l.flatten

/-- A DER INTEGER of an unsigned big-endian byte string. -/
def derNat (b : List Byte) : List Byte :=
  let d := b.dropWhile (· == 0)
  der 0x02 (if (d.headD 0x80).toNat < 0x80 then d else 0 :: d)

/-- A DER BIT STRING of whole bytes. -/
def derBits (b : List Byte) : List Byte := der 0x03 (0 :: b)

/-- The object identifiers ecdsa-with-SHA384, id-ecPublicKey and secp384r1. -/
def oidSign : List Byte := der 0x06 [0x2A, 0x86, 0x48, 0xCE, 0x3D, 0x04, 0x03, 0x03]
def oidKey : List Byte := der 0x06 [0x2A, 0x86, 0x48, 0xCE, 0x3D, 0x02, 0x01]
def oidCurve : List Byte := der 0x06 [0x2B, 0x81, 0x04, 0x00, 0x22]

/-- The signed part of the alias certificate of a key (R352): version 3, the serial number, the validity in
the form in which the rule prints it, and the subject key. Names and extensions are Gramond's (assumption 20). -/
def certBody (alias_ : Nat) : List Byte :=
  derSeq [der 0xA0 (derNat [2]), derNat (keyId alias_), derSeq [oidSign], Config.certIssuer,
    derSeq [der 0x18 (asciiBytes "20000101000000Z"), der 0x18 (asciiBytes "99991231235959Z")],
    Config.certSubject, derSeq [derSeq [oidKey, oidCurve], derBits (ecBytes (ecPublic alias_))],
    Config.certExtensions]

/-- The alias certificate: X.509 in DER, signed by K_ID over SHA-384 (R352). -/
def aliasCert (id alias_ : Nat) : List Byte :=
  let b := certBody alias_
  let g := ecdsaSign id (sha384 b)
  derSeq [b, derSeq [oidSign], derBits (derSeq [derNat (g.take 48), derNat (g.drop 48)])]

/-- The keys whose context is BOOT_DIGEST, the alias certificate, and the DRBG seeded from the entropy source, whose
output is free (R350, R351; assumption 2). -/
def deriveKeys (s : State) : State :=
  let s1 := onKeys (fun k => { k with digest := bootDigest s }) s
  if s1.shore.keys.root = 0 then s1 else
  let d := s1.shore.keys.digest
  let root := s1.shore.keys.rootKey
  let seed := drbgUpdate (freeBytes s1 72) (List.replicate 48 0, List.replicate 48 1)
  let s2 := if s1.shore.keys.kId.isSome then inc64 0x20B0 s1 else s1
  let alias_ := privateKey (kdf root "K64/ALIAS" d 448)
  useShoreFree (onKeys (fun k => { k with
    kAlias := some alias_, cert := (k.kId.map (fun d => aliasCert d alias_)).getD [],
    kSeal := some (privateKey (kdf root "K64/SEAL" d 448)), drbg := some seed }) s2)

/-! ### Seals -/

/-- The header of a seal (Table 12.4). -/
def sealHeader (s : State) (x : IvSnap) (id : List Byte) (unsigned : Bool) : List Byte :=
  let l := s.shore.ledger
  let i64 (v : Int) : List Byte := leBytes (BitVec.ofInt 64 v).toNat 8
  let flags : Word := x.cnt.flags ||| (if unsigned then 0x100 else 0)
  [0x4B, 0x36, 0x34, 0x53] ++ leBytes 1 2 ++ leBytes x.recs.length 2 ++ leBytes l.nextSeq 8 ++
  leBytes x.start 8 ++ leBytes x.stop 8 ++ i64 x.utcStart ++ i64 x.utcStop ++
  leBytes x.len 4 ++ leBytes flags.toNat 4 ++ leBytes x.lc 1 ++ leBytes 0 3 ++
  leBytes (satTo 32 x.cnt.gaps) 4 ++ leBytes (satTo 64 x.cnt.late) 8 ++ leBytes (satTo 32 x.cnt.latePosts) 4 ++
  leBytes (satTo 32 x.cnt.redirects) 4 ++ leBytes (satTo 32 x.cnt.asap) 4 ++
  leBytes (satTo 32 x.cnt.collide) 4 ++ i64 x.cnt.measured ++ leBytes x.bound 8 ++ leBytes 0 8 ++
  padTo 48 l.prevHash ++ padTo 48 s.shore.keys.digest ++ padTo 16 id

/-- The bytes of the next seal for a snapshot (R332, R333); without a key it is unsigned (R335). -/
def sealBytes (s : State) (x : IvSnap) : List Byte :=
  let rows := x.recs.flatMap (fun r => acctBytes r none)
  match s.shore.keys.kSeal with
  | some d =>
    let b := sealHeader s x (keyId d) false ++ rows
    b ++ ecdsaSign d (sha384 b)
  | none => sealHeader s x [] true ++ rows ++ List.replicate 96 0

/-- The first archive byte kept when the archive reaches `stop` bytes in all (R336). -/
def archLimit (stop : Nat) : Nat := (stop + 4095) / 4096 * 4096 - 0x80000

/-- The flash word of the ring that holds byte count `pos` (Table 14.6). -/
def archWord (pos : Nat) : Nat := 0xA000 + pos / 32 % 0x4000

/-- Room is made for the ring to reach `stop` bytes in all: the sectors that come round again are erased, and
the seals that lie in them are dropped (R336). -/
def archRoom (stop : Nat) (s : State) : State :=
  let l := s.shore.ledger
  let from_ := archLimit l.archPos
  let lim := archLimit stop
  (List.range ((lim - from_) / 4096)).foldl (fun t k => sflErase (0x140 + (from_ / 4096 + k) % 128) t)
    (onLedger (fun l => { l with archive := l.archive.filter (fun e => decide (lim ≤ e.1)) }) s)

/-- Bytes written to the ring from a byte count upward. -/
def archWrite (pos : Nat) (b : List Byte) (s : State) : State :=
  sflPut ((flashWords (b.length / 32 + 1) b).zipIdx.foldl (fun a x =>
    a.put (archWord (pos + 32 * x.2)) (FWord.committed x.1)) (sflArr s)) s

/-- A seal written to the archive; the oldest are dropped in whole sectors (R336). -/
def archPut (b : List Byte) (s : State) : State :=
  let pos := s.shore.ledger.archPos
  archWrite pos b (onLedger (fun l => { l with
    archive := l.archive ++ [(pos, b.length)], archPos := pos + b.length }) (archRoom (pos + b.length) s))

/-- The bytes of an archived seal, read from flash; none where a word of it is torn or uncorrectable, and it
counts as not archived (R383). -/
def archRead (s : State) (e : Nat × Nat) : Option (List Byte) :=
  ((List.range (e.2 / 32)).mapM (fun j => (sflArr s).read (32 * archWord (e.1 + 32 * j)) 32)).map List.flatten

/-- The flash words of an archived seal are read (R382). -/
def archReads (e : Nat × Nat) (s : State) : State :=
  sflReads ((List.range (e.2 / 32)).map (fun j => archWord (e.1 + 32 * j))) s

/-- The archived seals with the places where they lie, oldest first. -/
def archSeals (s : State) : List ((Nat × Nat) × List Byte) :=
  s.shore.ledger.archive.filterMap (fun e => (archRead s e).map (fun b => (e, b)))

/-- The seal of the oldest queued interval is archived (R334). -/
def sealOne (x : IvSnap) (s : State) : State :=
  let b := sealBytes s x
  let s1 := if s.shore.keys.kSeal.isSome then inc64 0x20B0 s else s
  let s2 := onLedger (fun l => { l with
    queue := l.queue.drop 1, nextSeq := l.nextSeq + 1, prevHash := sha384 b,
    lgErase := l.lgErase || l.lgSeal, lgSeal := false }) (archPut b s1)
  smod 0x3090 (fun w => peakFld w 0 32 ((s.ns - x.closed) / 1000)) (sset 0x3174 (BitVec.ofNat 32 b.length) s2)

/-- Seals are emitted: valid firmware runs, in Chrysalis or Imago (R335). -/
def sealsOn (s : State) : Bool :=
  s.shore.boot.fwRun && (s.shore.boot.lc == 1 || s.shore.boot.lc == 2)

/-- A seal can be written now: seals are emitted, and no operation runs in the archive's bank (R376). -/
def sealReady (s : State) : Bool := sealsOn s && s.shore.sfl.op0.isNone && !s.shore.ledger.lgErase && s.shore.ledger.lgDraft.isNone

/-- SEAL_ARCHIVE (R334, R335): the queue waits while key use is blocked, and the request is
counted; it waits as well while an operation runs in the archive's bank (R376). -/
def sealArchive (s : State) : State :=
  match s.shore.ledger.queue with
  | [] => s
  | x :: _ =>
    if !sealReady s then s
    else if s.shore.keys.kSeal.isSome && keyBlocked s then keyDenied s
    else sealOne x s

/-- SEAL_ARCHIVE. -/
def execSealArchive (s : State) : Host.Outcome State Fault Refusal := .next (sealArchive s)

/-- The archived seal with a sequence number. -/
def sealAt (s : State) (seq : Nat) : Option (List Byte) :=
  ((archSeals s).find? (fun x => leAt x.2 8 8 == seq)).map (·.2)

/-- A write to the archive that may be under way when it is abandoned (R387; Table 14.17): a free number of its
words is programmed, the next is torn or erased, and the ring goes on behind them. -/
def archCut (s : State) : State :=
  match s.shore.ledger.queue with
  | [] => s
  | x :: _ =>
    if !sealReady s || !bit (shoreFree s 39) 0 then s else
    let b := sealBytes s x
    let n := (shoreFree s 40).toNat % max 1 (b.length / 32)
    let pos := s.shore.ledger.archPos
    let s1 := archWrite pos (b.take (32 * n)) (archRoom (pos + b.length) s)
    let torn := sflPut ((sflArr s1).put (archWord (pos + 32 * n)) (FWord.torn (BitVec.ofNat 256 (leAt b (32 * n) 32)))) s1
    useShoreFree (onLedger (fun l => { l with archPos := pos + 32 * (n + 1) })
      (if bit (shoreFree s 39) 1 then torn else s1))

/-! ### The last-gasp block (Table 14.8) -/

/-- The first flash word of the last-gasp block (Table 14.6). -/
def gaspWord : Nat := 0xE000

/-- The header bytes from 0x0020 of a record (Table 14.8). -/
def gaspHead (s : State) (g : LastGasp) : List Byte :=
  leBytes (min 256 g.body.recs.length) 2 ++ List.replicate 6 0 ++ leBytes g.seq 8 ++
  slice (sealHeader s g.body [] false) 0x10 0x50

/-- The account records of a record. -/
def gaspRecs (g : LastGasp) : List Byte := (g.body.recs.take 256).flatMap (fun r => acctBytes r none)

/-- BEGIN. -/
def gaspBegin (g : LastGasp) : List Byte := asciiBytes "K64LGBEG" ++ leBytes g.seq 8 ++ List.replicate 16 0

/-- COMMIT: the CRC-32C covers the header and the account records. -/
def gaspEnd (s : State) (g : LastGasp) : List Byte :=
  asciiBytes "K64LGCOM" ++ leBytes g.seq 8 ++ leBytes (crc32c (gaspHead s g ++ gaspRecs g)) 4 ++ List.replicate 12 0

/-- A record's BEGIN, header and account records written (Table 14.9, steps 3 and 4). -/
def gaspWrite (g : LastGasp) (s : State) : State :=
  sflWrite gaspWord (flashWords 260 (gaspBegin g ++ gaspHead s g ++ gaspRecs g)) s

/-- A record's COMMIT marker written (Table 14.9, step 5). -/
def gaspMark (g : LastGasp) (s : State) : State := sflWrite (gaspWord + 0x104) (flashWords 1 (gaspEnd s g)) s

/-- An account record read from its 32 bytes (Table 12.3). -/
def acctOfBytes (b : List Byte) : AcctRec :=
  { num := leAt b 4 1, tag := BitVec.ofNat 32 (leAt b 0 4), flags := leAt b 5 1,
    interval := (BitVec.ofNat 64 (leAt b 8 8)).toInt, total := (BitVec.ofNat 64 (leAt b 16 8)).toInt,
    mask := BitVec.ofNat 64 (leAt b 24 8) }

/-- What a record's header and account records say (Tables 14.8 and 12.4). -/
def gaspOfBytes (h r : List Byte) (now : Nat) : LastGasp :=
  let i64 (o : Nat) : Int := (BitVec.ofNat 64 (leAt h o 8)).toInt
  { seq := leAt h 0x08 8,
    body := {
      start := leAt h 0x10 8, stop := leAt h 0x18 8, utcStart := i64 0x20, utcStop := i64 0x28,
      cnt := { flags := BitVec.ofNat 32 (leAt h 0x34 4), gaps := leAt h 0x3C 4, late := leAt h 0x40 8,
               latePosts := leAt h 0x48 4, redirects := leAt h 0x4C 4, asap := leAt h 0x50 4,
               collide := leAt h 0x54 4, measured := i64 0x58 },
      recs := (List.range (r.length / 32)).map (fun i => acctOfBytes (slice r (32 * i) 32)),
      lc := leAt h 0x38 1, bound := 0, len := leAt h 0x30 4, closed := now } }

/-- The record in the block where it is committed (R391): BEGIN and COMMIT committed with equal SEQ, N at most
256, and the CRC right over the range that N gives. -/
def gaspCommitted (s : State) : Option LastGasp :=
  let a := sflArr s
  if a.cls gaspWord ≠ 1 ∨ a.cls (gaspWord + 0x104) ≠ 1 then none else do
    let b ← a.read (32 * gaspWord) 32
    let e ← a.read (32 * (gaspWord + 0x104)) 32
    let h ← a.read (32 * (gaspWord + 1)) 96
    let n := leAt h 0 2
    if n ≤ 256 ∧ leAt b 8 8 = leAt e 8 8 then do
      let r ← a.read (32 * (gaspWord + 4)) (32 * n)
      if crc32c (h ++ r) = leAt e 16 4 then some (gaspOfBytes h r s.ns) else none
    else none

/-- The block is empty: BEGIN is erased (R391). -/
def gaspEmpty (s : State) : Bool := (sflArr s).cls gaspWord == 0

/-- SEQ in the block; all ones where it is empty (Table 12.6). -/
def gaspSeq (s : State) : Nat :=
  if gaspEmpty s then 2 ^ 64 - 1
  else match (sflArr s).read (32 * gaspWord) 32 with
    | some b => leAt b 8 8
    | none => (Config.freeDouble s.shore.fresh).toNat

/-- The block when the part is reset or loses its supply (R337, R338, R380): of a record being written a free part
is committed, and of an erase that runs a free number of sectors is erased. -/
def gaspCut (s : State) : State :=
  let w := (shoreFree s 35).toNat
  let a := sflArr s
  let s1 := match s.shore.ledger.lgDraft with
    | none => s
    | some g =>
      let cut := w / 4 % 2 == 1
      let d (l : List Byte) : BitVec 256 := BitVec.ofNat 256 (ofLe l)
      let head := flashWords 260 (gaspHead s g ++ gaspRecs g)
      let begin_ (b : FArr) : FArr := b.put gaspWord (FWord.committed (d (gaspBegin g)))
      let put (mk : BitVec 256 → FWord) (b : FArr) : FArr :=
        (head.zipIdx (gaspWord + 1)).foldl (fun b x => b.put x.2 (mk x.1)) b
      let blank := (List.range 512).foldl (fun b i => b.put (gaspWord + i) FWord.erased) a
      sflPut (match w % 4 with
        | 0 => if cut then blank.put gaspWord (FWord.torn (d (gaspBegin g))) else blank
        | 1 => if cut then put FWord.torn (begin_ blank) else begin_ blank
        | 2 => put FWord.committed (begin_ blank)
        | _ => (put FWord.committed (begin_ blank)).put (gaspWord + 0x104) (FWord.torn (d (gaspEnd s g)))) s
  let s2 := if s.shore.ledger.lgErase then
      (List.range (w / 8 % 4)).foldl (fun t k => sflErase (0x1C0 + k) t)
        (sflPut ((sflArr s1).markDirty (0x1C0 + w / 8 % 4)) s1)
    else s1
  useShoreFree (onLedger (fun l => { l with lgDraft := none }) s2)

/-! ### Alarms -/

/-- ALARM_REGISTRATION: sources registered in one cycle; TEMP and SHIELD have a live condition
(R365, R367, Table 13.6), and VGLITCH and CGLITCH may be masked (R449). -/
def execAlarmRegistration (m : BitVec 8) (s : State) : Host.Outcome State Fault Refusal :=
  .next (if s.shore.boot.por then s else
    let m1 := if s.shore.ledger.mask then m &&& 0xFC else m
    alarmRaises m1 (onAlarms (fun a => { a with live := a.live ||| (m1 &&& 0x0C) }) s))

/-- ALARM_CONDITION_END: the condition of a source is no longer live (R363). -/
def execAlarmConditionEnd (n : Fin 8) (s : State) : Host.Outcome State Fault Refusal :=
  .next (onAlarms (fun a => { a with live := setBit a.live n.val false }) s)

/-- A write of ALM_CTRL.INJECT: accepted in Larva only (Table 13.10). -/
def injectAlarms (m : BitVec 8) (s : State) : State :=
  if s.shore.boot.lc = 0 ∧ !s.shore.boot.por then alarmRaises m s else s

/-- INJECT. -/
def execInject (m : BitVec 8) (s : State) : Host.Outcome State Fault Refusal := .next (injectAlarms m s)

/-- ERASE_COMPLETE (R367): DONE and its time; a Husk transition that waits programs its mark. -/
def eraseComplete (s : State) : State :=
  match s.shore.alarms.erase with
  | none => s
  | some t =>
    sset 0x21A8 (BitVec.ofNat 32 (2 ^ 31 + satTo 16 (s.ns - t)))
      (onAlarms (fun a => { a with
        erase := none, huskProg := a.huskProg || a.huskWait, huskWait := false }) s)

/-- ERASE_COMPLETE. -/
def execEraseComplete (s : State) : Host.Outcome State Fault Refusal := .next (eraseComplete s)

/-- The Husk transition starts (R89): the erase, then the mark. -/
def huskBegin (s : State) : State :=
  let s1 := onBoot (fun b => { b with lcPending := 3 }) (onAlarms (fun a => { a with huskWait := true }) s)
  if s1.shore.alarms.erase.isSome then s1
  else onAlarms (fun a => { a with erase := some s.ns }) (eraseKeys s1)

/-- HUSK_MARK_DONE (R89): the read-back of the mark passes and the part is Husk; a mismatch leaves
a torn mark and raises source 7 (R393). -/
def huskMarkDone (ok : Bool) (s : State) : State :=
  if !s.shore.alarms.huskProg then s
  else if ok then
    onBoot (fun b => { b with lc := 3, lcPending := 0 })
      (onOtp (fun o => { o with words := o.words.set 18 0xFFFFFFFF })
        (onAlarms (fun a => { a with huskProg := false }) s))
  else
    alarmRaise 7 (onOtp (fun o => { o with words := o.words.set 18 (o.words.get 18 ||| shoreFree s 41) })
      (onAlarms (fun a => { a with huskProg := false }) (useShoreFree s)))

/-- HUSK_MARK_DONE. -/
def execHuskMarkDone (ok : Bool) (s : State) : Host.Outcome State Fault Refusal := .next (huskMarkDone ok s)

end Sys2Proof.Machine
end

