-- ==== Sys2Proof/Machine/Startup.lean ====
section
/-! DEFINITION. Start-up (chapter 3): the steps of Table 3.2, the failures of Table 3.3, the setup
image applied (R36, R469), the route walk (R227), port roles (R21 to R24), the OTP row latched
(R90, R394), cold start and the warm device reset (R68, R77 to R79, R330, R338). -/

namespace Sys2Proof.Machine

/-! ### The route walk -/

/-- The walk of R227 from a stop's side: the table at which it fails, if any. `seen` holds the stops
visited, `dir` the direction of each ring used, `up` and `down` the turns taken. -/
def walk (entry : Nat → Nat → Nat) (dest : Nat) :
    Nat → Nat → Nat → Bool → List Nat → List (Nat × Nat) → Bool → Bool → Option Nat
  | 0, ring, pos, _, _, _, _, _ => some (tableAt ring pos)
  | fuel + 1, ring, pos, turned, seen, dir, up, down =>
    let t := tableAt ring pos
    let here := stopAt ring pos
    let go (d : Nat) : Option Nat :=
      let next := if d = 0 then (pos + 1) % 9 else (pos + 8) % 9
      let ok := match dir.find? (fun x => x.1 == ring) with | some x => x.2 == d | none => true
      if !ok || seen.contains (stopAt ring next) then some t
      else walk entry dest fuel ring next false (stopAt ring next :: seen) ((ring, d) :: dir) up down
    match entry t dest with
    | 0 =>
      if gatewayAt ring pos then
        if turned then some t
        else if ring = 8 then
          (if down then some t else walk entry dest fuel (pos - 1) 0 true seen dir up true)
        else if up || down then some t
        else walk entry dest fuel 8 (ring + 1) true seen dir true down
      else if here = endStop dest then none else some t
    | 1 => go 0
    | 2 => go 1
    | _ => some t

/-- The walk of one (source, destination) pair. -/
def walkPair (entry : Nat → Nat → Nat) (src dest : Nat) : Option Nat :=
  let pl := endPlace src
  walk entry dest 64 pl.1 pl.2 false [endStop src] [] false false

/-- The image's sluices, the later of two entries for one number governing (R469). -/
def imageSluices (l : List SetupEntry) : List SluiceRec :=
  l.foldl (fun a e =>
    if e.typ = 6 then a.filter (fun r => r.num != e.sub) ++ [sluiceOf e.sub 0 e.data] else a) []

/-- The endpoints at which a sluice drops. -/
def dropEnds (r : SluiceRec) : List Nat := bitsOf 64 r.drops ++ (if r.drops.testBit 72 then [64] else [])

/-- The ponds out of service for which a sluice is not opened: its source, and its destinations where all of
them are out. One that still reaches a destination opens, as the exchange sluice of a group that forms from
its members in service must (DESIGN CHOICE, log 54: R36 does not say which a sluice of several drops is). -/
def sluiceOut (s : State) (r : SluiceRec) : List Nat :=
  let out (n : Nat) : Bool := decide (n < 64) && !inService s n
  let drops := bitsOf 64 r.drops
  [r.src].filter out ++ (if !r.drops.testBit 72 && drops.all out then drops else [])

/-- A sluice of the image whose source pond or destinations are out is not opened (R36). -/
def sluiceUsable (s : State) (r : SluiceRec) : Bool := (sluiceOut s r).isEmpty

/-- The pairs that the setup image's send-port records and sluices use, and those of the hardware posts
between each in-service pond and the Shore (R227). -/
def routePairs (s : State) (l : List SetupEntry) : List (Nat × Nat) :=
  l.filterMap (fun e =>
    let w := leAt e.data 0 4
    if e.typ = 4 ∧ w / 2 ^ 31 % 2 = 1 ∧ w / 2 ^ 30 % 2 = 0 ∧ inService s e.pond then
      some (e.pond, w / 256 % 128) else none) ++
  ((imageSluices l).filter (sluiceUsable s)).flatMap (fun r =>
    ((dropEnds r).filter (fun d => d != r.src)).map (fun d => (r.src, d))) ++
  ((List.range 64).filter (inService s)).flatMap (fun n => [(n, 64), (64, n)])

/-- Word i of a routing table without its reserved bits (R226, Table 9.7). -/
def routeMask (i : Nat) (w : Word) : Word := if i = 4 then w &&& 3 else w

/-- The routing words that an image's ROUTE entries give. -/
def routeWords (l : List SetupEntry) : SMap 32 :=
  l.foldl (fun m e =>
    if e.typ = 7 then (List.range 5).foldl (fun m i => m.set (5 * e.sub + i) (routeMask i (BitVec.ofNat 32 (leAt e.data (4 * i) 4)))) m
    else m) []

/-- The first table at which a route of the image fails (R227). -/
def routeFail (s : State) (l : List SetupEntry) : Option Nat :=
  let rt := routeWords l
  let entry (t d : Nat) : Nat := fld (rt.get (5 * t + d / 16)) (2 * (d % 16)) 2
  (routePairs s l).findSome? (fun x => if x.2 ≤ 64 then walkPair entry x.1 x.2 else some (tableAt (endPlace x.1).1 (endPlace x.1).2))

/-- Every sluice record passes R299, and their slots fit together (R238). -/
def sluicesOk (l : List SetupEntry) : Bool :=
  l.all (fun e => e.typ != 6 || (sluiceCheck e.data).isNone) &&
  (List.range 162).all (fun k =>
    decide (((imageSluices l).filter (fun r => r.path.contains k)).foldl (fun a r => a + r.slots) 0 ≤ 12))

/-! ### Images of the system flash -/

/-- What the boot ROM's reads of a slot record (R382), and its check on SCVU0 (R415). -/
def slotReads (base kind : Nat) (s : State) : State :=
  scvuImage 0 (sflArr s) base kind (sflReads (imgWords (sflArr s) base kind) s)

/-- A firmware slot that passes: its measurement (R389, R354). -/
def fwTry (s : State) (slot : Nat) : Option (List Byte) :=
  match imgRead (sflArr s) (slotBase 64 slot) 2 with
  | .inr (h, b) => if (signFail s 2 h b).isNone then some (imgMeasure h b) else none
  | .inl _ => none

/-- The seal tag of a sealed setup image is right (R357). -/
def sealTagOk (s : State) (slot : Nat) (m : List Byte) : Bool :=
  match s.shore.keys.kSetup with
  | none => false
  | some k => (sflArr s).read (slotBase 65 slot + 0x40000 - 64) 48 == some (hmac384 k m)

/-- A setup slot's outcome (R389, R227, R238, R357): its measurement and entries, or the table at
which a route failed where that is why. -/
def setupTry (s : State) (slot : Nat) : (List Byte × List SetupEntry) ⊕ Option Nat :=
  match imgRead (sflArr s) (slotBase 65 slot) 3 with
  | .inl _ => .inr none
  | .inr (h, b) =>
    match setupEntries (b.length / 8 + 1) b with
    | none => .inr none
    | some l =>
      let m := imgMeasure h b
      if (signFail s 3 h b).isSome || !sluicesOk l then .inr none
      else match routeFail s l with
        | some t => .inr (some t)
        | none => if imgFlags h / 4 % 2 = 1 ∧ !sealTagOk s slot m then .inr none else .inl (m, l)

/-! ### The setup image applied -/

/-- A start epoch that no pond reaches: the pond does not autostart. -/
def noStartEpoch : Nat := 2 ^ 64

/-- One entry applied to its pond. -/
def pondEntry (e : SetupEntry) (P : Pond) : Pond :=
  let w (o : Nat) : Word := BitVec.ofNat 32 (leAt e.data o 4)
  match e.typ with
  | 2 => { P with setup := P.setup ++ cfgEntries (e.data.length / 8) e.data }
  | 3 =>
    { P with life := { P.life with
        startEp := if bit (w 0) 16 then fld (w 0) 0 16 else 16, auto := true,
        enables := fld (w 4) 0 12, ref0 := setFld 0 0 24 (fld (w 8) 0 24), ref1 := setFld 0 0 24 (fld (w 12) 0 24) } }
  | 4 => { P with sendRec := (P.sendRec.set (2 * e.sub) (w 0)).set (2 * e.sub + 1) (w 4) }
  | 5 =>
    { P with recvRec := P.recvRec.set e.sub (w 0), recvDef := P.recvDef.set e.sub (BitVec.ofNat 64 (leAt e.data 8 8)) }
  | 11 =>
    let v := leAt e.data 0x10 2
    rset 0x278 (w 4) { P with tap := { P.tap with
      k := leAt e.data 0 4,
      sluice := if v / 256 % 2 = 1 then some (v % 256) else none } }
  | _ => P

/-- A group of the setup image forms from its in-service members (R36, R214); its configuration
version is loaded into their PGRP_CFG_VER in body order (R218). -/
def groupEntry (e : SetupEntry) (s : State) : State :=
  let all := bitsOf 64 (leAt e.data 0 8)
  let live := all.filter (inService s)
  let port := leAt e.data 0x0D 1 % 32
  if live.length < 2 then s else
  onShore (fun h => { h with groupPorts := KMap.set none h.groupPorts (e.sub % 8) (some port) }) <| live.foldl (fun t n => onPondN n (fun P => { P with
    setup := P.setup ++ [(0x5C4, BitVec.ofNat 32 (leAt e.data 8 4))], grp := { Grp.reset with
    config := all, live := live, start := some (leAt e.data 0x10 8),
    sendPort := port, num := e.sub % 8 } }) t) s

/-- DEVICE (Table 14.18): values outside their range are ignored (R47). -/
def deviceEntry (e : SetupEntry) (s : State) : State :=
  let len := leAt e.data 0 4 % 2 ^ 17
  let lat := leAt e.data 4 1 % 16
  let mode := leAt e.data 5 1 % 4
  let x := leAt e.data 6 1
  let s1 := if 500 ≤ len ∧ len ≤ 65536 then sset 0x6008 (BitVec.ofNat 32 len) s else s
  let s2 := if 1 ≤ lat ∧ lat ≤ 8 then sset 0x600C (BitVec.ofNat 32 lat) s1 else s1
  let s3 := if mode = 3 then s2 else sset 0x6020 (BitVec.ofNat 32 mode) s2
  smod 0x3000 (fun w => setBit w 1 (x % 2 == 1)) (onKeys (fun k => { k with dbgEn := x / 2 % 2 == 1 }) s3)

/-- A word added to the start-up report (Table 19.7). -/
def addReport (kind pond low : Nat) (s : State) : State :=
  onBoot (fun b => { b with report := b.report ++ [BitVec.ofNat 32 (2 ^ 28 * kind + 65536 * (pond % 64) + low % 65536)] }) s

/-- The out-of-service ponds for which an entry is skipped: its own pond, those of a sluice that is
not opened, and those of a group of fewer than two members in service (R36). -/
def skippedFor (s : State) (e : SetupEntry) : List Nat :=
  if e.pond < 64 then [e.pond].filter (fun n => !inService s n)
  else if e.typ = 6 then sluiceOut s (sluiceOf e.sub 0 e.data)
  else if e.typ = 8 then
    let all := bitsOf 64 (leAt e.data 0 8)
    if (all.filter (inService s)).length < 2 then all.filter (fun n => !inService s n) else []
  else []

/-- One entry of the setup image, with its index; one that names an out-of-service pond is skipped
and reported (R36). -/
def applyEntry (s : State) (x : SetupEntry × Nat) : State :=
  let e := x.1
  match skippedFor s e with
  | n :: _ => addReport 1 n x.2 s
  | [] =>
    match e.typ with
    | 1 => deviceEntry e s
    | 8 => groupEntry e s
    | 10 =>
      let tag : Word := BitVec.ofNat 32 (leAt e.data 0 4)
      match acctByTag s.shore.ledger tag with
      | none => s
      | some n => onLedger (fun l => { l with assign := l.assign.set e.pond (BitVec.ofNat 8 n) })
          (onPondN e.pond (fun P => { P with tap := { P.tap with tag := tag } }) s)
    | 11 =>
      onLedger (fun l => { l with qpm := KMap.set 0 l.qpm e.pond (leAt e.data 8 8) }) (onPondN e.pond (pondEntry e) s)
    | _ => if e.pond < 64 then onPondN e.pond (pondEntry e) s else s

/-- The accounts of the image are opened, where their tag is not open already. -/
def applyAccount (s : State) (e : SetupEntry) : State :=
  let tag : Word := BitVec.ofNat 32 (leAt e.data 0 4)
  if e.typ ≠ 9 ∨ (acctByTag s.shore.ledger tag).isSome then s
  else match acctFree s.shore.ledger with
    | some n => onLedger (acctOpen n tag) s
    | none => s

/-- The setup image applied (step 11): entries in body order, routes loaded and locked, sluices
opened, register entries stored. -/
def applySetup (l : List SetupEntry) (s : State) : State :=
  let s1 := l.foldl applyAccount s
  let s2 := l.zipIdx.foldl applyEntry s1
  let s3 := onWeir (fun w => { w with rt := routeWords l }) (sset 0x1000 0x80000000 s2)
  let s4 := ((imageSluices l).filter (sluiceUsable s3)).foldl (fun t r => sluiceAdd r t) s3
  (List.range 64).foldl (fun t n =>
    if inService t n then onPondN n (loadSetup (pctxN t n)) t else t) s4

/-! ### Steps 7 to 11 -/

/-- Step 7: the firmware slot named by the select log, else the other (R389). -/
def bootFirmware (s : State) : State :=
  let a := s.shore.sfl.fwNext
  let s1 := slotReads (slotBase 64 a) 2 s
  match fwTry s a with
  | some m => measSet 1 m (onSfl (fun f => { f with fwUse := a }) s1)
  | none =>
    let s2 := slotReads (slotBase 64 (1 - a)) 2 s1
    match fwTry s (1 - a) with
    | some m => measSet 1 m (onSfl (fun f => { f with fwUse := 1 - a }) s2)
    | none =>
      useShoreFree (measSet 1 (freeBytes s 48) (onBoot (fun b => { b with fwInvalid := true })
        (onSfl (fun f => { f with fwUse := a }) s2)))

/-- WEIR_STATUS: RT_VALID and RT_BAD (Table 9.7). -/
def routeStatus (r : Option Nat) (valid : Bool) (s : State) : State :=
  sset 0x1004 (BitVec.ofNat 32 (2 ^ 31 * b2n valid + 2 ^ 24 * (if valid then 0x7F else r.getD 0x7F))) s

/-- Step 8, with the seal tag of step 10: the setup slot, its measurement and its entries; none
where neither slot is valid. -/
def bootSetup (s : State) : Option (List SetupEntry) × State :=
  let a := s.shore.sfl.setupNext
  let s1 := slotReads (slotBase 65 a) 3 s
  let use (slot : Nat) (m : List Byte) (t : State) : State :=
    routeStatus none true (measSet 2 m (onSfl (fun f => { f with setupUse := slot }) t))
  match setupTry s a with
  | .inl (m, l) => (some l, use a m s1)
  | .inr t0 =>
    let s2 := slotReads (slotBase 65 (1 - a)) 3 s1
    match setupTry s (1 - a) with
    | .inl (m, l) => (some l, use (1 - a) m s2)
    | .inr t1 =>
      let bad := match t1 with | some t => some t | none => t0
      (none, useShoreFree (routeStatus bad false (measSet 2 (freeBytes s 48)
        (onBoot (fun b => { b with setupInvalid := true }) (onSfl (fun f => { f with setupUse := a }) s2)))))

/-- Step 9 for pond n: its active bank measured and checked (R345, Table 3.3). -/
def bootPond (s : State) (n : Nat) : State :=
  if !inService s n then measSet (0x10 + n) (List.replicate 48 0) s else
  let P := pondAt s n
  let s1 := scvuImage 0 (pflArr P) (bankBase P.pfl.bank) 1
    (onPondN n (fun P => let Q := imgReads false P; { Q with core := { Q.core with run := .rom } }) s)
  let m := match imgRead (pflArr P) (bankBase P.pfl.bank) 1 with
    | .inr (h, b) => if (signFail s 1 h b).isNone then some (imgMeasure h b) else none
    | .inl _ => none
  match m with
  | some x =>
    measSet (0x10 + n) x (onPondN n (fun P => { P with life := { P.life with imageValid := true } }) s1)
  | none =>
    (if P.life.nostart then id else addReport 3 n 0) (measSet (0x10 + n) (List.replicate 48 0xFF)
      (onPondN n (fun P => { P with life := { P.life with nostart := true } }) s1))

/-- Ponds start without PWM pins held low by a reset. -/
def releasePins (P : Pond) : Pond :=
  if P.life.inService then { P with life := { P.life with pinsLow := false } } else P

/-- No pond autostarts (Table 3.3, and Larva by Table 3.6). -/
def noAutostart (P : Pond) : Pond := { P with life := { P.life with startEp := noStartEpoch } }

/-- The sum of the per-minute maxima of the in-service ponds (R339). -/
def boundQpm (s : State) : Nat :=
  ((List.range 64).filter (inService s)).foldl (fun a n => a + KMap.get 0 s.shore.ledger.qpm n) 0

/-- The seal chain and the last-gasp block as a cold start reads them from system flash (R338, R391): what was
found, for LDG_LG_FOUND, and the seal that it leads to. -/
def coldLedger (s0 : State) : State :=
  let s := sflReads ((s0.shore.sfl.words.map (·.1)).filter (fun i => decide (gaspWord ≤ i) && decide (i < gaspWord + 512)))
    (s0.shore.ledger.archive.foldl (fun t e => archReads e t) s0)
  let seals := archSeals s
  let last := (seals.getLast?.map (·.2)).getD []
  let next := if seals.isEmpty then 0 else leAt last 8 8 + 1
  let unsealed : IvSnap :=
    { start := 0, stop := 0, utcStart := 0, utcStop := 0, cnt := { IvCount.zero with flags := 0x10 },
      recs := [], lc := s.shore.boot.lc, bound := boundQpm s, len := lenOf s, closed := s.ns }
  let put (found : Nat) (q : List IvSnap) : State :=
    sset 0x3064 (BitVec.ofNat 32 found) (sset 0x3174 (BitVec.ofNat 32 last.length) (onLedger (fun l => { l with
      archive := seals.map (·.1), nextSeq := next, prevHash := if seals.isEmpty then List.replicate 48 0 else sha384 last,
      queue := q, lgSeal := !q.isEmpty, lgReady := q.isEmpty && gaspEmpty s,
      lgErase := q.isEmpty && !gaspEmpty s }) s))
  let lost (found : Nat) : State := if seals.isEmpty then put 0 [] else put found [unsealed]
  match gaspCommitted s with
  | some g =>
    if g.seq = next then
      put 1 [{ g.body with
        stop := g.body.stop + 1, cnt := { g.body.cnt with flags := g.body.cnt.flags ||| 8 },
        utcStop := if bit g.body.cnt.flags 1 then g.body.utcStop else g.body.utcStop + (g.body.len : Int) }]
    else lost 3
  | none => lost (if gaspEmpty s then 3 else 2)

/-- Steps 7 to 11 up to RUN, once BIST of every pond and the regeneration have ended. -/
def bootSteps (s : State) : State :=
  let s1 := bootFirmware s
  let s2 := if s1.shore.boot.fwInvalid then s1 else deriveRoot s1
  let r := bootSetup s2
  let s3 := (List.range 64).foldl bootPond r.2
  let s4 := deriveKeys s3
  let s5 := match r.1 with
    | some l => applySetup l s4
    | none => onPonds noAutostart s4
  let s6 := if s5.shore.boot.lc = 0 then onPonds noAutostart s5 else s5
  let s7 := onPonds releasePins s6
  let s8 := if s7.shore.boot.coldStart then coldLedger s7 else s7
  onBoot (fun b => { b with phase := 10, applied := true, coldStart := false }) s8

/-- A calibration of the device start has not ended in a pond in service (step 6). -/
def calWaits (s : State) : Bool :=
  (List.range 64).any (fun n => inService s n && (pondAt s n).conv.toList.any (fun c => c.cal.isSome))

/-- Start-up goes on where nothing is waited for: steps 4, 5 and 6 have ended (R68). -/
def bootAdvance (s : State) : State :=
  let b := s.shore.boot
  if 3 ≤ b.phase ∧ !b.applied ∧ b.bistWait = 0 ∧ !b.wellWait ∧ !calWaits s then bootSteps s else s

/-- PHASE: the step that ended (R93). -/
def phaseEnded (k : Nat) (s : State) : State := onBoot (fun b => { b with phase := k }) s

/-! ### Steps 2 to 6 -/

/-- The number of bits set of a life-cycle mark, 0 to 2 (R90). -/
def markBits (s : State) (k : Nat) : Nat := popWord (s.shore.otp.words.get (16 + k))

/-- A torn mark is completed. -/
def markTorn (s : State) (k : Nat) : Bool := decide (2 ≤ markBits s k) && decide (markBits s k < 24)

/-- The life-cycle state that the marks give, and whether they break their order. -/
def markState (s : State) : Nat × Bool :=
  let on (k : Nat) : Bool := decide (2 ≤ markBits s k)
  let st := if on 2 then 3 else if on 1 then 2 else if on 0 then 1 else 0
  (st, (List.range 3).any (fun k => on k && (List.range k).any (fun j => !on j)))

/-- Port p's role in the latched policy (Table 14.10, R22, R394). -/
def policyRole (s : State) (p : Nat) : Nat :=
  let w := otpWord s 44
  if otpBad s 44 || !bit w 31 then 2
  else match fld w (2 * p) 2 with | 1 => 0 | 2 => 1 | _ => 2

/-- The roles latched (R21, R22, R86): role and FORCED of each port. -/
def latchRole (s : State) (p : Nat) : Nat × Bool :=
  let named := (List.range 4).filter (fun q => policyRole s q == 0)
  let r := policyRole s p
  if s.shore.boot.lc = 0 then (2, r != 2)
  else if named.isEmpty then (if p = 0 then (0, true) else (r, false))
  else if r = 0 ∧ !(named.take 2).contains p then (2, true)
  else (r, false)

/-- The life-cycle marks that are torn. -/
def tornMarks (s : State) : List Nat := (List.range 3).filter (markTorn s)

/-- The words of the row that are uncorrectable. -/
def otpTwo (s : State) : List (Nat × BitVec 2) := s.shore.otp.bad.filter (fun e => e.2 == 2)

/-- The OTP row read at step 3 (R90, R394): torn marks completed, all words latched, ECC counted. -/
def rowRead (s : State) : State :=
  let one := (s.shore.otp.bad.filter (fun e => e.2 == 1)).length
  let words := (tornMarks s).foldl (fun m k => m.set (16 + k) 0xFFFFFFFF) s.shore.otp.words
  sset 0x4098 (BitVec.ofNat 32 (256 * satTo 8 (otpTwo s).length + satTo 8 one))
    (sset 0x409C (BitVec.ofNat 32 (((otpTwo s).head?.map (·.1)).getD 0))
      (onOtp (fun o => { o with words := words, latched := words, latchedBad := o.bad }) s))

/-- Step 3 (R90, R394): the row is read, and alarm source 7 raised where a word or the marks fail; a Husk transition
that a warm reset met goes on unless its mark is whole. -/
def latchOtp (s : State) : State :=
  let torn := tornMarks s
  let s1 := rowRead s
  let ms := markState s1
  let husk := s1.shore.alarms.huskProg && ms.1 != 3
  let s2 := onBoot (fun b => { b with
    otpTorn := !torn.isEmpty, lc := ms.1, lcPending := if husk then 3 else 0,
    fused := BitVec.ofNat 64 (leAt (otpBytes s1 0x20 8) 0 8) }) (onAlarms (fun a => { a with huskProg := husk }) s1)
  if !torn.isEmpty || ms.2 || !(otpTwo s).isEmpty then alarmRaise 7 s2 else s2

/-- Roles and the token placed (R21, R24). -/
def placeRoles (s : State) : State :=
  let s1 := (List.range 4).foldl (fun t p =>
    let r := latchRole t p
    onPort p (fun x => { x with role := r.1, forced := r.2 }) t) s
  onShore (fun h => { h with token := (List.range 4).find? (fun p => (portOf s1 p).role == 0) }) s1

/-- The helper field is blank (R343). -/
def helperBlank (s : State) : Bool := (otpBytes s 0x210 3056).all (· == 0)

/-- Regeneration runs at this start (R343). -/
def wellRuns (s : State) : Bool :=
  s.shore.boot.lc != 3 && !s.shore.keys.inhibit && !(s.shore.boot.lc == 0 && helperBlank s)

/-- The beginnings of steps 4 and 5: BIST runs in every pond not fused out (R68). -/
def bistBegin (s : State) : State :=
  let live : BitVec 64 := ~~~s.shore.boot.fused
  (List.range 64).foldl (fun t n =>
    onPondN n (fun P => { P with life := { P.life with inService := bit live n } }) t)
    (onBoot (fun b => { b with
      phase := 3, bistWait := live, wellWait := wellRuns s, pll := BitVec.ofNat 65 (live.toNat + 2 ^ 64) }) s)

/-- W is 0 in Larva on a part without helper data (R343). -/
def blankW (s : State) : State :=
  if s.shore.boot.lc = 0 ∧ helperBlank s ∧ !s.shore.keys.inhibit then
    onKeys (fun k => { k with w := some (List.replicate 48 0) }) s
  else s

/-- Steps 2 and 3, and the beginnings of steps 4 and 5; the select log is read (R390). -/
def startSteps (s : State) : State :=
  bootAdvance (blankW (bistBegin (placeRoles (latchOtp (selLoad s)))))

/-- A converter begins the calibration of the device start (step 6). -/
def calAtStart (c : Conv) : Conv := { c with cal := some ⟨none, false, none⟩ }

/-- BIST_END of pond p with the mask of failing units (R91, Table 19.7): a pond that passed
calibrates its converters; one that failed leaves the service map. The last ends step 5. -/
def bistEnd (p : Nat) (units : BitVec 16) (s : State) : State :=
  if !bit s.shore.boot.bistWait p then s else
  let s1 := onBoot (fun b => { b with bistWait := setBit b.bistWait p false }) s
  let s2 :=
    if units = 0 then
      onPondN p (fun P => { P with
        life := { P.life with bistDone := true }, conv := P.conv.map calAtStart }) s1
    else
      addReport 2 p units.toNat (onBoot (fun b => { b with
          bistFail := setBit b.bistFail p true, bistUnit := b.bistUnit.set p units })
        (onPondN p (fun P => { P with life := { P.life with inService := false } }) s1))
  bootAdvance (if s2.shore.boot.bistWait = 0 then phaseEnded 5 s2 else s2)

/-- BIST_END. -/
def execBistEnd (p : PondId) (units : BitVec 16) (s : State) : Host.Outcome State Fault Refusal :=
  .next (bistEnd p.val units s)

/-- The check value that OTP holds for W (R341). -/
def pufCheck (s : State) (w : List Byte) : Bool :=
  !(List.range 768).any (fun i => otpBad s (0x80 + i)) &&
  otpBytes s 0x200 16 == (hmac384 w (asciiBytes "K64/CHECK")).take 16

/-- The bitwise majority of three reads of the PUF array (R341). -/
def majority (a b c : List Byte) : List Byte :=
  (List.range 4096).map (fun i =>
    let x := a.getD i 0
    let y := b.getD i 0
    let z := c.getD i 0
    (x &&& y) ||| (y &&& z) ||| (x &&& z))

/-- The number of bits in which two readings of the array differ. -/
def bitsApart (a b : List Byte) : Nat :=
  (List.range 4096).foldl (fun n i => n + (bitsOf 8 (a.getD i 0 ^^^ b.getD i 0).toNat).length) 0

/-- The majority corrected with the helper data (R341): a reading within 1,024 bits of the enrolled value gives
that value; what the code makes of any other is free (assumption 60). -/
def pufCorrected (s : State) (m : List Byte) : Option (List Byte) :=
  let helper := otpBytes s 0x210 3056
  let v := s.shore.otp.enrolled
  if !v.isEmpty && helper == padTo 3056 (Config.pufHelper v) && decide (bitsApart m v ≤ 1024) then some v
  else Config.pufCorrect m helper

/-- W of a corrected value: 48 bytes (R341). -/
def pufW (v : List Byte) : List Byte := padTo 48 (Config.pufCompress v)

/-- WELLSPRING_REGENERATION from three reads of the array (R341, R342). An alarm of level C or D since it began
has aborted it: there is no W, and no key is derived (R343, R353, R366; log 56). -/
def wellEnd (a b c : List Byte) (s : State) : State :=
  if !s.shore.boot.wellWait then s else
  let s1 := phaseEnded 4 (onBoot (fun b => { b with wellWait := false }) s)
  let absent (t : State) : State := onBoot (fun b => { b with keysAbsent := true }) t
  let m := majority a b c
  let v := pufCorrected s m
  let fixed : Nat := match v with | some x => bitsApart m x | none => (shoreFree s 31).toNat % 65536
  let s2 := useShoreFree (sset 0x2008 (BitVec.ofNat 32 (65536 * fixed + 3200)) s1)
  bootAdvance (
    if s.shore.keys.inhibit then absent s1
    else match v.map pufW with
      | some w =>
        if pufCheck s w then onKeys (fun k => { k with w := some w }) s2
        else onKeys (fun k => { k with pufFail := true }) (absent s2)
      | none => onKeys (fun k => { k with pufFail := true }) (absent s2))

/-- WELLSPRING_REGENERATION. -/
def execWellspringRegeneration (a : List Byte) (bc : List Byte × List Byte) (s : State) :
    Host.Outcome State Fault Refusal :=
  .next (wellEnd a bc.1 bc.2 s)

/-- The last calibration of the device start ends step 6. -/
def calStepEnd (s : State) : State :=
  let b := s.shore.boot
  if 3 ≤ b.phase ∧ !b.applied ∧ b.bistWait = 0 ∧ !calWaits s then bootAdvance (phaseEnded 6 s) else s

/-- CALIBRATION_END of converter n of pond p: whether the reference settled, and the 12 measured
factors (R170); a pond that does not start for it is reported (Table 3.3, Table 19.7). -/
def execCalibrationEnd (p : PondId) (n : Fin 2) (settled : Bool) (f : List Word) (s : State) :
    Host.Outcome State Fault Refusal :=
  let t := onPond p (calEnd n.val (calResult settled f)) s
  .next (calStepEnd (if (pondOf t p).life.nostart && !(pondOf s p).life.nostart then addReport 3 p.val 0 t else t))

/-- TBS_RUN: RUN and then TBS_LOCK are set, and the firmware starts (step 11, R38, R47). -/
def tbsRun (s : State) : State :=
  if !s.shore.boot.applied || s.shore.tbs.runAt.isSome then s else
  let s1 := sset 0x6098 1 (sset 0x6000 1 (onTbs (fun t => { t with runAt := some s.ns }) s))
  onBoot (fun b => { b with phase := 11, fwRun := !b.fwInvalid, wdog := 0 }) s1

/-- TBS_RUN. -/
def execTbsRun (s : State) : Host.Outcome State Fault Refusal := .next (tbsRun s)

/-! ### Cold start -/

/-- A pond at a device start: its flash, its tap where kept, and the levels outside its pins. -/
def pondAtStart (tap : Tap) (P : Pond) : Pond :=
  let Q := pflAbandon P
  { Pond.reset with
    pfl := { Q.pfl.setMark false with armed := false }, tap := tap, fresh := Q.fresh,
    cap := { Pond.reset.cap with pins := P.cap.pins },
    sb := { Sb.reset with sda := P.sb.sda, scl := P.sb.scl } }

/-- A port at a device start. -/
def portAtStart (p : Port) : Port := { Port.reset with perst := p.perst }

/-- Register words kept by a warm device reset (Table 3.5): lost completions, the alarm records, the
ledger's counters, the erases since provisioning. -/
def warmKeeps (off : Nat) : Bool :=
  (decide (off < 0x1000) && off % 0x400 == 0x024) || (decide (0x2110 ≤ off) && decide (off < 0x21C0)) ||
  (decide (0x3004 ≤ off) && decide (off < 0x3180)) || (decide (0x4040 ≤ off) && decide (off < 0x4080))

/-- Register words kept by a cold start: the erases since provisioning (Table 14.16). -/
def coldKeeps (off : Nat) : Bool := decide (0x4040 ≤ off) && decide (off < 0x4080)

/-- The kept words of a register file over the reset values. -/
def keepRegs (f : Nat → Bool) (m : SMap 32) : SMap 32 :=
  m.foldl (fun a e => if f e.1 then a.set e.1 e.2 else a) shoreRegs0

/-- An OTP word cut while it was programmed: a free part of its bits, with free SEC-DED cells (R393, R394). -/
def otpCut (s : State) : State :=
  match s.shore.otp.prog with
  | none => s
  | some (i, v) =>
    useShoreFree (otpPut i (v &&& shoreFree s 42, BitVec.ofNat 2 ((shoreFree s 32).toNat % 3))
      (onOtp (fun o => { o with prog := none }) s))

/-- A Husk mark cut while it was programmed (R90). -/
def huskCut (s : State) : State :=
  if s.shore.alarms.huskProg then
    useShoreFree (onOtp (fun o => { o with words := o.words.set 18 (o.words.get 18 ||| shoreFree s 43) }) s)
  else s

/-- An OTP program under way at a device start is cut. -/
def rowCut (s : State) : State := huskCut (otpCut s)

/-- Every program and erase of system flash under way at a device start is cut (R387): its operations, an archive
write, a select record, and the last-gasp path. -/
def flashCut (s : State) : State := gaspCut (selCut (archCut (sysAbandon s)))

/-- The Shore's memories that no reset clears: system flash, its slots deselected marks cleared,
and the OTP row. -/
def flashAtStart (f : Sfl) : Sfl :=
  { f with op0 := none, op1 := none, fwVer := false, setupVer := false, selWait := [], selNew := [],
           fwCleared := f.fwCleared + 1, setupCleared := f.setupCleared + 1 }

/-- The OTP row over a device start: what is latched is read again at step 3. -/
def otpAtStart (o : Otp) : Otp := { Otp.reset with words := o.words, bad := o.bad, enrolled := o.enrolled }

/-- POR_ASSERT (R83, R449): everything but flash and the OTP row is lost; the ledger keeps the places of the
seals and of the next byte in the flash ring. -/
def coldClear (s : State) : State :=
  let o := rowCut s
  let h := useShoreFree (flashCut o) |>.shore
  let l := h.ledger
  { s with
    ponds := s.ponds.map (pondAtStart Tap.reset),
    shore := { Shore.reset with
      regs := keepRegs coldKeeps h.regs, sfl := flashAtStart h.sfl, fresh := h.fresh, otp := otpAtStart o.shore.otp,
      ports := h.ports.map portAtStart,
      ledger := { Ledger.reset with archive := l.archive, archPos := l.archPos, warn := l.warn } } }

/-- POR_ASSERT. -/
def execPorAssert (s : State) : Host.Outcome State Fault Refusal := .next (coldClear s)

/-- POR_RELEASE (R68): steps 1 to 3, and the beginnings of 4 and 5. -/
def porRelease (s : State) : State :=
  if !s.shore.boot.por then s else
  startSteps (onBoot (fun b => { b with por := false, cause := 1, startNs := s.ns, coldStart := true }) s)

/-- POR_RELEASE. -/
def execPorRelease (s : State) : Host.Outcome State Fault Refusal := .next (porRelease s)

/-! ### The warm device reset -/

/-- The tap across a warm device reset: count and residue kept, measured products taken in (R315,
Table 3.5); the first post after it carries them, and is deferred where they are of several epochs (R316). -/
def tapWarm (len : Nat) (t0 : Tap) : Tap :=
  let t := tapCut len t0
  { Tap.reset with
    x := t.pend.foldl (fun a q => a + q.2) t.x, cum := t.cum, gaps := t.gaps, lateNew := t.lateNew,
    carried := t.carried + b2n t.due + b2n (!t.pend.isEmpty) }

/-- The energy posts that the Weir or the ledger holds are booked into the current epoch, and the
interval ends (R330). -/
def warmLedger (s : State) : State :=
  let c := shoreEpoch s
  let s0 := s.shore.ledger.held.foldl (fun t h => bookPost h t) (onLedger (fun l => { l with held := [] }) s)
  let s1 := s.shore.weir.energy.foldl (fun t k => bookPost (heldPostOf k c s.ns) (postReport k t)) s0
  let s2 := conserve s1
  let s3 := if s2.shore.tbs.epoch.isSome then ivClose (c + 1) 0 0x20 s2 else s2
  onLedger (fun l => { l with
    anchor := none, anchorFirst := none, ivStart := 0, assign := [], qpm := [] }) s3

/-- Completions lost to a warm device reset (R78, R438): those in the reserve, and those of
consumed commands. -/
def warmLosses (s : State) : State :=
  (List.range 4).foldl (fun t p =>
    cplLost p ((portOf s p).reserve.length + (s.shore.cmds.filter (fun c => c.port == p)).length) t) s

/-- A warm device reset with its cause (R77 to R79); nothing while the part is in cold start. A Husk
transition goes on: its keys are erased, and the mark is programmed (R87, R366; log 56). CRL_START_TIME of
this start will be counted from here, where the sequence begins at step 2 (DESIGN CHOICE, log 56: R93 counts
from POR release, of which a warm reset has none). -/
def warmReset (cause : Nat) (s0 : State) : State :=
  if s0.shore.boot.por then s0 else
  let o := rowCut s0
  let h := (warmLedger (warmLosses (flashCut o))).shore
  let k := h.keys
  let b := h.boot
  let husk := h.alarms.huskWait || h.alarms.huskProg
  let s1 : State := { s0 with
    ponds := s0.ponds.map (fun P => pondAtStart (tapWarm (lenOf s0) P.tap) P),
    shore := { Shore.reset with
      regs := keepRegs warmKeeps h.regs, sfl := flashAtStart h.sfl, fresh := h.fresh, otp := otpAtStart o.shore.otp,
      ports := h.ports.map portAtStart, ledger := h.ledger, order := h.order,
      alarms := { h.alarms with erase := none, huskWait := false, huskProg := husk },
      keys := { Keys.reset with erased := k.erased, inhibit := k.inhibit, strikes := k.strikes },
      boot := { Boot.reset with por := false, coldStart := b.coldStart && b.phase < 11,
                                cause := BitVec.ofNat 32 cause, startNs := s0.ns } } }
  startSteps s1

/-- RESET_N (R75, R458). -/
def execResetN (s : State) : Host.Outcome State Fault Refusal := .next (warmReset 2 s)

/-- The Shore watchdog counts (R466). -/
def wdogRuns (s : State) : Bool :=
  bit (sreg s 0x5014) 31 && s.shore.boot.fwRun && !s.shore.keys.shoreHalted

/-- WATCHDOG_EXPIRY (R466): the count reaches its timeout in ms. -/
def execWatchdogExpiry (s : State) : Host.Outcome State Fault Refusal :=
  .next (if wdogRuns s && decide (1000000 * fld (sreg s 0x5014) 0 16 ≤ s.shore.boot.wdog) then warmReset 8 s else s)

/-- WATCHDOG_KICK (R466): KICK reloads the count. -/
def execWatchdogKick (s : State) : Host.Outcome State Fault Refusal :=
  .next (onBoot (fun b => { b with wdog := 0 }) s)

/-- PLL_LOSS_OF_LOCK of pond i, or of the Shore for 64 (R466): the lock bit clears, and CRL_SHORE_PLL
counts the event. -/
def execPllLossOfLock (i : Fin 65) (s : State) : Host.Outcome State Fault Refusal :=
  .next (if !bit s.shore.boot.pll i.val then s else
    sinc 0x505C 16 16 1 (onBoot (fun b => { b with pll := setBit b.pll i.val false }) s))

end Sys2Proof.Machine
end

