-- ==== Sys2Proof/Machine/ShoreRegs.lean ====
section
/-! DEFINITION. The Shore's registers as a peek reads them (Tables 2.4, 3.8, 9.7, 10.10, 12.6, 13.9,
13.10, 14.16, 15.6, 19.7) and as a store writes them; their locks (R467), armed pairs (R76), the
reset requests (R80 to R82) and the life-cycle requests (R88). -/

namespace Sys2Proof.Machine

/-! ### Measurement blocks -/

/-- A public key in SEC1 compressed form. -/
def ecCompressed (d : Nat) : List Byte :=
  let q := ecPublic d
  (if q.2 % 2 = 0 then 2 else 3) :: beBytes q.1 48

/-- Block 0x04 of Table 13.5. -/
def stateBlock (s : State) : List Byte :=
  let u := s.shore.keys.unlocked
  [BitVec.ofNat 8 s.shore.boot.lc, BitVec.ofNat 8 (alarmState s),
    BitVec.ofNat 8 (4 * b2n (u.extractLsb' 0 64 != 0) + 2 * b2n (bit u 64) + b2n (dPermit s)), 0] ++
  leBytes ((List.range 8).foldl (fun a n => a + 4 ^ n * alarmLevel s n) 0) 2 ++ [0, 0] ++
  leBytes s.shore.keys.swaps 8

/-- A measurement block (Table 13.5): its value type and content; none where the table has no such
block, or its key is not held. -/
def measBlock (s : State) (b : Nat) : Option (Nat × List Byte) :=
  let k := s.shore.keys
  match b with
  | 0x01 => some (0x01, measOf s 1)
  | 0x02 => some (0x03, measOf s 2)
  | 0x03 => some (0x04, k.digest)
  | 0x04 => some (0x82, stateBlock s)
  | 0x05 => some (0x04, k.swapLog)
  | 0x50 => k.kSeal.map (fun d => (0x83, ecCompressed d))
  | 0x51 => k.kWrap.map (fun d => (0x83, ecCompressed d))
  | _ => if 0x10 ≤ b ∧ b < 0x50 then some (0x01, measOf s b) else none

/-! ### Views -/

/-- Four bytes of a structure, as a word. -/
def wordAt (l : List Byte) (off : Nat) : Word := BitVec.ofNat 32 (leAt l off 4)

/-- A word of 32 flags from a number upward. -/
def flagWord (k : Nat) (f : Nat → Bool) : Word := BitVec.ofNat 32 (maskOf 32 (fun n => f (32 * k + n)))

/-- The four bytes of numbers 4 k to 4 k + 3. -/
def byteWord (k : Nat) (f : Nat → Nat) : Word :=
  BitVec.ofNat 32 ((List.range 4).foldl (fun a j => a + 256 ^ j * (f (4 * k + j) % 256)) 0)

/-- The named bits of a word of WEIR_SL_DATA (Table 9.7). -/
def sluiceBits (i : Nat) : Word :=
  if i = 0 then 0xFF0F0007 else if i = 1 then 0x00FFFFFF else if i = 15 then 0x1FF else 0xFFFFFFFF

/-- WEIR_SL_DATA (Table 9.7): a word of a sluice's record; the named bits of that of a sluice not open are free
beside OPEN. -/
def sluiceWord (s : State) (n i : Nat) : Word :=
  match sluiceRec s n with
  | none => (if i = 0 then setBit (shoreFree s 44) 31 false else shoreFree s 44) &&& sluiceBits i
  | some r =>
    let b (x : Nat) : Nat := r.path.getD x 0xFF
    if i = 0 then BitVec.ofNat 32 (2 ^ 31 * b2n (sluiceOpenAt s n (shoreEpoch s)) + 2 ^ 24 * (r.src % 128) +
      2 ^ 16 * (r.slots % 16) + (r.flits - 1) % 8)
    else if i = 1 then BitVec.ofNat 32 (65536 * (r.path.length % 256) + r.bound % 65536)
    else if i < 13 then BitVec.ofNat 32 (ofLe ((List.range 4).map (fun j => BitVec.ofNat 8 (b (4 * (i - 2) + j)))))
    else BitVec.ofNat 32 (r.drops / 2 ^ (32 * (i - 13)))

/-- The named bits of an item of WEIR_LINK_DATA (Table 9.7). -/
def linkBits (item : Nat) : Word :=
  match item with | 0 => 0xFFFF | 1 => 0xFFFFFFFF | 2 => 0xFF03 | _ => 0

/-- WEIR_LINK_DATA (Table 9.7); that of a link that is not there is free. -/
def linkWord (s : State) (l item : Nat) : Word :=
  let k := linkOf s l
  if 161 < l then shoreFree s 44 &&& linkBits item else
  match item with
  | 0 => BitVec.ofNat 32 (maskOf 16 (fun j => k.wheel.get j != 0))
  | 1 => BitVec.ofNat 32 k.hs
  | 2 => BitVec.ofNat 32 (256 * satTo 8 k.rfails + k.st % 4)
  | _ => 0

/-- The endpoint behind a stop does not accept (WEIR_STOP_STATUS.EJECT_OFF): a pond out of service
or in a pond reset. -/
def ejectOff (s : State) (n : Nat) : Bool :=
  decide (n < 64) && (!inService s n || (pondAt s n).life.resetEnd.isSome)

/-- A WEIR register (Table 9.7). -/
def weirView (s : State) (off : Nat) : Word :=
  let w := sreg s (0x1000 + off)
  let sel := sreg s 0x1008
  let failed := (List.range 9).any (fun k => sreg s (0x1130 + 4 * k) != 0)
  match off with
  | 0x004 => (w &&& 0xFF000000) ||| BitVec.ofNat 32 (8 * b2n failed +
      4 * b2n ((List.range 162).any (fun l => (linkOf s l).st == 2)) + 2 * b2n (bit (sreg s 0x1020) 31))
  | 0x00C =>
    if 80 < fld sel 16 7 ∨ 4 < fld sel 0 3 then routeMask (fld sel 0 3) (shoreFree s 44)
    else s.shore.weir.rt.get (5 * fld sel 16 7 + fld sel 0 3)
  | 0x014 => sluiceWord s (fld (sreg s 0x1010) 8 8) (fld (sreg s 0x1010) 0 4)
  | 0x01C => linkWord s (fld (sreg s 0x1018) 0 8) (fld (sreg s 0x1018) 8 3)
  | _ =>
    if 0x030 ≤ off ∧ off < 0x048 then flagWord ((off - 0x030) / 4) (fun n => sluiceOpenAt s n (shoreEpoch s))
    else if 0x060 ≤ off ∧ off < 0x0A0 then
      byteWord ((off - 0x060) / 4) (fun n => (s.shore.weir.inc.get n).toNat)
    else if 0x198 ≤ off ∧ off < 0x2BC then setBit w 0 (ejectOff s ((off - 0x198) / 4))
    else w

/-- A KEY register (Table 13.9). -/
def keyView (s : State) (off : Nat) : Word :=
  let k := s.shore.keys
  let w := sreg s (0x2000 + off)
  let sel := sreg s 0x2010
  if 0x020 ≤ off ∧ off < 0x050 then wordAt k.digest (off - 0x020)
  else if 0x050 ≤ off ∧ off < 0x060 then
    wordAt (match k.kSeal with | some d => keyId d | none => []) (off - 0x050)
  else if 0x060 ≤ off ∧ off < 0x090 then wordAt k.swapLog (off - 0x060)
  else if 0x090 ≤ off ∧ off < 0x0A0 then BitVec.ofNat 32 (vget k.spdm ((off - 0x090) / 4) 0)
  else if 0x0A0 ≤ off ∧ off < 0x0B0 then
    match k.kAlias with | some d => wordAt (keyId d) (off - 0x0A0) | none => shoreFree s 44
  else if 0x0DC ≤ off ∧ off < 0x0FC then
    match k.chal with | some c => wordAt c.1 (off - 0x0DC) | none => shoreFree s 44
  else
    match off with
    | 0x000 => BitVec.ofNat 32 (b2n k.dbgEn)
    | 0x004 => BitVec.ofNat 32 (2 ^ 31 * b2n (keysHeld s) + 2 ^ 30 * b2n (keyBlocked s) + 2 ^ 29 * b2n k.erased +
        2 ^ 28 * b2n k.inhibit + 2 ^ 27 * b2n k.pufFail +
        2 ^ 26 * b2n ((List.range 768).any (fun i => s.shore.otp.words.get (0x80 + i) != 0)) + k.root)
    | 0x014 =>
      match measBlock s (fld sel 8 8) with
      | some (_, l) => if 4 * fld sel 0 4 < l.length then wordAt (padTo 64 l) (4 * fld sel 0 4) else shoreFree s 44
      | none => shoreFree s 44
    | 0x0C8 => BitVec.ofNat 32 (4 * b2n (bit k.unlocked 64) + 2 * b2n k.chal.isSome + b2n k.dbgEn)
    | 0x0CC => BitVec.ofNat 32 (min 3 k.strikes)
    | 0x0D0 => k.unlocked.extractLsb' 0 32
    | 0x0D4 => k.unlocked.extractLsb' 32 32
    | 0x0FC => setBit w 31 k.drbg.isSome
    | _ => w

/-- Source n may be cleared (R370). -/
def clearable (s : State) (n : Nat) : Bool :=
  bit s.shore.alarms.active n && decide (alarmLevel s n < 2) && !alarmLive s n

/-- The die temperature in 1/16 °C: free, and out of range while source 2 has a live condition (Table 13.6). -/
def dieTemp (s : State) : Int :=
  let x : Int := (((shoreFree s 45).toNat % 8192 : Nat) : Int) - 4096
  if alarmLive s 2 then (if 0 ≤ x then 2161 + x else -801 + x) else x

/-- The lowest and highest die temperature since cold start: free, with the present one between them. -/
def tempPeaks (s : State) : Int × Int :=
  (dieTemp s - (((shoreFree s 46).toNat % 4096 : Nat) : Int), dieTemp s + (((shoreFree s 46).toNat / 65536 % 4096 : Nat) : Int))

/-- ALM_SHIELD: the mesh reads open or shorted, or both, while source 3 has a live condition (Table 13.6). -/
def shieldBits (s : State) : Nat := if alarmLive s 3 then 1 + (shoreFree s 47).toNat % 3 else 0

/-- An ALM register (Table 13.10), by its offset from the KEY base; what the sensors read is
free (assumption 2). -/
def almView (s : State) (off : Nat) : Word :=
  let a := s.shore.alarms
  let w := sreg s (0x2000 + off)
  match off with
  | 0x100 => 0
  | 0x104 => BitVec.ofNat 32 (2 ^ 31 * b2n s.shore.keys.inhibit + 2 ^ 16 * maskOf 8 (clearable s) +
      256 * a.active.toNat + alarmState s)
  | 0x108 => BitVec.ofNat 32 (65536 * b2n (dPermit s) +
      (List.range 8).foldl (fun t n => t + 4 ^ n * alarmLevel s n) 0)
  | 0x10C => a.raised.setWidth 32
  | 0x194 => a.log.get (fld (sreg s 0x2190) 0 7)
  | 0x19C => (BitVec.ofInt 16 (dieTemp s)).setWidth 32
  | 0x1A0 => BitVec.ofInt 16 (tempPeaks s).1 ++ BitVec.ofInt 16 (tempPeaks s).2
  | 0x1A4 => BitVec.ofNat 32 (shieldBits s)
  | 0x1B8 => BitVec.ofNat 32 (65536 * fld w 16 16 + 2 * b2n (s.shore.boot.lc == 3) + b2n (a.huskWait || a.huskProg))
  | _ =>
    if 0x130 ≤ off ∧ off < 0x150 then
      let n := (off - 0x130) / 4
      BitVec.ofNat 32 (64 * b2n (bit a.active n) + 32 * b2n (clearable s n) + 16 * b2n (alarmLive s n) + alarmLevel s n)
    else w

/-- The boundary at which the interval in progress ends (R328, R329): the first after the Shore's epoch whose
time, under the anchor in force or from epoch 0, has passed the next whole minute. -/
def intervalEnd (s : State) : Nat :=
  if s.shore.tbs.epoch.isNone then 2 ^ 64 - 1 else
  let m : Int := 60000000000
  let len := lenOf s
  let a := match s.shore.ledger.anchor with | none => ((0 : Nat), (0 : Int)) | some (a, u) => (a, (u : Int))
  let goal := ((a.2 + ((max a.1 (shoreEpoch s) - a.1 : Nat) : Int) * (len : Int)).fdiv m + 1) * m
  a.1 + ((goal - a.2).toNat + len - 1) / max 1 len

/-- A word of LDG_POND_DATA (Table 12.6). -/
def ldgPond (s : State) (p i : Nat) : Word :=
  let l := s.shore.ledger
  let i64 (v : Int) : Nat := (BitVec.ofInt 64 v).toNat
  match i with
  | 0 => BitVec.ofNat 32 (pondAt s p).tap.k
  | 1 => half64 (i64 (KMap.get 0 l.cumL p)) 0
  | 2 => half64 (i64 (KMap.get 0 l.cumL p)) 4
  | 3 => (l.assign.get p).setWidth 32
  | 4 => l.lastPost.get p
  | 5 => BitVec.ofInt 32 (satI 32 (KMap.get 0 l.lastDiff p))
  | 6 => half64 (KMap.get 0 l.qpm p) 0
  | _ => half64 (KMap.get 0 l.qpm p) 4

/-- An LDG register (Table 12.6). -/
def ldgView (s : State) (off : Nat) : Word :=
  let l := s.shore.ledger
  let w := sreg s (0x3000 + off)
  let i64 (v : Int) : Nat := (BitVec.ofInt 64 v).toNat
  if 0x0A4 ≤ off ∧ off < 0x0C4 then flagWord ((off - 0x0A4) / 4) (fun n => decide (n < 256) && (acctOf l n).st == 1)
  else if 0x0C4 ≤ off ∧ off < 0x104 then byteWord ((off - 0x0C4) / 4) (fun n => (l.assign.get n).toNat)
  else if 0x104 ≤ off ∧ off < 0x144 then
    match l.queue[(off - 0x104) / 8]? with
    | none => shoreFree s 44
    | some q => BitVec.ofNat 32 (if off % 8 = 4 then q.start else q.stop)
  else
    match off with
    | 0x004 => BitVec.ofNat 32 (2 ^ 31 * b2n l.anchor.isSome + 2 ^ 30 * b2n l.lgReady +
        2 ^ 29 * b2n (bit s.shore.alarms.active 4) + 2 ^ 24 * (l.queue.length % 16) +
        256 * ((List.range 256).filter (fun n => decide (0 < n) && (acctOf l n).st == 1)).length +
        b2n s.shore.tbs.epoch.isSome)
    | 0x008 => half64 l.nextSeq 0
    | 0x00C => half64 l.nextSeq 4
    | 0x010 => half64 l.ivStart 0
    | 0x014 => half64 l.ivStart 4
    | 0x018 => half64 (intervalEnd s) 0
    | 0x01C => half64 (intervalEnd s) 4
    | 0x020 => half64 ((l.anchor.map (·.1)).getD 0) 0
    | 0x024 => half64 ((l.anchor.map (·.1)).getD 0) 4
    | 0x028 => half64 ((l.anchor.map (·.2)).getD 0) 0
    | 0x02C => half64 ((l.anchor.map (·.2)).getD 0) 4
    | 0x030 => half64 (i64 l.cnt.measured) 0
    | 0x034 => half64 (i64 l.cnt.measured) 4
    | 0x038 => half64 (i64 l.measuredAll) 0
    | 0x03C => half64 (i64 l.measuredAll) 4
    | 0x040 => ivFlags s
    | 0x068 => half64 ((List.range 64).foldl (fun a n => a + KMap.get 0 l.qpm n) 0) 0
    | 0x06C => half64 ((List.range 64).foldl (fun a n => a + KMap.get 0 l.qpm n) 0) 4
    | 0x084 => wordAt (acctNow s (fld (sreg s 0x3080) 0 8)) (4 * fld (sreg s 0x3080) 16 3)
    | 0x08C => ldgPond s (fld (sreg s 0x3088) 0 6) (fld (sreg s 0x3088) 16 3)
    | 0x094 => BitVec.ofNat 32 (if sealsOn s && s.shore.keys.kSeal.isSome && keyBlocked s then l.queue.length else 0)
    | 0x098 => match archSeals s with | e :: _ => half64 (leAt e.2 8 8) 0 | [] => shoreFree s 44
    | 0x09C => match archSeals s with | e :: _ => half64 (leAt e.2 8 8) 4 | [] => shoreFree s 45
    | 0x0A0 => BitVec.ofNat 32 (l.archive.foldl (fun a e => a + e.2) 0)
    | 0x150 => match acctByTag l (sreg s 0x314C) with | some n => BitVec.ofNat 32 n | none => 0x100
    | 0x178 => half64 (gaspSeq s) 0
    | 0x17C => half64 (gaspSeq s) 4
    | _ => w

/-- An OTP word as latched at step 3 (R394): what takes the place of an uncorrectable word is given by its
field, and is free in the helper field. -/
def otpSeen (s : State) (i : Nat) : Word :=
  if 0x14 ≤ i ∧ i < 0x20 then wordAt (otpHash s false) (4 * (i - 0x14))
  else if 0x20 ≤ i ∧ i < 0x2C then wordAt (otpHash s true) (4 * (i - 0x20))
  else if !otpBad s i then otpWord s i
  else if i = 45 then BitVec.ofNat 32 (2 ^ 31 + (List.range 8).foldl (fun a n => a + 4 ^ n * alarmHighest n) 0)
  else if i < 0x2F then 0
  else shoreFree s 44

/-- An SFL or OTP register (Table 14.16). -/
def sflView (s : State) (off : Nat) : Word :=
  let f := s.shore.sfl
  let w := sreg s (0x4000 + off)
  let pond (k : Nat) (g : Pond → Bool) : Word := flagWord k (fun n => g (pondAt s n))
  let cek (n : Nat) : Bool := s.shore.keys.ceks.any (fun c => c.target == n && c.key.isSome)
  let mark (i : Nat) : Nat := popWord (otpWord s i) % 64
  if 0x0A0 ≤ off ∧ off < 0x0B0 then otpSeen s ((off - 0x0A0) / 4)
  else if 0x0D0 ≤ off then otpSeen s (0x20 + (off - 0x0D0) / 4)
  else
    match off with
    | 0x004 => BitVec.ofNat 32 (2 ^ 31 * b2n f.op0.isSome + 2 ^ 30 * b2n f.op1.isSome + 2 ^ 16 * (f.fwUse % 4) +
        2 ^ 12 * (f.setupUse % 4) + 2 ^ 8 * (f.fwNext % 4) + 2 ^ 4 * (f.setupNext % 4))
    | 0x018 => BitVec.ofNat 32 (2 * b2n f.setupVer + b2n f.fwVer)
    | 0x01C => BitVec.ofNat 32 (65536 * (f.selCount % 65536) + f.selTurns % 65536)
    | 0x020 => pond 0 (fun P => P.pfl.bank)
    | 0x024 => pond 1 (fun P => P.pfl.bank)
    | 0x028 => pond 0 (fun P => P.pfl.verified)
    | 0x02C => pond 1 (fun P => P.pfl.verified)
    | 0x030 => pond 0 (fun P => P.pfl.armed)
    | 0x034 => pond 1 (fun P => P.pfl.armed)
    | 0x038 => flagWord 0 cek
    | 0x03C => flagWord 1 cek
    | 0x080 => BitVec.ofNat 32 (2 ^ 31 * b2n (bit s.shore.alarms.raised 7) + 2 ^ 30 * b2n (bit w 30) +
        2 ^ 29 * b2n (s.shore.otp.prog.isSome || s.shore.alarms.huskProg) + 4 * fld w 2 10)
    | 0x08C => 0
    | 0x094 => otpSeen s (fld (sreg s 0x4090) 2 10)
    | 0x0B0 => wordAt (otpBytes s 0x10 4) 0
    | 0x0B4 => wordAt (otpBytes s 0x14 3) 0
    | 0x0B8 => otpSeen s 8
    | 0x0BC => otpSeen s 9
    | 0x0C0 => otpSeen s 44
    | 0x0C4 => otpSeen s 45
    | 0x0C8 => otpSeen s 46
    | 0x0CC => BitVec.ofNat 32 (2 ^ 24 * mark 18 + 2 ^ 16 * mark 17 + 2 ^ 8 * mark 16)
    | _ => w

/-- A CRL register (Tables 3.8 and 19.7). -/
def crlView (s : State) (off : Nat) : Word :=
  let b := s.shore.boot
  let w := sreg s (0x5000 + off)
  if 0x060 ≤ off ∧ off < 0x0E0 then
    let k := (off - 0x060) / 4
    BitVec.ofNat 32 (65536 * (b.bistUnit.get (2 * k + 1)).toNat + (b.bistUnit.get (2 * k)).toNat)
  else
    match off with
    | 0x000 => b.cause
    | 0x008 => BitVec.ofNat 32 (startStatus s)
    | 0x00C => BitVec.ofNat 32 (512 * b2n (bit w 9) + 16 * (b.lcPending % 16) + b.lc % 16)
    | 0x028 => b.bistFail.extractLsb' 0 32
    | 0x02C => b.bistFail.extractLsb' 32 32
    | 0x030 => b.fused.extractLsb' 0 32
    | 0x034 => b.fused.extractLsb' 32 32
    | 0x038 => pondHalf 0 (noStart s)
    | 0x03C => pondHalf 1 (noStart s)
    | 0x040 => b.late.extractLsb' 0 32
    | 0x044 => b.late.extractLsb' 32 32
    | 0x050 =>
      let i := fld (sreg s 0x504C) 0 9
      if i = 0 then BitVec.ofNat 32 b.report.length else (b.report[i - 1]?).getD (shoreFree s 44)
    | 0x054 => b.pll.extractLsb' 0 32
    | 0x058 => b.pll.extractLsb' 32 32
    | 0x05C => setBit w 0 (bit b.pll 64)
    | _ => w

/-- A TBS register (Table 2.4). -/
def tbsView (s : State) (off : Nat) : Word :=
  let t := s.shore.tbs
  let w := sreg s (0x6000 + off)
  let locked := t.ext == 0xFFFF
  match off with
  | 0x004 => BitVec.ofNat 32 (4 * b2n (gssMode s == 2 && !locked) +
      2 * b2n ((List.range 3).any (fun k => sreg s (0x6028 + 4 * k) != 0)) + b2n (decide (0 < t.issued)))
  | 0x010 => half64 t.tb.toNat 0
  | 0x014 => half64 t.tb.toNat 4
  | 0x018 => half64 (shoreEpoch s) 0
  | 0x01C => half64 (shoreEpoch s) 4
  | 0x024 => setBit w 0 locked
  | 0x034 => half64 t.late.toNat 0
  | 0x038 => half64 t.late.toNat 4
  | 0x044 => BitVec.ofNat 32 (schedUsed s % 1024)
  | _ => w

/-- A register of a Shore unit (R419). SCVU2 is held while a last-gasp record is written (R416). -/
def scvuView (s : State) (u off : Nat) : Word :=
  let w := sreg s (0x7000 + 0x20 * u + off)
  match off with
  | 0x04 => setBit w 3 (bit s.shore.scvuHeld u || (u == 2 && s.shore.ledger.lgDraft.isSome))
  | 0x10 => (scvuOf s u).word (fld (sreg s (0x700C + 0x20 * u)) 0 4)
  | 0x14 => 0
  | _ => w

/-- A TMIR register (Table 10.10): the configuration registers show the kept copy of context 0's
block. -/
def tmirView (s : State) (off : Nat) : Word :=
  let w := sreg s (0x8000 + off)
  let h := (off - 0x40) / 0x40
  let b := (ctxOf s h 0).block
  if off < 0x40 then
    if off = 0x004 then BitVec.ofNat 32 (maskOf 4 (mirrorRuns s)) else w
  else
    match off % 0x40 with
    | 0x00 => half64 ((b.map (·.mirBase)).getD 0) 0
    | 0x04 => half64 ((b.map (·.mirBase)).getD 0) 4
    | 0x08 => (b.map (·.mirCfg)).getD 0
    | 0x0C => if !mirrorRuns s h then 0 else if (portOf s h).mirBusy.isSome then 2 else 1
    | 0x2C => BitVec.ofNat 32 (if b.isSome then mirSize (mirSet s h).1 else 0)
    | _ => w

/-- A register of Shore space (R463): none where the address holds no register (R465). -/
def shoreView (s : State) (off : Nat) : Option Word :=
  if off % 4 ≠ 0 then none
  else if off < 0x1000 then hpView s (off / 0x400) (off % 0x400)
  else if off < 0x13E0 then some (weirView s (off - 0x1000))
  else if off < 0x2000 then none
  else if off < 0x2100 then some (keyView s (off - 0x2000))
  else if off < 0x21C0 then some (almView s (off - 0x2000))
  else if off < 0x3000 then none
  else if off < 0x3180 then some (ldgView s (off - 0x3000))
  else if off < 0x4000 then none
  else if off < 0x4100 then some (sflView s (off - 0x4000))
  else if off < 0x5000 then none
  else if off < 0x5120 then some (crlView s (off - 0x5000))
  else if off < 0x6000 then none
  else if off < 0x60A0 then some (tbsView s (off - 0x6000))
  else if off < 0x7000 then none
  else if off < 0x7080 then
    if off % 0x20 < 0x18 then some (scvuView s ((off - 0x7000) / 0x20) (off % 0x20)) else none
  else if off < 0x8000 then none
  else if off < 0x8020 then some (tmirView s (off - 0x8000))
  else if 0x8040 ≤ off ∧ off < 0x8140 then some (tmirView s (off - 0x8000))
  else none

/-! ### Reads with their effects -/

/-- The RC bits of a register of Shore space (R12; Tables 2.4, 3.8, 9.7, 10.3, 10.10, 12.6, 14.16); the peaks of
Table 9.7 count among its counters (assumption 62). -/
def shoreRc (off : Nat) : Word :=
  let within (a b : Nat) : Bool := decide (a ≤ off) && decide (off < b)
  let all : Bool :=
    within 0x1048 0x1060 || within 0x10A0 0x1130 || within 0x1154 0x1198 || within 0x12BC 0x13E0 ||
    within 0x3044 0x3064 || off == 0x3090 || within 0x3154 0x3174 || within 0x400C 0x4018 ||
    off == 0x603C || off == 0x6040 || within 0x6048 0x6090 || off == 0x6094 || off == 0x609C ||
    within 0x8010 0x801C ||
    (within 0x8040 0x8140 && [0x1C, 0x20, 0x28, 0x34, 0x38].contains (off % 0x40))
  if off < 0x1000 then hpRc (off % 0x400)
  else if all then 0xFFFFFFFF
  else if within 0x1198 0x12BC then 0xFFFFFF00
  else match off with
    | 0x4080 => 0x40000000
    | 0x500C => 0x200
    | 0x6024 => 0xFFFF0000
    | _ => 0

/-- The _LO registers outside the HP blocks whose read latches their _HI (R65, R340, R375). -/
def latchingLo : List Nat :=
  [0x6010, 0x6018, 0x6034, 0x3008, 0x3010, 0x3018, 0x3020, 0x3028, 0x3030, 0x3038, 0x3068, 0x3098, 0x3144,
    0x3178, 0x2018, 0x20B0, 0x20D0, 0x21AC]

/-- A register of Shore space as a read finds it: a _HI word that a read of its _LO latched shows what was
latched. -/
def shoreSeen (s : State) (off : Nat) : Option Word :=
  if off < 0x1000 ∧ off % 4 = 0 then hpSeen s (off / 0x400) (off % 0x400)
  else match latchingLo.contains (off - 4), KMap.get none s.shore.hi off with
    | true, some x => some x
    | _, _ => shoreView s off

/-- A read of a register of Shore space with its effects (R12): RC fields cleared, a _HI word latched, or a
latch used up (assumption 59); none where the address holds no register. -/
def shoreRead (off : Nat) (s : State) : Option Word × State :=
  if (shoreView s off).isNone then (none, s)
  else if off < 0x1000 then
    let r := barReg (off / 0x400) (off % 0x400) s
    (some r.1, r.2)
  else
    let s1 := if shoreRc off = 0 then s else smod off (fun w => w &&& ~~~(shoreRc off)) s
    let latch (o : Nat) (x : Option Word) : State := onShore (fun h => { h with hi := KMap.set none h.hi o x }) s1
    (shoreSeen s off, if latchingLo.contains off then latch (off + 4) (shoreView s (off + 4)) else latch off none)

/-! ### Requests -/

/-- A write of an armed register (R76): the second write of a pair acts with the first write's
value; any other cancels the pair. -/
def armedWrite (off : Nat) (v : Word) (act : Word → State → State) (s : State) : State :=
  let put (x : Option (Word × Nat)) (t : State) : State :=
    onShore (fun h => { h with pairs := KMap.set none h.pairs off x }) t
  match KMap.get none s.shore.pairs off with
  | some (w, t) =>
    if t + 1000000 < s.ns then put (some (v, s.ns)) s
    else if v = ~~~w then act w (put none s)
    else put none s
  | none => put (some (v, s.ns)) s

/-- An armed pair whose 1 ms has passed is cancelled (R76). -/
def pairExpire (off : Nat) (s : State) : State :=
  match KMap.get none s.shore.pairs off with
  | some (_, t) =>
    if t + 1000000 ≤ s.ns then onShore (fun h => { h with pairs := KMap.set none h.pairs off none }) s else s
  | none => s

/-- The offset of an armed register. -/
def armedReg (r : Fin 3) : Nat := [0x5004, 0x5010, 0x408C].getD r.val 0

/-- Word i of CRL_POND_RESET written: a request for each named pond in service (R80, R82). -/
def pondResetReq (i : Nat) (v : Word) (s : State) : State :=
  (bitsOf 32 v.toNat).foldl (fun t n =>
    if inService t (32 * i + n) then onPondN (32 * i + n) (askPondReset 1) t else t) s

/-- Word i of CRL_CORE_RESET written: a request for each named pond in service (R81, R82). -/
def coreResetReq (i : Nat) (v : Word) (s : State) : State :=
  (bitsOf 32 v.toNat).foldl (fun t n =>
    if inService t (32 * i + n) then onPondN (32 * i + n) (askCoreReset 3) t else t) s

/-- The OTP row already holds an owner's hash and a valid role policy (R88, R392). -/
def imagoReady (s : State) : Bool :=
  (List.range 12).any (fun i => s.shore.otp.words.get (0x20 + i) != 0) && bit (s.shore.otp.words.get 44) 31

/-- A life-cycle request (R87, R88): TARGET 2 programs the IMAGO mark for the next device start;
TARGET 3 starts the Husk transition where none runs; any other is refused. While a Husk transition runs PENDING
reads Husk, also after an accepted request for Imago (R89 over R88: DESIGN CHOICE, log 57). -/
def lcAdvance (v : Word) (s : State) : State :=
  let t := fld v 0 4
  let lc := s.shore.boot.lc
  if t = 2 ∧ lc = 1 ∧ imagoReady s then
    onBoot (fun b => { b with lcPending := if b.lcPending = 3 then 3 else 2 })
      (onOtp (fun o => { o with words := o.words.set 17 0xFFFFFFFF }) s)
  else if t = 3 ∧ lc ≠ 3 then
    if s.shore.alarms.huskWait || s.shore.alarms.huskProg then s else huskBegin s
  else smod 0x500C (fun w => setBit w 9 true) s

/-! ### Locks and stores -/

/-- The WL bits of a Shore register that its block's lock guards, and whether the lock is set
(R467, Table 19.8). -/
def shoreLock (s : State) (off : Nat) : Word × Bool :=
  let tbs := bit (sreg s 0x6098) 0
  match off with
  | 0x6000 => (1, tbs)
  | 0x6008 => (0x1FFFF, tbs)
  | 0x600C => (0xF, tbs)
  | 0x6020 => (3, tbs)
  | 0x100C => (0xFFFFFFFF, bit (sreg s 0x1000) 31)
  | 0x3000 => (2, bit (sreg s 0x3000) 31)
  | 0x8000 => (1, bit (sreg s 0x8000) 31)
  | 0x7068 => (0x000F003F, bit (sreg s 0x7060) 31)
  | 0x7070 => (if cvuWordLocked (fld (sreg s 0x706C) 0 4) then 0xFFFFFFFF else 0, bit (sreg s 0x7060) 31)
  | _ => (0, false)

/-- A poke would change a locked WL field of a Shore register (R467). -/
def shoreLockHit (s : State) (off : Nat) (v : Word) : Bool :=
  let l := shoreLock s off
  l.2 && ((shoreView s off).getD 0 ^^^ v) &&& l.1 != 0

/-- The bits of a register replaced by a store, the others kept. -/
def storeBits (off : Nat) (m v : Word) (s : State) : State := smod off (fun w => (w &&& ~~~m) ||| (v &&& m)) s

/-- A store to CVU_CTRL of Shore unit 3: LOCK, START, then FINISH (R413, R419). -/
def scvuCtrl (v : Word) (s : State) : State :=
  let cfg := scvuCfg s 3
  let on (f : Cvu → Cvu) (t : State) : State := onShore (fun h => { h with scvu := vset h.scvu 3 (f (scvuOf t 3)) }) t
  let s1 := storeBits 0x7060 (v &&& 0x80000000) v s
  let s2 := if bit v 0 then on (Cvu.start cfg) s1 else s1
  if bit v 1 then
    let m := (scvuOf s2 3).matches cfg
    let add : Word := if bit cfg 19 then (if m then 3 else 5) else 1
    smod 0x7064 (fun w => w ||| add) (on (Cvu.finish cfg) s2)
  else s2

/-- A store to a register of Shore unit 3 (R419); those of the units that the hardware holds ignore
stores (R415). -/
def scvuStore (off : Nat) (v : Word) (s : State) : State :=
  let lock := bit (sreg s 0x7060) 31
  let cfg := scvuCfg s 3
  let on (f : Cvu → Cvu) (t : State) : State := onShore (fun h => { h with scvu := vset h.scvu 3 (f (scvuOf t 3)) }) t
  match off with
  | 0x00 => scvuCtrl v s
  | 0x04 => smod 0x7064 (fun w => w &&& ~~~(v &&& 7)) s
  | 0x08 =>
    let n := fld v 20 3
    let s1 := storeBits 0x7068 (if lock then 0x00700000 else 0x007F003F)
      (keepField (n == 0 || decide (4 < n)) 20 3 cfg v) s
    on (Cvu.recfg (scvuCfg s1 3)) s1
  | 0x0C => storeBits 0x706C 0xF v s
  | 0x10 =>
    let i := fld (sreg s 0x706C) 0 4
    if cvuWordLocked i && lock then s else on (Cvu.setWord cfg i v) s
  | 0x14 => on (Cvu.feed cfg (leBytes v.toNat (fld cfg 20 3))) s
  | _ => s

/-- A store to a TBS register (Table 2.4): values outside a field's range are ignored (R47). -/
def tbsStore (off : Nat) (v : Word) (s : State) : State :=
  let lock := bit (sreg s 0x6098) 0
  match off with
  | 0x000 =>
    if lock then s else
    let s1 := storeBits 0x6000 1 v s
    if bit v 0 && s.shore.tbs.runAt.isNone then onTbs (fun t => { t with runAt := some s.ns }) s1 else s1
  | 0x008 => if lock || decide (fld v 0 17 < 500) || decide (65536 < fld v 0 17) then s else storeBits 0x6008 0x1FFFF v s
  | 0x00C => if lock || fld v 0 4 == 0 || decide (8 < fld v 0 4) then s else storeBits 0x600C 0xF v s
  | 0x020 =>
    if lock || fld v 0 2 == 3 then s else
    onTbs (fun t => { t with gssOut := if fld v 0 2 = 1 then t.gssOut else none }) (storeBits 0x6020 3 v s)
  | 0x028 => smod 0x6028 (fun w => w &&& ~~~v) s
  | 0x02C => smod 0x602C (fun w => w &&& ~~~v) s
  | 0x030 => smod 0x6030 (fun w => w &&& ~~~v) s
  | 0x098 => smod 0x6098 (fun w => w ||| (v &&& 1)) s
  | _ => s

/-- A store to a WEIR register (Table 9.7); reserved bits of a routing word are not stored (R11, R226). -/
def weirStore (off : Nat) (v : Word) (s : State) : State :=
  let sel := sreg s 0x1008
  match off with
  | 0x000 =>
    let s1 := smod 0x1000 (fun w => w ||| (v &&& 0x80000000)) s
    if bit v 15 && decide (fld v 16 8 < 162) then retrain (fld v 16 8) s1 else s1
  | 0x008 => sset 0x1008 (v &&& 0x007F0007) s
  | 0x00C =>
    if bit (sreg s 0x1000) 31 || decide (80 < fld sel 16 7) || decide (4 < fld sel 0 3) then s
    else onWeir (fun w => { w with rt := w.rt.set (5 * fld sel 16 7 + fld sel 0 3) (routeMask (fld sel 0 3) v) }) s
  | 0x010 => sset 0x1010 (v &&& 0xFF0F) s
  | 0x018 => sset 0x1018 (v &&& 0x7FF) s
  | 0x020 =>
    if bit v 31 then sset 0x1020 0 (sset 0x1024 0 (sset 0x1028 0 (sset 0x102C 0 s))) else s
  | _ => s

/-- A write of CRL_WDOG (R466). -/
def wdogWrite (v : Word) (s : State) : State :=
  let s1 := storeBits 0x5014 0x80000000 v s
  let s2 := if fld v 0 16 = 0 then s1 else storeBits 0x5014 0xFFFF v s1
  if bit v 30 then onBoot (fun b => { b with wdog := 0 }) s2 else s2

/-- A store to a Shore register outside the HP blocks (R12, R467). -/
def shoreStore (off : Nat) (v : Word) (s : State) : State :=
  if off % 4 ≠ 0 then s
  else if off < 0x1000 then hpWrite (off / 0x400) (off % 0x400) v s
  else if off < 0x2000 then weirStore (off - 0x1000) v s
  else if 0x6000 ≤ off ∧ off < 0x7000 then tbsStore (off - 0x6000) v s
  else if 0x7060 ≤ off ∧ off < 0x7078 then scvuStore (off - 0x7060) v s
  else
    match off with
    | 0x2010 => sset off (v &&& 0xFF0F) s
    | 0x2100 => injectAlarms (v.setWidth 8) s
    | 0x2190 => sset off (v &&& 0x7F) s
    | 0x3000 =>
      let s1 := if bit (sreg s off) 31 then s else storeBits off 2 v s
      smod off (fun w => w ||| (v &&& 0x80000000)) s1
    | 0x3070 =>
      if bit v 31 then sset 0x3070 0 (sset 0x3074 0 (sset 0x3078 0 (sset 0x307C 0 s))) else s
    | 0x3080 => sset off (v &&& 0x700FF) s
    | 0x3088 => sset off (v &&& 0x7003F) s
    | 0x314C => sset off v s
    | 0x4000 => smod off (fun w => w ||| (v &&& 0x80000000)) s
    | 0x4084 => sset off (v &&& 0xFFC) s
    | 0x4088 => sset off v s
    | 0x408C => armedWrite off v (fun _ t => otpGo t) s
    | 0x4090 => sset off (v &&& 0xFFC) s
    | 0x5004 => armedWrite off v (fun _ t => warmReset 4 t) s
    | 0x5010 => armedWrite off v lcAdvance s
    | 0x5014 => wdogWrite v s
    | 0x5018 => pondResetReq 0 v s
    | 0x501C => pondResetReq 1 v s
    | 0x5020 => coreResetReq 0 v s
    | 0x5024 => coreResetReq 1 v s
    | 0x504C => sset off (v &&& 0x1FF) s
    | 0x8000 =>
      let s1 := if bit (sreg s off) 31 then s else storeBits off 1 v s
      smod off (fun w => w ||| (v &&& 0x80000000)) s1
    | _ => s

/-! ### The rows -/

/-- CRL_WARM_RESET: a steward's write of the armed register (R75, R76). -/
def execCrlWarmReset (v : Word) (s : State) : Host.Outcome State Fault Refusal := .next (shoreStore 0x5004 v s)

/-- ARMED_PAIR_EXPIRY of CRL_WARM_RESET, CRL_LC_ADVANCE or OTP_PROG_GO (R76). -/
def execArmedPairExpiry (r : Fin 3) (s : State) : Host.Outcome State Fault Refusal :=
  .next (pairExpire (armedReg r) s)

/-- CRL_POND_RESET_i written (R75). -/
def execCrlPondReset (i : Fin 2) (v : Word) (s : State) : Host.Outcome State Fault Refusal :=
  .next (pondResetReq i.val v s)

/-- CRL_CORE_RESET_i written (R75). -/
def execCrlCoreReset (i : Fin 2) (v : Word) (s : State) : Host.Outcome State Fault Refusal :=
  .next (coreResetReq i.val v s)

/-- CRL_LC_ADVANCE: a steward's write of the armed register (R88). -/
def execCrlLcAdvance (v : Word) (s : State) : Host.Outcome State Fault Refusal := .next (shoreStore 0x5010 v s)

/-- OTP_PROG_GO: a steward's write of the armed register (R393). -/
def execOtpProgGo (v : Word) (s : State) : Host.Outcome State Fault Refusal := .next (shoreStore 0x408C v s)

/-- REGISTER_WRITE: a store of pond firmware, of the Shore firmware, or through a setup BAR, under the
register's access codes and lock bits (R12, R467). -/
def execRegisterWrite (w : Writer) (off : BitVec 32) (v : Word) (s : State) : Host.Outcome State Fault Refusal :=
  .next (match w with
    | .pond p =>
      if (pondAcc off.toNat).isNone || off == 0x600 || off == 0x604 then s
      else onPond p (storeReg (pctx s p) off.toNat v) s
    | .shore => shoreStore off.toNat v s
    | .bar h full => barWrite h.val off.toNat full v s)

end Sys2Proof.Machine
end

