-- ==== Sys2Proof/Machine/Commands.lean ====
section
/-! DEFINITION. The host commands (chapter 11, sections 3 to 9) but for program exchange and SPDM:
those that are held for their apply epoch (R289), those carried out at consumption, peeks and pokes
(R294, R61), and the operands read from host memory (R295, R299). -/

namespace Sys2Proof.Machine

/-! ### Held commands -/

/-- LEASE (R27, R293). -/
def execLeaseCmd (h : PortId) (n : CtxId) (s : State) : Host.Outcome State Fault Refusal := consumeOp 0x10 h n holdCmd s

/-- RELEASE (R29). -/
def execReleaseCmd (h : PortId) (n : CtxId) (s : State) : Host.Outcome State Fault Refusal := consumeOp 0x11 h n holdCmd s

/-- TAKEOVER (R25). -/
def execTakeover (h : PortId) (n : CtxId) (s : State) : Host.Outcome State Fault Refusal := consumeOp 0x12 h n holdCmd s

/-- ENABLE (R297). -/
def execEnable (h : PortId) (n : CtxId) (s : State) : Host.Outcome State Fault Refusal := consumeOp 0x31 h n holdCmd s

/-- DISABLE (R297). -/
def execDisable (h : PortId) (n : CtxId) (s : State) : Host.Outcome State Fault Refusal := consumeOp 0x32 h n holdCmd s

/-- SET_REF (R297). -/
def execSetRef (h : PortId) (n : CtxId) (s : State) : Host.Outcome State Fault Refusal := consumeOp 0x33 h n holdCmd s

/-- GROUP_CONFIGURE (R298). -/
def execGroupConfigure (h : PortId) (n : CtxId) (s : State) : Host.Outcome State Fault Refusal :=
  consumeOp 0x34 h n holdCmd s

/-- SLUICE_CLOSE (R300). -/
def execSluiceClose (h : PortId) (n : CtxId) (s : State) : Host.Outcome State Fault Refusal :=
  consumeOp 0x41 h n holdCmd s

/-- CAPTURE_STREAM (R301). -/
def execCaptureStream (h : PortId) (n : CtxId) (s : State) : Host.Outcome State Fault Refusal :=
  consumeOp 0x42 h n holdCmd s

/-- ACCT_OPEN (R303). -/
def execAcctOpen (h : PortId) (n : CtxId) (s : State) : Host.Outcome State Fault Refusal := consumeOp 0x50 h n holdCmd s

/-- ACCT_CLOSE (R303). -/
def execAcctClose (h : PortId) (n : CtxId) (s : State) : Host.Outcome State Fault Refusal := consumeOp 0x51 h n holdCmd s

/-- ACCT_ASSIGN (R303). -/
def execAcctAssign (h : PortId) (n : CtxId) (s : State) : Host.Outcome State Fault Refusal := consumeOp 0x52 h n holdCmd s

/-- UTC_ANCHOR (R305). -/
def execUtcAnchor (h : PortId) (n : CtxId) (s : State) : Host.Outcome State Fault Refusal := consumeOp 0x57 h n holdCmd s

/-- ALARM_CLEAR (R311). -/
def execAlarmClear (h : PortId) (n : CtxId) (s : State) : Host.Outcome State Fault Refusal := consumeOp 0x71 h n holdCmd s

/-- PROG_SWAP: NOT_VERIFIED at consumption, else held (R309). -/
def swapConsume (c : Cmd) (s : State) : State :=
  let m := markClears s c.target
  if verifiedMark s c.target then holdCmd { c with mark := m } (onCmd c.order (fun x => { x with mark := m }) s)
  else finishNow c 0x24 0 0 s

/-- PROG_SWAP. -/
def execProgSwap (h : PortId) (n : CtxId) (s : State) : Host.Outcome State Fault Refusal :=
  consumeOp 0x63 h n swapConsume s

/-! ### Commands carried out at consumption -/

/-- A descriptor whose opcode Table 11.4 does not assign (R289). -/
def execUnassignedOpcode (h : PortId) (n : CtxId) (s : State) : Host.Outcome State Fault Refusal :=
  .next (match (ctxOf s h.val n.val).fetched with
    | [] => s
    | d :: _ =>
      if canConsume s h.val n.val && (opInfo (leAt d 0 1)).isNone then consumeWith h.val n.val (fun _ t => t) s
      else s)

/-- NOP. -/
def execHostNop (h : PortId) (n : CtxId) (s : State) : Host.Outcome State Fault Refusal :=
  consumeOp 0x01 h n (atOnce (fun c t => finishNow c 0 0 0 t)) s

/-- The service map record (Table 11.8). -/
def svcMap (s : State) : List Byte :=
  leBytes (maskOf 64 (inService s)) 8 ++ leBytes s.shore.boot.fused.toNat 8 ++
  leBytes s.shore.boot.bistFail.toNat 8 ++ otpBytes s 0x16 1 ++ [0, 0xB0] ++
  leBytes ((List.range 64).filter (inService s)).length 1 ++ [0, 0, 0, 0]

/-- SVC_MAP_READ (R312). -/
def execSvcMapRead (h : PortId) (n : CtxId) (s : State) : Host.Outcome State Fault Refusal :=
  consumeOp 0x02 h n (atOnce (fun c t => finishData c (c.arg 0x10 8) (svcMap t) 0 t)) s

/-- BIND_TAG (R304). -/
def bindTag (c : Cmd) (s : State) : State :=
  let tag : Word := BitVec.ofNat 32 (c.arg 0x10 4)
  let p := c.arg 0x14 1 % 4
  if (acctByTag s.shore.ledger tag).isNone then finishNow c 0x19 0 0 s
  else match boundPort s tag with
    | some q => if q = p then finishNow c 0 0 0 s else finishNow c 0x1C q 0 s
    | none => finishNow c 0 0 0 (onShore (fun h => { h with binds := h.binds ++ [(tag, p)] }) s)

/-- BIND_TAG. -/
def execBindTag (h : PortId) (n : CtxId) (s : State) : Host.Outcome State Fault Refusal :=
  consumeOp 0x53 h n (atOnce bindTag) s

/-- UNBIND_TAG (R304). -/
def unbindTag (c : Cmd) (s : State) : State :=
  let tag : Word := BitVec.ofNat 32 (c.arg 0x10 4)
  if (boundPort s tag).isNone then finishNow c 0x1D 0 0 s
  else finishNow c 0 0 0 (onShore (fun h => { h with binds := h.binds.filter (fun b => b.1 != tag) }) s)

/-- UNBIND_TAG. -/
def execUnbindTag (h : PortId) (n : CtxId) (s : State) : Host.Outcome State Fault Refusal :=
  consumeOp 0x54 h n (atOnce unbindTag) s

/-- ACCT_READ (R305, R23). -/
def acctRead (c : Cmd) (s : State) : State :=
  match acctByTag s.shore.ledger (BitVec.ofNat 32 (c.arg 0x10 4)) with
  | none => finishNow c 0x19 0 0 s
  | some k =>
    if mayRead s c.port k then finishData c (c.arg 0x18 8) (acctNow s k) 0 s else finishNow c 0x04 0 0 s

/-- ACCT_READ. -/
def execAcctRead (h : PortId) (n : CtxId) (s : State) : Host.Outcome State Fault Refusal :=
  consumeOp 0x55 h n (atOnce acctRead) s

/-- SEAL_FETCH (R305). -/
def sealFetch (c : Cmd) (s : State) : State :=
  let next := s.shore.ledger.nextSeq
  let q := c.arg 0x10 8
  let seq := if q = asapValue then next - 1 else q
  if next ≤ seq then finishNow c 0x1E 0 0 s
  else match sealAt s seq with
    | none => finishNow c 0x1F 0 0 s
    | some b =>
      let len : Word := BitVec.ofNat 32 b.length
      if c.arg 0x20 4 < b.length then finishNow c 0x20 0 len s else finishData c (c.arg 0x18 8) b len s

/-- SEAL_FETCH. -/
def execSealFetch (h : PortId) (n : CtxId) (s : State) : Host.Outcome State Fault Refusal :=
  consumeOp 0x56 h n (atOnce sealFetch) s

/-! ### Peek and poke -/

/-- A request to a pond's management endpoint for a command (R294). -/
def mgmtRequest (c : Cmd) (op addr data : Nat) (s : State) : State :=
  mgmtSend c.target c.order ⟨mgmtHead c.target 64 0 0 op 0 addr data, [], none, 0⟩ (setPhase c .mgmt s)

/-- PEEK: ADDR_BAD at consumption, the token and lease checks, then the read (R294, R465). -/
def peekConsume (c : Cmd) (s : State) : State :=
  let a := c.arg 0x10 4
  if c.target < 64 then
    if peekable a then atOnce (fun c t => mgmtRequest c 1 a 0 t) c s else finishNow c 0x0D 0 0 s
  else match shoreSeen s a with
    | none => finishNow c 0x0D 0 0 s
    | some w => atOnce (fun c t => finishNow c 0 0 w (useShoreFree t)) c s

/-- PEEK. -/
def execPeek (h : PortId) (n : CtxId) (s : State) : Host.Outcome State Fault Refusal := consumeOp 0x20 h n peekConsume s

/-- A register of Shore space outside the blocks that Table 11.5 shuts out that a store can change: the others
hold RO fields alone. -/
def shoreWritable (off : Nat) : Bool :=
  [0x1000, 0x1008, 0x100C, 0x1010, 0x1018, 0x1020, 0x4000, 0x4084, 0x4088, 0x408C, 0x4090, 0x5004, 0x5010,
    0x5014, 0x5018, 0x501C, 0x5020, 0x5024, 0x504C, 0x6000, 0x6008, 0x600C, 0x6020, 0x6028, 0x602C, 0x6030,
    0x6098, 0x8000].contains off ||
  (decide (0x7060 ≤ off) && decide (off < 0x7078))

/-- An address that a poke accepts (Table 11.5): no RO register. -/
def pokeAccepts (s : State) (target a : Nat) : Bool :=
  if target < 64 then
    pokeable a && !(decide (0x40000000 ≤ a) && (pondRo (a - 0x40000000) || a == 0x40000600 || a == 0x40000604))
  else
    (shoreView s a).isSome && decide (0x1000 ≤ a) && !(decide (0x2000 ≤ a) && decide (a < 0x4000)) &&
      (shoreWritable a || shoreRc a != 0)

/-- A poke of a Shore register (R61, R467); one that starts a device reset is lost with the other
commands. -/
def pokeShore (c : Cmd) (s : State) : State :=
  let a := c.arg 0x10 4
  let v : Word := BitVec.ofNat 32 (c.arg 0x14 4)
  if shoreLockHit s a v then pokeEnd c 0x11 s
  else
    let s1 := shoreStore a v s
    match cmdOf s1 c.order with
    | some x => pokeEnd x 0 s1
    | none => s1

/-- POKE: ADDR_BAD at consumption, the token check, then the write is sent at once (R61, R289). -/
def pokeConsume (c : Cmd) (s : State) : State :=
  let a := c.arg 0x10 4
  if !pokeAccepts s c.target a then finishNow c 0x0D 0 0 s
  else if c.target < 64 then atOnce (fun c t => mgmtRequest c 2 a (c.arg 0x14 4) t) c s
  else atOnce pokeShore c s

/-- POKE. -/
def execPoke (h : PortId) (n : CtxId) (s : State) : Host.Outcome State Fault Refusal := consumeOp 0x21 h n pokeConsume s

/-! ### Operands -/

/-- CONFIGURE reads its record at consumption (R295). -/
def execConfigure (h : PortId) (n : CtxId) (s : State) : Host.Outcome State Fault Refusal :=
  consumeOp 0x30 h n (fun c t => readOperand (c.arg 0x10 8) (8 * c.arg 0x18 1 + 8) c t) s

/-- SLUICE_OPEN reads its record at consumption (R299). -/
def execSluiceOpen (h : PortId) (n : CtxId) (s : State) : Host.Outcome State Fault Refusal :=
  consumeOp 0x40 h n (fun c t => readOperand (c.arg 0x18 8) 64 c t) s

/-- SPDM_XFER (R310): KEYS_ABSENT, else its request is read. -/
def spdmConsume (c : Cmd) (s : State) : State :=
  let lc := s.shore.boot.lc
  if lc = 0 ∨ lc = 3 ∨ !keysHeld s then finishNow c 0x26 0 0 s
  else readOperand (c.arg 0x10 8) (c.arg 0x18 4) c s

/-- SPDM_XFER. -/
def execSpdmXfer (h : PortId) (n : CtxId) (s : State) : Host.Outcome State Fault Refusal :=
  consumeOp 0x70 h n (atOnce spdmConsume) s

/-- The first entry of a configuration record that breaks the format (R295). -/
def recordBad (n : Nat) (d : List Byte) : Option Nat :=
  (List.range n).find? (fun i => let o := leAt d (8 * i) 4; decide (0x6FC < o) || o % 4 != 0)

/-- A command whose operand came is held; where its apply epoch has begun already it is too late for
its action, as R58 gives for a late packet (assumption 24). -/
def operandHold (c : Cmd) (s : State) : State :=
  if shoreEpoch s < c.apply then holdCmd c s
  else
    let s1 := if c.asap then countAsap s else s
    let c1 := { c with timing := c.timing || c.asap }
    match authorityNow s c with
    | some (st, det) => finish c1 st det 0 c.apply 0 false s1
    | none =>
      if pondCmd c then hubEmit (actionPacket c) (onCmd c.order (fun x => { x with phase := .decided, timing := c1.timing }) s1)
      else finish c1 0x0C 0 0 c.apply 0 false s1

/-- An SPDM ERROR response (R358; assumption 20). -/
def spdmError (code data : Nat) : List Byte := [0x12, 0x7F, BitVec.ofNat 8 code, BitVec.ofNat 8 data]

/-- A response written to RSP_ADDR, or TOO_SMALL (R310). -/
def spdmAnswer (c : Cmd) (l : List Byte) (s t : State) : State :=
  let len : Word := BitVec.ofNat 32 l.length
  if c.arg 0x1C 4 < l.length then finishNow c 0x20 0 len s else finishData c (c.arg 0x20 8) l len t

/-- The request codes that SPDM_XFER accepts (R358). -/
def spdmCodes : List Nat := [0x84, 0xE1, 0xE3, 0x81, 0x82, 0x83, 0xE0]

/-- The oldest SPDM command of a port: the one whose turn it is (R310). -/
def spdmHead (s : State) (h : Nat) : Option Cmd := s.shore.cmds.find? (fun c => c.port == h && c.op == 0x70)

/-- Requests of codes that SPDM_XFER does not accept are answered when their turn comes (R310, R358). -/
def spdmKick (h : Nat) : Nat → State → State
  | 0, s => s
  | fuel + 1, s =>
    match spdmHead s h with
    | none => s
    | some c =>
      match c.phase with
      | .spdm =>
        if spdmCodes.contains (leAt c.data 1 1) then s
        else if !keysHeld s then spdmKick h fuel (finishNow c 0x26 0 0 s)
        else spdmKick h fuel (spdmAnswer c (spdmError 0x07 (leAt c.data 1 1)) s s)
      | _ => s

/-- The turns of a port's SPDM requests go on. -/
def spdmTurns (h : Nat) (s : State) : State := spdmKick h s.shore.cmds.length s

/-- A configuration record's check on SCVU2 (R295, R416). A wrong check word names no entry: DETAIL is free among
the entries (assumption 63). -/
def recordCheck (c : Cmd) (s0 : State) : State :=
  let k := c.arg 0x18 1
  let d := c.data
  let s := scvuHard 2 (d.take (8 * k)) s0
  if crc32c (d.take (8 * k)) ≠ leAt d (8 * k) 4 ∨ leAt d (8 * k + 4) 4 ≠ 0 then
    finishNow c 0x10 ((shoreFree s 30).toNat % max 1 k) 0 (useShoreFree s)
  else match recordBad k d with
    | some i => finishNow c 0x02 i 0 s
    | none => operandHold c s

/-- The configuration records that waited for SCVU2 are checked, in consumption order (R416). -/
def recordsGoOn (s : State) : State :=
  s.shore.cmds.foldl (fun t c => match c.phase with | .record => recordCheck c t | _ => t) s

/-- The operand of a command arrives (R295, R299, R307, R310). A configuration record waits while the last-gasp
record has SCVU2 (R416). -/
def operandCame (c : Cmd) (d : List Byte) (s : State) : State :=
  let s1 := onCmd c.order (fun x => { x with data := d }) s
  let c1 := { c with data := d }
  match c.op with
  | 0x30 =>
    if s.shore.ledger.lgDraft.isSome then setPhase c1 .record s1 else recordCheck c1 s1
  | 0x40 =>
    match sluiceCheck d with
    | some i => finishNow c1 0x16 i 0 s1
    | none => operandHold c1 s1
  | 0x61 => setPhase c1 .queued s1
  | _ => spdmTurns c.port (setPhase c1 .spdm s1)

/-- The commands of a port whose operand reads are outstanding. -/
def readers (s : State) (h : Nat) : List Cmd :=
  s.shore.cmds.filter (fun c => c.port == h && (match c.phase with | .reading _ _ => true | _ => false))

end Sys2Proof.Machine
end

