-- ==== Sys2Proof/Machine/Program.lean ====
section
/-! DEFINITION. Program exchange (R307, R308, R384 to R387, R398 to R400): erases, writes with the
order and the content key of an encrypted image (R356, R399, R440), and verifies (R400, R416). -/

namespace Sys2Proof.Machine

/-- A program command: PROG_ERASE, PROG_WRITE or PROG_VERIFY. -/
def Cmd.prog (c : Cmd) : Bool := c.op == 0x60 || c.op == 0x61 || c.op == 0x62

/-- The system flash bank of a program command of target 64 or 65. -/
def progBank (s : State) (target : Nat) : Nat := 1 - slotUse s target

/-- Bank b of system flash is in use: an operation runs there, or the last-gasp path has bank 0 (R337, R376). -/
def bankBusy (s : State) (b : Nat) : Bool :=
  (sysOpOf s b).isSome || (b == 0 && (s.shore.ledger.lgErase || s.shore.ledger.lgDraft.isSome))

/-- The byte size of a target's area (R388, R395). -/
def areaSize (target : Nat) : Nat := if target = 64 then 0x100000 else 0x40000

/-- FIRST, COUNT, OFFSET and LEN lie within the target's area; the descriptor offset of the first that does not
(R307: a check of section 8, the seventh of R289). -/
def areaFail (c : Cmd) : Option Nat :=
  let n := areaSize c.target
  if c.op = 0x60 then
    if n / 4096 ≤ c.arg 0x10 2 then some 0x10
    else if n / 4096 < c.arg 0x10 2 + c.arg 0x14 2 then some 0x14 else none
  else if c.op = 0x61 then
    if n ≤ c.arg 0x10 4 then some 0x10 else if n < c.arg 0x10 4 + c.arg 0x14 4 then some 0x14 else none
  else none

/-- A program command whose area check passes goes on to the token check (R289). -/
def inArea (f : Cmd → State → State) (c : Cmd) (s : State) : State :=
  match areaFail c with
  | some off => finishNow c 0x02 off 0 s
  | none => atOnce f c s

/-! ### The inactive area of a target -/

/-- The array that holds a target's image and the byte offset of its area (R388). -/
def targetArr (s : State) (target : Nat) : FArr × Nat :=
  if target < 64 then
    let P := pondAt s target
    (pflArr P, bankBase (!P.pfl.bank))
  else (sflArr s, targetBase s target)

/-- The KIND of a target's images (R395). -/
def targetKind (target : Nat) : Nat := if target < 64 then 1 else if target = 64 then 2 else 3

/-! ### Content keys -/

/-- The content key held for a target. -/
def cekOf (s : State) (target : Nat) : Option Cek := s.shore.keys.ceks.find? (fun k => k.target == target)

/-- The content key of a target dropped (R399). -/
def cekDrop (target : Nat) (s : State) : State :=
  onKeys (fun k => { k with ceks := k.ceks.filter (fun x => x.target != target) }) s

/-- The content key of a header, unwrapped by K_WRAP (R356). -/
def unwrap (s : State) (h : List Byte) : Option (List Byte) := do
  let d ← s.shore.keys.kWrap
  let q ← ecRead (slice h 0x81 97)
  let z ← ecdh d q
  return kdf z "K64/CEK" (sha384 (h.take 0x180)) 256

/-- The header of an encrypted image has been written: CEK is unwrapped, or refused (R399). -/
def cekMake (target : Nat) (h : List Byte) (s : State) : State :=
  let deny := keyBlocked s || s.shore.keys.kWrap.isNone
  let key := if deny then none else unwrap s h
  let s1 := if deny then keyDenied s else if key.isSome then sinc 0x20C4 0 32 1 s else s
  let y : BitVec 128 := match key with | some k => ghash 24 (gcmH k) 0 (h.take 0x180) | none => 0
  onKeys (fun k => { k with ceks := k.ceks ++ [⟨target, key, h, 0, y, false⟩] }) s1

/-- A pond's header as it stands, where every word of it is committed and ENCRYPTED is set. -/
def cekHeader (s : State) (target : Nat) : Option (List Byte) :=
  let a := targetArr s target
  let i := (a.2 + 0x3FE00) / 32
  if (List.range 16).all (fun j => a.1.cls (i + j) == 1) then
    match a.1.read (a.2 + 0x3FE00) 512 with
    | some h => if imgEncrypted h then some h else none
    | none => none
  else none

/-- The first header word of a pond's bank spells an encrypted image. -/
def encryptedHead (s : State) (target : Nat) : Bool :=
  let a := targetArr s target
  a.1.cls ((a.2 + 0x3FE00) / 32) == 1 &&
  (match a.1.read (a.2 + 0x3FE00) 32 with | some h => imgEncrypted h | none => false)

/-- The header bytes that a write carries begin an encrypted image. -/
def writesHead (off : Nat) (d : List Byte) : Bool :=
  decide (off ≤ 0x3FE00) && decide (0x3FE00 < off + d.length) &&
  (let h := d.drop (0x3FE00 - off); slice h 0 4 == [0x4B, 0x36, 0x34, 0x49] && imgEncrypted h)

/-- A write breaks the order of an encrypted image (R399). -/
def orderBad (s : State) (target off : Nat) (d : List Byte) : Bool :=
  let a := targetArr s target
  if off + d.length ≤ 0x3FE00 then
    encryptedHead s target && (match cekOf s target with | some k => k.next != off || decide (imgLen k.header < off + d.length) | none => true)
  else if off < 0x3FE00 then writesHead off d || encryptedHead s target
  else writesHead off d && (List.range 8176).any (fun j => a.1.cls (a.2 / 32 + j) != 0)

/-- A body chunk on its way to flash (R399, R440): the bytes to program, and the key's state. -/
def cekChunk (target off : Nat) (d : List Byte) (s : State) : List Byte × State :=
  match cekOf s target with
  | none => (d, s)
  | some k =>
    if 0x3FE00 ≤ off then (d, s) else
    let put (k2 : Cek) : State :=
      onKeys (fun x => { x with ceks := x.ceks.map (fun y => if y.target = target then k2 else y) }) s
    match k.key with
    | none => (d, put { k with next := off + d.length })
    | some key =>
      if k.spoiled || keyBlocked s then (d, put { k with next := off + d.length, spoiled := true })
      else
        (gcmCtr key (slice k.header 0xE2 12) off d,
          put { k with next := off + d.length, ghash := ghash (d.length / 16) (gcmH key) k.ghash d })

/-! ### Starting and ending -/

/-- The 64-byte block write number `i` of a PROG_WRITE (R224, R398): its offset and its bytes. -/
def blockPacket (c : Cmd) (i : Nat) : Packet :=
  let l := (c.data.drop (64 * i)).take 64
  ⟨mgmtHead c.target 64 0 0 5 0 (c.arg 0x10 4 + 64 * i) 0,
    (List.range (l.length / 16)).map (fun j => BitVec.ofNat 128 (leAt l (16 * j) 16)), none, 0⟩

/-- The sector erase number `i` of a PROG_ERASE. -/
def eraseOp (s : State) (c : Cmd) (i : Nat) : FlashOp :=
  let sector := c.arg 0x10 2 + i
  if c.target < 64 then ⟨2, true, inactiveBase (pondAt s c.target) + 128 * sector, [], 0⟩
  else ⟨2, true, targetBase s c.target / 32 + 128 * sector, [], 0⟩

/-- A sector of a PROG_ERASE begins. -/
def eraseNext (c : Cmd) (i : Nat) (s : State) : State :=
  let s1 := setPhase c (.flash i) s
  if c.target < 64 then onPondN c.target (pflStart (eraseOp s c i)) s1
  else sysStart (progBank s c.target) ⟨some c.order, eraseOp s c i⟩ s1

/-- A PROG_WRITE begins: the order of an encrypted image is checked, and its bytes go to the pond as
block writes or to the bank as one run of word programs. -/
def writeStart (c : Cmd) (s : State) : State :=
  let off := c.arg 0x10 4
  if c.target < 64 then
    if orderBad s c.target off c.data then finishNow c 0x22 4 0 s
    else
      let r := cekChunk c.target off c.data s
      let c1 := { c with data := r.1 }
      mgmtSend c.target c.order (blockPacket c1 0)
        (onCmd c.order (fun x => { x with data := r.1, phase := .flash 0 }) r.2)
  else
    sysStart (progBank s c.target)
      ⟨some c.order, ⟨2, false, (targetBase s c.target + off) / 32, flashWords 128 c.data, 0⟩⟩
      (setPhase c (.flash 0) (slotTouched c.target s))

/-- A failed verify (R308, Table 13.9): its reason is kept. -/
def verifyFail (c : Cmd) (why : Nat) (s : State) : State :=
  finishNow c 0x23 why 0 (sset 0x20C0 (BitVec.ofNat 32 why) s)

/-- Step 1 of R400: the reason for which the header fails. -/
def headFail (s : State) (target : Nat) : Option Nat :=
  let a := targetArr s target
  let pl := imgPlace (targetKind target)
  if a.1.cls ((a.2 + pl.1) / 32) = 0 then some 1
  else match a.1.read (a.2 + pl.1) 512 with
    | none => some 4
    | some h => if headerBad (targetKind target) h then some 2 else none

/-- Words of a target's array read in order, up to the first that is no data (R382). -/
def targetReads (target : Nat) (l : List Nat) (s : State) : State :=
  if target < 64 then onPondN target (pflReads true l) s else sflReads l s

/-- The words that the check of a target's image reads. -/
def targetWords (s : State) (target : Nat) : List Nat :=
  let a := targetArr s target
  imgWords a.1 a.2 (targetKind target)

/-- A program command begins; one for a pond in a reset or whose controller firmware uses ends (R294,
R307, R384). Each PROG_ERASE or PROG_WRITE clears the verified mark (R308). -/
def progStart (c : Cmd) (s0 : State) : State :=
  let s := if c.op = 0x62 then s0 else setVerified c.target false s0
  let P := pondAt s c.target
  if c.target < 64 ∧ P.life.resetEnd.isSome then finishNow c 0x0E 0 0 s
  else if c.target < 64 ∧ P.pfl.op.isSome then finishNow c 0x21 0 0 s
  else if c.op = 0x60 then
    let s1 := cekDrop c.target s
    eraseNext c 0 (if c.target < 64 then s1 else slotTouched c.target s1)
  else if c.op = 0x61 then writeStart c s
  else
    let s1 := targetReads c.target ((targetWords s c.target).take 16) s
    match headFail s c.target with
    | some why => verifyFail c why (cekDrop c.target s1)
    | none => setPhase c .unit s1

/-- A program command may begin: it waits, no earlier one of its target is unfinished, and its bank is
free (R307, R376). -/
def progReady (s : State) (c : Cmd) : Bool :=
  (match c.phase with | .queued => true | _ => false) &&
  !s.shore.cmds.any (fun x => x.prog && x.target == c.target && decide (x.order < c.order)) &&
  (decide (c.target < 64) || !bankBusy s (progBank s c.target))

/-- The sector at which an erase of system flash waits while the last-gasp path has its bank (R337). -/
def eraseHeld (s : State) (c : Cmd) : Option Nat :=
  match c.phase with
  | .flash i => if c.op = 0x60 ∧ 64 ≤ c.target ∧ !bankBusy s (progBank s c.target) then some i else none
  | _ => none

/-- Every program command that may begin or go on does so, in consumption order. -/
def progKick (s : State) : State :=
  (s.shore.cmds.filter (·.prog)).foldl (fun t c =>
    match cmdOf t c.order with
    | some x =>
      if progReady t x then progStart x t
      else match eraseHeld t x with
        | some i => eraseNext x i t
        | none => t
    | none => t) s

/-- A program command waits for its turn. -/
def progQueue (c : Cmd) (s : State) : State := progKick (setPhase c .queued s)

/-- PROG_ERASE. -/
def execProgErase (h : PortId) (n : CtxId) (s : State) : Host.Outcome State Fault Refusal :=
  consumeOp 0x60 h n (inArea progQueue) s

/-- PROG_WRITE reads its source at consumption. -/
def execProgWrite (h : PortId) (n : CtxId) (s : State) : Host.Outcome State Fault Refusal :=
  consumeOp 0x61 h n (inArea (fun c t => readOperand (c.arg 0x18 8) (c.arg 0x14 4) c t)) s

/-- PROG_VERIFY. -/
def execProgVerify (h : PortId) (n : CtxId) (s : State) : Host.Outcome State Fault Refusal :=
  consumeOp 0x62 h n (atOnce progQueue) s

/-- What waited for an operand read of a port goes on: program commands, SPDM turns. -/
def readsGoOn (h : Nat) (s : State) : State := progKick (spdmTurns h s)

/-- OPERAND_READ: the read of the i-th command of a port that waits for one returns, or fails, with the bytes
that came before it failed (R295). -/
def operandRead (h i : Nat) (d : Option (List Byte)) (s : State) : State :=
  match (readers s h)[i]? with
  | none => s
  | some c =>
    match c.phase, d with
    | .reading addr _, none => readsGoOn h (finishNow c 0x0F 0 0 (dmaErr h addr s))
    | .reading addr len, some l =>
      if l.length < len then readsGoOn h (finishNow c 0x0F (readDetail c l.length) 0 (dmaErr h addr s))
      else progKick (operandCame c (l.take len) s)
    | _, _ => s

/-- OPERAND_READ. -/
def execOperandRead (h : PortId) (i : Nat) (d : Option (List Byte)) (s : State) :
    Host.Outcome State Fault Refusal := .next (operandRead h.val i d s)

/-- PORT_BREAK of port h (R258). -/
def execPortBreak (h : PortId) (k : BreakKind) (s : State) : Host.Outcome State Fault Refusal :=
  .next (if breaks (portOf s h.val) k then
      readsGoOn h.val (onPort h.val (breakEffect k) (portBreak h.val s))
    else s)

/-! ### Flash operations end -/

/-- A flash operation of a host command failed (R385), or met a firmware operation (R307, R384). -/
def flashFail (c : Cmd) (why : Nat) (s : State) : State :=
  if why = flashBusy then finishNow c 0x21 0 0 s else finishNow c 0x22 why 0 s

/-- A host command's flash unit of work ended well, or failed with a reason. -/
def flashDone (order : Nat) (why : Nat) (s : State) : State :=
  match cmdOf s order with
  | none => progKick s
  | some c =>
    match c.phase with
    | .flash i =>
      if why ≠ 0 then progKick (flashFail c why s)
      else if c.op = 0x60 then
        if i + 1 < c.arg 0x14 2 then
          if 64 ≤ c.target ∧ bankBusy s (progBank s c.target) then setPhase c (.flash (i + 1)) s
          else eraseNext c (i + 1) s
        else progKick (finishNow c 0 0 0 s)
      else if c.target < 64 ∧ 64 * (i + 1) < c.data.length then
        mgmtSend c.target c.order (blockPacket c (i + 1)) (setPhase c (.flash (i + 1)) s)
      else
        let s1 := if c.target < 64 ∧ 0x3FE00 ≤ c.arg 0x10 4 ∧ (cekOf s c.target).isNone then
            match cekHeader s c.target with
            | some h => cekMake c.target h s
            | none => s
          else s
        progKick (finishNow c 0 0 0 s1)
    | _ => s

/-- The command whose erase runs in a pond. -/
def erasing (s : State) (p : Nat) : Option Nat :=
  (s.shore.cmds.find? (fun c => c.op == 0x60 && c.target == p &&
    (match c.phase with | .flash _ => true | _ => false))).map (·.order)

/-- The end of the flash operation of a pond: firmware's, an erase of a host, or a block write, which
is acknowledged (R384, R385, R398). -/
def pondFlashEnd (p : Nat) (bad : Option Nat) (s : State) : State :=
  let P := pondAt s p
  match P.pfl.op with
  | none => s
  | some o =>
    let P1 := pflEnd bad P
    let why := fld (rg P1 0x608) 16 4
    let s1 := onPondN p (fun _ => P1) s
    if o.owner = 1 then s1
    else if o.erase then
      match erasing s p with
      | some order => flashDone order why s1
      | none => s1
    else onPondN p (emit s.ns ⟨mgmtHead 64 p 0 o.tag 6 0 0 why, [], none, 0⟩) s1

/-- The end of the operation of a system flash bank (R385, Table 14.16); select records that waited for it are
written (R376). -/
def sysFlashEnd (b : Nat) (bad : Option Nat) (s : State) : State :=
  match sysOpOf s b with
  | none => s
  | some o =>
    let cut := (shoreFree s 33).toNat % 2 = 1
    let r := (sflArr s).finish o.op bad cut
    let s1 := useShoreFree (sysOpSet b none s)
    let s2 :=
      if o.op.erase ∧ r.2.isNone then sflErase (o.op.word / 128) s1 else sflPut r.1 s1
    match r.2 with
    | none => match o.order with | some n => flashDone n 0 (selKick s2) | none => progKick (selKick s2)
    | some (why, i) =>
      let s3 := selKick (sset 0x4008 (BitVec.ofNat 32 (32 * i)) s2)
      match o.order with | some n => flashDone n why s3 | none => progKick s3

/-- FLASH_OPERATION_END. -/
def execFlashOperationEnd (u : FlashUnit) (bad : Option Nat) (s : State) : Host.Outcome State Fault Refusal :=
  .next (match u with
    | .pond p => pondFlashEnd p.val bad s
    | .sys b => sysFlashEnd b.val bad s)

/-- BLOCK_ACKNOWLEDGE at the hub (R398): the next block, or the end of the write. -/
def execBlockAcknowledge (s : State) : Host.Outcome State Fault Refusal :=
  .next (match takeMgmt 64 6 s with
    | none => s
    | some (k, s1) =>
      match mgmtDone k.src k.tag s1 with
      | none => s1
      | some (order, s2) =>
        if k.status = 1 then
          match cmdOf s2 order with
          | some c => progKick (finishNow c 0x0E 0 0 s2)
          | none => s2
        else flashDone order k.data.toNat s2)

/-! ### Verifies -/

/-- VERIFY_UNIT_ACQUIRE: the oldest verify at its CHECK step takes a free unit of SCVU0 and SCVU1
(R416). -/
def unitTake (s : State) : State :=
  match s.shore.cmds.find? (fun c => match c.phase with | .unit => true | _ => false),
      [0, 1].find? (fun u => !bit s.shore.scvuHeld u) with
  | some c, some u =>
    setPhase c (.check u) (onShore (fun h => { h with scvuHeld := setBit h.scvuHeld u true }) s)
  | _, _ => s

/-- VERIFY_UNIT_ACQUIRE. -/
def execVerifyUnitAcquire (s : State) : Host.Outcome State Fault Refusal := .next (unitTake s)

/-- Step 4 of R400, for an encrypted image. -/
def cekFail (s : State) (target : Nat) (h : List Byte) : Option Nat :=
  if !imgEncrypted h then none else
  match cekOf s target with
  | none => some 5
  | some k =>
    if k.header != h || k.next != imgLen h then some 5
    else match k.key with
      | none => some 0x12
      | some key =>
        if k.spoiled || keyBlocked s then some 0x12
        else if gcmTag key (slice h 0xE2 12) k.ghash 0x180 (imgLen h) = slice h 0x180 16 then none else some 0x12

/-- Step 7 of R400: the trailer of a sealed setup image, and the state with its TAG written. -/
def sealTrailer (s0 : State) (m : List Byte) : Nat ⊕ State :=
  let base := targetBase s0 65 + 0x40000 - 64
  let s := sflReads [base / 32, base / 32 + 1] s0
  match s.shore.keys.kSetup with
  | none => .inl 6
  | some k =>
    if keyBlocked s then .inl 6 else
    let tag := hmac384 k m
    let a := sflArr s
    if [0, 1].all (fun i => a.cls (base / 32 + i) == 0) then .inr (sflWrite (base / 32) (flashWords 2 (padTo 64 tag)) s)
    else if a.read base 48 = some tag then .inr s else .inl 2

/-- Steps 2 to 7 of R400: the reason of the first failure, or the state with its mark and measurement,
and the version that RESULT gives. -/
def verifyRun (target : Nat) (s : State) : State × (Nat ⊕ Nat) :=
  let a := targetArr s target
  let s1 := targetReads target ((targetWords s target).drop 16) s
  match imgRead a.1 a.2 (targetKind target) with
  | .inl why => (s1, .inl why)
  | .inr (h, b) =>
    match cekFail s1 target h with
    | some why => (s1, .inl why)
    | none =>
      match signFail s1 (targetKind target) h b with
      | some why =>
        (if why = 0x11 then sinc 0x20BC 0 32 1 (sinc 0x20B8 0 32 1 s1) else s1, .inl why)
      | none =>
        let s2 := sinc 0x20B8 0 32 1 s1
        let m := imgMeasure h b
        let ok (t : State) : State × (Nat ⊕ Nat) :=
          (setVerified target true (onKeys (fun k => { k with verified := KMap.set [] k.verified target m }) t),
            .inr (if target < 64 then leAt h 0x0C 4 else 0))
        if target = 65 ∧ imgFlags h / 4 % 2 = 1 then
          match sealTrailer s2 m with
          | .inl why => (if why = 6 then keyDenied s2 else s2, .inl why)
          | .inr s3 => ok s3
        else ok s2

/-- The image of target 65 is SEALED: its verify ends with a look at the trailer, or a write of it. -/
def sealedThere (s : State) : Bool :=
  match (sflArr s).read (targetBase s 65) 512 with | some h => imgFlags h / 4 % 2 == 1 | none => false

/-- VERIFY_DONE of unit u: the verify that holds it ends, and its content key goes (R308, R399,
R400). One that meets a firmware operation completes with FLASH_BUSY (R307, R384); one that would write a
trailer goes on only once no operation runs in the bank (R376). -/
def verifyDone (u : Nat) (s : State) : State :=
  match s.shore.cmds.find? (fun c => match c.phase with | .check v => v == u | _ => false) with
  | none => s
  | some c =>
    let s1 := unitFree c s
    if c.target < 64 ∧ (pondAt s c.target).pfl.op.isSome then progKick (finishNow c 0x21 0 0 (cekDrop c.target s1))
    else if c.target = 65 ∧ bankBusy s (progBank s 65) ∧ sealedThere s then s
    else
    let r := verifyRun c.target s1
    let a := targetArr s1 c.target
    let s2 := cekDrop c.target (scvuImage u a.1 a.2 (targetKind c.target) r.1)
    progKick (match r.2 with
      | .inl why => verifyFail c why s2
      | .inr v => finishNow c 0 0 (BitVec.ofNat 32 v) s2)

/-- VERIFY_DONE. -/
def execVerifyDone (u : Fin 2) (s : State) : Host.Outcome State Fault Refusal := .next (verifyDone u.val s)

end Sys2Proof.Machine
end

