-- ==== Sys2Proof/Machine/Spdm.lean ====
section
/-! DEFINITION. Attestation (chapter 13, section 5; R310): the SPDM 1.2 requests of R358 to R362. The
encodings are the standard's (assumption 20). -/

namespace Sys2Proof.Machine

/-- A message of a port's connection: 0 the version, capability and algorithm messages, 1 the digest
and certificate messages, 2 the measurement messages. -/
def spdmLog (s : State) (h i : Nat) : List Byte := KMap.get [] s.shore.keys.transcript (4 * h + i)

/-- A log of a port replaced. -/
def spdmLogSet (h i : Nat) (l : List Byte) (s : State) : State :=
  onKeys (fun k => { k with transcript := KMap.set [] k.transcript (4 * h + i) l }) s

/-- A port's connection state (R358): 0 reset, 1 version, 2 capabilities, 3 algorithms. -/
def spdmState (s : State) (h : Nat) : Nat := vget s.shore.keys.spdm h 0

/-- A port's connection state set. -/
def spdmStateSet (h v : Nat) (s : State) : State := onKeys (fun k => { k with spdm := vset k.spdm h v }) s

/-- A request and its response added to a log. -/
def spdmAdd (h i : Nat) (q r : List Byte) (s : State) : State := spdmLogSet h i (spdmLog s h i ++ q ++ r) s

/-- The answer of a request: the response and the state after it. -/
abbrev SpdmStep := State → Nat → List Byte → List Byte × State

/-- An answer that changes nothing. -/
def spdmFail (code : Nat) (s : State) : List Byte × State := (spdmError code 0, s)

/-- GET_VERSION: version 1.2 only, and the connection is reset (R358). -/
def spdmVersion : SpdmStep := fun s h q =>
  if leAt q 0 1 ≠ 0x10 then spdmFail 0x41 s else
  let r : List Byte := [0x10, 0x04, 0, 0, 0, 1, 0x00, 0x12]
  (r, spdmStateSet h 1 (spdmLogSet h 0 (q.take 4 ++ r) (spdmLogSet h 1 [] (spdmLogSet h 2 [] s))))

/-- A request after GET_VERSION that needs a connection state: VersionMismatch, or out of turn. -/
def spdmTurn (ok : Bool) (s : State) (q : List Byte) (f : List Byte × State) : List Byte × State :=
  if leAt q 0 1 ≠ 0x12 then spdmFail 0x41 s else if ok then f else spdmFail 0x04 s

/-- GET_CAPABILITIES (R359). -/
def spdmCapabilities : SpdmStep := fun s h q =>
  spdmTurn (spdmState s h == 1) s q <|
    if q.length < 20 ∨ leAt q 12 4 < 42 ∨ leAt q 16 4 < leAt q 12 4 then spdmFail 0x01 s else
    let r : List Byte := [0x12, 0x61, 0, 0, 0, 14, 0, 0] ++ leBytes 0x16 4 ++ leBytes 4096 4 ++ leBytes 4096 4
    (r, spdmStateSet h 2 (spdmAdd h 0 (q.take 20) r s))

/-- NEGOTIATE_ALGORITHMS (R359). -/
def spdmAlgorithms : SpdmStep := fun s h q =>
  spdmTurn (spdmState s h == 2) s q <|
    if q.length < 32 ∨ leAt q 6 1 % 2 = 0 ∨ leAt q 8 4 / 0x80 % 2 = 0 ∨ leAt q 12 4 / 2 % 2 = 0 then spdmFail 0x01 s else
    let r : List Byte := [0x12, 0x63, 0, 0] ++ leBytes 36 2 ++ [1, 0] ++ leBytes 0x04 4 ++ leBytes 0x80 4 ++
      leBytes 0x02 4 ++ List.replicate 16 0
    (r, spdmStateSet h 3 (spdmAdd h 0 (q.take (leAt q 4 2)) r s))

/-- The two certificates of the provisioning area (Table 14.6): Gramond's root, then the device certificate of
K_ID, behind a word with their lengths (assumption 64); free bytes where the area does not read. -/
def provCerts (s : State) : List Byte × List Byte :=
  let none_ : List Byte × List Byte := (freeBytes s 256, freeBytes s 256)
  let a := sflArr s
  match a.read 0x350000 32 with
  | none => none_
  | some w =>
    let n := leAt w 0 4
    let m := leAt w 4 4
    if 65536 < 32 + n + m then none_
    else match a.read 0x350020 (n + m) with
      | none => none_
      | some b => (b.take n, b.drop n)

/-- The certificate chain of slot 0 (R360). -/
def certChain (s : State) : List Byte :=
  let c := provCerts s
  let certs := c.1 ++ c.2 ++ s.shore.keys.cert
  leBytes (certs.length + 52) 2 ++ [0, 0] ++ sha384 c.1 ++ certs

/-- GET_DIGESTS: slot 0 alone (R360). -/
def spdmDigests : SpdmStep := fun s h q =>
  spdmTurn (spdmState s h == 3) s q <|
    let r : List Byte := [0x12, 0x01, 0, 1] ++ sha384 (certChain s)
    (r, spdmLogSet h 2 [] (spdmAdd h 1 (q.take 4) r s))

/-- GET_CERTIFICATE (R360). -/
def spdmCertificate : SpdmStep := fun s h q =>
  spdmTurn (spdmState s h == 3) s q <|
    let chain := certChain s
    let off := leAt q 4 2
    if leAt q 2 1 % 16 ≠ 0 ∨ q.length < 8 ∨ chain.length ≤ off then spdmFail 0x01 s else
    let part := (chain.drop off).take (min (leAt q 6 2) 4088)
    let r : List Byte := [0x12, 0x02, 0, 0] ++ leBytes part.length 2 ++
      leBytes (chain.length - off - part.length) 2 ++ part
    (r, spdmLogSet h 2 [] (spdmAdd h 1 (q.take 8) r s))

/-- A signature by K_ALIAS over a message digest, with the standard's prefix and context. -/
def spdmSign (d : Nat) (context : String) (log : List Byte) : List Byte :=
  let p := asciiBytes "dmtf-spdm-v1.2.*"
  let c := asciiBytes context
  let m := p ++ p ++ p ++ p ++ List.replicate (36 - c.length) 0 ++ c ++ sha384 log
  ecdsaSign d (sha384 m)

/-- A measurement block in the DMTF format (R361). -/
def measEntry (b : Nat) (v : Nat × List Byte) : List Byte :=
  [BitVec.ofNat 8 b, 1] ++ leBytes (v.2.length + 3) 2 ++ [BitVec.ofNat 8 v.1] ++ leBytes v.2.length 2 ++ v.2

/-- The indices of Table 13.5. -/
def measIndices : List Nat := [1, 2, 3, 4, 5] ++ (List.range 64).map (fun n => 0x10 + n) ++ [0x50, 0x51]

/-- The blocks of a list of indices that the table holds. -/
def measRecord (s : State) (l : List Nat) : List (List Byte) :=
  l.filterMap (fun b => (measBlock s b).map (measEntry b))

/-- CHALLENGE: signed by K_ALIAS, or Busy while key use is blocked (R362). A summary of the trusted
base alone is free. -/
def spdmChallenge : SpdmStep := fun s h q =>
  spdmTurn (spdmState s h == 3) s q <|
    if leAt q 2 1 % 16 ≠ 0 ∨ q.length < 36 ∨ (leAt q 3 1 ≠ 0 ∧ leAt q 3 1 ≠ 1 ∧ leAt q 3 1 ≠ 0xFF) then spdmFail 0x01 s
    else if keyBlocked s then spdmFail 0x03 (keyDenied s)
    else match s.shore.keys.kAlias with
      | none => spdmFail 0x03 (keyDenied s)
      | some d =>
        let n := drbgNext 32 s
        let sum :=
          if leAt q 3 1 = 0 then [] else if leAt q 3 1 = 1 then freeBytes s 48
          else sha384 (measRecord s measIndices).flatten
        let r : List Byte := [0x12, 0x03, 0, 1] ++ sha384 (certChain s) ++ n.1 ++ sum ++ [0, 0]
        let log := spdmLog s h 0 ++ spdmLog s h 1 ++ q.take 36 ++ r
        let s1 := inc64 0x20B0 (useShoreFree n.2)
        (r ++ spdmSign d "responder-challenge_auth signing" log, spdmLogSet h 1 [] (spdmLogSet h 2 [] s1))

/-- GET_MEASUREMENTS (R361, R362): the number of blocks, one block or all of them, signed where the
request asks for it. -/
def spdmMeasurements : SpdmStep := fun s h q =>
  let signed := leAt q 2 1 % 2 == 1
  let op := leAt q 3 1
  let l := if op = 0 then [] else if op = 0xFF then measIndices else [op]
  let recs := measRecord s l
  let len := if signed then 37 else 4
  spdmTurn (spdmState s h == 3) s q <|
    if q.length < len ∨ (signed ∧ leAt q 36 1 % 16 ≠ 0) ∨ (op ≠ 0 ∧ op ≠ 0xFF ∧ recs.isEmpty) then spdmFail 0x01 s
    else if signed ∧ (keyBlocked s ∨ s.shore.keys.kAlias.isNone) then spdmFail 0x03 (keyDenied s)
    else
      let n := drbgNext 32 s
      let r : List Byte := [0x12, 0x60, BitVec.ofNat 8 (if op = 0 then 71 else 0), 0, BitVec.ofNat 8 recs.length] ++
        leBytes recs.flatten.length 3 ++ recs.flatten ++ n.1 ++ [0, 0]
      match signed, s.shore.keys.kAlias with
      | true, some d =>
        let log := spdmLog s h 0 ++ spdmLog s h 2 ++ q.take len ++ r
        (r ++ spdmSign d "responder-measurements signing" log, spdmLogSet h 2 [] (inc64 0x20B0 n.2))
      | _, _ => (r, spdmAdd h 2 (q.take len) r n.2)

/-- A request row: the oldest request of a port is handled where it carries the row's code (R310). -/
def spdmRun (code : Nat) (f : SpdmStep) (h : Nat) (s : State) : State :=
  match spdmHead s h with
  | none => s
  | some c =>
    match c.phase with
    | .spdm =>
      if leAt c.data 1 1 ≠ code then s
      else if !keysHeld s then spdmTurns h (finishNow c 0x26 0 0 s)
      else
        let r := f s h c.data
        spdmTurns h (spdmAnswer c r.1 s r.2)
    | _ => s

/-- GET_VERSION of port h. -/
def execGetVersion (h : PortId) (s : State) : Host.Outcome State Fault Refusal :=
  .next (spdmRun 0x84 spdmVersion h.val s)

/-- GET_CAPABILITIES of port h. -/
def execGetCapabilities (h : PortId) (s : State) : Host.Outcome State Fault Refusal :=
  .next (spdmRun 0xE1 spdmCapabilities h.val s)

/-- NEGOTIATE_ALGORITHMS of port h. -/
def execNegotiateAlgorithms (h : PortId) (s : State) : Host.Outcome State Fault Refusal :=
  .next (spdmRun 0xE3 spdmAlgorithms h.val s)

/-- GET_DIGESTS of port h. -/
def execGetDigests (h : PortId) (s : State) : Host.Outcome State Fault Refusal :=
  .next (spdmRun 0x81 spdmDigests h.val s)

/-- GET_CERTIFICATE of port h. -/
def execGetCertificate (h : PortId) (s : State) : Host.Outcome State Fault Refusal :=
  .next (spdmRun 0x82 spdmCertificate h.val s)

/-- CHALLENGE of port h. -/
def execChallenge (h : PortId) (s : State) : Host.Outcome State Fault Refusal :=
  .next (spdmRun 0x83 spdmChallenge h.val s)

/-- GET_MEASUREMENTS of port h. -/
def execGetMeasurements (h : PortId) (s : State) : Host.Outcome State Fault Refusal :=
  .next (spdmRun 0xE0 spdmMeasurements h.val s)

end Sys2Proof.Machine
end

