-- ==== Sys2Proof/Machine/Debug.lean ====
section
/-! DEFINITION. The debug port (chapter 13, section 7): challenges, responses and strikes (R371 to
R373), the unlock and what an unlocked debugger does (R374), and Gramond provisioning (R87, R344,
R360, R393). -/

namespace Sys2Proof.Machine

/-- The challenge record (Table 13.8). -/
def chalRecord (s : State) (nonce : List Byte) : List Byte :=
  padTo 32 nonce ++ serialBytes s ++ [BitVec.ofNat 8 s.shore.boot.lc, BitVec.ofNat 8 s.shore.keys.strikes] ++
  List.replicate 14 0

/-- DEBUG_CHALLENGE (R371 to R373): no challenge while DBG_EN is 0 or source 6 is active; the DRBG's
use is refused while key use is blocked or it is not seeded (R351). In Husk, where no key exists and
R373 still accepts a signer, the nonce is free (assumption 25). -/
def debugChallenge (s : State) : State :=
  let k := s.shore.keys
  let issue (n : List Byte) (t : State) : State := onKeys (fun k => { k with chal := some (chalRecord t n, t.ns) }) t
  if !k.dbgEn || bit s.shore.alarms.active 6 then s
  else if keyBlocked s then keyDenied s
  else if k.drbg.isSome then let r := drbgNext 32 s; issue r.1 r.2
  else if s.shore.boot.lc = 3 then issue (freeBytes s 32) (useShoreFree s)
  else keyDenied s

/-- DEBUG_CHALLENGE. -/
def execDebugChallenge (s : State) : Host.Outcome State Fault Refusal := .next (debugChallenge s)

/-- A strike (R373): the third raises source 6. -/
def debugStrike (s : State) : State :=
  let n := s.shore.keys.strikes + 1
  let s1 := onKeys (fun k => { k with strikes := n, chal := none }) s
  if n = 3 then alarmRaise 6 s1 else s1

/-- The signer of a response is accepted (R373). -/
def debugSigner (s : State) (key : List Byte) : Bool :=
  let is (owner : Bool) : Bool :=
    let x := otpHash s owner
    !x.all (· == 0) && sha384 key == x
  match s.shore.boot.lc with
  | 0 => is false
  | 1 => is false || is true
  | 2 => is true
  | _ => is false

/-- DEBUG_RESPONSE (R372, R373): the unlock waits for the next boundary (R374), or a strike. -/
def debugResponse (r : List Byte) (s : State) : State :=
  match s.shore.keys.chal with
  | none => s
  | some (c, t) =>
    let key := slice r 0x10 97
    let signed := asciiBytes "K64/DEBUG" ++ c ++ slice r 0 16
    if t + 10000000000 < s.ns ∨ !debugSigner s key then debugStrike s
    else
      let s1 := sinc 0x20B8 0 32 1 s
      if ecdsaVerify key (sha384 signed) (slice r 0x71 96) then
        onKeys (fun k => { k with
          strikes := 0, chal := none,
          unlockDue := some (BitVec.ofNat 65 (leAt r 0 8 + 2 ^ 64 * (leAt r 8 1 % 2))) }) s1
      else debugStrike (sinc 0x20BC 0 32 1 s1)

/-- DEBUG_RESPONSE. -/
def execDebugResponse (r : List Byte) (s : State) : Host.Outcome State Fault Refusal := .next (debugResponse r s)

/-- DEBUG_TIMEOUT: no response within 10 s (R373). -/
def execDebugTimeout (s : State) : Host.Outcome State Fault Refusal :=
  .next (match s.shore.keys.chal with
    | none => s
    | some (_, t) => if t + 10000000000 ≤ s.ns then debugStrike s else s)

/-- DEBUG_RELOCK: the unlock ends; cores that the debugger held go on (R374; assumption 25). -/
def execDebugRelock (s : State) : Host.Outcome State Fault Refusal :=
  .next (onKeys (fun k => { k with unlocked := 0, unlockDue := none, shoreHalted := false })
    { s with ponds := s.ponds.map (fun P => { P with core := { P.core with halted := false, stepping := false } }) })

/-- The debugger reaches pond p: its scope is unlocked and it is in service. -/
def dbgPond (s : State) (p : Nat) : Bool := bit s.shore.keys.unlocked p && inService s p

/-- A core held or released. -/
def dbgHold (b : Bool) (P : Pond) : Pond := { P with core := { P.core with halted := b, stepping := false } }

/-- A word that the debugger reads through an unlocked core (R374): a register with what a load does to it
(R12), a word of memory as a peek reads it, or a word of ROM; none where nothing lies there. -/
def dbgLoad (c : PCtx) (a : Nat) (P : Pond) : Option Word × Pond :=
  if 0x30000000 ≤ a ∧ a < 0x30008000 then
    (some (BitVec.ofNat 32 (ofLe ((List.range 4).map (fun i => romByteAt (a - 0x30000000 + i))))), P)
  else if !peekable a then (none, P)
  else if 0x40000000 ≤ a then
    if (pondAcc (a - 0x40000000)).isNone then (none, P)
    else
      let r := loadReg c (a - 0x40000000) P
      (some r.1, r.2)
  else
    let r := peekPond c a P
    (if r.1 = 0 then some r.2.1 else none, r.2.2)

/-- A word that the debugger writes through an unlocked core: a register as a store writes it, or a word of
SRAM. -/
def dbgStore (c : PCtx) (a : Nat) (v : Word) (P : Pond) : Pond :=
  if !pokeable a then P
  else if 0x40000000 ≤ a then
    let off := a - 0x40000000
    if (pondAcc off).isNone || off == 0x600 || off == 0x604 then P else storeReg c off v P
  else (pokePond c a v P).2

/-- A register of Shore space that the debugger reaches: the Shore core is unlocked, and no key unit lies there
(R374). -/
def dbgShore (s : State) (a : Nat) : Bool :=
  bit s.shore.keys.unlocked 64 && a % 4 == 0 && !(decide (0x2000 ≤ a) && decide (a < 0x2100))

/-- DEBUGGER_ACCESS (R374): halt, step, resume and memory access of unlocked pond cores, halt and
resume of the Shore core and access to its registers (assumption 25); a word read goes to `rdata`. -/
def debuggerAccess (a : DbgAccess) (s : State) : State :=
  match a with
  | .halt (some p) => if dbgPond s p.val then onPondN p.val (dbgHold true) s else s
  | .halt none => if bit s.shore.keys.unlocked 64 then onKeys (fun k => { k with shoreHalted := true }) s else s
  | .resume (some p) => if dbgPond s p.val then onPondN p.val (dbgHold false) s else s
  | .resume none => if bit s.shore.keys.unlocked 64 then onKeys (fun k => { k with shoreHalted := false }) s else s
  | .step p =>
    if dbgPond s p.val then
      onPondN p.val (fun P => { P with core := { P.core with stepping := P.core.halted } }) s
    else s
  | .read p x =>
    if dbgPond s p.val && x.toNat % 4 == 0 then
      let r := dbgLoad (pctxN s p.val) x.toNat (pondAt s p.val)
      let s1 := onPondN p.val (fun _ => r.2) s
      match r.1 with | some w => { s1 with rdata := w } | none => s1
    else s
  | .write p x v =>
    if dbgPond s p.val && x.toNat % 4 == 0 then onPondN p.val (dbgStore (pctxN s p.val) x.toNat v) s else s
  | .readShore a =>
    if !dbgShore s a.toNat then s else
    match shoreRead a.toNat s with
    | (some w, s1) => { s1 with rdata := w }
    | (none, s1) => s1
  | .writeShore a v => if dbgShore s a.toNat then shoreStore a.toNat v s else s

/-- DEBUGGER_ACCESS. -/
def execDebuggerAccess (a : DbgAccess) (s : State) : Host.Outcome State Fault Refusal := .next (debuggerAccess a s)

/-! ### Provisioning -/

/-- Bytes of the OTP row as it stands, latched or not. -/
def otpRaw (s : State) (off len : Nat) : List Byte :=
  (List.range len).map (fun j =>
    BitVec.ofNat 8 ((s.shore.otp.words.get ((off + j) / 4)).toNat >>> (8 * ((off + j) % 4))))

/-- The helper field of the row as it stands is not blank: enrollment is refused (R344). -/
def enrolled (s : State) : Bool :=
  (List.range 764).any (fun i => s.shore.otp.words.get (0x84 + i) != 0 || s.shore.otp.bad.get (0x84 + i) != 0)

/-- Enrollment (R344): helper data and check value of the array's contents are programmed, K_ID is derived from
their W, and its public key is exported. -/
def enroll (puf : List Byte) (s : State) : State :=
  let w := pufW puf
  let s1 := otpFill 0x210 (padTo 3056 (Config.pufHelper puf))
    (otpFill 0x200 ((hmac384 w (asciiBytes "K64/CHECK")).take 16) s)
  onKeys (fun k => { k with idPub := ecBytes (ecPublic (privateKey (kdf w "K64/ID" (otpRaw s 0 16) 448))) })
    (onOtp (fun o => { o with enrolled := puf }) s1)

/-- The two certificates written to the provisioning area (R360, Table 14.6; assumption 64). -/
def certStore (root cert : List Byte) (s : State) : State :=
  let b := leBytes root.length 4 ++ leBytes cert.length 4 ++ List.replicate 24 0 ++ root ++ cert
  sflWrite (0x350000 / 32) (flashWords 2048 b) s

/-- GRAMOND_PROVISIONING in Larva (R87, R344, Table 14.11): `ident` is the 64 identity bytes and the 48
bytes of GRAMOND_PK_HASH, `puf` the contents of the array, `root` and `cert` the certificates. A part with
helper data refuses. -/
def provision (ident puf root cert : List Byte) (s : State) : State :=
  if s.shore.boot.lc ≠ 0 ∨ s.shore.boot.por ∨ s.shore.boot.phase < 3 ∨ enrolled s then s
  else
    let id := padTo 112 ident
    let s1 := otpFill 0x50 (id.drop 64) (otpFill 0 (id.take 64) s)
    let s2 := certStore root cert (enroll (padTo 4096 puf) s1)
    onOtp (fun o => { o with words := o.words.set 16 0xFFFFFFFF }) s2

/-- GRAMOND_PROVISIONING. -/
def execGramondProvisioning (ident puf : List Byte) (chain : List Byte × List Byte) (s : State) :
    Host.Outcome State Fault Refusal :=
  .next (provision ident puf chain.1 chain.2 s)

end Sys2Proof.Machine
end

