-- ==== Sys2Proof/Machine/Memory.lean ====
section
/-! DEFINITION. Loads and stores of the pond core (R106 to R108, Table 4.15): flash, SRAM through
the store buffer, ROM, peripherals, and the message-port window (R246, R247). -/

namespace Sys2Proof.Machine

/-- A long-running count of cycles added by a full store buffer. -/
def sbStall (P : Pond) : Pond := if 4 ≤ P.core.sb.length then charge 1 0 P else P

/-- The bytes of an applied exchange message (Table 8.2). -/
def exchBytes (e : Exch) : List Byte :=
  leBytes e.cword.toNat 8 ++ leBytes e.cfgVer.toNat 4 ++ leBytes e.imageVer.toNat 4 ++
  leBytes e.share.toNat 4 ++ leBytes e.info.toNat 4 ++ List.replicate 8 0

/-- A byte of the message-port window that a load reads (Table 9.5, Table 9.6). -/
def portByte (P : Pond) (off : Nat) : Byte :=
  if 0x100 ≤ off ∧ off < 0x200 then
    BitVec.ofNat 8 ((P.rx.get ((off - 0x100) / 8)).toNat >>> (8 * (off % 8)))
  else if 0x200 ≤ off ∧ off < 0x400 then
    let n := (off - 0x200) / 16
    let j := off % 16
    if j < 8 then BitVec.ofNat 8 ((P.sendRec.get (2 * n + j / 4)).toNat >>> (8 * (j % 4))) else 0
  else if 0x400 ≤ off ∧ off < 0x600 then
    let n := (off - 0x400) / 16
    let j := off % 16
    if j < 4 then BitVec.ofNat 8 ((P.recvRec.get n).toNat >>> (8 * j))
    else if 8 ≤ j then BitVec.ofNat 8 ((P.recvDef.get n).toNat >>> (8 * (j - 8)))
    else 0
  else if 0x600 ≤ off ∧ off < 0x800 then
    match P.grp.applied.find? (fun e => e.idx == (off - 0x600) / 32) with
    | some e => (exchBytes e).getD (off % 32) 0
    | none => 0
  else 0

/-- The accesses that the window permits for a load of `len` bytes at an offset (Table 9.5). -/
def portLoads (off len : Nat) : Bool :=
  (len == 4 || len == 8) &&
  (decide (0x100 ≤ off ∧ off < 0x200) || decide (0x600 ≤ off ∧ off < 0x800) ||
    (len == 4 && decide (0x200 ≤ off ∧ off < 0x600)))

/-- A load of `len` bytes at an aligned address: the fault it raises or its value, and the cycles. -/
def loadAt (c : PCtx) (a len : Nat) (P : Pond) : (Nat ⊕ Nat) × Nat × Pond :=
  let r := regionOf a
  if r == .flashInactive && P.pfl.op.isSome then (.inl 3, 1, P)
  else if plainMem r then
    match loadPlain P a len with
    | (some v, P1) => (.inr v, if r == .flashActive || r == .flashInactive then 12 else 1, P1)
    | (none, P1) => (.inl 4, 1, P1)
  else
    match r with
    | .periph =>
      if len = 4 ∧ (pondAcc (a - 0x40000000)).isSome then
        let x := loadReg c (a - 0x40000000) P
        (.inr x.1.toNat, 4, x.2)
      else (.inl 3, 1, P)
    | .ports =>
      if portLoads (a - 0x50000000) len then
        (.inr (ofLe ((List.range len).map (fun i => portByte P (a - 0x50000000 + i)))), 3, P)
      else (.inl 3, 1, P)
    | _ => (.inl 3, 1, P)

/-- A load instruction of `len` bytes (R106): `wr` writes the destination registers of mask `m`. -/
def loadOp (len : Nat) (ok : FmtI → Bool) (m : FmtI → BitVec 16) (wr : FmtI → Nat → Pond → Pond)
    (f : FmtI) (c : PCtx) (P : Pond) : Pond :=
  legal (ok f) (fun P =>
    let a := memAddr f P
    if a.toNat % len ≠ 0 then raise 2 1 a P
    else
      match loadAt c a.toNat len P with
      | (.inl k, _, P1) => raise k 1 a (stallFor (rmask f.a) false false P1)
      | (.inr v, cy, P1) =>
        finishAt (P1.core.pc + 4) cy (if cy = 1 then m f else 0) false false
          (wr f v (stallFor (rmask f.a) false false P1))) P

/-- A load into gd. -/
def loadOne (len : Nat) (ext : Nat → Word) (f : FmtI) (c : PCtx) (P : Pond) : Pond :=
  loadOp len (fun _ => true) (fun f => rmask f.d) (fun f v P => gset f.d (ext v) P) f c P

/-- PCORE_CA_BUDGET takes a measurement at the first store to a PG register (Table 4.7). -/
def caStore (off : Nat) (P : Pond) : Pond :=
  match P.core.ca with
  | none => P
  | some m =>
    if 0x380 ≤ off ∧ off < 0x3E0 then
      let P1 := rmod 0x01C (fun w => peakFld (peakFld w 16 16 m.cycles) 0 8 (m.instrs + 1)) P
      { P1 with core := { P1.core with ca := none } }
    else P

/-- A store to a peripheral register by the core. -/
def storePeriph (c : PCtx) (a : Word) (v : Word) (P : Pond) : Pond :=
  let off := a.toNat - 0x40000000
  if (pondAcc off).isNone || off == 0x600 || off == 0x604 then raise 3 2 a P
  else
    finishAt (P.core.pc + 4) 1 0 false true (storeReg c off v (caStore off P))

/-- A message post by SW at +0 or SD of SEND_n (R247, R124). -/
def storePort (c : PCtx) (a : Word) (dbl : Bool) (v : BitVec 64) (P : Pond) : Pond :=
  let off := a.toNat - 0x50000000
  if 0x100 ≤ off ∨ off % 8 ≠ 0 then raise 3 2 a P
  else if !bit (P.sendRec.get (2 * (off / 8))) 31 then raise 3 2 a P
  else
    let x : Post := ⟨0, off / 8, dbl, v, epochOf P, P.life.inc, c.cyc⟩
    if 8 ≤ P.core.pb.length then { P with core := { P.core with stalled := some x, waitCyc := c.cyc } }
    else retire 1 { P with core := { P.core with pb := P.core.pb ++ [x] } }

/-- A byte or halfword merged into its word (R107's note, R108). -/
def storeMerge (a : Word) (len v : Nat) (P : Pond) : Pond :=
  let wa := a.toNat / 4 * 4
  match loadPlain P wa 4 with
  | (none, P1) => raise 4 2 a P1
  | (some w, P1) =>
    let word : Word := setFld (BitVec.ofNat 32 w) (8 * (a.toNat % 4)) (8 * len) v
    retire 1 (pushSb ⟨wa, false, word.setWidth 64⟩ (sbStall P1))

/-- A store instruction of `len` bytes (R106). -/
def storeOp (len : Nat) (ok : FmtI → Bool) (uses : FmtI → BitVec 16) (val : FmtI → Pond → BitVec 64)
    (f : FmtI) (c : PCtx) (P : Pond) : Pond :=
  legal (ok f) (fun P =>
    let a := memAddr f P
    let v := val f P
    if a.toNat % len ≠ 0 then raise 2 2 a P
    else
      match regionOf a.toNat with
      | .sram =>
        let P1 := stallFor (rmask f.a ||| uses f) false false P
        if len < 4 then storeMerge a len v.toNat P1
        else retire 1 (pushSb ⟨a.toNat, len == 8, v⟩ (sbStall P1))
      | .periph =>
        if len = 4 then
          storePeriph c a (v.setWidth 32) (stallFor (rmask f.a ||| uses f) false true P)
        else raise 3 2 a P
      | .ports =>
        if 4 ≤ len then storePort c a (len == 8) v (stallFor (rmask f.a ||| uses f) false false P)
        else raise 3 2 a P
      | _ => raise 3 2 a P) P

/-- The low part of gd as the data of a store. -/
def storeOne (len : Nat) (f : FmtI) (c : PCtx) (P : Pond) : Pond :=
  storeOp len (fun _ => true) (fun f => rmask f.d) (fun f P => (gr P f.d).setWidth 64) f c P

/-- The pair gd (low), gd+1 (high). -/
def pairOf (f : FmtI) (P : Pond) : BitVec 64 := gr P (f.d + 1) ++ gr P f.d

/-- LB (R106). -/
def execLb (p : PondId) (f : FmtI) (s : State) : Host.Outcome State Fault Refusal :=
  issue p (loadOne 1 (fun v => (BitVec.ofNat 8 v).signExtend 32) f) s

/-- LBU (R106). -/
def execLbu (p : PondId) (f : FmtI) (s : State) : Host.Outcome State Fault Refusal :=
  issue p (loadOne 1 (fun v => BitVec.ofNat 32 v) f) s

/-- LH (R106). -/
def execLh (p : PondId) (f : FmtI) (s : State) : Host.Outcome State Fault Refusal :=
  issue p (loadOne 2 (fun v => (BitVec.ofNat 16 v).signExtend 32) f) s

/-- LHU (R106). -/
def execLhu (p : PondId) (f : FmtI) (s : State) : Host.Outcome State Fault Refusal :=
  issue p (loadOne 2 (fun v => BitVec.ofNat 32 v) f) s

/-- LW (R106). -/
def execLw (p : PondId) (f : FmtI) (s : State) : Host.Outcome State Fault Refusal :=
  issue p (loadOne 4 (fun v => BitVec.ofNat 32 v) f) s

/-- LD: the pair gd, gd+1; d must be even (R106). -/
def execLd (p : PondId) (f : FmtI) (s : State) : Host.Outcome State Fault Refusal :=
  issue p (loadOp 8 (fun f => evenReg f.d) (fun f => rmask f.d ||| rmask (f.d + 1))
    (fun f v P => gset (f.d + 1) (BitVec.ofNat 32 (v / 2 ^ 32)) (gset f.d (BitVec.ofNat 32 v) P)) f) s

/-- SB (R106). -/
def execSb (p : PondId) (f : FmtI) (s : State) : Host.Outcome State Fault Refusal :=
  issue p (storeOne 1 f) s

/-- SH (R106). -/
def execSh (p : PondId) (f : FmtI) (s : State) : Host.Outcome State Fault Refusal :=
  issue p (storeOne 2 f) s

/-- SW, a post where it names a send port (R106, R247). -/
def execSw (p : PondId) (f : FmtI) (s : State) : Host.Outcome State Fault Refusal :=
  issue p (storeOne 4 f) s

/-- SD, a 64-bit post where it names a send port; d must be even (R106, R247). -/
def execSd (p : PondId) (f : FmtI) (s : State) : Host.Outcome State Fault Refusal :=
  issue p (storeOp 8 (fun f => evenReg f.d) (fun f => rmask f.d ||| rmask (f.d + 1)) pairOf f) s

end Sys2Proof.Machine
end

