-- ==== Sys2Proof/Machine/Gates.lean ====
section
/-! DEFINITION. ROM gates (R144 to R148): argument checks, the gate frame, and the five services
of Table 5.8. A gate command enters the body and performs its service; RETE ends the body. -/

namespace Sys2Proof.Machine

/-- A range lies in a gate window (R145). -/
def gateWindow (output : Bool) (a len : Nat) : Bool :=
  let inside (lo hi : Nat) : Bool := decide (lo ≤ a) && decide (a + len ≤ hi)
  len == 0 || inside 0x20000000 0x2001FF00 ||
    (!output && (inside 0 0x40000 || inside 0x08000000 0x08040000 || inside 0x30000000 0x30008000))

/-- The reason an argument fails its check byte, if it does (Table 5.7, R147): 2 value out of
range, 3 misaligned, 4 pointer outside its window. -/
def gateArg (P : Pond) (byte lima limb i : Nat) : Option Nat :=
  let v := (vget P.core.g i 0).toNat
  let w := (vget P.core.g (i + 1) 0).toNat
  let l := if byte / 16 % 2 = 1 then limb else lima
  let al := match byte % 4 with | 0 => 1 | 1 => 2 | 2 => 4 | _ => 32
  let ptr (output : Bool) (len : Nat) : Option Nat :=
    if len = 0 then none else if !gateWindow output v len then some 4
    else if v % al ≠ 0 then some 3 else none
  match byte / 32 with
  | 1 => if l < v then some 2 else if v % al ≠ 0 then some 3 else none
  | 2 => ptr true l
  | 3 => ptr false l
  | 4 => if l < w then some 2 else ptr true w
  | 5 => if l < w then some 2 else ptr false w
  | _ => none

/-- The first argument that fails, with its reason (R146 step 2). -/
def gateCheck (P : Pond) (n : Nat) : Option (Nat × Nat) :=
  let s := gateSpec n
  (List.range 4).findSome? (fun i =>
    (gateArg P (s.1 / 2 ^ (8 * i) % 256) s.2.1 s.2.2 i).map (fun r => (i, r)))

/-- GATE raised in the caller's context (R147). -/
def gateFail (n idx reason : Nat) (P : Pond) : Pond :=
  raise 6 6 (BitVec.ofNat 32 (4096 * reason + 256 * idx + n)) P

/-- The results of a gate: g0 and g1, with g2, g3 and g12 not preserved. -/
def gateResult (g0 g1 : Word) (P : Pond) : Pond :=
  let w (i : Nat) : Word := Config.freeWord (64 * P.fresh + i)
  useFree (gset 12 (w 4) (gset 3 (w 3) (gset 2 (w 2) (gset 1 g1 (gset 0 g0 P)))))

/-- A result register the spec states no value for. -/
def gateFree (P : Pond) (i : Nat) : Word := Config.freeWord (64 * P.fresh + 8 + i)

/-- Words stored by a gate body from an address upward. -/
def gateStore : Nat → List Word → Pond → Pond
  | _, [], P => P
  | a, w :: r, P => gateStore (a + 4) r (pushSb ⟨a, false, w.setWidth 64⟩ P)

/-- The frame pushed and the body entered (R146). -/
def gateEnter (n : Nat) (P : Pond) : Pond :=
  let P1 := pushFrame 0x2001FF30 (P.core.pc + 4) (gr P 15) (gr P 14) (savedStatus P) P
  let P2 := gset 15 0x2001FF30 (charge 10 1 P1)
  { P2 with core := { P2.core with gate := some n, pc := gateEntry n } }

/-- A gate call (R146, R147): nested, not implemented, a failed check, or the body with its
service. -/
def gateCall (n : Nat) (f : FmtG) (service : Pond → Pond) (P : Pond) : Pond :=
  legal (f.d == 0 && f.a == 0 && f.hi == 0) (fun P =>
    if P.core.gate.isSome then gateFail n 0 5 P
    else
      match gateCheck P n with
      | some (i, r) => gateFail n i r P
      | none => service (gateEnter n P)) P

/-- A GATE instruction issues where the core can issue one, or inside a gate body. -/
def gateIssue (n : Nat) (f : FmtG) (service : PCtx → Pond → Pond) (p : PondId) (s : State) :
    Host.Outcome State Fault Refusal :=
  .next (onPond p (fun P =>
    if P.core.gate.isSome then
      if P.core.run == .running && !heldBack P then gateCall n f (service (pctx s p)) (stepUsed P) else P
    else if canIssue P then issueP (gateCall n f (service (pctx s p))) P
    else P) s)

/-- Gate 1: a 32-byte program of the inactive bank starts, unless an operation is in progress
(R384). The source is read first; an ECC error there abandons the body (R148). -/
def serveProgram (P : Pond) : Pond :=
  if P.pfl.op.isSome then gateResult 1 (gateFree P 1) P
  else
    let src := (gr P 1).toNat
    let rd := (List.range 8).foldl (fun (x : Option Nat × List Byte × Pond) i =>
      match x.1 with
      | some _ => x
      | none =>
        match loadPlain x.2.2 (src + 4 * i) 4 with
        | (some v, Q) => (none, x.2.1 ++ leBytes v 4, Q)
        | (none, Q) => (some (src + 4 * i), x.2.1, Q)) (none, [], P)
    match rd.1 with
    | some e => raise 4 1 (BitVec.ofNat 32 e) rd.2.2
    | none =>
      let o : FlashOp := 
        ⟨1, false, inactiveBase P + (gr P 0).toNat / 32, flashWords 1 rd.2.1, 0⟩
      gateResult 0 (gateFree P 1) (pflStart o rd.2.2)

/-- Gate 2: an erase of a sector of the inactive bank starts (R384). -/
def serveErase (P : Pond) : Pond :=
  if P.pfl.op.isSome then gateResult 1 (gateFree P 1) P
  else
    let o : FlashOp := ⟨1, true, inactiveBase P + 128 * (gr P 0).toNat, [], 0⟩
    gateResult 0 (gateFree P 1) (pflStart o P)

/-- ROM_INFO: gate 0 (Table 5.8). -/
def execRomInfo (p : PondId) (f : FmtG) (s : State) : Host.Outcome State Fault Refusal :=
  gateIssue 0 f (fun _ => gateResult Config.romVersion Config.stepping) p s

/-- PFL_PROGRAM: gate 1 (R384). -/
def execPflProgram (p : PondId) (f : FmtG) (s : State) : Host.Outcome State Fault Refusal :=
  gateIssue 1 f (fun _ => serveProgram) p s

/-- PFL_ERASE: gate 2 (R384). -/
def execPflErase (p : PondId) (f : FmtG) (s : State) : Host.Outcome State Fault Refusal :=
  gateIssue 2 f (fun _ => serveErase) p s

/-- CAL_READ: gate 3 writes a converter's 12 factors (R170). -/
def execCalRead (p : PondId) (f : FmtG) (s : State) : Host.Outcome State Fault Refusal :=
  gateIssue 3 f (fun _ P =>
    gateResult (gateFree P 0) (gateFree P 1)
      (gateStore (gr P 1).toNat (convOf P (gr P 0).toNat).factors P)) p s

/-- ID_READ: gate 4 writes the pond's identity record (Table 5.8). -/
def execIdRead (p : PondId) (f : FmtG) (s : State) : Host.Outcome State Fault Refusal :=
  gateIssue 4 f (fun c P =>
    let word (i : Nat) : Word :=
      BitVec.ofNat 32 (ofLe ((List.range 4).map (fun j => Config.identityByte c.p (4 * i + j))))
    gateResult (gateFree P 0) (gateFree P 1)
      (gateStore (gr P 0).toNat ((List.range 8).map word) P)) p s

/-- GATE_NOT_IMPLEMENTED: a gate whose entry has ENTRY 0 (R147); gates 0 to 4 are implemented, so
for them the event cannot occur (assumption 12). -/
def execGateNotImplemented (p : PondId) (n : BitVec 8) (f : FmtG) (s : State) :
    Host.Outcome State Fault Refusal :=
  .next (onPond p (fun P =>
    let go := legal (f.d == 0 && f.a == 0 && f.hi == 0) (fun P =>
      gateFail n.toNat 0 (if P.core.gate.isSome then 5 else 1) P)
    if n.toNat < 5 then P
    else if P.core.gate.isSome then
      if P.core.run == .running && !heldBack P then go (stepUsed P) else P
    else if canIssue P then issueP go P else P) s)

end Sys2Proof.Machine
end

