-- ==== Sys2Proof/Machine/LastGasp.lean ====
section
/-! DEFINITION. The supply warning and the last-gasp record (R337, R391, R449). -/

namespace Sys2Proof.Machine

/-- The host commands whose system flash operation is abandoned complete with FLASH_FAIL; the reason is
free (assumption 26). -/
def abandonCmds (s : State) : State :=
  let orders := [0, 1].filterMap (fun b => (sysOpOf s b).bind (·.order))
  orders.foldl (fun t n =>
    match cmdOf t n with
    | some c => finishNow c 0x22 ((shoreFree t 34).toNat % 256) 0 (useShoreFree t)
    | none => t) (archCut (sysAbandon s))

/-- What the record holds: the queued intervals and the interval in progress, merged (R337). -/
def gaspBody (s : State) : IvSnap :=
  let x := ivSnap (shoreEpoch s) 0 s
  match s.shore.ledger.queue with
  | [] => x
  | q :: r => (r.foldl (fun a b => a.merge b) q).merge x

/-- SUPPLY_WARN_N_FALL (R337, R391, R449): the glitch mask; the record begins, and every other operation of
system flash is abandoned, or the fall is ignored. -/
def warnFall (s : State) : State :=
  if !s.shore.ledger.warn then s else
  let s1 := onLedger (fun l => { l with warn := false, mask := true, warnRise := none }) s
  if s.shore.boot.por then s1
  else if !s.shore.ledger.lgReady then sinc 0x3060 0 32 1 s1
  else if bit (sreg s 0x3000) 1 then
    let g : LastGasp := ⟨s.shore.ledger.nextSeq, gaspBody s⟩
    progKick (selKick (gaspWrite g (onLedger (fun l => { l with lgDraft := some g, lgReady := false }) (abandonCmds s1))))
  else s1

/-- SUPPLY_WARN_N_FALL. -/
def execSupplyWarnNFall (s : State) : Host.Outcome State Fault Refusal := .next (warnFall s)

/-- SUPPLY_WARN_N_RISE: the 1 ms of R337 and R449 begins. -/
def execSupplyWarnNRise (s : State) : Host.Outcome State Fault Refusal :=
  .next (if s.shore.ledger.warn then s
    else onLedger (fun l => { l with warn := true, warnRise := some s.ns }) s)

/-- LAST_GASP_COMMIT: the COMMIT marker is committed, with the CRC that SCVU2 gives, and the unit is free
again (Table 14.9, R416). -/
def gaspCommit (s : State) : State :=
  match s.shore.ledger.lgDraft with
  | some g =>
    recordsGoOn (progKick (sinc 0x305C 0 32 1 (onLedger (fun l => { l with lgDraft := none })
      (gaspMark g (scvuHard 2 (gaspHead s g ++ gaspRecs g) s)))))
  | none => s

/-- LAST_GASP_COMMIT. -/
def execLastGaspCommit (s : State) : Host.Outcome State Fault Refusal := .next (gaspCommit s)

/-- LAST_GASP_REARM: SUPPLY_WARN_N has been high for 1 ms; the glitch mask ends, and a block that is
not erased is erased (R337, R449). -/
def gaspRearm (s : State) : State :=
  match s.shore.ledger.warnRise with
  | none => s
  | some t =>
    if t + 1000000 ≤ s.ns then
      onLedger (fun l => { l with mask := false, warnRise := none, lgErase := l.lgErase || !gaspEmpty s }) s
    else s

/-- LAST_GASP_REARM. -/
def execLastGaspRearm (s : State) : Host.Outcome State Fault Refusal := .next (gaspRearm s)

/-- LAST_GASP_ERASE_DONE: the block's four sectors are erased, and LG_READY is 1 again (R337). The erase runs
once the operation and the record that its bank was busy with have ended (R376). -/
def gaspErased (s : State) : State :=
  if !s.shore.ledger.lgErase || s.shore.sfl.op0.isSome || s.shore.ledger.lgDraft.isSome then s else
  progKick ((List.range 4).foldl (fun t k => sflErase (0x1C0 + k) t)
    (onLedger (fun l => { l with lgErase := false, lgReady := true }) s))

/-- LAST_GASP_ERASE_DONE. -/
def execLastGaspEraseDone (s : State) : Host.Outcome State Fault Refusal := .next (gaspErased s)

end Sys2Proof.Machine
end

