-- ==== Sys2Proof/Machine/Long.lean ====
section
/-! DEFINITION. The long instructions BMOV, BCRC, FIRB and XFRM (R113 to R121): record checks,
operand checks, units, and completion. A command processes a given number of units; the
instruction stays between units until the next one, an interrupt, a reset or a swap. -/

namespace Sys2Proof.Machine

/-- The record at `base` as SRAM holds it. Its reserved fields (word 0 [23:8] and the reserved words of Tables 4.21
to 4.24) are not read: R114 names no check of them (DESIGN CHOICE, log 69). -/
def readRec (P : Pond) (base : Nat) : LRec :=
  let b := P.sram.bytes (base - 0x20000000) 32
  { op := leAt b 3 1, st := leAt b 0 1, done := leAt b 4 4, w8 := leAt b 8 4, wC := leAt b 0xC 4,
    w10 := leAt b 0x10 4, w14 := leAt b 0x14 4, value := BitVec.ofNat 64 (leAt b 0x18 8) }

/-- The interval of Table 4.15 that an address lies in: for loads of plain memory, or for stores
(SRAM). While the inactive bank programs or erases its window permits no read (R378). -/
def spanEnd (write busy : Bool) (a : Nat) : Option Nat :=
  if 0x20000000 ≤ a ∧ a < (if write then 0x2001FFC0 else 0x20020000) then
    some (if write then 0x2001FFC0 else 0x20020000)
  else if write then none
  else if a < 0x40000 then some 0x40000
  else if 0x08000000 ≤ a ∧ a < 0x08040000 ∧ !busy then some 0x08040000
  else if 0x30000000 ≤ a ∧ a < 0x30008000 then some 0x30008000
  else none

/-- The first address of a range that the access is not permitted at (R114 step 3). -/
def rangeFault (write busy : Bool) (a len : Nat) : Option Nat :=
  if len = 0 then none else
  match spanEnd write busy a with
  | none => some a
  | some e => if a + len ≤ e then none else some e

/-- Two ranges share a byte. -/
def overlaps (a la b lb : Nat) : Bool := decide (a < b + lb) && decide (b < a + la)

/-- A destination overlaps a source from above. -/
def overAbove (d ld s ls : Nat) : Bool := decide (s < d) && overlaps d ld s ls

/-- What step 3 finds, in the order of R130: a failed limit or overlap rule, a misaligned
pointer, a range not permitted. -/
def operandFault (busy bad : Bool) (ptrs : List (Bool × Nat)) (ranges : List (Bool × Nat × Nat)) (pc : Word) :
    Option Flt :=
  if bad then some ⟨1, 6, pc⟩ else
  match ptrs.find? (fun x => x.2 % 2 ≠ 0) with
  | some x => some ⟨2, if x.1 then 4 else 3, BitVec.ofNat 32 x.2⟩
  | none =>
    ranges.findSome? (fun x => (rangeFault x.1 busy x.2.1 x.2.2).map
      (fun a => (⟨3, if x.1 then 4 else 3, BitVec.ofNat 32 a⟩ : Flt)))

/-- One unit's outcome: the address of an ECC fault if there is one, what DONE gains, the pond. -/
abbrev UnitOut := Option Nat × Nat × Pond

/-- SRAM bytes written by a long instruction's core-port access. -/
def longWrite (a : Nat) (l : List Byte) (P : Pond) : Pond := sramWrite (sramOff a) l P

/-- Bytes to the next boundary of what one core-port read takes: a flash word or an SRAM word. -/
def pieceSize (a : Nat) : Nat :=
  let r := regionOf a
  if r == .sram || r == .record then 4 else 32

/-- A copy upward of `n` bytes in pieces. -/
def copyUp : Nat → Nat → Nat → Nat → Nat → Pond → UnitOut
  | 0, _, _, _, got, P => (none, got, P)
  | fuel + 1, src, dst, n, got, P =>
    if n = 0 then (none, got, P) else
    let g := pieceSize src
    let k := min n (g - src % g)
    match loadPlain P src k with
    | (none, P1) => (some src, got, P1)
    | (some v, P1) => copyUp fuel (src + k) (dst + k) (n - k) (got + k) (longWrite dst (leBytes v k) P1)

/-- A copy downward of the `n` bytes that end at `srcE` and `dstE`. -/
def copyDown : Nat → Nat → Nat → Nat → Nat → Pond → UnitOut
  | 0, _, _, _, got, P => (none, got, P)
  | fuel + 1, srcE, dstE, n, got, P =>
    if n = 0 then (none, got, P) else
    let g := pieceSize (srcE - 1)
    let k := min n (if srcE % g = 0 then g else srcE % g)
    match loadPlain P (srcE - k) k with
    | (none, P1) => (some (srcE - k), got, P1)
    | (some v, P1) =>
      copyDown fuel (srcE - k) (dstE - k) (n - k) (got + k) (longWrite (dstE - k) (leBytes v k) P1)

/-- `n` bytes read upward in pieces; the address of an ECC fault. -/
def readRun : Nat → Nat → Nat → Pond → (Nat ⊕ List Byte) × Pond
  | 0, _, _, P => (.inr [], P)
  | fuel + 1, a, n, P =>
    if n = 0 then (.inr [], P) else
    let g := pieceSize a
    let k := min n (g - a % g)
    match loadPlain P a k with
    | (none, P1) => (.inl a, P1)
    | (some v, P1) =>
      match readRun fuel (a + k) (n - k) P1 with
      | (.inl e, P2) => (.inl e, P2)
      | (.inr l, P2) => (.inr (leBytes v k ++ l), P2)

/-- Signed halfwords of a byte string. -/
def halves : List Byte → List Int
  | a :: b :: r => (BitVec.ofNat 16 (a.toNat + 256 * b.toNat)).toInt :: halves r
  | _ => []

/-- Bytes of signed halfwords. -/
def halfBytes (l : List Int) : List Byte := l.flatMap (fun v => leBytes (BitVec.ofInt 16 v).toNat 2)

/-- A value clamped to 16 bits, and whether it clamped. -/
def sat16 (v : Int) : Int × Bool := (satI 16 v, decide (satI 16 v ≠ v))

/-- A long instruction: its opcode, its total, its operand fault, the addresses where one unit from DONE
reads, that unit, the cost of a unit, and its results at completion. -/
structure LongOp where
  op : BitVec 6
  total : Nat
  fault : Option Flt
  reads : Nat → List Nat
  unit : Nat → Pond → UnitOut
  cost : Nat
  finish : Pond → Pond

/-- Cost of a unit that reads a region (R117, R118). -/
def unitCost (a other : Nat) : Nat := if plainMem (regionOf a) && decide (regionOf a = .flashActive ∨ regionOf a = .flashInactive) then 12 else other

/-- BMOV (R117). -/
def bmovOp (r : LRec) (busy : Bool) (pc : Word) : LongOp :=
  let src := r.w8
  let dst := r.wC
  let n := r.w10
  let down := decide (src < dst) && decide (dst < src + n)
  { op := 0x38#6, total := n,
    fault := operandFault busy false [] [(false, src, n), (true, dst, n)] pc,
    reads := fun done => [if down then src + n - done - min 32 (n - done) else src + done],
    unit := fun done P =>
      let k := min 32 (n - done)
      if down then copyDown 40 (src + n - done) (dst + n - done) k 0 P
      else copyUp 40 (src + done) (dst + done) k 0 P,
    cost := unitCost src (if src % 8 = dst % 8 then 4 else if src % 4 = dst % 4 then 8 else 32),
    finish := id }

/-- BCRC (R118). -/
def bcrcOp (base : Nat) (r : LRec) (busy : Bool) (pc : Word) : LongOp :=
  let n := r.wC
  let k := r.w10 % 2
  { op := 0x39#6, total := (n + 31) / 32,
    fault := operandFault busy (decide (4 ≤ r.w10)) [] [(false, r.w8, n)] pc,
    reads := fun done => [r.w8 + 32 * done],
    unit := fun done P =>
      match readRun 40 (r.w8 + 32 * done) (min 32 (n - 32 * done)) P with
      | (.inl e, P1) => (some e, 0, P1)
      | (.inr l, P1) => (none, 1, cvuFeed k l P1),
    cost := unitCost r.w8 8,
    finish := fun P =>
      if r.w10 / 2 % 2 = 1 then
        let P1 := cvuFinish k P
        recValue base (vget P1.cvu k Cvu.reset).result P1
      else recValue base (cvuV P k) P }

/-- One output of FIRB: the sum, rounded and saturated (R119). -/
def firOut (shift : Nat) (h x : List Int) : Int × Bool :=
  let s := (h.zip x.reverse).foldl (fun a p => a + p.1 * p.2) 0
  sat16 (rndI s shift)

/-- FIRB (R119). -/
def firbOp (r : LRec) (busy : Bool) (pc : Word) : LongOp :=
  let shift := r.w14 / 2 ^ 24 % 64
  let t := r.w14 / 2 ^ 16 % 64 + 1
  let n := r.w14 % 2 ^ 16
  let other := r.w14 / 2 ^ 22 % 4 ≠ 0 ∨ r.w14 / 2 ^ 30 ≠ 0
  let lx := 2 * (n + t - 1)
  { op := 0x3A#6, total := n,
    fault := operandFault busy (decide (47 < shift ∨ n = 0 ∨ other) || overAbove r.w10 (2 * n) r.w8 lx ||
        overlaps r.w10 (2 * n) r.wC (2 * t))
      [(false, r.w8), (false, r.wC), (true, r.w10)]
      [(false, r.w8, lx), (false, r.wC, 2 * t), (true, r.w10, 2 * n)] pc,
    reads := fun k => [r.wC, r.w8 + 2 * k],
    unit := fun k P =>
      match readRun 80 r.wC (2 * t) P with
      | (.inl e, P1) => (some e, 0, P1)
      | (.inr h, P1) =>
        match readRun 80 (r.w8 + 2 * k) (2 * t) P1 with
        | (.inl e, P2) => (some e, 0, P2)
        | (.inr x, P2) =>
          let y := firOut shift (halves h) (halves x)
          (none, 1, setQ y.2 (longWrite (r.w10 + 2 * k) (halfBytes [y.1]) P2)),
    cost := t + 2,
    finish := id }

/-- rnd of R120, and whether it clamped. -/
def rnd15 (t : Int) : Int × Bool := sat16 (rndI t 15)

/-- One element of XFRM (R120): its output halfwords, and whether any clamped. -/
def xfrmElem (mode : Nat) (i : List Int) : List Int × Bool :=
  let g (k : Nat) : Int := i.getD k 0
  match mode with
  | 0 =>
    let b := rnd15 (18919 * (g 0 + 2 * g 1))
    ([g 0, b.1], b.2)
  | 1 =>
    let d := rnd15 (g 0 * g 3 + g 1 * g 2)
    let q := rnd15 (g 1 * g 3 - g 0 * g 2)
    ([d.1, q.1], d.2 || q.2)
  | _ =>
    let x := rnd15 (g 0 * g 3 - g 1 * g 2)
    let y := rnd15 (g 0 * g 2 + g 1 * g 3)
    ([x.1, y.1], x.2 || y.2)

/-- XFRM (R120). -/
def xfrmOp (r : LRec) (busy : Bool) (pc : Word) : LongOp :=
  let mode := r.w10 / 2 ^ 16 % 4
  let n := r.w10 % 2 ^ 16
  let li := if mode = 0 then 4 else 8
  { op := 0x3B#6, total := n,
    fault := operandFault busy (decide (mode = 3 ∨ n = 0 ∨ r.w10 / 2 ^ 18 ≠ 0) ||
        overAbove r.wC (4 * n) r.w8 (li * n))
      [(false, r.w8), (true, r.wC)] [(false, r.w8, li * n), (true, r.wC, 4 * n)] pc,
    reads := fun k => [r.w8 + li * k],
    unit := fun k P =>
      match readRun 8 (r.w8 + li * k) li P with
      | (.inl e, P1) => (some e, 0, P1)
      | (.inr b, P1) =>
        let y := xfrmElem mode (halves b)
        (none, 1, setQ y.2 (longWrite (r.wC + 4 * k) (halfBytes y.1) P1)),
    cost := 2,
    finish := id }

/-- Units processed from DONE: at most `fuel` of them. -/
def longUnits (o : LongOp) : Nat → Nat → Pond → Option Nat × Nat × Pond
  | 0, done, P => (none, done, P)
  | fuel + 1, done, P =>
    if o.total ≤ done then (none, done, P) else
    match o.unit done P with
    | (some e, k, P1) => (some e, done + k, P1)
    | (none, k, P1) => longUnits o fuel (done + k) (charge o.cost 0 P1)

/-- Units run from `l.done`, then completion, an ECC fault with its record, or the boundary reached (R114,
R115). -/
def longRun (o : LongOp) (l : LongRun) (units : Nat) (P : Pond) : Pond :=
  match longUnits o units l.done P with
  | (some e, d, P1) =>
    let P2 := recStop { l with done := d } { P1 with core := { P1.core with long := none } }
    raise 4 3 (BitVec.ofNat 32 e) P2
  | (none, d, P1) =>
    if o.total ≤ d then
      let P2 := o.finish (recHeader l.base o.op 2 o.total { P1 with core := { P1.core with long := none } })
      retire 0 P2
    else { P1 with core := { P1.core with long := some { l with done := d } } }

/-- An execution of a long instruction (R113, R114): `mk` reads its operands from the record. It costs 6
cycles and its units (R116), and counts as an instruction when it completes (Table 4.7). -/
def longStart (op : BitVec 6) (mk : LRec → Bool → LongOp) (base units : Nat) (P : Pond) : Pond :=
  let P0 := drainSb P
  let a : Word := BitVec.ofNat 32 base
  if base % 32 ≠ 0 then raise 2 5 a P0
  else if (rangeFault true false base 32).isSome then raise 3 5 a P0
  else
    match eccRead P0 base 32 with
    | (true, P1) => raise 4 5 a P1
    | (false, P1) =>
      let r := readRec P1 base
      let o := mk r P1.pfl.op.isSome
      if decide (2 < r.st) || (r.st == 1 && (decide (r.op ≠ op.toNat) || decide (o.total ≤ r.done)))
      then raise 1 5 P1.core.pc P1
      else
        match o.fault with
        | some f => raiseAt f P1.core.pc P1
        | none =>
          let done := if r.st = 1 then r.done else 0
          let k := r.w10 % 2
          let P2 := if op = 0x39#6 ∧ r.st = 1 then
              cvuMod k (fun u => Cvu.recfg (cvuCfg P1 k) { u with v := r.value }) P1
            else P1
          longRun o ⟨op, base, done, k, r⟩ units (charge 6 0 P2)

/-- The instruction continues from its unit boundary with the operands that the execution read (R114 step 2). A
read of the inactive bank's window that has become busy raises ACCESS with TYPE 3 (R378) after the record is
written, as at an ECC fault (DESIGN CHOICE, log 70). -/
def longMore (mk : LRec → Bool → LongOp) (l : LongRun) (units : Nat) (P : Pond) : Pond :=
  let o := mk l.read false
  match (o.reads l.done).find? (fun a => P.pfl.op.isSome && regionOf a == .flashInactive) with
  | some a => raiseAt ⟨3, 3, BitVec.ofNat 32 a⟩ P.core.pc (stopLong P)
  | none => longRun o l units P

/-- A long instruction issues, or goes on where it stands between units (R113: d, b, S, ext and
func are 0). -/
def longIssue (op : BitVec 6) (mk : Nat → LRec → Bool → Word → LongOp) (f : FmtL) (units : Nat)
    (P : Pond) : Pond :=
  match P.core.long with
  | some l =>
    if l.op = op ∧ l.base = (gr P f.a).toNat ∧ P.core.run = .running ∧ !heldBack P ∧ !irqDue P
    then longMore (fun r b => mk l.base r b P.core.pc) l units (stepUsed P)
    else P
  | none =>
    if canIssue P then
      issueP (legal (f.d == 0 && f.b == 0 && f.s == 0 && f.ext == 0 && f.func == 0) (fun P =>
        longStart op (fun r b => mk (gr P f.a).toNat r b P.core.pc) (gr P f.a).toNat units P)) P
    else P

/-- BMOV: up to `units` units (R117). -/
def execBmov (p : PondId) (f : FmtL) (units : Nat) (s : State) : Host.Outcome State Fault Refusal :=
  .next (onPond p (longIssue 0x38#6 (fun _ => bmovOp) f units) s)

/-- BCRC: up to `units` units (R118). -/
def execBcrc (p : PondId) (f : FmtL) (units : Nat) (s : State) : Host.Outcome State Fault Refusal :=
  .next (onPond p (longIssue 0x39#6 bcrcOp f units) s)

/-- FIRB: up to `units` units (R119). -/
def execFirb (p : PondId) (f : FmtL) (units : Nat) (s : State) : Host.Outcome State Fault Refusal :=
  .next (onPond p (longIssue 0x3A#6 (fun _ => firbOp) f units) s)

/-- XFRM: up to `units` units (R120). -/
def execXfrm (p : PondId) (f : FmtL) (units : Nat) (s : State) : Host.Outcome State Fault Refusal :=
  .next (onPond p (longIssue 0x3B#6 (fun _ => xfrmOp) f units) s)

end Sys2Proof.Machine
end

