-- ==== Sys2Proof/Machine/System.lean ====
section
/-! DEFINITION. Branches (Table 4.16) and the system group (Table 4.17) with exceptions taken by
an instruction, the interrupt, and the ends of its waits. -/

namespace Sys2Proof.Machine

/-- A branch to `target` when `c` holds: 2 cycles taken, 1 not. -/
def branchIf (c : Bool) (target : Word) (P : Pond) : Pond :=
  finishAt (if c then target else P.core.pc + 4) (if c then 2 else 1) 0 false false P

/-- BZ, BNZ and DBNZ (Table 4.16): a must be 0; `dec` decrements gd first. -/
def regBranch (dec : Bool) (c : Word → Bool) (f : FmtI) (P : Pond) : Pond :=
  legal (f.a == 0) (fun P =>
    let v := if dec then gr P f.d - 1 else gr P f.d
    let P1 := stallFor (rmask f.d) false false P
    let P2 := if dec then gset f.d v P1 else P1
    branchIf (c v) (P.core.pc + offBytes f.imm) P2) P

/-- JR and CALLR (R109): ga must be word-aligned, or ALIGN at the jump with nothing written. -/
def jumpReg (link : Bool) (f : FmtA) (P : Pond) : Pond :=
  legal (f.d == 0 && f.b == 0 && f.s == 0 && f.ext == 0) (fun P =>
    let t := gr P f.a
    if t.toNat % 4 ≠ 0 then raise 2 0 t P
    else
      let P1 := stallFor (rmask f.a) false false P
      let P2 := if link then gset 14 (P.core.pc + 4) P1 else P1
      finishAt t 2 0 false false P2) P

/-- A system word with no operand: d, a and imm12 are 0. -/
def FmtS.bare (f : FmtS) : Bool := f.d == 0 && f.a == 0 && f.imm == 0

/-- A 64-bit value read into the pair gd, gd+1 (R111). -/
def readPair (v : BitVec 64) (f : FmtS) (P : Pond) : Pond :=
  legal (evenReg f.d && f.a == 0 && f.imm == 0) (fun P =>
    retire 2 (gset (f.d + 1) (v.extractLsb' 32 32) (gset f.d (v.extractLsb' 0 32)
      (stallFor 0 false false P)))) P

/-- WAITE completes (R110): the masked latches are cleared, and a wake on bits 0 to 3 starts a
CA_BUDGET measurement at 2 cycles (Table 4.7). Latch 5 stays set while a source is deliverable. -/
def waiteDone (mask : BitVec 8) (P : Pond) : Pond :=
  let wake := P.core.evt &&& mask &&& 0x0F != 0
  let P1 := finishAt (P.core.pc + 4) 2 0 false false P
  picLatch { P1 with core := { P1.core with
    evt := P.core.evt &&& ~~~mask, run := .running,
    ca := if bit (rg P 0x000) 0 && wake then some ⟨2, 0⟩ else P1.core.ca } }

/-- The buffers named by a FENCE mask are empty (R126). -/
def fenceMet (mask : BitVec 2) (P : Pond) : Bool :=
  (!bit mask 0 || P.core.sb.isEmpty) && (!bit mask 1 || P.core.pb.isEmpty)

/-- RETE (R135, R139, R146): from a gate body, or from a handler after its frame checks. -/
def returnExc (P : Pond) : Pond :=
  if P.core.gate.isSome then
    finishAt (gateFrame P 0) 6 0 false false (leaveGate P)
  else if P.core.df then raise 1 ((freeNow P).toNat % 16) P.core.pc (useFree P)
  else if P.core.nest = 0 then raiseIllegal P
  else
    let sp := (gr P 15).toNat
    if sp % 8 ≠ 0 then raise 2 1 (gr P 15) P
    else if !(decide (0x20000000 ≤ sp) && decide (sp + 16 ≤ 0x2001FFC0)) then raise 3 1 (gr P 15) P
    else
      let rd (i : Nat) (Q : Pond) := loadPlain Q (sp + 4 * i) 4
      match rd 0 P with
      | (none, P1) => raise 4 1 (gr P 15) P1
      | (some ret, P1) =>
        match rd 1 P1 with
        | (none, P2) => raise 4 1 (gr P 15 + 4) P2
        | (some st, P2) =>
          match rd 2 P2 with
          | (none, P3) => raise 4 1 (gr P 15 + 8) P3
          | (some g12, P3) =>
            match rd 3 P3 with
            | (none, P4) => raise 4 1 (gr P 15 + 12) P4
            | (some g14, P4) =>
              let w : Word := BitVec.ofNat 32 st
              let P5 := restoreFlags w (gset 15 (BitVec.ofNat 32 (sp + 16))
                (gset 14 (BitVec.ofNat 32 g14) (gset 12 (BitVec.ofNat 32 g12) P4)))
              finishAt (BitVec.ofNat 32 ret) 6 0 false false
                { P5 with core := { P5.core with nest := fld w 8 4 } }

/-- Bcc: PC ← PC + 4 × off22 when the condition holds; a condition of 15 is illegal (R102). -/
def execBcc (p : PondId) (f : FmtB) (s : State) : Host.Outcome State Fault Refusal :=
  issue p (fun _ P => legal (f.cond != 15) (fun P => branchIf (condHolds f.cond.toNat P.core.flags) (P.core.pc + offBytes f.off) P) P) s

/-- CALL: g14 ← PC + 4; PC ← PC + 4 × off26 (R102). -/
def execCall (p : PondId) (f : FmtC) (s : State) : Host.Outcome State Fault Refusal :=
  issue p (fun _ P => finishAt (P.core.pc + offBytes f.off) 2 0 false false (gset 14 (P.core.pc + 4) P)) s

/-- BZ: branch when gd is 0 (R102). -/
def execBz (p : PondId) (f : FmtI) (s : State) : Host.Outcome State Fault Refusal :=
  issue p (fun _ P => regBranch false (fun v => v == 0) f P) s

/-- BNZ: branch when gd is not 0 (R102). -/
def execBnz (p : PondId) (f : FmtI) (s : State) : Host.Outcome State Fault Refusal :=
  issue p (fun _ P => regBranch false (fun v => v != 0) f P) s

/-- DBNZ: gd ← gd − 1; branch when it is not 0 (R102). -/
def execDbnz (p : PondId) (f : FmtI) (s : State) : Host.Outcome State Fault Refusal :=
  issue p (fun _ P => regBranch true (fun v => v != 0) f P) s

/-- JR: PC ← ga (R109). -/
def execJr (p : PondId) (f : FmtA) (s : State) : Host.Outcome State Fault Refusal :=
  issue p (fun _ P => jumpReg false f P) s

/-- CALLR: g14 ← PC + 4; PC ← ga (R109). -/
def execCallr (p : PondId) (f : FmtA) (s : State) : Host.Outcome State Fault Refusal :=
  issue p (fun _ P => jumpReg true f P) s

/-- NOP: nothing (R102). -/
def execNop (p : PondId) (f : FmtS) (s : State) : Host.Outcome State Fault Refusal :=
  issue p (fun _ P => legal (FmtS.bare f) (fun P => retire 1 P) P) s

/-- TRAP: TRAP with code imm12; the return address is the next instruction (R129). -/
def execTrap (p : PondId) (f : FmtS) (s : State) : Host.Outcome State Fault Refusal :=
  issue p (fun _ P => legal (f.d == 0 && f.a == 0) (fun P =>
    raiseAt ⟨5, (freeNow P).toNat % 16, f.imm.setWidth 32⟩ (P.core.pc + 4) (useFree P)) P) s

/-- WAITE: wait for a latch of the mask; complete at once if one is set (R110). -/
def execWaite (p : PondId) (f : FmtS) (s : State) : Host.Outcome State Fault Refusal :=
  issue p (fun c P => legal (f.d == 0 && f.a == 0 && f.imm != 0 && decide (f.imm.toNat < 256)) (fun P =>
    let m : BitVec 8 := f.imm.setWidth 8
    if P.core.evt &&& m != 0 then waiteDone m P
    else beginWait c (.waiting m) P) P) s

/-- FENCE: wait until the named buffers are empty; complete at once if they are (R126). -/
def execFence (p : PondId) (f : FmtS) (s : State) : Host.Outcome State Fault Refusal :=
  issue p (fun c P => legal (f.d == 0 && f.a == 0 && f.imm != 0 && decide (f.imm.toNat < 4)) (fun P =>
    let m : BitVec 2 := f.imm.setWidth 2
    if fenceMet m P then retire 1 P
    else beginWait c (.fencing m) P) P) s

/-- TBRD: gd, gd+1 ← timebase copy (R111). -/
def execTbrd (p : PondId) (f : FmtS) (s : State) : Host.Outcome State Fault Refusal :=
  issue p (fun _ P => readPair P.tb f P) s

/-- EPRD: gd, gd+1 ← registered epoch (R111). -/
def execEprd (p : PondId) (f : FmtS) (s : State) : Host.Outcome State Fault Refusal :=
  issue p (fun _ P => readPair (BitVec.ofNat 64 (epochOf P)) f P) s

/-- EI: IE ← 1 (R102). -/
def execEi (p : PondId) (f : FmtS) (s : State) : Host.Outcome State Fault Refusal :=
  issue p (fun _ P => legal (FmtS.bare f) (fun P => retire 1 { P with core := { P.core with ie := true } }) P) s

/-- DI: IE ← 0 (R102). -/
def execDi (p : PondId) (f : FmtS) (s : State) : Host.Outcome State Fault Refusal :=
  issue p (fun _ P => legal (FmtS.bare f) (fun P => retire 1 { P with core := { P.core with ie := false } }) P) s

/-- BRK: halts the core for an unlocked debugger, else raises BRK (R129). -/
def execBrk (p : PondId) (f : FmtS) (s : State) : Host.Outcome State Fault Refusal :=
  issue p (fun c P => legal (FmtS.bare f) (fun P =>
    if c.dbg then { P with core := { P.core with halted := true } }
    else raiseAt ⟨7, (freeNow P).toNat % 16, Config.freeWord (64 * P.fresh + 1)⟩ (P.core.pc + 4)
      (useFree P)) P) s

/-- RETE: returns from an exception or a gate body (R135, R146). -/
def execRete (p : PondId) (f : FmtS) (s : State) : Host.Outcome State Fault Refusal :=
  .next (onPond p (fun P =>
    if P.core.gate.isSome then
      if P.core.run == .running && !heldBack P then legal (FmtS.bare f) returnExc (stepUsed P) else P
    else if canIssue P then issueP (legal (FmtS.bare f) returnExc) P else P) s)

/-- A word whose op or func is unassigned raises ILLEGAL without effect (R101). -/
def execIllegalInstruction (p : PondId) (w : Word) (s : State) :
    Host.Outcome State Fault Refusal :=
  issue p (fun _ P => if PondWord.unassigned w then raiseIllegal P else P) s

/-- IRQ: a deliverable source is taken at an interrupt point with IE 1 (R131): between
instructions, at a unit boundary of a long instruction, or in WAITE; the return address is the
instruction at the pc (R112). -/
def execIrq (p : PondId) (s : State) : Host.Outcome State Fault Refusal :=
  .next (onPond p (fun P =>
    let point := (match P.core.run with | .running => true | .waiting _ => true | _ => false) &&
      !P.core.halted && P.core.stalled.isNone
    let P1 := match P.core.run with | .waiting _ => waited (pctx s p) P | _ => P
    if point && irqDue P then takeIrq P.core.pc (stopLong P1) else P) s)

/-- STORE_RETIRE: the oldest store buffer entry retires (R122). -/
def execStoreRetire (p : PondId) (s : State) : Host.Outcome State Fault Refusal :=
  .next (onPond p (fun P => retireN 1 P) s)

/-- WAITE_WAKE: a masked latch is set, and WAITE completes; an interrupt that became deliverable meanwhile
is taken first, with the WAITE as its return address (R110). -/
def execWaiteWake (p : PondId) (s : State) : Host.Outcome State Fault Refusal :=
  .next (onPond p (fun P =>
    match P.core.run with
    | .waiting m =>
      if P.core.evt &&& m != 0 && !P.core.halted && !irqDue P then waiteDone m (waited (pctx s p) P) else P
    | _ => P) s)

/-- FENCE_DONE: the buffers a waiting FENCE names are empty, and it completes (R126). -/
def execFenceDone (p : PondId) (s : State) : Host.Outcome State Fault Refusal :=
  .next (onPond p (fun P =>
    match P.core.run with
    | .fencing m =>
      if fenceMet m P && !P.core.halted then
        retire 1 { waited (pctx s p) P with core := { (waited (pctx s p) P).core with run := .running } }
      else P
    | _ => P) s)

end Sys2Proof.Machine
end

