-- ==== Sys2Proof/Machine/Dispatch.lean ====
section
/-! DEFINITION. The dispatch: one arm per command, each one call of its meaning. -/

namespace Sys2Proof.Machine

/-- The effect of a command on everything but the queue. -/
def exec (i : Instr) (s : State) : Host.Outcome State Fault Refusal :=
  match i with
  | .gateNotImplemented p n f => Sys2Proof.Machine.execGateNotImplemented p n f s
  | .porAssert => Sys2Proof.Machine.execPorAssert s
  | .porRelease => Sys2Proof.Machine.execPorRelease s
  | .bistEnd p units => Sys2Proof.Machine.execBistEnd p units s
  | .wellspringRegeneration a bc => Sys2Proof.Machine.execWellspringRegeneration a bc s
  | .calibrationEnd p n settled f => Sys2Proof.Machine.execCalibrationEnd p n settled f s
  | .tbsRun => Sys2Proof.Machine.execTbsRun s
  | .gssEdge => Sys2Proof.Machine.execGssEdge s
  | .gssInEdge => Sys2Proof.Machine.execGssInEdge s
  | .flywheelEdge => Sys2Proof.Machine.execFlywheelEdge s
  | .boundaryRegistration p => Sys2Proof.Machine.execBoundaryRegistration p s
  | .shoreBoundary => Sys2Proof.Machine.execShoreBoundary s
  | .sluiceSlotsFreed => Sys2Proof.Machine.execSluiceSlotsFreed s
  | .orphanPolicy p => Sys2Proof.Machine.execOrphanPolicy p s
  | .mirrorSnapshot h => Sys2Proof.Machine.execMirrorSnapshot h s
  | .resetN => Sys2Proof.Machine.execResetN s
  | .watchdogExpiry => Sys2Proof.Machine.execWatchdogExpiry s
  | .watchdogKick => Sys2Proof.Machine.execWatchdogKick s
  | .crlWarmReset v => Sys2Proof.Machine.execCrlWarmReset v s
  | .armedPairExpiry r => Sys2Proof.Machine.execArmedPairExpiry r s
  | .crlPondReset j v => Sys2Proof.Machine.execCrlPondReset j v s
  | .crlCoreReset j v => Sys2Proof.Machine.execCrlCoreReset j v s
  | .miscResetReqPond p key => Sys2Proof.Machine.execMiscResetReqPond p key s
  | .miscResetReqCore p key => Sys2Proof.Machine.execMiscResetReqCore p key s
  | .coreOnlyReset p => Sys2Proof.Machine.execCoreOnlyReset p s
  | .pondRestart p => Sys2Proof.Machine.execPondRestart p s
  | .crlLcAdvance v => Sys2Proof.Machine.execCrlLcAdvance v s
  | .huskMarkDone ok => Sys2Proof.Machine.execHuskMarkDone ok s
  | .linkUp h speed width flit => Sys2Proof.Machine.execLinkUp h speed width flit s
  | .portBreak h k => Sys2Proof.Machine.execPortBreak h k s
  | .registerWrite w off v => Sys2Proof.Machine.execRegisterWrite w off v s
  | .contextEnable h n => Sys2Proof.Machine.execContextEnable h n s
  | .contextDisable h n => Sys2Proof.Machine.execContextDisable h n s
  | .abandon h n => Sys2Proof.Machine.execAbandon h n s
  | .contextBlockRead h n d => Sys2Proof.Machine.execContextBlockRead h n d s
  | .doorbellPoll h n => Sys2Proof.Machine.execDoorbellPoll h n s
  | .doorbellData h n d => Sys2Proof.Machine.execDoorbellData h n d s
  | .descriptorData h n d => Sys2Proof.Machine.execDescriptorData h n d s
  | .operandRead h j d => Sys2Proof.Machine.execOperandRead h j d s
  | .completionAck h => Sys2Proof.Machine.execCompletionAck h s
  | .unassignedOpcode h n => Sys2Proof.Machine.execUnassignedOpcode h n s
  | .hostNop h n => Sys2Proof.Machine.execHostNop h n s
  | .svcMapRead h n => Sys2Proof.Machine.execSvcMapRead h n s
  | .leaseCmd h n => Sys2Proof.Machine.execLeaseCmd h n s
  | .releaseCmd h n => Sys2Proof.Machine.execReleaseCmd h n s
  | .takeover h n => Sys2Proof.Machine.execTakeover h n s
  | .peek h n => Sys2Proof.Machine.execPeek h n s
  | .poke h n => Sys2Proof.Machine.execPoke h n s
  | .configure h n => Sys2Proof.Machine.execConfigure h n s
  | .enable h n => Sys2Proof.Machine.execEnable h n s
  | .disable h n => Sys2Proof.Machine.execDisable h n s
  | .setRef h n => Sys2Proof.Machine.execSetRef h n s
  | .groupConfigure h n => Sys2Proof.Machine.execGroupConfigure h n s
  | .sluiceOpen h n => Sys2Proof.Machine.execSluiceOpen h n s
  | .sluiceClose h n => Sys2Proof.Machine.execSluiceClose h n s
  | .captureStream h n => Sys2Proof.Machine.execCaptureStream h n s
  | .acctOpen h n => Sys2Proof.Machine.execAcctOpen h n s
  | .acctClose h n => Sys2Proof.Machine.execAcctClose h n s
  | .acctAssign h n => Sys2Proof.Machine.execAcctAssign h n s
  | .bindTag h n => Sys2Proof.Machine.execBindTag h n s
  | .unbindTag h n => Sys2Proof.Machine.execUnbindTag h n s
  | .acctRead h n => Sys2Proof.Machine.execAcctRead h n s
  | .sealFetch h n => Sys2Proof.Machine.execSealFetch h n s
  | .utcAnchor h n => Sys2Proof.Machine.execUtcAnchor h n s
  | .progErase h n => Sys2Proof.Machine.execProgErase h n s
  | .progWrite h n => Sys2Proof.Machine.execProgWrite h n s
  | .progVerify h n => Sys2Proof.Machine.execProgVerify h n s
  | .verifyUnitAcquire => Sys2Proof.Machine.execVerifyUnitAcquire s
  | .progSwap h n => Sys2Proof.Machine.execProgSwap h n s
  | .spdmXfer h n => Sys2Proof.Machine.execSpdmXfer h n s
  | .getVersion h => Sys2Proof.Machine.execGetVersion h s
  | .getCapabilities h => Sys2Proof.Machine.execGetCapabilities h s
  | .negotiateAlgorithms h => Sys2Proof.Machine.execNegotiateAlgorithms h s
  | .getDigests h => Sys2Proof.Machine.execGetDigests h s
  | .getCertificate h => Sys2Proof.Machine.execGetCertificate h s
  | .challenge h => Sys2Proof.Machine.execChallenge h s
  | .getMeasurements h => Sys2Proof.Machine.execGetMeasurements h s
  | .alarmClear h n => Sys2Proof.Machine.execAlarmClear h n s
  | .messageArrival e => Sys2Proof.Machine.execMessageArrival e s
  | .energyPost p => Sys2Proof.Machine.execEnergyPost p s
  | .energyPostArrival => Sys2Proof.Machine.execEnergyPostArrival s
  | .sealArchive => Sys2Proof.Machine.execSealArchive s
  | .streamPacketSend p => Sys2Proof.Machine.execStreamPacketSend p s
  | .streamRecord => Sys2Proof.Machine.execStreamRecord s
  | .incarnationNotice p => Sys2Proof.Machine.execIncarnationNotice p s
  | .noticeAcknowledge => Sys2Proof.Machine.execNoticeAcknowledge s
  | .managementRead p => Sys2Proof.Machine.execManagementRead p s
  | .managementWrite p => Sys2Proof.Machine.execManagementWrite p s
  | .blockWrite p => Sys2Proof.Machine.execBlockWrite p s
  | .readResponse => Sys2Proof.Machine.execReadResponse s
  | .writeAcknowledge => Sys2Proof.Machine.execWriteAcknowledge s
  | .blockAcknowledge => Sys2Proof.Machine.execBlockAcknowledge s
  | .flitSend l => Sys2Proof.Machine.execFlitSend l s
  | .flitReceive l x => Sys2Proof.Machine.execFlitReceive l x s
  | .nak l bad => Sys2Proof.Machine.execNak l bad s
  | .creditReturn l bad => Sys2Proof.Machine.execCreditReturn l bad s
  | .creditAudit l miss => Sys2Proof.Machine.execCreditAudit l miss s
  | .retrainDone l ok => Sys2Proof.Machine.execRetrainDone l ok s
  | .retrainTimer l => Sys2Proof.Machine.execRetrainTimer l s
  | .retrain l => Sys2Proof.Machine.execRetrain l s
  | .alarmRegistration m => Sys2Proof.Machine.execAlarmRegistration m s
  | .eraseComplete => Sys2Proof.Machine.execEraseComplete s
  | .inject m => Sys2Proof.Machine.execInject m s
  | .debugChallenge => Sys2Proof.Machine.execDebugChallenge s
  | .debugResponse r => Sys2Proof.Machine.execDebugResponse r s
  | .debugTimeout => Sys2Proof.Machine.execDebugTimeout s
  | .debugRelock => Sys2Proof.Machine.execDebugRelock s
  | .supplyWarnNFall => Sys2Proof.Machine.execSupplyWarnNFall s
  | .lastGaspCommit => Sys2Proof.Machine.execLastGaspCommit s
  | .lastGaspRearm => Sys2Proof.Machine.execLastGaspRearm s
  | .lastGaspEraseDone => Sys2Proof.Machine.execLastGaspEraseDone s
  | .flashOperationEnd u bad => Sys2Proof.Machine.execFlashOperationEnd u bad s
  | .otpProgGo v => Sys2Proof.Machine.execOtpProgGo v s
  | .otpProgramDone wrong => Sys2Proof.Machine.execOtpProgramDone wrong s
  | .programSwap p => Sys2Proof.Machine.execProgramSwap p s
  | .irq p => Sys2Proof.Machine.execIrq p s
  | .storeRetire p => Sys2Proof.Machine.execStoreRetire p s
  | .postAccepted p => Sys2Proof.Machine.execPostAccepted p s
  | .waiteWake p => Sys2Proof.Machine.execWaiteWake p s
  | .fenceDone p => Sys2Proof.Machine.execFenceDone p s
  | .add p f => Sys2Proof.Machine.execAdd p f s
  | .sub p f => Sys2Proof.Machine.execSub p f s
  | .adc p f => Sys2Proof.Machine.execAdc p f s
  | .sbc p f => Sys2Proof.Machine.execSbc p f s
  | .adds p f => Sys2Proof.Machine.execAdds p f s
  | .subs p f => Sys2Proof.Machine.execSubs p f s
  | .andd p f => Sys2Proof.Machine.execAndd p f s
  | .orr p f => Sys2Proof.Machine.execOrr p f s
  | .xor p f => Sys2Proof.Machine.execXor p f s
  | .andn p f => Sys2Proof.Machine.execAndn p f s
  | .shl p f => Sys2Proof.Machine.execShl p f s
  | .shr p f => Sys2Proof.Machine.execShr p f s
  | .sar p f => Sys2Proof.Machine.execSar p f s
  | .ror p f => Sys2Proof.Machine.execRor p f s
  | .slt p f => Sys2Proof.Machine.execSlt p f s
  | .sltu p f => Sys2Proof.Machine.execSltu p f s
  | .minS p f => Sys2Proof.Machine.execMinS p f s
  | .maxS p f => Sys2Proof.Machine.execMaxS p f s
  | .minu p f => Sys2Proof.Machine.execMinu p f s
  | .maxu p f => Sys2Proof.Machine.execMaxu p f s
  | .cmp p f => Sys2Proof.Machine.execCmp p f s
  | .tst p f => Sys2Proof.Machine.execTst p f s
  | .addi p f => Sys2Proof.Machine.execAddi p f s
  | .andi p f => Sys2Proof.Machine.execAndi p f s
  | .ori p f => Sys2Proof.Machine.execOri p f s
  | .xori p f => Sys2Proof.Machine.execXori p f s
  | .shli p f => Sys2Proof.Machine.execShli p f s
  | .shri p f => Sys2Proof.Machine.execShri p f s
  | .sari p f => Sys2Proof.Machine.execSari p f s
  | .slti p f => Sys2Proof.Machine.execSlti p f s
  | .sltiu p f => Sys2Proof.Machine.execSltiu p f s
  | .cmpi p f => Sys2Proof.Machine.execCmpi p f s
  | .tsti p f => Sys2Proof.Machine.execTsti p f s
  | .lui p f => Sys2Proof.Machine.execLui p f s
  | .mul p f => Sys2Proof.Machine.execMul p f s
  | .mulh p f => Sys2Proof.Machine.execMulh p f s
  | .mulhu p f => Sys2Proof.Machine.execMulhu p f s
  | .div p f => Sys2Proof.Machine.execDiv p f s
  | .divu p f => Sys2Proof.Machine.execDivu p f s
  | .rem p f => Sys2Proof.Machine.execRem p f s
  | .remu p f => Sys2Proof.Machine.execRemu p f s
  | .mac p f => Sys2Proof.Machine.execMac p f s
  | .msu p f => Sys2Proof.Machine.execMsu p f s
  | .macz p f => Sys2Proof.Machine.execMacz p f s
  | .accx p f => Sys2Proof.Machine.execAccx p f s
  | .accrd p f => Sys2Proof.Machine.execAccrd p f s
  | .accw p f => Sys2Proof.Machine.execAccw p f s
  | .accz p f => Sys2Proof.Machine.execAccz p f s
  | .extu p f => Sys2Proof.Machine.execExtu p f s
  | .exts p f => Sys2Proof.Machine.execExts p f s
  | .ins p f => Sys2Proof.Machine.execIns p f s
  | .clz p f => Sys2Proof.Machine.execClz p f s
  | .popc p f => Sys2Proof.Machine.execPopc p f s
  | .sats p f => Sys2Proof.Machine.execSats p f s
  | .satu p f => Sys2Proof.Machine.execSatu p f s
  | .lb p f => Sys2Proof.Machine.execLb p f s
  | .lbu p f => Sys2Proof.Machine.execLbu p f s
  | .lh p f => Sys2Proof.Machine.execLh p f s
  | .lhu p f => Sys2Proof.Machine.execLhu p f s
  | .lw p f => Sys2Proof.Machine.execLw p f s
  | .ld p f => Sys2Proof.Machine.execLd p f s
  | .sb p f => Sys2Proof.Machine.execSb p f s
  | .sh p f => Sys2Proof.Machine.execSh p f s
  | .sw p f => Sys2Proof.Machine.execSw p f s
  | .sd p f => Sys2Proof.Machine.execSd p f s
  | .bcc p f => Sys2Proof.Machine.execBcc p f s
  | .call p f => Sys2Proof.Machine.execCall p f s
  | .bz p f => Sys2Proof.Machine.execBz p f s
  | .bnz p f => Sys2Proof.Machine.execBnz p f s
  | .dbnz p f => Sys2Proof.Machine.execDbnz p f s
  | .jr p f => Sys2Proof.Machine.execJr p f s
  | .callr p f => Sys2Proof.Machine.execCallr p f s
  | .nop p f => Sys2Proof.Machine.execNop p f s
  | .trap p f => Sys2Proof.Machine.execTrap p f s
  | .romInfo p f => Sys2Proof.Machine.execRomInfo p f s
  | .pflProgram p f => Sys2Proof.Machine.execPflProgram p f s
  | .pflErase p f => Sys2Proof.Machine.execPflErase p f s
  | .calRead p f => Sys2Proof.Machine.execCalRead p f s
  | .idRead p f => Sys2Proof.Machine.execIdRead p f s
  | .rete p f => Sys2Proof.Machine.execRete p f s
  | .fence p f => Sys2Proof.Machine.execFence p f s
  | .waite p f => Sys2Proof.Machine.execWaite p f s
  | .tbrd p f => Sys2Proof.Machine.execTbrd p f s
  | .eprd p f => Sys2Proof.Machine.execEprd p f s
  | .brk p f => Sys2Proof.Machine.execBrk p f s
  | .ei p f => Sys2Proof.Machine.execEi p f s
  | .di p f => Sys2Proof.Machine.execDi p f s
  | .bmov p f units => Sys2Proof.Machine.execBmov p f units s
  | .bcrc p f units => Sys2Proof.Machine.execBcrc p f units s
  | .firb p f units => Sys2Proof.Machine.execFirb p f units s
  | .xfrm p f units => Sys2Proof.Machine.execXfrm p f units s
  | .picClaim p => Sys2Proof.Machine.execPicClaim p s
  | .picComplete p v => Sys2Proof.Machine.execPicComplete p v s
  | .picSwtrig p v => Sys2Proof.Machine.execPicSwtrig p v s
  | .adcTrigger p n => Sys2Proof.Machine.execAdcTrigger p n s
  | .swtrig p mask => Sys2Proof.Machine.execSwtrig p mask s
  | .slotResult p x nv => Sys2Proof.Machine.execSlotResult p x nv s
  | .laneOutput p k => Sys2Proof.Machine.execLaneOutput p k s
  | .adcCal p v => Sys2Proof.Machine.execAdcCal p v s
  | .cbufClear p => Sys2Proof.Machine.execCbufClear p s
  | .adcCbufData p => Sys2Proof.Machine.execAdcCbufData p s
  | .cmpTrip p x => Sys2Proof.Machine.execCmpTrip p x s
  | .blankingEnd p n => Sys2Proof.Machine.execBlankingEnd p n s
  | .trippedClear p mask => Sys2Proof.Machine.execTrippedClear p mask s
  | .fltActive p n => Sys2Proof.Machine.execFltActive p n s
  | .fltForcedClear p mask => Sys2Proof.Machine.execFltForcedClear p mask s
  | .captureEdge p j level => Sys2Proof.Machine.execCaptureEdge p j level s
  | .capData p j => Sys2Proof.Machine.execCapData p j s
  | .periodEnd p k => Sys2Proof.Machine.execPeriodEnd p k s
  | .pgPreload p k v => Sys2Proof.Machine.execPgPreload p k v s
  | .clrfresh p mask => Sys2Proof.Machine.execClrfresh p mask s
  | .pgGridEnable p k => Sys2Proof.Machine.execPgGridEnable p k s
  | .pgGridDisable p k => Sys2Proof.Machine.execPgGridDisable p k s
  | .leRef p k v => Sys2Proof.Machine.execLeRef p k v s
  | .leCoefData p v => Sys2Proof.Machine.execLeCoefData p v s
  | .etCmpHi p k v => Sys2Proof.Machine.execEtCmpHi p k v s
  | .etCmpLo p k v => Sys2Proof.Machine.execEtCmpLo p k v s
  | .etFire p k => Sys2Proof.Machine.execEtFire p k s
  | .cvuStart p k => Sys2Proof.Machine.execCvuStart p k s
  | .cvuFeed p k v => Sys2Proof.Machine.execCvuFeed p k v s
  | .cvuFinish p k => Sys2Proof.Machine.execCvuFinish p k s
  | .sbCmd p w => Sys2Proof.Machine.execSbCmd p w s
  | .groupCommand p w => Sys2Proof.Machine.execGroupCommand p w s
  | .sbStart p => Sys2Proof.Machine.execSbStart p s
  | .sbTransactionEnd p nack rx pec => Sys2Proof.Machine.execSbTransactionEnd p nack rx pec s
  | .arbLost p => Sys2Proof.Machine.execArbLost p s
  | .sbTimeout p => Sys2Proof.Machine.execSbTimeout p s
  | .sbControllerReset p withCmd => Sys2Proof.Machine.execSbControllerReset p withCmd s
  | .sbEn p b => Sys2Proof.Machine.execSbEn p b s
  | .recoveryRound p sclLow pulses => Sys2Proof.Machine.execRecoveryRound p sclLow pulses s
  | .sbResetNRelease p => Sys2Proof.Machine.execSbResetNRelease p s
  | .sbAlert p => Sys2Proof.Machine.execSbAlert p s
  | .sbBufData p v => Sys2Proof.Machine.execSbBufData p v s
  | .illegalInstruction p w => Sys2Proof.Machine.execIllegalInstruction p w s
  | .compareEdge p k e => Sys2Proof.Machine.execCompareEdge p k e s
  | .firstPeriodStart p k => Sys2Proof.Machine.execFirstPeriodStart p k s
  | .cmpOutputInactive p x => Sys2Proof.Machine.execCmpOutputInactive p x s
  | .alarmConditionEnd n => Sys2Proof.Machine.execAlarmConditionEnd n s
  | .sbAlertNRelease p => Sys2Proof.Machine.execSbAlertNRelease p s
  | .supplyWarnNRise => Sys2Proof.Machine.execSupplyWarnNRise s
  | .gramondProvisioning ident puf chain => Sys2Proof.Machine.execGramondProvisioning ident puf chain s
  | .debuggerAccess a => Sys2Proof.Machine.execDebuggerAccess a s
  | .configWrite h k => Sys2Proof.Machine.execConfigWrite h k s
  | .setupBarRead h off len => Sys2Proof.Machine.execSetupBarRead h off len s
  | .snapshotWriteEnd h => Sys2Proof.Machine.execSnapshotWriteEnd h s
  | .verifyDone u => Sys2Proof.Machine.execVerifyDone u s
  | .pllLossOfLock j => Sys2Proof.Machine.execPllLossOfLock j s
  | .linkAcknowledgement l bad => Sys2Proof.Machine.execLinkAcknowledgement l bad s

end Sys2Proof.Machine
end

