-- ==== Sys2Proof/Machine/Tick.lean ====
section
/-! DEFINITION. One nanosecond with no command (assumption 1): the timebase copies advance (R39, R40)
and the Shore watchdog counts (R466). -/

namespace Sys2Proof.Machine

/-- The Shore's copy advances by 1, with the tick that the slew drops or repeats (R40). -/
def tbsTick (t : Tbs) : Tbs :=
  if t.tbRun then { t with tb := t.tb + 1 + BitVec.ofInt 64 t.slew, slew := 0 } else t

/-- A pond's copy advances by 2 at each start of a 500 MHz cycle, with the tick of the slew (R39, R40). -/
def pondTick (P : Pond) : Pond :=
  if P.tbRun then { P with tb := P.tb + 2 + BitVec.ofInt 64 P.slew, slew := 0 } else P

/-- One nanosecond. -/
def tick (s : State) : State :=
  let wdog := if wdogRuns s then s.shore.boot.wdog + 1 else s.shore.boot.wdog
  { s with
    ns := s.ns + 1,
    ponds := if pondClock s % 2 = 1 then s.ponds.map pondTick else s.ponds,
    shore := { s.shore with tbs := tbsTick s.shore.tbs, boot := { s.shore.boot with wdog := wdog } } }

end Sys2Proof.Machine
end

