-- ==== Sys2Proof/WellFormed.lean ====
section
/-! DEFINITION. Which commands are well formed: the lists have the lengths the spec gives them, and
operands lie in the ranges that their rows state. The machine takes any command; a well-formed one
is one that the outside world can give. -/

namespace Sys2Proof

/-- A list, where one is present, has `n` entries. -/
def lenIs {α : Type} (n : Nat) : Option (List α) → Bool
  | none => true
  | some l => l.length == n

/-- The command is well formed. -/
def Instr.wf : Instr → Bool
  -- gates 0 to 4 are implemented (Table 5.8)
  | .gateNotImplemented _ n _ => decide (5 ≤ n.toNat)
  -- three reads of the 4 KiB array (R341)
  | .wellspringRegeneration a bc => a.length == 4096 && bc.1.length == 4096 && bc.2.length == 4096
  -- 12 factors (Table 6.5)
  | .calibrationEnd _ _ _ f => f.length == 12
  -- 2.5 to 64 GT/s, Flit mode at 64 GT/s; x1, x2 or x4 (Table 10.2)
  | .linkUp _ speed width flit =>
    decide (1 ≤ speed.toNat) && decide (speed.toNat ≤ 6) && (speed != 6 || flit) &&
    (width == 1 || width == 2 || width == 4)
  -- every access but a host's moves one aligned 32-bit register (R464)
  | .registerWrite w off _ => (match w with | .bar _ _ => true | _ => off.toNat % 4 == 0)
  -- the 64-byte context block (Table 10.5)
  | .contextBlockRead _ _ d => lenIs 64 d
  -- the doorbell word (R268)
  | .doorbellData _ _ d => lenIs 8 d
  -- one to eight descriptors of 64 bytes (R271)
  | .descriptorData _ _ d =>
    match d with
    | none => true
    | some l => l.length % 64 == 0 && decide (64 ≤ l.length) && decide (l.length ≤ 512)
  -- an operand has at most 4,096 bytes (R295, R307)
  | .operandRead _ _ d =>
    match d with
    | none => true
    | some l => decide (l.length ≤ 4096)
  -- a response has 209 bytes (Table 13.8)
  | .debugResponse r => r.length == 209
  -- identity and hash; the array; certificates that the provisioning area holds (R87, R344, Table 14.6)
  | .gramondProvisioning ident puf chain =>
    ident.length == 112 && puf.length == 4096 && decide (32 + chain.1.length + chain.2.length ≤ 65536)
  -- a memory read of PCIe (R260)
  | .setupBarRead _ _ len => decide (1 ≤ len) && decide (len ≤ 4096)
  -- at most 255 data bytes and a count byte (R425)
  | .sbTransactionEnd _ _ rx _ => decide (rx.length ≤ 256)
  -- the row is of words that the core does not assign (R101)
  | .illegalInstruction _ w => PondWord.unassigned w
  | _ => true

end Sys2Proof
end

