-- ==== Sys2Proof/Safety.lean ====
section
/-! DEFINITION. The terms in which the statements are made: the instruction that a core can issue, what a
pond keeps, and the tables of the spec in plain integer arithmetic, beside the model's own words for
them. -/

namespace Sys2Proof.Machine

/-! ### The pond core -/

/-- The core of pond `p` issues the instruction at its pc (R112, R130), and the fetch leaves the pond
`Q`: the pond itself but for a count of corrected errors or a read-retry record, and a granted single
step. -/
def Issues (s : State) (p : PondId) (Q : Pond) : Prop :=
  canIssue (pondOf s p) = true ∧ fetchAt (stepUsed (pondOf s p)) (pondOf s p).core.pc = (none, Q)

/-- `s` with pond `p` replaced: nothing else of the machine changes. -/
def withPond (s : State) (p : PondId) (P : Pond) : State := { s with ponds := s.ponds.set p P }

/-- `P` is `Q` but for the general registers, acc, flags and pc named, and for what the spec counts of
every instruction: the stalls of Table 4.19, the measurement of Table 4.7 and its free cycles. In
particular every register, every byte of SRAM and flash and both buffers are as in `Q`. -/
def CoreStep (Q P : Pond) (g : Vector Word 16) (acc : BitVec 72) (fl : Flags) (pc : Word) : Prop :=
  ∃ hz age per ca n,
    P = { Q with
      fresh := n,
      core := { Q.core with
        g := g, acc := acc, flags := fl, pc := pc, hazard := hz, accAge := age, perStore := per, ca := ca } }

/-- The general registers of `Q` with gd written. -/
def gput (Q : Pond) (d : RegIx) (v : Word) : Vector Word 16 := vset Q.core.g d.toNat v

/-- The pair gd, gd+1 written, low word first (R106). -/
def gputPair (Q : Pond) (d : RegIx) (v : BitVec 64) : Vector Word 16 :=
  vset (vset Q.core.g d.toNat (v.extractLsb' 0 32)) (d + 1).toNat (v.extractLsb' 32 32)

/-- The integer is a signed 32-bit number. -/
def fits32 (x : Int) : Bool := decide (-2147483648 ≤ x) && decide (x ≤ 2147483647)

/-- The integer clamped to the signed 32-bit range. -/
def clamp32 (x : Int) : Int := max (-2147483648) (min 2147483647 x)

/-- What an ALU operation gives: the value, C, V, and whether it saturated. -/
structure AluOut where
  v : Word
  c : Bool
  o : Bool
  q : Bool

/-- The flags after an operation that sets them: N and Z of the value, C and V, and Q kept or set. -/
def AluOut.flags (r : AluOut) (fl : Flags) : Flags := ⟨r.v.msb, decide (r.v = 0), r.c, r.o, fl.q || r.q⟩

/-- An operation that names N and Z only. -/
def nz (v : Word) (fl : Flags) : AluOut := ⟨v, fl.c, fl.v, false⟩

/-- An operation that names N, Z and C: the bit shifted out, but C itself for an amount of 0 (R103). -/
def nzc (v : Word) (k : Nat) (out : Bool) (fl : Flags) : AluOut :=
  ⟨v, if k = 0 then fl.c else out, fl.v, false⟩

/-- Table 4.10 but for CMP and TST: each instruction with its value, C, V and saturation. -/
inductive AluRow : (PondId → FmtA → Instr) → (Word → Word → Flags → AluOut) → Prop where
  | add : AluRow .add (fun a b _ =>
      ⟨BitVec.ofInt 32 (a.toInt + b.toInt), decide (2 ^ 32 ≤ a.toNat + b.toNat), !fits32 (a.toInt + b.toInt), false⟩)
  | sub : AluRow .sub (fun a b _ =>
      ⟨BitVec.ofInt 32 (a.toInt - b.toInt), decide (b.toNat ≤ a.toNat), !fits32 (a.toInt - b.toInt), false⟩)
  | adc : AluRow .adc (fun a b fl =>
      ⟨BitVec.ofInt 32 (a.toInt + b.toInt + b2n fl.c), decide (2 ^ 32 ≤ a.toNat + b.toNat + b2n fl.c),
        !fits32 (a.toInt + b.toInt + b2n fl.c), false⟩)
  | sbc : AluRow .sbc (fun a b fl =>
      ⟨BitVec.ofInt 32 (a.toInt - b.toInt - b2n (!fl.c)), decide (b.toNat + b2n (!fl.c) ≤ a.toNat),
        !fits32 (a.toInt - b.toInt - b2n (!fl.c)), false⟩)
  | adds : AluRow .adds (fun a b fl =>
      ⟨BitVec.ofInt 32 (clamp32 (a.toInt + b.toInt)), fl.c, !fits32 (a.toInt + b.toInt), !fits32 (a.toInt + b.toInt)⟩)
  | subs : AluRow .subs (fun a b fl =>
      ⟨BitVec.ofInt 32 (clamp32 (a.toInt - b.toInt)), fl.c, !fits32 (a.toInt - b.toInt), !fits32 (a.toInt - b.toInt)⟩)
  | andd : AluRow .andd (fun a b fl => nz (a &&& b) fl)
  | orr : AluRow .orr (fun a b fl => nz (a ||| b) fl)
  | xor : AluRow .xor (fun a b fl => nz (a ^^^ b) fl)
  | andn : AluRow .andn (fun a b fl => nz (a &&& ~~~b) fl)
  | shl : AluRow .shl (fun a b fl =>
      nzc (BitVec.ofNat 32 (a.toNat * 2 ^ (b.toNat % 256))) (b.toNat % 256)
        ((a.toNat * 2 ^ (b.toNat % 256)).testBit 32) fl)
  | shr : AluRow .shr (fun a b fl =>
      nzc (BitVec.ofNat 32 (a.toNat / 2 ^ (b.toNat % 256))) (b.toNat % 256)
        (a.toNat.testBit (b.toNat % 256 - 1)) fl)
  | sar : AluRow .sar (fun a b fl =>
      nzc (BitVec.ofInt 32 (a.toInt.fdiv (2 ^ (b.toNat % 256)))) (b.toNat % 256)
        (decide ((a.toInt.fdiv (2 ^ (b.toNat % 256 - 1))).fmod 2 = 1)) fl)
  | ror : AluRow .ror (fun a b fl =>
      ⟨a.rotateRight (b.toNat % 32), (a.rotateRight (b.toNat % 32)).msb, fl.v, false⟩)
  | slt : AluRow .slt (fun a b fl => nz (BitVec.ofNat 32 (b2n (decide (a.toInt < b.toInt)))) fl)
  | sltu : AluRow .sltu (fun a b fl => nz (BitVec.ofNat 32 (b2n (decide (a.toNat < b.toNat)))) fl)
  | minS : AluRow .minS (fun a b fl => nz (BitVec.ofInt 32 (min a.toInt b.toInt)) fl)
  | maxS : AluRow .maxS (fun a b fl => nz (BitVec.ofInt 32 (max a.toInt b.toInt)) fl)
  | minu : AluRow .minu (fun a b fl => nz (BitVec.ofNat 32 (min a.toNat b.toNat)) fl)
  | maxu : AluRow .maxu (fun a b fl => nz (BitVec.ofNat 32 (max a.toNat b.toNat)) fl)

/-- CMP and TST (Table 4.10). -/
inductive TestRow : (PondId → FmtA → Instr) → (Word → Word → Flags → AluOut) → Prop where
  | cmp : TestRow .cmp (fun a b _ =>
      ⟨BitVec.ofInt 32 (a.toInt - b.toInt), decide (b.toNat ≤ a.toNat), !fits32 (a.toInt - b.toInt), false⟩)
  | tst : TestRow .tst (fun a b fl => nz (a &&& b) fl)

/-- CMPI and TSTI (Table 4.11): the immediate is sign-extended for CMPI, zero-extended for TSTI. -/
inductive ImmTestRow : (PondId → FmtI → Instr) → (Word → BitVec 18 → Flags → AluOut) → Prop where
  | cmpi : ImmTestRow .cmpi (fun a i _ =>
      ⟨BitVec.ofInt 32 (a.toInt - i.toInt), decide ((i.signExtend 32).toNat ≤ a.toNat),
        !fits32 (a.toInt - i.toInt), false⟩)
  | tsti : ImmTestRow .tsti (fun a i fl => nz (BitVec.ofNat 32 (a.toNat &&& i.toNat)) fl)

/-- The immediate group (Table 4.11): which immediates are legal, and the value. -/
inductive ImmRow : (PondId → FmtI → Instr) → (BitVec 18 → Bool) → (Word → BitVec 18 → Word) → Prop where
  | addi : ImmRow .addi (fun _ => true) (fun a i => BitVec.ofInt 32 (a.toInt + i.toInt))
  | andi : ImmRow .andi (fun _ => true) (fun a i => BitVec.ofNat 32 (a.toNat &&& i.toNat))
  | ori : ImmRow .ori (fun _ => true) (fun a i => BitVec.ofNat 32 (a.toNat ||| i.toNat))
  | xori : ImmRow .xori (fun _ => true) (fun a i => BitVec.ofNat 32 (a.toNat ^^^ i.toNat))
  | shli : ImmRow .shli (fun i => decide (i.toNat < 32)) (fun a i => BitVec.ofNat 32 (a.toNat * 2 ^ i.toNat))
  | shri : ImmRow .shri (fun i => decide (i.toNat < 32)) (fun a i => BitVec.ofNat 32 (a.toNat / 2 ^ i.toNat))
  | sari : ImmRow .sari (fun i => decide (i.toNat < 32))
      (fun a i => BitVec.ofInt 32 (a.toInt.fdiv (2 ^ i.toNat)))
  | slti : ImmRow .slti (fun _ => true) (fun a i => BitVec.ofNat 32 (b2n (decide (a.toInt < i.toInt))))
  | sltiu : ImmRow .sltiu (fun _ => true)
      (fun a i => BitVec.ofNat 32 (b2n (decide (a.toNat < (i.signExtend 32).toNat))))

/-- MUL, MULH and MULHU (Table 4.12). -/
inductive MulRow : (PondId → FmtA → Instr) → (Word → Word → Word) → Prop where
  | mul : MulRow .mul (fun a b => BitVec.ofNat 32 (a.toNat * b.toNat))
  | mulh : MulRow .mulh (fun a b => BitVec.ofInt 32 ((a.toInt * b.toInt).fdiv (2 ^ 32)))
  | mulhu : MulRow .mulhu (fun a b => BitVec.ofNat 32 (a.toNat * b.toNat / 2 ^ 32))

/-- DIV, DIVU, REM and REMU (Tables 4.12 and 4.13): the value, and whether Q is set. -/
inductive DivRow : (PondId → FmtA → Instr) → (Word → Word → Word × Bool) → Prop where
  | div : DivRow .div (fun a b =>
      if b.toInt = 0 then (if 0 ≤ a.toInt then 0x7FFFFFFF#32 else 0x80000000#32, true)
      else if a.toInt = -2147483648 ∧ b.toInt = -1 then (0x7FFFFFFF#32, true)
      else (BitVec.ofInt 32 (a.toInt.tdiv b.toInt), false))
  | divu : DivRow .divu (fun a b =>
      if b.toNat = 0 then (0xFFFFFFFF#32, true) else (BitVec.ofNat 32 (a.toNat / b.toNat), false))
  | rem : DivRow .rem (fun a b =>
      if b.toInt = 0 then (a, true)
      else if a.toInt = -2147483648 ∧ b.toInt = -1 then (0#32, true)
      else (BitVec.ofInt 32 (a.toInt - b.toInt * a.toInt.tdiv b.toInt), false))
  | remu : DivRow .remu (fun a b =>
      if b.toNat = 0 then (a, true) else (BitVec.ofNat 32 (a.toNat % b.toNat), false))

/-- The integer is a signed 72-bit number. -/
def fits72 (x : Int) : Bool := decide (-(2 ^ 71) ≤ x) && decide (x < 2 ^ 71)

/-- The integer clamped to the range from −2^71 to 2^71 − 1 (R97). -/
def clamp72 (x : Int) : Int := max (-(2 ^ 71)) (min (2 ^ 71 - 1) x)

/-- MAC, MSU and MACZ (Table 4.12): the exact result from acc, ga and gb. -/
inductive AccRow : (PondId → FmtA → Instr) → (Int → Int → Int → Int) → Prop where
  | mac : AccRow .mac (fun x a b => x + a * b)
  | msu : AccRow .msu (fun x a b => x - a * b)
  | macz : AccRow .macz (fun _ a b => a * b)

/-- t >>a sh with t = acc + 2^(sh−1), or acc for sh 0 (R104). -/
def accRounded (x : Int) (sh : Nat) : Int := if sh = 0 then x else (x + 2 ^ (sh - 1)).fdiv (2 ^ sh)

/-- Part n of acc as ACCRD reads it: acc[31:0], acc[63:32] or sx(acc[71:64]) (Table 4.12). -/
def accPart (x : BitVec 72) (n : Nat) : Word :=
  if n = 0 then BitVec.ofNat 32 x.toNat
  else if n = 1 then BitVec.ofNat 32 (x.toNat / 2 ^ 32)
  else BitVec.ofInt 32 (x.toInt.fdiv (2 ^ 64))

/-- The bit-field group (Table 4.14): what its entry admits, and the value from gd and ga, with whether
it clamped. -/
inductive FieldRow : (PondId → FmtF → Instr) → (Nat → Nat → Bool) → (Nat → Nat → Word → Word → Word × Bool) → Prop
    where
  | extu : FieldRow .extu (fun pos wm1 => decide (pos + (wm1 + 1) ≤ 32))
      (fun pos wm1 _ a => (BitVec.ofNat 32 (a.toNat / 2 ^ pos % 2 ^ (wm1 + 1)), false))
  | exts : FieldRow .exts (fun pos wm1 => decide (pos + (wm1 + 1) ≤ 32))
      (fun pos wm1 _ a => ((a.extractLsb' pos (wm1 + 1)).signExtend 32, false))
  | ins : FieldRow .ins (fun pos wm1 => decide (pos + (wm1 + 1) ≤ 32))
      (fun pos wm1 d a => (BitVec.ofNat 32
        (d.toNat % 2 ^ pos + 2 ^ pos * (a.toNat % 2 ^ (wm1 + 1)) +
          2 ^ (pos + wm1 + 1) * (d.toNat / 2 ^ (pos + wm1 + 1))), false))
  | clz : FieldRow .clz (fun pos wm1 => pos == 0 && wm1 == 0)
      (fun _ _ _ a => (BitVec.ofNat 32 a.clz.toNat, false))
  | popc : FieldRow .popc (fun pos wm1 => pos == 0 && wm1 == 0)
      (fun _ _ _ a => (BitVec.ofNat 32 ((List.range 32).countP (fun i => a.getLsbD i)), false))
  | sats : FieldRow .sats (fun pos _ => pos == 0)
      (fun _ wm1 _ a =>
        let x := max (-(2 ^ wm1)) (min (2 ^ wm1 - 1) a.toInt)
        (BitVec.ofInt 32 x, decide (x ≠ a.toInt)))
  | satu : FieldRow .satu (fun pos wm1 => pos == 0 && decide (wm1 < 31))
      (fun _ wm1 _ a =>
        let x := max 0 (min (2 ^ (wm1 + 1) - 1) a.toInt)
        (BitVec.ofInt 32 x, decide (x ≠ a.toInt)))

/-- The conditions of Bcc, codes 0 to 14 in order: EQ NE CS CC MI PL VS VC HI LS GE LT GT LE AL. -/
def conditions (f : Flags) : List Bool :=
  [f.z, !f.z, f.c, !f.c, f.n, !f.n, f.v, !f.v, f.c && !f.z, !f.c || f.z, f.n == f.v, f.n != f.v,
    !f.z && (f.n == f.v), f.z || (f.n != f.v), true]

/-- The address `n` words after `pc`. -/
def jumpBy (pc : Word) (n : Int) : Word := BitVec.ofInt 32 (pc.toNat + 4 * n)

/-! ### Memory of the core -/

/-- The bytes that a load reads from SRAM and the store buffer, as a little-endian number. -/
def sramValue (P : Pond) (a len : Nat) : Nat := ofLe ((List.range len).map (fun i => sramByte P (a + i)))

/-- Addresses of the SRAM region of Table 4.15. -/
def inSram (a : Nat) : Prop := 0x20000000 ≤ a ∧ a < 0x2001FFC0

/-- The SRAM words that an access of `len` bytes touches carry no ECC error. -/
def eccClean (P : Pond) (a len : Nat) : Prop :=
  ∀ i, (a - 0x20000000) / 4 ≤ i → i ≤ (a + len - 1 - 0x20000000) / 4 → P.ecc.get i = 0

/-- The loads: size in bytes and what gd gets of the value read (R106). -/
inductive LoadRow : (PondId → FmtI → Instr) → Nat → (Nat → Word) → Prop where
  | lb : LoadRow .lb 1 (fun v => BitVec.ofInt 32 (BitVec.ofNat 8 v).toInt)
  | lbu : LoadRow .lbu 1 (fun v => BitVec.ofNat 32 v)
  | lh : LoadRow .lh 2 (fun v => BitVec.ofInt 32 (BitVec.ofNat 16 v).toInt)
  | lhu : LoadRow .lhu 2 (fun v => BitVec.ofNat 32 v)
  | lw : LoadRow .lw 4 (fun v => BitVec.ofNat 32 v)

/-- The stores of one register: size in bytes (R106). -/
inductive StoreRow : (PondId → FmtI → Instr) → Nat → Prop where
  | sb : StoreRow .sb 1
  | sh : StoreRow .sh 2
  | sw : StoreRow .sw 4

/-- `P` is `Q` after an access to SRAM: the pc advanced, the registers `g`, and only the store buffer,
SRAM, its ECC state and what is counted of every instruction otherwise changed. -/
def MemStep (Q P : Pond) (g : Vector Word 16) : Prop :=
  ∃ sb sram ecc hz age per ca n,
    P = { Q with
      sram := sram, ecc := ecc, fresh := n,
      core := { Q.core with
        g := g, sb := sb, pc := Q.core.pc + 4, hazard := hz, accAge := age, perStore := per, ca := ca } }

/-- Every byte of SRAM that a load can see reads in `P` as in `Q`. -/
def SameSram (Q P : Pond) : Prop := ∀ a, 0x20000000 ≤ a → sramByte P a = sramByte Q a

/-- `P` shows the `len` low bytes of `v` from address `a`, and every other byte of SRAM as `Q`. -/
def Stored (Q P : Pond) (a len v : Nat) : Prop :=
  ∀ b, 0x20000000 ≤ b →
    sramByte P b = if a ≤ b ∧ b < a + len then BitVec.ofNat 8 (v / 256 ^ (b - a)) else sramByte Q b

/-- The effective address of a load or store: ga + sx(imm18). -/
def effAddr (Q : Pond) (f : FmtI) : Nat := (BitVec.ofInt 32 ((gr Q f.a).toInt + f.imm.toInt)).toNat

/-! ### Exceptions -/

/-- The saved status word (Table 5.4): [11:8] NEST, [5] IE, [4] Q, [3:0] N Z C V. -/
def statusWord (C : Core) : Nat :=
  256 * C.nest + 32 * b2n C.ie + 16 * b2n C.flags.q + 8 * b2n C.flags.n + 4 * b2n C.flags.z +
    2 * b2n C.flags.c + b2n C.flags.v

/-- The word at `a` is read by the core with no error and no record: committed or erased flash that needs no
retry, SRAM with no ECC error, or ROM. -/
def CleanWord (Q : Pond) (a : Nat) : Prop :=
  a % 4 = 0 ∧
  ((a < 0x40000 ∧ (pondFlashClass Q (flashIx Q.pfl.bank a) = 0 ∨
      (pondFlashClass Q (flashIx Q.pfl.bank a) = 1 ∧ (flashWord Q (flashIx Q.pfl.bank a)).step = 0))) ∨
    (inSram a ∧ eccClean Q a 4) ∨
    (0x30000000 ≤ a ∧ a < 0x30008000))

/-- VBASE (Table 4.3) plus the offset of a vector. -/
def vectorAt (Q : Pond) (off : Nat) : Nat := (rg Q 0x00C).toNat / 256 * 256 + off

/-- The core of `Q` can take an exception whose vector word, at VBASE plus `off`, names the handler `h`
(R133): no gate body runs, NEST is below 4, DF is 0, the frame lies in SRAM, and the vector word and the
handler's first word are read with no error. -/
def CanTake (Q : Pond) (off : Nat) (h : Word) : Prop :=
  Q.core.gate = none ∧ Q.core.df = false ∧ Q.core.nest < 4 ∧
  (gr Q 15).toNat % 8 = 0 ∧ 0x20000010 ≤ (gr Q 15).toNat ∧ (gr Q 15).toNat ≤ 0x2001FFC0 ∧
  CleanWord Q (vectorAt Q off) ∧ (loadPlain Q (vectorAt Q off) 4).1 = some h.toNat ∧ CleanWord Q h.toNat

/-- The exception taken (R132, R133): the frame below g15 holds the return address, the status, g12 and
g14; g15 moves down by 16; NEST rises by 1; IE is 0; the core runs at the handler. No other general
register, acc, flag or byte of SRAM changes, and neither do the registers but for FAULT_INFO and FAULT_ADDR. -/
def Entered (Q P : Pond) (ret h : Word) : Prop :=
  P.core.pc = h ∧ P.core.run = .running ∧ P.core.nest = Q.core.nest + 1 ∧ P.core.ie = false ∧
  P.core.flags = Q.core.flags ∧ P.core.acc = Q.core.acc ∧ P.core.df = false ∧ P.core.gate = none ∧
  P.core.g = vset Q.core.g 15 (gr Q 15 - 16) ∧ P.core.pb = Q.core.pb ∧
  sramValue P ((gr Q 15).toNat - 16) 4 = ret.toNat ∧
  sramValue P ((gr Q 15).toNat - 12) 4 = statusWord Q.core ∧
  sramValue P ((gr Q 15).toNat - 8) 4 = (gr Q 12).toNat ∧
  sramValue P ((gr Q 15).toNat - 4) 4 = (gr Q 14).toNat ∧
  (∀ a, 0x20000000 ≤ a → a < (gr Q 15).toNat - 16 ∨ (gr Q 15).toNat ≤ a → sramByte P a = sramByte Q a) ∧
  (∀ off, off ≠ 0x014 → off ≠ 0x018 → rg P off = rg Q off) ∧
  P.pfl = Q.pfl ∧ P.pic = Q.pic

/-- FAULT_INFO and FAULT_ADDR name the fault (Table 4.6). -/
def FaultIs (P : Pond) (kind : Nat) (addr : Word) : Prop :=
  fld (rg P 0x014) 8 8 = kind ∧ rg P 0x018 = addr

/-- The core of `Q` is inside the body of gate `n`, called from the GATE at its pc (R146): the frame at
0x2001_FF30 holds the return address, g15, g14 and the status; g4 to g11, acc, the flags, the
registers and every other byte of SRAM that `changed` does not name are kept. -/
def InGate (Q P : Pond) (n : Nat) (changed : Nat → Prop) : Prop :=
  P.core.gate = some n ∧ P.core.pc = gateEntry n ∧ gr P 15 = 0x2001FF30 ∧
  sramValue P 0x2001FF30 4 = (Q.core.pc + 4).toNat ∧ sramValue P 0x2001FF34 4 = (gr Q 15).toNat ∧
  sramValue P 0x2001FF38 4 = (gr Q 14).toNat ∧ sramValue P 0x2001FF3C 4 = statusWord Q.core ∧
  (∀ r : RegIx, 4 ≤ r.toNat → r.toNat ≤ 11 → gr P r = gr Q r) ∧ gr P 13 = gr Q 13 ∧ gr P 14 = gr Q 14 ∧
  P.core.acc = Q.core.acc ∧ P.core.flags = Q.core.flags ∧ P.core.nest = Q.core.nest ∧ P.regs = Q.regs ∧
  (∀ a, 0x20000000 ≤ a → ¬ (0x2001FF30 ≤ a ∧ a < 0x2001FF40) → ¬ changed a → sramByte P a = sramByte Q a)

/-- The long instructions with their operands as the record gives them (R117 to R120). -/
inductive LongRow : (PondId → FmtL → Nat → Instr) → LongOp → LRec → Nat → Word → Bool → Prop where
  | bmov (r b pc busy) : LongRow .bmov (bmovOp r busy pc) r b pc busy
  | bcrc (r b pc busy) : LongRow .bcrc (bcrcOp b r busy pc) r b pc busy
  | firb (r b pc busy) : LongRow .firb (firbOp r busy pc) r b pc busy
  | xfrm (r b pc busy) : LongRow .xfrm (xfrmOp r busy pc) r b pc busy

/-! ### The interrupt controller -/

/-- Source `n` is deliverable (R150). -/
def Deliverable (P : Pond) (n : Nat) : Prop :=
  P.pic.pend.getLsbD n = true ∧ fld (rg P 0x104) 0 4 < picPrio P n ∧
  ∀ m < 96, P.pic.act.getLsbD m = true → picPrio P m < picPrio P n

/-- Source `n` is the one a claim chooses: deliverable, of the highest priority, the lowest number among
equals (R150). -/
def Chosen (P : Pond) (n : Nat) : Prop :=
  n < 96 ∧ Deliverable P n ∧
  ∀ m < 96, Deliverable P m → picPrio P m < picPrio P n ∨ (picPrio P m = picPrio P n ∧ n ≤ m)

/-- Bit `i` of a mask is `b`, and every other bit is as in the mask before. -/
def BitIs {n : Nat} (x y : BitVec n) (i : Nat) (b : Bool) : Prop :=
  ∀ j < n, y.getLsbD j = if j = i then b else x.getLsbD j

/-- Source `n` is pending. -/
def Pending (P : Pond) (n : Nat) : Prop := P.pic.pend.getLsbD n = true

/-! ### Sampling and pulses -/

/-- No calibration of either converter is recorded or runs (R169). -/
def NoCal (P : Pond) : Prop := ∀ n < 2, (convOf P n).cal = none ∧ (convOf P n).calReq = none

/-- The code of a voltage in nanovolts (R158): 2^16 codes for 2.5 V, rounded to nearest, clamped. -/
def codeOf (nv : Int) : Int := max (-32767) (min 32767 ((131072 * nv + 2500000000).fdiv 5000000000))

/-- The limits of the calibration factors (Table 6.5). -/
def FactorsPass (f : List Word) : Prop :=
  f.length = 12 ∧ |(f.getD 0 0).toInt| ≤ 16384 ∧
  97 * 2 ^ 31 ≤ 100 * (f.getD 1 0).toNat ∧ 100 * (f.getD 1 0).toNat ≤ 103 * 2 ^ 31 ∧
  ∀ i, 2 ≤ i → i < 12 → |(f.getD i 0).toInt| ≤ 1024

/-- Generator `k` takes a decision in a pond cycle in which nothing was written to it before (R181). -/
def Undisturbed (P : Pond) (k cy : Nat) : Prop :=
  (∀ x, (pgOf P k).snap = some x → x.cycle ≠ cy) ∧ (pgOf P k).armCycle ≠ some cy

/-! ### The sideband bus -/

/-- The controller has ended a transaction with RESULT `r` (R428, Table 16.4). -/
def SbEnded (P : Pond) (r : Nat) : Prop :=
  P.sb.cmd = none ∧ (rg P 0x584).getLsbD 31 = false ∧ (rg P 0x584).getLsbD 21 = true ∧
  fld (rg P 0x584) 16 4 = r ∧ Pending P 44 ∧ (r ≠ 0 → Pending P 45) ∧ P.core.evt.getLsbD 7 = true

/-! ### Epochs -/

/-- The epoch after the next boundary (R43). -/
def epochAfter (e : Option Nat) : Nat := match e with | none => 0 | some x => x + 1

/-- A GSS edge has been issued (R40, R42, R160): counted and stamped with the timebase, which the first edge
starts at 0, in the Shore and, to 1 ns, in every pond, and driven on GSS_OUT in PRIMARY (R44); a converter of a pond in service whose trigger is the GSS edge
and whose divider names this edge has a trigger on its way. Cores, memories and registers but for GSS_CODES
are kept. -/
def EdgeIssued (s t : State) (ext : Bool) : Prop :=
  t.ns = s.ns ∧ t.pending = s.pending ∧
  t.shore.tbs.issued = s.shore.tbs.issued + 1 ∧ t.shore.tbs.edges = s.shore.tbs.edges + 1 ∧
  t.shore.tbs.lastNs = s.ns ∧ t.shore.tbs.ext.getLsbD 0 = ext ∧ t.shore.tbs.epoch = s.shore.tbs.epoch ∧
  t.shore.tbs.stamp = (if s.shore.tbs.issued = 0 then 0 else s.shore.tbs.tb) ∧
  t.shore.tbs.gssOut = (if gssMode s = 1 then some s.ns else none) ∧
  (s.shore.tbs.issued = 0 → t.shore.tbs.tb = 0 ∧ t.shore.tbs.tbRun = true ∧ t.shore.boot.phase = 12) ∧
  ∀ p : PondId,
    (pondOf t p).edges = (pondOf s p).edges + 1 ∧
    (pondOf t p).stamp = (if s.shore.tbs.issued = 0 then 0 else tbNow (pondClock s % 2) (pondOf s p)) ∧
    (s.shore.tbs.issued = 0 → (pondOf t p).tb = 0 ∧ (pondOf t p).tbRun = true) ∧
    (pondOf t p).epoch = (pondOf s p).epoch ∧ (pondOf t p).core = (pondOf s p).core ∧
    (pondOf t p).sram = (pondOf s p).sram ∧
    (∀ off, off ≠ 0x290 → rg (pondOf t p) off = rg (pondOf s p) off) ∧
    ∀ n < 2, (pondOf s p).life.inService = true → fld (rg (pondOf s p) (0x210 + 4 * n)) 0 3 = 1 →
      s.shore.tbs.issued % (fld (rg (pondOf s p) (0x210 + 4 * n)) 28 4 + 1) = 0 →
      (convOf (pondOf t p) n).trigs = (convOf (pondOf s p) n).trigs ++
        [⟨.gss, s.shore.tbs.issued, 16 * s.ns, 16 * s.shore.tbs.issued * lenOf s⟩]

/-! ### Resets -/

/-- Pond `p` is marked as fused out in the OTP row; an uncorrectable word marks none (R394, Table 14.10). -/
def fusedOut (s : State) (p : Nat) : Bool :=
  s.shore.otp.bad.get (8 + p / 32) != 2 && (s.shore.otp.words.get (8 + p / 32)).getLsbD (p % 32)

/-- A pond is in the part (R2, Table 0.2): it is not fused out, and no program of that word of the row is cut now. -/
def LivePond (s : State) (p : PondId) : Prop :=
  fusedOut s p.val = false ∧ ∀ x, s.shore.otp.prog = some x → x.1 ≠ 8 + p.val / 32

/-- A warm device reset has begun with its cause (R77, R78): no command, lease or stream is left, the timebase is
stopped, the token lies with the first steward, every core and its SRAM are at their reset values, and BIST runs
in every pond that is not fused out (R68). -/
def WarmStarted (s t : State) (cause : Nat) : Prop :=
  t.pending = s.pending ∧ t.ns = s.ns ∧ t.shore.boot.por = false ∧ t.shore.boot.cause = BitVec.ofNat 32 cause ∧
  t.shore.boot.startNs = s.ns ∧ t.shore.cmds = [] ∧ t.shore.leases = [] ∧ t.shore.streams = [] ∧
  t.shore.tbs = Tbs.reset ∧
  t.shore.token = (List.range 4).find? (fun q => (portOf t q).role == 0) ∧
  t.shore.boot.phase = 3 ∧ t.shore.boot.applied = false ∧
  ∀ p : PondId, (pondOf t p).core = Core.reset ∧ (pondOf t p).sram = [] ∧
    t.shore.boot.bistWait.getLsbD p.val = (pondOf t p).life.inService ∧
    (LivePond s p → (pondOf t p).life.inService = true)

/-! ### Host commands -/

/-- `d` is the descriptor at the head of context `n` of port `h`, and it is consumed now (R272); commands
consumed earlier carry lower consumption orders. -/
def Consumes (s : State) (h : PortId) (n : CtxId) (d : List Byte) : Prop :=
  d.length = 64 ∧ (∃ r, (ctxOf s h.val n.val).fetched = d :: r) ∧ canConsume s h.val n.val = true ∧
  ∀ x ∈ s.shore.cmds, x.order < s.shore.order

/-- The counts of a consumption (R272): HP_CTX_CONSUMED, the descriptor gone, the consumption order, and
the end of the port's silence. -/
def Counted (s t : State) (h : PortId) (n : CtxId) : Prop :=
  t.ns = s.ns ∧ t.pending = s.pending ∧ t.shore.order = s.shore.order + 1 ∧
  (ctxOf t h.val n.val).consumed = (ctxOf s h.val n.val).consumed + 1 ∧
  (ctxOf t h.val n.val).fetched = (ctxOf s h.val n.val).fetched.drop 1 ∧
  (portOf t h.val).lastUse = some s.ns

/-- APPLY as the descriptor gives it: ASAP is the epoch at consumption plus the default latency (R57). -/
def applyOf (s : State) (d : List Byte) : Nat :=
  if leAt d 8 8 = 2 ^ 64 - 1 then s.shore.tbs.epoch.getD 0 + latOf s else leAt d 8 8

/-- The command is consumed and not complete: it stands last, in this phase. -/
def TakenUp (s t : State) (h : PortId) (n : CtxId) (d : List Byte) (ph : Phase) : Prop :=
  Counted s t h n ∧
  (ctxOf t h.val n.val).owed = (ctxOf s h.val n.val).owed + 1 ∧
  (ctxOf t h.val n.val).seq = (ctxOf s h.val n.val).seq ∧
  t.shore.cmds = s.shore.cmds ++ [{
    port := h.val, ctx := n.val, life := (ctxOf s h.val n.val).life, index := (ctxOf s h.val n.val).consumed,
    desc := d, order := s.shore.order, epoch := s.shore.tbs.epoch.getD 0, apply := applyOf s d,
    asap := leAt d 8 8 == 2 ^ 64 - 1, phase := ph, data := [], collide := false, timing := false,
    mark := if leAt d 0 1 = 0x63 then markClears s (leAt d 4 1) else 0 }]

/-- The writes carry the bytes `l` to host memory from address `a`, in address order, all of one kind, none
longer than `size` (R256). -/
def Sends (ws : List HostWrite) (a : Nat) (l : List Byte) (k : WriteKind) (size : Nat) : Prop :=
  ws.flatMap (·.data) = l ∧ (∀ w ∈ ws, w.kind = k ∧ w.attr = 0 ∧ w.data.length ≤ size) ∧
  ∀ pre w post, ws = pre ++ w :: post → w.addr = a + (pre.flatMap (·.data)).length

/-- Port `h` writes the bytes `l` to host memory from address `a`, in writes of one kind, none longer than its
Max_Payload_Size (R256). -/
def Wrote (t : State) (h a : Nat) (l : List Byte) (k : WriteKind) : Prop :=
  ∃ ws, ws <:+: (portOf t h).posted ∧ Sends ws a l k (maxPayload (portOf t h))

/-- The head of a completion (Table 11.3): STATUS, OPCODE, DETAIL, USER, COMMIT 0, RESULT. -/
def CplSays (l d : List Byte) (status detail result : Nat) : Prop :=
  l.length = 20 ∧ leAt l 0 1 = status ∧ leAt l 1 1 = leAt d 0 1 ∧ leAt l 3 1 = detail ∧
  leAt l 4 2 = leAt d 2 2 ∧ leAt l 6 2 = 0 ∧ leAt l 16 4 = result

/-- The command is consumed and completes at once: a completion with the context's next sequence number
enters the reserve, and no command, pond or sequence of another context changes (R273, R287). -/
def Answered (s t : State) (h : PortId) (n : CtxId) (d : List Byte) (status detail result : Nat) : Prop :=
  Counted s t h n ∧ t.ponds = s.ponds ∧ t.shore.cmds = s.shore.cmds ∧
  (ctxOf t h.val n.val).owed = (ctxOf s h.val n.val).owed ∧
  (ctxOf t h.val n.val).seq = (ctxOf s h.val n.val).seq + 1 ∧
  ∃ e ∈ (portOf t h.val).reserve, e.ctx = n.val ∧ e.seq = (ctxOf s h.val n.val).seq ∧
    e.index = (ctxOf s h.val n.val).consumed ∧ e.order = s.shore.order ∧
    leAt e.head 8 8 = s.shore.tbs.epoch.getD 0 % 2 ^ 64 ∧ CplSays e.head d status detail result

/-- The command `c` completes: it leaves the list, and, where its context's life is the same and the reserve
has a place, its completion enters the reserve (R266, R273, R276). -/
def Completed (s t : State) (c : Cmd) (status detail result : Nat) : Prop :=
  t.shore.cmds = eraseFirst (fun x => x.order == c.order) s.shore.cmds ∧
  (c.port < 4 → c.ctx < 32 → c.life = (ctxOf s c.port c.ctx).life → (portOf s c.port).reserve.length < 256 →
    ∃ e ∈ (portOf t c.port).reserve, e.ctx = c.ctx ∧ e.seq = (ctxOf s c.port c.ctx).seq ∧
      e.index = c.index ∧ e.order = c.order ∧ CplSays e.head c.desc status detail result)

/-- The commands that are held for their apply epoch (R289), with their opcodes (Table 11.4). -/
inductive HeldRow : (PortId → CtxId → Instr) → Nat → Prop where
  | lease : HeldRow .leaseCmd 0x10
  | release : HeldRow .releaseCmd 0x11
  | takeover : HeldRow .takeover 0x12
  | enable : HeldRow .enable 0x31
  | disable : HeldRow .disable 0x32
  | setRef : HeldRow .setRef 0x33
  | groupConfigure : HeldRow .groupConfigure 0x34
  | sluiceClose : HeldRow .sluiceClose 0x41
  | captureStream : HeldRow .captureStream 0x42
  | acctOpen : HeldRow .acctOpen 0x50
  | acctClose : HeldRow .acctClose 0x51
  | acctAssign : HeldRow .acctAssign 0x52
  | utcAnchor : HeldRow .utcAnchor 0x57
  | progSwap : HeldRow .progSwap 0x63
  | alarmClear : HeldRow .alarmClear 0x71

/-- The commands of `HeldRow` whose effect lies in a pond: they go there in an action packet (R58, R291). -/
def actsInPond (op target : Nat) : Prop :=
  op = 0x31 ∨ op = 0x32 ∨ op = 0x33 ∨ op = 0x42 ∨ op = 0x52 ∨ (op = 0x63 ∧ target < 64)

/-- The commands that read an operand from host memory at consumption: opcode, address and length (R295,
R299, R307, R310). -/
inductive OperandRow : (PortId → CtxId → Instr) → Nat → (List Byte → Nat) → (List Byte → Nat) → Prop where
  | configure : OperandRow .configure 0x30 (fun d => leAt d 0x10 8) (fun d => 8 * leAt d 0x18 1 + 8)
  | sluiceOpen : OperandRow .sluiceOpen 0x40 (fun d => leAt d 0x18 8) (fun _ => 64)
  | progWrite : OperandRow .progWrite 0x61 (fun d => leAt d 0x18 8) (fun d => leAt d 0x14 4)
  | spdmXfer : OperandRow .spdmXfer 0x70 (fun d => leAt d 0x10 8) (fun d => leAt d 0x18 4)

/-! ### Attestation -/

/-- The request of command `c` has been read, is the oldest of port `h`, and carries this code (R310, R358);
the key unit holds keys and the port can write. No request of a code that SPDM_XFER does not accept is ready behind
it: such a one is answered in the same step. -/
def SpdmReady (s : State) (h : PortId) (c : Cmd) (code : Nat) : Prop :=
  (∃ r, s.shore.cmds = c :: r ∧
    ∀ x ∈ r, x.port = h.val → x.op = 0x70 → x.phase = .spdm → leAt x.data 1 1 ∈ spdmCodes) ∧ c.port = h.val ∧ c.op = 0x70 ∧ c.phase = .spdm ∧ keysHeld s = true ∧
  canRequest (portOf s h.val) = true ∧ leAt c.data 1 1 = code

/-- The response is written to RSP_ADDR and the command completes with its length, or, where RSP_LEN is
less, with TOO_SMALL and nothing written (R310). -/
def SpdmSays (s t : State) (h : PortId) (c : Cmd) (l : List Byte) : Prop :=
  if l.length ≤ c.arg 0x1C 4 then
    Completed s t c 0 0 (l.length % 2 ^ 32) ∧ Wrote t h.val (c.arg 0x20 8) l (.data c.order)
  else
    Completed s t c 0x20 0 (l.length % 2 ^ 32) ∧ t.shore.keys = s.shore.keys

/-! ### Invariants -/

/-- The buffers of every pond core hold no more than they have places: four stores and eight posts (R122,
R124). -/
def BuffersFit (s : State) : Prop :=
  ∀ p : PondId, (pondOf s p).core.sb.length ≤ 4 ∧ (pondOf s p).core.pb.length ≤ 8

/-- The commands that have not completed stand in consumption order, and the next one gets a higher number than
each of them: the premise of `Consumes`. -/
def OrdersRise (s : State) : Prop :=
  (s.shore.cmds.map (·.order)).Pairwise (· < ·) ∧ ∀ x ∈ s.shore.cmds, x.order < s.shore.order

end Sys2Proof.Machine
end

