-- ==== Sys2Proof/Certificates/Slice0/Obligations.lean ====
section
/-! DEFINITION. The statements for the provers. -/

open Sys2Proof Sys2Proof.Machine

/-! ### The block -/

/-- One step runs the command at the front of the queue on the queue's rest. -/
def Obligations.StepRunsTheFrontCommand : Prop :=
  ∀ (c : Instr) (r : List Instr) (s : State),
    step { s with pending := c :: r } = exec c { s with pending := r }

/-! ### The pond core: arithmetic -/

/-- The ALU register group (Table 4.10) but for CMP and TST: gd gets the value; the flags of its entry are
set with S = 1 and kept with S = 0, but for Q, which saturation sets (R96); the pc advances; nothing else
of the machine changes. -/
def Obligations.AluRegisterGroup : Prop :=
  ∀ c out, AluRow c out → ∀ (s : State) (p : PondId) (Q : Pond) (f : FmtA), Issues s p Q → f.ext = 0 →
    ∃ P, exec (c p f) s = .next (withPond s p P) ∧
      CoreStep Q P (gput Q f.d (out (gr Q f.a) (gr Q f.b) Q.core.flags).v) Q.core.acc
        (if f.s = 1 then (out (gr Q f.a) (gr Q f.b) Q.core.flags).flags Q.core.flags
         else { Q.core.flags with q := Q.core.flags.q || (out (gr Q f.a) (gr Q f.b) Q.core.flags).q })
        (Q.core.pc + 4)

/-- CMP, TST, CMPI and TSTI: flags always, no register written (R102). -/
def Obligations.ComparesSetFlagsOnly : Prop :=
  ∀ (s : State) (p : PondId) (Q : Pond), Issues s p Q →
    (∀ c out, TestRow c out → ∀ f : FmtA, f.ext = 0 → f.s = 0 → f.d = 0 →
      ∃ P, exec (c p f) s = .next (withPond s p P) ∧
        CoreStep Q P Q.core.g Q.core.acc ((out (gr Q f.a) (gr Q f.b) Q.core.flags).flags Q.core.flags)
          (Q.core.pc + 4)) ∧
    (∀ c out, ImmTestRow c out → ∀ f : FmtI, f.d = 0 →
      ∃ P, exec (c p f) s = .next (withPond s p P) ∧
        CoreStep Q P Q.core.g Q.core.acc ((out (gr Q f.a) f.imm Q.core.flags).flags Q.core.flags)
          (Q.core.pc + 4))

/-- The immediate group and LUI (Table 4.11): gd gets the value, no flag changes. -/
def Obligations.ImmediateGroup : Prop :=
  ∀ (s : State) (p : PondId) (Q : Pond), Issues s p Q →
    (∀ c ok val, ImmRow c ok val → ∀ f : FmtI, ok f.imm = true →
      ∃ P, exec (c p f) s = .next (withPond s p P) ∧
        CoreStep Q P (gput Q f.d (val (gr Q f.a) f.imm)) Q.core.acc Q.core.flags (Q.core.pc + 4)) ∧
    (∀ f : FmtU, ∃ P, exec (.lui p f) s = .next (withPond s p P) ∧
      CoreStep Q P (gput Q f.d (BitVec.ofNat 32 (f.imm.toNat * 2 ^ 10))) Q.core.acc Q.core.flags
        (Q.core.pc + 4))

/-- MUL, MULH and MULHU (Table 4.12); DIV, DIVU, REM and REMU, which never raise an exception and set Q in
the special cases of Table 4.13 (R105). -/
def Obligations.MultiplyAndDivide : Prop :=
  (∀ c val, MulRow c val → ∀ (s : State) (p : PondId) (Q : Pond) (f : FmtA), Issues s p Q →
    f.ext = 0 → f.s = 0 →
    ∃ P, exec (c p f) s = .next (withPond s p P) ∧
      CoreStep Q P (gput Q f.d (val (gr Q f.a) (gr Q f.b))) Q.core.acc Q.core.flags (Q.core.pc + 4)) ∧
  (∀ c val, DivRow c val → ∀ (s : State) (p : PondId) (Q : Pond) (f : FmtA), Issues s p Q →
    f.ext = 0 → f.s = 0 →
    ∃ P, exec (c p f) s = .next (withPond s p P) ∧
      CoreStep Q P (gput Q f.d (val (gr Q f.a) (gr Q f.b)).1) Q.core.acc
        { Q.core.flags with q := Q.core.flags.q || (val (gr Q f.a) (gr Q f.b)).2 } (Q.core.pc + 4))

/-- MAC, MSU, MACZ, ACCX, ACCRD, ACCW and ACCZ: results written to acc saturate to 72 bits and set Q when
they do (R97); ACCX rounds and clamps (R104). -/
def Obligations.AccGroup : Prop :=
  ∀ (s : State) (p : PondId) (Q : Pond) (f : FmtA), Issues s p Q → f.s = 0 →
    (∀ c op, AccRow c op → f.ext = 0 → f.d = 0 →
      ∃ P, exec (c p f) s = .next (withPond s p P) ∧
        CoreStep Q P Q.core.g
          (BitVec.ofInt 72 (clamp72 (op Q.core.acc.toInt (gr Q f.a).toInt (gr Q f.b).toInt)))
          { Q.core.flags with
            q := Q.core.flags.q || !fits72 (op Q.core.acc.toInt (gr Q f.a).toInt (gr Q f.b).toInt) }
          (Q.core.pc + 4)) ∧
    (f.a = 0 → f.b = 0 → f.ext.toNat < 64 →
      ∃ P, exec (.accx p f) s = .next (withPond s p P) ∧
        CoreStep Q P
          (gput Q f.d (BitVec.ofInt 32 (clamp32 (accRounded Q.core.acc.toInt f.ext.toNat))))
          Q.core.acc
          { Q.core.flags with
            q := Q.core.flags.q || !fits32 (accRounded Q.core.acc.toInt f.ext.toNat) } (Q.core.pc + 4)) ∧
    (f.a = 0 → f.b = 0 → f.ext.toNat < 3 →
      ∃ P, exec (.accrd p f) s = .next (withPond s p P) ∧
        CoreStep Q P (gput Q f.d (accPart Q.core.acc f.ext.toNat)) Q.core.acc Q.core.flags
          (Q.core.pc + 4)) ∧
    (f.d = 0 → f.b = 0 → f.ext.toNat < 3 →
      ∃ P x, exec (.accw p f) s = .next (withPond s p P) ∧
        CoreStep Q P Q.core.g x Q.core.flags (Q.core.pc + 4) ∧
        (∀ n < 3, n ≠ f.ext.toNat → accPart x n = accPart Q.core.acc n) ∧
        accPart x f.ext.toNat = if f.ext.toNat < 2 then gr Q f.a
          else ((gr Q f.a).extractLsb' 0 8).signExtend 32) ∧
    (f.d = 0 → f.a = 0 → f.b = 0 → f.ext = 0 →
      ∃ P, exec (.accz p f) s = .next (withPond s p P) ∧
        CoreStep Q P Q.core.g 0 Q.core.flags (Q.core.pc + 4))

/-- EXTU, EXTS, INS, CLZ, POPC, SATS and SATU (Table 4.14): gd gets the value, Q is set where it clamped,
and no other flag changes. -/
def Obligations.BitFieldGroup : Prop :=
  ∀ c ok val, FieldRow c ok val → ∀ (s : State) (p : PondId) (Q : Pond) (f : FmtF), Issues s p Q →
    f.z = 0 → ok f.pos.toNat f.wm1.toNat = true →
    ∃ P, exec (c p f) s = .next (withPond s p P) ∧
      CoreStep Q P (gput Q f.d (val f.pos.toNat f.wm1.toNat (gr Q f.d) (gr Q f.a)).1) Q.core.acc
        { Q.core.flags with
          q := Q.core.flags.q || (val f.pos.toNat f.wm1.toNat (gr Q f.d) (gr Q f.a)).2 } (Q.core.pc + 4)

/-! ### The pond core: control flow, memory, system -/

/-- Bcc, CALL, BZ, BNZ, DBNZ, and JR and CALLR to a word-aligned address (Table 4.16): the pc moves, the
link goes to g14, and no flag changes. -/
def Obligations.Branches : Prop :=
  ∀ (s : State) (p : PondId) (Q : Pond), Issues s p Q →
    (∀ f : FmtB, f.cond ≠ 15 →
      ∃ P, exec (.bcc p f) s = .next (withPond s p P) ∧
        CoreStep Q P Q.core.g Q.core.acc Q.core.flags
          (if (conditions Q.core.flags)[f.cond.toNat]? = some true then jumpBy Q.core.pc f.off.toInt
           else Q.core.pc + 4)) ∧
    (∀ f : FmtC, ∃ P, exec (.call p f) s = .next (withPond s p P) ∧
      CoreStep Q P (gput Q 14 (Q.core.pc + 4)) Q.core.acc Q.core.flags (jumpBy Q.core.pc f.off.toInt)) ∧
    (∀ f : FmtI, f.a = 0 →
      (∃ P, exec (.bz p f) s = .next (withPond s p P) ∧
        CoreStep Q P Q.core.g Q.core.acc Q.core.flags
          (if gr Q f.d = 0 then jumpBy Q.core.pc f.imm.toInt else Q.core.pc + 4)) ∧
      (∃ P, exec (.bnz p f) s = .next (withPond s p P) ∧
        CoreStep Q P Q.core.g Q.core.acc Q.core.flags
          (if gr Q f.d = 0 then Q.core.pc + 4 else jumpBy Q.core.pc f.imm.toInt)) ∧
      (∃ P, exec (.dbnz p f) s = .next (withPond s p P) ∧
        CoreStep Q P (gput Q f.d (gr Q f.d - 1)) Q.core.acc Q.core.flags
          (if gr Q f.d = 1 then Q.core.pc + 4 else jumpBy Q.core.pc f.imm.toInt))) ∧
    (∀ f : FmtA, f.d = 0 → f.b = 0 → f.s = 0 → f.ext = 0 → (gr Q f.a).toNat % 4 = 0 →
      (∃ P, exec (.jr p f) s = .next (withPond s p P) ∧
        CoreStep Q P Q.core.g Q.core.acc Q.core.flags (gr Q f.a)) ∧
      (∃ P, exec (.callr p f) s = .next (withPond s p P) ∧
        CoreStep Q P (gput Q 14 (Q.core.pc + 4)) Q.core.acc Q.core.flags (gr Q f.a)))

/-- NOP, EI, DI, TBRD and EPRD (Table 4.17): NOP changes nothing, EI and DI write IE, TBRD and EPRD read
the timebase copy and the registered epoch into a pair. -/
def Obligations.SystemGroup : Prop :=
  ∀ (s : State) (p : PondId) (Q : Pond) (f : FmtS), Issues s p Q → f.a = 0 → f.imm = 0 →
    (f.d = 0 →
      (∃ P, exec (.nop p f) s = .next (withPond s p P) ∧
        CoreStep Q P Q.core.g Q.core.acc Q.core.flags (Q.core.pc + 4)) ∧
      (∃ P, exec (.ei p f) s = .next (withPond s p P) ∧
        CoreStep { Q with core := { Q.core with ie := true } } P Q.core.g Q.core.acc Q.core.flags
          (Q.core.pc + 4)) ∧
      (∃ P, exec (.di p f) s = .next (withPond s p P) ∧
        CoreStep { Q with core := { Q.core with ie := false } } P Q.core.g Q.core.acc Q.core.flags
          (Q.core.pc + 4))) ∧
    (f.d.toNat % 2 = 0 →
      (∃ P, exec (.tbrd p f) s = .next (withPond s p P) ∧
        CoreStep Q P (gputPair Q f.d Q.tb) Q.core.acc Q.core.flags (Q.core.pc + 4)) ∧
      (∃ P, exec (.eprd p f) s = .next (withPond s p P) ∧
        CoreStep Q P (gputPair Q f.d (BitVec.ofNat 64 (Q.epoch.getD 0))) Q.core.acc Q.core.flags
          (Q.core.pc + 4)))

/-- LB, LBU, LH, LHU, LW and LD from SRAM with no ECC error: the newest bytes, from the store buffer or
SRAM, little-endian; every byte reads as before (R106, R122). -/
def Obligations.LoadsFromSram : Prop :=
  ∀ (s : State) (p : PondId) (Q : Pond) (f : FmtI), Issues s p Q → inSram (effAddr Q f) →
    (∀ c len ext, LoadRow c len ext → effAddr Q f % len = 0 → eccClean Q (effAddr Q f) len →
      ∃ P, exec (c p f) s = .next (withPond s p P) ∧
        MemStep Q P (gput Q f.d (ext (sramValue Q (effAddr Q f) len))) ∧ SameSram Q P) ∧
    (f.d.toNat % 2 = 0 → effAddr Q f % 8 = 0 → eccClean Q (effAddr Q f) 8 →
      ∃ P, exec (.ld p f) s = .next (withPond s p P) ∧
        MemStep Q P (gputPair Q f.d (BitVec.ofNat 64 (sramValue Q (effAddr Q f) 8))) ∧ SameSram Q P)

/-- SB, SH, SW and SD to SRAM: the bytes stored read back, and every other byte of SRAM reads as before; no
register changes (R106, R122). SB and SH read the word they merge with, which holds no ECC error. The
oldest entry of the store buffer retires: SRAM takes it, the entry leaves, and a load reads every byte as
before; with no entry nothing changes. -/
def Obligations.StoresThroughTheStoreBuffer : Prop :=
  (∀ (s : State) (p : PondId) (Q : Pond) (f : FmtI), Issues s p Q → inSram (effAddr Q f) →
    (∀ c len, StoreRow c len → effAddr Q f % len = 0 →
      (len < 4 → eccClean Q (effAddr Q f / 4 * 4) 4) →
      ∃ P, exec (c p f) s = .next (withPond s p P) ∧
        MemStep Q P Q.core.g ∧ Stored Q P (effAddr Q f) len (gr Q f.d).toNat) ∧
    (f.d.toNat % 2 = 0 → effAddr Q f % 8 = 0 →
      ∃ P, exec (.sd p f) s = .next (withPond s p P) ∧
        MemStep Q P Q.core.g ∧
        Stored Q P (effAddr Q f) 8 ((gr Q f.d).toNat + 2 ^ 32 * (gr Q (f.d + 1)).toNat))) ∧
  (∀ (s : State) (p : PondId),
    ∃ P, exec (.storeRetire p) s = .next (withPond s p P) ∧
      P.core.sb = (pondOf s p).core.sb.drop 1 ∧ SameSram (pondOf s p) P ∧
      ∃ sb sram ecc, P = { pondOf s p with
        sram := sram, ecc := ecc, core := { (pondOf s p).core with sb := sb } })

/-- SW and SD to a send port whose record is defined post a message stamped with the registered epoch and
the incarnation; a full post buffer stalls the core instead (R43, R124, R247). The oldest post leaves to the Weir
with the header of Table 9.3, a post that stalls the core then enters the buffer, and its store completes; a
post to a sluice that is not open is discarded and counted (R124, R238). -/
def Obligations.PostsGoThroughThePostBuffer : Prop :=
  (∀ (s : State) (p : PondId) (Q : Pond) (f : FmtI) (n : Nat), Issues s p Q → n < 32 →
    effAddr Q f = 0x50000000 + 8 * n → bit (Q.sendRec.get (2 * n)) 31 = true →
    (∃ P, exec (.sw p f) s = .next (withPond s p P) ∧
      if Q.core.pb.length < 8 then
        CoreStep { Q with core := { Q.core with
            pb := Q.core.pb ++
              [⟨0, n, false, (gr Q f.d).setWidth 64, Q.epoch.getD 0, Q.life.inc, (pctx s p).cyc⟩] } } P
          Q.core.g Q.core.acc Q.core.flags (Q.core.pc + 4)
      else CoreStep { Q with core := { Q.core with
            stalled := some ⟨0, n, false, (gr Q f.d).setWidth 64, Q.epoch.getD 0, Q.life.inc, (pctx s p).cyc⟩,
            waitCyc := (pctx s p).cyc } } P
          Q.core.g Q.core.acc Q.core.flags Q.core.pc) ∧
    (f.d.toNat % 2 = 0 →
      ∃ P, exec (.sd p f) s = .next (withPond s p P) ∧
        if Q.core.pb.length < 8 then
          CoreStep { Q with core := { Q.core with
              pb := Q.core.pb ++
                [⟨0, n, true, gr Q (f.d + 1) ++ gr Q f.d, Q.epoch.getD 0, Q.life.inc, (pctx s p).cyc⟩] } } P
            Q.core.g Q.core.acc Q.core.flags (Q.core.pc + 4)
        else CoreStep { Q with core := { Q.core with
              stalled := some ⟨0, n, true, gr Q (f.d + 1) ++ gr Q f.d, Q.epoch.getD 0, Q.life.inc, (pctx s p).cyc⟩,
              waitCyc := (pctx s p).cyc } } P
            Q.core.g Q.core.acc Q.core.flags Q.core.pc)) ∧
  (∀ (s : State) (p : PondId) (x : Post) (r : List Post), (pondOf s p).core.pb = x :: r →
    (pondOf s p).life.incWait = false → bit (sendWord (pondOf s p) x.port) 31 = true →
    ∃ P, exec (.postAccepted p) s = .next (withPond s p P) ∧
      P.core.pb = r ++ (pondOf s p).core.stalled.toList ∧ P.core.stalled = none ∧
      P.core.pc = (if (pondOf s p).core.stalled.isSome then (pondOf s p).core.pc + 4
        else (pondOf s p).core.pc) ∧
      P.core.g = (pondOf s p).core.g ∧ P.sram = (pondOf s p).sram ∧
      if bit (sendWord (pondOf s p) x.port) 30 = false ∨
          slOpenAt (pctx s p) (fld (sendWord (pondOf s p) x.port) 16 8) x.epoch = true then
        rg P 0x64C = rg (pondOf s p) 0x64C + 1 ∧ (∀ off, off ≠ 0x64C → rg P off = rg (pondOf s p) off) ∧
        ∃ k : Packet, P.out = (pondOf s p).out ++ [k] ∧
          k.dest = fld (sendWord (pondOf s p) x.port) 8 7 ∧ k.src = p.val ∧ k.cls = 0 ∧ k.len = 0 ∧
          k.tag = x.inc.toNat ∧ k.sendPort = x.port % 32 ∧ k.kind = x.kind % 8 ∧ k.data0 = x.data ∧ k.body = [] ∧
          k.apply = (x.epoch + (if fld (sendWord (pondOf s p) x.port) 0 4 = 0 then latOf s
            else fld (sendWord (pondOf s p) x.port) 0 4)) % 65536 ∧
          k.sluice = if bit (sendWord (pondOf s p) x.port) 30 then
            some (fld (sendWord (pondOf s p) x.port) 16 8) else none
      else P.out = (pondOf s p).out ∧
        (rg P 0x644).toNat = min (2 ^ 32 - 1) ((rg (pondOf s p) 0x644).toNat + 1) ∧
        ∀ off, off ≠ 0x644 → rg P off = rg (pondOf s p) off)

/-- WAITE completes at once where a masked latch is set, and else waits; WAITE_WAKE completes it. On
completion every latch of the mask is cleared, but latch 5 stays while a source is deliverable (R110; latch 5:
assumption 10); while an interrupt is due, WAITE goes on waiting and the interrupt is taken first (R110,
R131). FENCE completes at once where the buffers its mask names are empty (bit 0 the store buffer,
bit 1 the post buffer), and else waits; FENCE_DONE completes it once they are (R126). -/
def Obligations.WaitsComplete : Prop :=
  ((∀ (s : State) (p : PondId) (Q : Pond) (f : FmtS), Issues s p Q → f.d = 0 → f.a = 0 →
    f.imm ≠ 0 → f.imm.toNat < 256 →
    ∃ P, exec (.waite p f) s = .next (withPond s p P) ∧
      if Q.core.evt &&& f.imm.setWidth 8 = 0 then
        P = { Q with core := { Q.core with run := .waiting (f.imm.setWidth 8), waitCyc := (pctx s p).cyc } }
      else CoreStep (picLatch { Q with core := { Q.core with
          evt := Q.core.evt &&& ~~~(f.imm.setWidth 8), run := .running } }) P
        Q.core.g Q.core.acc Q.core.flags (Q.core.pc + 4)) ∧
  (∀ (s : State) (p : PondId) (m : BitVec 8), (pondOf s p).core.run = .waiting m →
    (pondOf s p).core.evt &&& m ≠ 0 → (pondOf s p).core.halted = false →
    (irqDue (pondOf s p) = false →
      ∃ P, exec (.waiteWake p) s = .next (withPond s p P) ∧
        CoreStep (picLatch { pondOf s p with core := { (pondOf s p).core with
            evt := (pondOf s p).core.evt &&& ~~~m, run := .running } }) P
          (pondOf s p).core.g (pondOf s p).core.acc (pondOf s p).core.flags ((pondOf s p).core.pc + 4)) ∧
    (irqDue (pondOf s p) = true → exec (.waiteWake p) s = .next s))) ∧
  ((∀ (s : State) (p : PondId) (Q : Pond) (f : FmtS), Issues s p Q → f.d = 0 → f.a = 0 →
    1 ≤ f.imm.toNat → f.imm.toNat ≤ 3 →
    ∃ P, exec (.fence p f) s = .next (withPond s p P) ∧
      if (f.imm.toNat % 2 = 1 → Q.core.sb = []) ∧ (2 ≤ f.imm.toNat → Q.core.pb = []) then
        CoreStep Q P Q.core.g Q.core.acc Q.core.flags (Q.core.pc + 4)
      else P = { Q with core := { Q.core with
        run := .fencing (f.imm.setWidth 2), waitCyc := (pctx s p).cyc } }) ∧
  (∀ (s : State) (p : PondId) (m : BitVec 2), (pondOf s p).core.run = .fencing m →
    (m.toNat % 2 = 1 → (pondOf s p).core.sb = []) → (2 ≤ m.toNat → (pondOf s p).core.pb = []) →
    (pondOf s p).core.halted = false →
    ∃ P, exec (.fenceDone p) s = .next (withPond s p P) ∧
      CoreStep { pondOf s p with core := { (pondOf s p).core with run := .running } } P
        (pondOf s p).core.g (pondOf s p).core.acc (pondOf s p).core.flags ((pondOf s p).core.pc + 4)))

/-- The exceptions that an instruction raises as its own effect: TRAP with its code, BRK of a pond that no
debugger has unlocked, a word that the core does not assign (R101, R129, R133), and a gate that is not
implemented, with reason 1 and the gate number in FAULT_ADDR (R147). The TYPE of the first three, and the
address of BRK and ILLEGAL, are the model's (assumption 11). BRK halts the core of a pond that a debugger
has unlocked (R129, R374). -/
def Obligations.SoftwareExceptions : Prop :=
  (∀ (s : State) (p : PondId) (Q : Pond) (h : Word), Issues s p Q →
    (∀ f : FmtS, f.d = 0 → f.a = 0 → CanTake Q 0x18 h →
      ∃ P, exec (.trap p f) s = .next (withPond s p P) ∧ Entered Q P (Q.core.pc + 4) h ∧
        FaultIs P 5 (f.imm.setWidth 32)) ∧
    (∀ f : FmtS, f.d = 0 → f.a = 0 → f.imm = 0 → bit s.shore.keys.unlocked p.val = false →
      CanTake Q 0x20 h →
      ∃ P a, exec (.brk p f) s = .next (withPond s p P) ∧ Entered Q P (Q.core.pc + 4) h ∧ FaultIs P 7 a) ∧
    (∀ w : Word, PondWord.unassigned w = true → CanTake Q 0x08 h →
      ∃ P a, exec (.illegalInstruction p w) s = .next (withPond s p P) ∧ Entered Q P Q.core.pc h ∧
        FaultIs P 1 a)) ∧
  (∀ (s : State) (p : PondId) (Q : Pond) (f : FmtS), Issues s p Q → f.d = 0 → f.a = 0 → f.imm = 0 →
    bit s.shore.keys.unlocked p.val = true →
    exec (.brk p f) s = .next (withPond s p { Q with core := { Q.core with halted := true } })) ∧
  (∀ (s : State) (p : PondId) (Q : Pond) (n : BitVec 8) (f : FmtG) (h : Word), Issues s p Q →
    5 ≤ n.toNat → f.d = 0 → f.a = 0 → f.hi = 0 → CanTake Q 0x1C h →
    ∃ P, exec (.gateNotImplemented p n f) s = .next (withPond s p P) ∧ Entered Q P Q.core.pc h ∧
      FaultIs P 6 (BitVec.ofNat 32 (0x1000 + n.toNat)))

/-- An unaligned access raises ALIGN, an access that Table 4.15 does not permit raises ACCESS, and neither
writes a register or a byte of memory; JR and CALLR to an unaligned address raise ALIGN at the jump with
g14 unchanged (R106, R107, R109). -/
def Obligations.BadAccessesRaise : Prop :=
  ∀ (s : State) (p : PondId) (Q : Pond) (h : Word), Issues s p Q →
    (∀ f : FmtI, CanTake Q 0x0C h → effAddr Q f % 4 ≠ 0 →
      (∃ P, exec (.lw p f) s = .next (withPond s p P) ∧ Entered Q P Q.core.pc h ∧
        FaultIs P 2 (BitVec.ofNat 32 (effAddr Q f))) ∧
      (∃ P, exec (.sw p f) s = .next (withPond s p P) ∧ Entered Q P Q.core.pc h ∧
        FaultIs P 2 (BitVec.ofNat 32 (effAddr Q f)))) ∧
    (∀ f : FmtI, CanTake Q 0x10 h → effAddr Q f % 4 = 0 →
      (0x2001FFC0 ≤ effAddr Q f ∧ effAddr Q f < 0x20020000 →
        ∃ P, exec (.sw p f) s = .next (withPond s p P) ∧ Entered Q P Q.core.pc h ∧
          FaultIs P 3 (BitVec.ofNat 32 (effAddr Q f))) ∧
      (0x20020000 ≤ effAddr Q f ∧ effAddr Q f < 0x30000000 →
        ∃ P, exec (.lw p f) s = .next (withPond s p P) ∧ Entered Q P Q.core.pc h ∧
          FaultIs P 3 (BitVec.ofNat 32 (effAddr Q f)))) ∧
    (∀ f : FmtA, CanTake Q 0x0C h → f.d = 0 → f.b = 0 → f.s = 0 → f.ext = 0 → (gr Q f.a).toNat % 4 ≠ 0 →
      (∃ P, exec (.jr p f) s = .next (withPond s p P) ∧ Entered Q P Q.core.pc h ∧
        FaultIs P 2 (gr Q f.a)) ∧
      (∃ P, exec (.callr p f) s = .next (withPond s p P) ∧ Entered Q P Q.core.pc h ∧
        FaultIs P 2 (gr Q f.a)))

/-- RETE restores the pc, the flags, g12, g14, IE and NEST from the frame at g15 and adds 16 to g15 (R135);
in a gate body it restores the caller's g15, g14, flags and IE from the gate frame and goes on at GATE + 4
(R146). Every byte of SRAM reads as before. -/
def Obligations.ReteRestores : Prop :=
  (∀ (s : State) (p : PondId) (Q : Pond) (f : FmtS), Issues s p Q → f.d = 0 → f.a = 0 → f.imm = 0 →
    Q.core.df = false → 1 ≤ Q.core.nest → (gr Q 15).toNat % 8 = 0 →
    0x20000000 ≤ (gr Q 15).toNat → (gr Q 15).toNat + 16 ≤ 0x2001FFC0 → eccClean Q (gr Q 15).toNat 16 →
    ∃ P, exec (.rete p f) s = .next (withPond s p P) ∧
      P.core.pc.toNat = sramValue Q (gr Q 15).toNat 4 ∧
      statusWord P.core % 64 = sramValue Q ((gr Q 15).toNat + 4) 4 % 64 ∧
      P.core.nest = sramValue Q ((gr Q 15).toNat + 4) 4 / 256 % 16 ∧
      P.core.g = vset (vset (vset Q.core.g 12 (BitVec.ofNat 32 (sramValue Q ((gr Q 15).toNat + 8) 4)))
        14 (BitVec.ofNat 32 (sramValue Q ((gr Q 15).toNat + 12) 4))) 15 (gr Q 15 + 16) ∧
      P.core.acc = Q.core.acc ∧ P.core.pb = Q.core.pb ∧ P.regs = Q.regs ∧ SameSram Q P) ∧
  (∀ (s : State) (p : PondId) (n : Nat) (f : FmtS), f.d = 0 → f.a = 0 → f.imm = 0 →
    (pondOf s p).core.gate = some n → (pondOf s p).core.run = .running → heldBack (pondOf s p) = false →
    ∃ P, exec (.rete p f) s = .next (withPond s p P) ∧ P.core.gate = none ∧
      P.core.pc.toNat = sramValue (pondOf s p) 0x2001FF30 4 ∧
      P.core.g = vset (vset (pondOf s p).core.g 15 (BitVec.ofNat 32 (sramValue (pondOf s p) 0x2001FF34 4)))
        14 (BitVec.ofNat 32 (sramValue (pondOf s p) 0x2001FF38 4)) ∧
      statusWord P.core % 64 = sramValue (pondOf s p) 0x2001FF3C 4 % 64 ∧
      P.core.nest = (pondOf s p).core.nest ∧ P.core.acc = (pondOf s p).core.acc ∧
      P.regs = (pondOf s p).regs ∧ SameSram (pondOf s p) P)

/-- An interrupt at an interrupt point of a running core, or in WAITE, is taken as the IRQ vector says,
with the instruction at the pc as its return address (R131, R112). -/
def Obligations.InterruptIsTaken : Prop :=
  ∀ (s : State) (p : PondId) (h : Word), irqDue (pondOf s p) = true → (pondOf s p).core.halted = false →
    (pondOf s p).core.stalled = none → (pondOf s p).core.long = none →
    (pondOf s p).core.run = .running ∨ (∃ m, (pondOf s p).core.run = .waiting m) →
    CanTake (pondOf s p) 0x24 h →
    ∃ P, exec (.irq p) s = .next (withPond s p P) ∧ Entered (pondOf s p) P (pondOf s p).core.pc h ∧
      P.regs = (pondOf s p).regs

/-! ### Gates and long instructions -/

/-- ROM_INFO, PFL_ERASE, PFL_PROGRAM, CAL_READ and ID_READ with arguments that pass their checks enter the
gate body and give their service (R146, R384, R170, Table 5.8). The ROM's version and identity record are the
part's (assumption 9), the stepping's code is that of HP_ID (assumption 48). -/
def Obligations.GateServices : Prop :=
  ∀ (s : State) (p : PondId) (Q : Pond) (f : FmtG), Issues s p Q → Q.core.gate = none →
    f.d = 0 → f.a = 0 → f.hi = 0 →
    (∃ P, exec (.romInfo p f) s = .next (withPond s p P) ∧ InGate Q P 0 (fun _ => False) ∧
      gr P 0 = Config.romVersion ∧ gr P 1 = Config.stepping) ∧
    ((gr Q 0).toNat ≤ 63 → Q.pfl.op = none →
      ∃ P, exec (.pflErase p f) s = .next (withPond s p P) ∧ InGate Q P 2 (fun _ => False) ∧
        gr P 0 = 0 ∧ P.pfl.op = some ⟨1, true, inactiveBase Q + 128 * (gr Q 0).toNat, [], 0⟩ ∧
        P.pfl.verified = false ∧ P.pfl.words = Q.pfl.words) ∧
    ((gr Q 0).toNat ≤ 63 → Q.pfl.op ≠ none →
      ∃ P, exec (.pflErase p f) s = .next (withPond s p P) ∧ InGate Q P 2 (fun _ => False) ∧
        gr P 0 = 1 ∧ P.pfl = Q.pfl) ∧
    ((gr Q 0).toNat ≤ 0x3FFE0 → (gr Q 0).toNat % 32 = 0 → (gr Q 1).toNat % 4 = 0 →
      0x20000000 ≤ (gr Q 1).toNat → (gr Q 1).toNat + 32 ≤ 0x2001FF00 → eccClean Q (gr Q 1).toNat 32 →
      Q.pfl.op = none →
      ∃ P, exec (.pflProgram p f) s = .next (withPond s p P) ∧ InGate Q P 1 (fun _ => False) ∧
        gr P 0 = 0 ∧
        P.pfl.op = some ⟨1, false, inactiveBase Q + (gr Q 0).toNat / 32,
          [BitVec.ofNat 256 (sramValue Q (gr Q 1).toNat 32)], 0⟩ ∧
        P.pfl.verified = false ∧ P.pfl.words = Q.pfl.words) ∧
    ((gr Q 0).toNat ≤ 1 → (gr Q 1).toNat % 4 = 0 → 0x20000000 ≤ (gr Q 1).toNat →
      (gr Q 1).toNat + 48 ≤ 0x2001FF00 → (convOf Q (gr Q 0).toNat).factors.length = 12 →
      ∃ P, exec (.calRead p f) s = .next (withPond s p P) ∧
        InGate Q P 3 (fun a => (gr Q 1).toNat ≤ a ∧ a < (gr Q 1).toNat + 48) ∧
        ∀ i (hi : i < (convOf Q (gr Q 0).toNat).factors.length),
          sramValue P ((gr Q 1).toNat + 4 * i) 4 = (convOf Q (gr Q 0).toNat).factors[i].toNat) ∧
    ((gr Q 0).toNat % 4 = 0 → 0x20000000 ≤ (gr Q 0).toNat → (gr Q 0).toNat + 32 ≤ 0x2001FF00 →
      ∃ P, exec (.idRead p f) s = .next (withPond s p P) ∧
        InGate Q P 4 (fun a => (gr Q 0).toNat ≤ a ∧ a < (gr Q 0).toNat + 32) ∧
        ∀ i < 32, sramByte P ((gr Q 0).toNat + i) = Config.identityByte p.val i)

/-- BMOV from SRAM to SRAM, with STATE 0, ranges that Table 4.15 permits, no ECC error and enough units in
one command, leaves what a copy through a temporary buffer would give, overlapping or not; it completes with
STATE 2 and DONE equal to COUNT in its record, acc and the flags kept (R114, R117). -/
def Obligations.BmovCopies : Prop :=
  ∀ (s : State) (p : PondId) (Q : Pond) (f : FmtL) (units base src dst n : Nat), Issues s p Q →
    f.d = 0 → f.b = 0 → f.s = 0 → f.ext = 0 → f.func = 0 →
    base = (gr Q f.a).toNat → base % 32 = 0 → 0x20000000 ≤ base → base + 32 ≤ 0x2001FFC0 →
    sramValue Q base 1 = 0 → sramValue Q (base + 8) 4 = src → sramValue Q (base + 12) 4 = dst →
    sramValue Q (base + 16) 4 = n →
    0x20000000 ≤ src → src + n ≤ 0x2001FFC0 → 0x20000000 ≤ dst → dst + n ≤ 0x2001FFC0 →
    (dst + n ≤ base ∨ base + 32 ≤ dst) →
    (∀ i, Q.ecc.get i = 0) → n ≤ 32 * units →
    ∃ P, exec (.bmov p f units) s = .next (withPond s p P) ∧
      (∀ i < n, sramByte P (dst + i) = sramByte Q (src + i)) ∧
      (∀ a, 0x20000000 ≤ a → ¬ (dst ≤ a ∧ a < dst + n) → ¬ (base ≤ a ∧ a < base + 8) →
        sramByte P a = sramByte Q a) ∧
      sramValue P base 4 = 0x38000002 ∧ sramValue P (base + 4) 4 = n ∧
      P.core.pc = Q.core.pc + 4 ∧ P.core.g = Q.core.g ∧ P.core.acc = Q.core.acc ∧
      P.core.flags = Q.core.flags ∧ P.core.long = none ∧ P.regs = Q.regs

/-- A long instruction whose record and operands pass their checks and whose units meet no error completes:
STATE 2 and DONE equal to the total in its record, the pc advanced, acc, N, Z, C, V and the registers kept
(R113, R114). `total` and the units are those of R117 to R120. -/
def Obligations.LongInstructionsComplete : Prop :=
  ∀ (s : State) (p : PondId) (Q : Pond) (f : FmtL) (units base : Nat), Issues s p Q →
    f.d = 0 → f.b = 0 → f.s = 0 → f.ext = 0 → f.func = 0 →
    base = (gr Q f.a).toNat → base % 32 = 0 → 0x20000000 ≤ base → base + 32 ≤ 0x2001FFC0 →
    sramValue Q base 1 = 0 → (∀ i, Q.ecc.get i = 0) →
    ∀ c o, LongRow c o (readRec (drainSb Q) base) base Q.core.pc Q.pfl.op.isSome → o.fault = none →
      (longUnits o units 0 (charge 6 0 (drainSb Q))).1 = none →
      (longUnits o units 0 (charge 6 0 (drainSb Q))).2.1 = o.total →
      ∃ P, exec (c p f units) s = .next (withPond s p P) ∧ P.core.long = none ∧
        P.core.pc = Q.core.pc + 4 ∧ P.core.acc = Q.core.acc ∧
        P.core.flags.n = Q.core.flags.n ∧ P.core.flags.z = Q.core.flags.z ∧
        P.core.flags.c = Q.core.flags.c ∧ P.core.flags.v = Q.core.flags.v ∧
        sramValue P base 4 = 2 ^ 24 * o.op.toNat + 2 ∧ sramValue P (base + 4) 4 = o.total % 2 ^ 32

/-! ### The interrupt controller and the check-value units -/

/-- A claim chooses by R150, clears the source's pending bit, sets its active bit, and returns VALID, PRIO
and SOURCE; with no deliverable source it returns 0 and changes nothing (R151). -/
def Obligations.ClaimTakesTheChosenSource : Prop :=
  ∀ (s : State) (p : PondId),
    (∀ n, Chosen (pondOf s p) n →
      ∃ P, exec (.picClaim p) s = .next { withPond s p P with
          rdata := BitVec.ofNat 32 (2 ^ 31 + 2 ^ 16 * picPrio (pondOf s p) n + n) } ∧
        P = { pondOf s p with pic := P.pic } ∧ P.pic.lost = (pondOf s p).pic.lost ∧
        BitIs (pondOf s p).pic.pend P.pic.pend n false ∧ BitIs (pondOf s p).pic.act P.pic.act n true) ∧
    ((∀ n < 96, ¬ Deliverable (pondOf s p) n) →
      exec (.picClaim p) s = .next { s with rdata := 0 })

/-- An event through PIC_SWTRIG sets the source's pending bit, or is lost and counted where it is already
set; SRC from 96 upward sets BAD_SRC and changes nothing else (R149). A completion clears an active bit;
without one it sets BAD_COMPLETE, and for a source from 96 to 127 BAD_SRC (R152). -/
def Obligations.EventsAndCompletions : Prop :=
  (∀ (s : State) (p : PondId) (v : Word), v.getLsbD 7 = true →
    ∃ P, exec (.picSwtrig p v) s = .next (withPond s p P) ∧ P.pic.act = (pondOf s p).pic.act ∧
      P.core.pc = (pondOf s p).core.pc ∧ P.core.g = (pondOf s p).core.g ∧ P.sram = (pondOf s p).sram ∧
      if 96 ≤ v.toNat % 128 then
        P = { pondOf s p with regs := P.regs } ∧ BitIs (rg (pondOf s p) 0x110) (rg P 0x110) 29 true ∧
          ∀ off, off ≠ 0x110 → rg P off = rg (pondOf s p) off
      else if (pondOf s p).pic.pend.getLsbD (v.toNat % 128) = true then
        P.pic.pend = (pondOf s p).pic.pend ∧ BitIs (pondOf s p).pic.lost P.pic.lost (v.toNat % 128) true ∧
          fld (rg P 0x118) 0 16 = min 65535 (fld (rg (pondOf s p) 0x118) 0 16 + 1) ∧
          ∀ off, off ≠ 0x118 → rg P off = rg (pondOf s p) off
      else P.pic.lost = (pondOf s p).pic.lost ∧ P.regs = (pondOf s p).regs ∧
        BitIs (pondOf s p).pic.pend P.pic.pend (v.toNat % 128) true) ∧
  (∀ (s : State) (p : PondId) (v : Word),
    ∃ P, exec (.picComplete p v) s = .next (withPond s p P) ∧ P.pic.pend = (pondOf s p).pic.pend ∧
      P.pic.lost = (pondOf s p).pic.lost ∧ (∀ off, off ≠ 0x110 → rg P off = rg (pondOf s p) off) ∧
      if 96 ≤ v.toNat % 128 then
        P.pic.act = (pondOf s p).pic.act ∧ BitIs (rg (pondOf s p) 0x110) (rg P 0x110) 29 true
      else if (pondOf s p).pic.act.getLsbD (v.toNat % 128) = true then
        BitIs (pondOf s p).pic.act P.pic.act (v.toNat % 128) false ∧ P.regs = (pondOf s p).regs
      else P.pic.act = (pondOf s p).pic.act ∧ BitIs (rg (pondOf s p) 0x110) (rg P 0x110) 30 true)

/-- START sets V to INIT and COUNT to 0; a store to FEED feeds FEEDN bytes, the least significant first;
FINISH writes the output, sets DONE with its event and compares with EXPECT where COMPARE asks for it;
the other unit is not touched (R408, R410, R413). -/
def Obligations.CheckValueUnits : Prop :=
  ∀ (s : State) (p : PondId) (k : Fin 2),
    (exec (.cvuStart p k) s = .next (withPond s p { pondOf s p with
      cvu := vset (pondOf s p).cvu k.val { (pondOf s p).cvu[k] with
        v := BitVec.ofNat 64 ((pondOf s p).cvu[k].init.toNat % 2 ^ cvuWidth (cvuCfg (pondOf s p) k.val)),
        count := 0 } })) ∧
    (∀ v : Word, 1 ≤ fld (cvuCfg (pondOf s p) k.val) 20 3 → fld (cvuCfg (pondOf s p) k.val) 20 3 ≤ 4 →
      exec (.cvuFeed p k v) s = .next (withPond s p { pondOf s p with
        cvu := vset (pondOf s p).cvu k.val { (pondOf s p).cvu[k] with
          v := BitVec.ofNat 64 (((List.range (fld (cvuCfg (pondOf s p) k.val) 20 3)).foldl
            (fun x i => crcFeed (cvuWidth (cvuCfg (pondOf s p) k.val)) (pondOf s p).cvu[k].poly.toNat
              (bit (cvuCfg (pondOf s p) k.val) 16) x [BitVec.ofNat 8 (v.toNat / 256 ^ i)])
            ((pondOf s p).cvu[k].v.toNat % 2 ^ cvuWidth (cvuCfg (pondOf s p) k.val)))),
          count := (pondOf s p).cvu[k].count + BitVec.ofNat 32 (fld (cvuCfg (pondOf s p) k.val) 20 3) } })) ∧
    (∃ P, exec (.cvuFinish p k) s = .next (withPond s p P) ∧
      P.cvu = vset (pondOf s p).cvu k.val { (pondOf s p).cvu[k] with
        result := BitVec.ofNat 64 ((pondOf s p).cvu[k].output (cvuCfg (pondOf s p) k.val)) } ∧
      (rg P 0x544).getLsbD (8 * k.val) = true ∧ P.pic.pend.getLsbD (40 + k.val) = true ∧
      (bit (cvuCfg (pondOf s p) k.val) 19 = true →
        if (pondOf s p).cvu[k].output (cvuCfg (pondOf s p) k.val) =
            (pondOf s p).cvu[k].expect.toNat % 2 ^ cvuWidth (cvuCfg (pondOf s p) k.val)
        then (rg P 0x544).getLsbD (8 * k.val + 1) = true
        else (rg P 0x544).getLsbD (8 * k.val + 2) = true ∧ P.pic.pend.getLsbD (42 + k.val) = true))

/-! ### Sampling -/

/-- A trigger edge that reaches an enabled, calibrated converter starts a burst with the configuration in
force; one that comes while the converter is busy is refused, counted as an overrun and raises ADC_SEQ_OVR.
A store to SWTRIG triggers a converter whose source is software (R160 to R162). -/
def Obligations.ConverterTriggers : Prop :=
  ∀ (s : State) (p : PondId) (n : Fin 2), NoCal (pondOf s p) →
    bit (rg (pondOf s p) 0x200) n.val = true → (convOf (pondOf s p) n.val).ready = true →
    (∀ e r, (convOf (pondOf s p) n.val).trigs = e :: r →
      ∃ P, exec (.adcTrigger p n) s = .next (withPond s p P) ∧
        if (convOf (pondOf s p) n.val).busyTill ≤ e.t then
          P = { pondOf s p with
            tap := P.tap,
            conv := vset (pondOf s p).conv n.val { convOf (pondOf s p) n.val with
              trigs := r, burst := some ⟨e, n.val == 1, convSlots (pondOf s p) n.val, 0⟩,
              busyTill := e.t + 800 * (convSlots (pondOf s p) n.val).length } }
        else (convOf P n.val).burst = (convOf (pondOf s p) n.val).burst ∧ (convOf P n.val).trigs = r ∧
          fld (rg P 0x26C) (16 * n.val) 16 =
            min 65535 (fld (rg (pondOf s p) 0x26C) (16 * n.val) 16 + 1) ∧
          Pending P 8) ∧
    (fld (rg (pondOf s p) (0x210 + 4 * n.val)) 0 3 = 3 →
      (convOf (pondOf s p) n.val).busyTill ≤ 16 * s.ns →
      ∃ P, exec (.swtrig p (BitVec.ofNat 2 (2 ^ n.val))) s = .next (withPond s p P) ∧
        P = { pondOf s p with
          tap := P.tap,
          conv := vset (pondOf s p).conv n.val { convOf (pondOf s p) n.val with
            burst := some ⟨⟨.sw, s.ns, 16 * s.ns, 0⟩, n.val == 1, convSlots (pondOf s p) n.val, 0⟩,
            busyTill := 16 * s.ns + 800 * (convSlots (pondOf s p) n.val).length } })

/-- A slot's code goes to the slot's result register and the converter's latest result, the result count
rises, and the burst moves to its next slot or ends (R158, R164). -/
def Obligations.SlotResults : Prop :=
  ∀ (s : State) (p : PondId) (x : Fin 2) (nv : Int) (b : Burst),
    (convOf (pondOf s p) x.val).burst = some b → b.next < b.slots.length → b.slots.length ≤ 8 →
    ∃ P, exec (.slotResult p x nv) s = .next (withPond s p P) ∧
      fld (rg P (0x220 + 32 * b2n b.owner + 4 * b.next)) 16 16 = (BitVec.ofInt 16 (codeOf nv)).toNat ∧
      rg P (0x218 + 4 * b2n b.owner) =
        BitVec.ofNat 32 (65536 * b.next + (BitVec.ofInt 16 (codeOf nv)).toNat) ∧
      rg P (0x298 + 4 * b2n b.owner) = rg (pondOf s p) (0x298 + 4 * b2n b.owner) + 1 ∧
      (convOf P x.val).burst =
        (if b.next + 1 < b.slots.length then some { b with next := b.next + 1 } else none) ∧
      P.core.g = (pondOf s p).core.g ∧ P.sram = (pondOf s p).sram

/-- A write to ADC_CAL records a recalibration where none is recorded or runs (R169). A start-up
calibration that ends makes the converter ready; it takes the new factors where all pass, and else the pond
does not start and is reported; the last of the device start ends step 6, and the start goes on unless the
regeneration still runs (R68, R93). At run time the result waits for the return to service (R170). -/
def Obligations.Calibration : Prop :=
  ∀ (s : State) (p : PondId),
    (∀ v : Word, NoCal (pondOf s p) → ¬ (v.getLsbD 1 = true ∧ v.getLsbD 8 = true) →
      ∃ P, exec (.adcCal p v) s = .next (withPond s p P) ∧ P = { pondOf s p with conv := P.conv } ∧
        (convOf P 0).calReq = (if v.getLsbD 0 then some (v.getLsbD 8) else none) ∧
        (convOf P 1).calReq = (if v.getLsbD 1 then some false else none)) ∧
    (∀ (n : Fin 2) (settled : Bool) (f : List Word) (q : CalRun), f.length = 12 →
      (convOf (pondOf s p) n.val).cal = some q →
      s.shore.boot.applied = true ∨ s.shore.boot.phase < 3 ∨ s.shore.boot.bistWait ≠ 0 ∨
        ((pondOf s p).life.inService = true ∧ (convOf (pondOf s p) (1 - n.val)).cal ≠ none) →
      ∃ t P, exec (.calibrationEnd p n settled f) s = .next t ∧
        t = { withPond s p P with shore := { s.shore with boot := { s.shore.boot with
          report := t.shore.boot.report } } } ∧
        (q.endEp = none → ¬ (settled = true ∧ FactorsPass f) → (pondOf s p).life.nostart = false →
          t.shore.boot.report = s.shore.boot.report ++ [BitVec.ofNat 32 (3 * 2 ^ 28 + 65536 * p.val)]) ∧
        (q.endEp ≠ none ∨ (settled = true ∧ FactorsPass f) ∨ (pondOf s p).life.nostart = true →
          t.shore.boot.report = s.shore.boot.report) ∧
        (q.endEp = none → (convOf P n.val).ready = true ∧ (convOf P n.val).cal = none ∧
          (settled = true ∧ FactorsPass f → (convOf P n.val).factors = f ∧
            P.life = (pondOf s p).life ∧ fld (rg P 0x20C) (8 * n.val) 2 = 0) ∧
          (¬ (settled = true ∧ FactorsPass f) → P.life.nostart = true ∧
            (convOf P n.val).factors = (convOf (pondOf s p) n.val).factors ∧
            fld (rg P 0x20C) (8 * n.val) 2 = if settled then 1 else 2)) ∧
        (q.endEp ≠ none → P = { pondOf s p with conv := P.conv } ∧
          (convOf P n.val).factors = (convOf (pondOf s p) n.val).factors ∧
          ∃ q', (convOf P n.val).cal = some q' ∧ q'.endEp = q.endEp ∧ q'.res.isSome = true)) ∧
    (∀ (n : Fin 2) (settled : Bool) (f : List Word) (q : CalRun), (convOf (pondOf s p) n.val).cal = some q →
      q.endEp = none → s.shore.boot.applied = false → 3 ≤ s.shore.boot.phase → s.shore.boot.bistWait = 0 →
      (∀ (m : PondId) (x : Fin 2), (m, x) ≠ (p, n) → (pondOf s m).life.inService = true →
        (convOf (pondOf s m) x.val).cal = none) →
      ∃ t, exec (.calibrationEnd p n settled f) s = .next t ∧
        (s.shore.boot.wellWait = true → t.shore.boot.phase = 6 ∧ t.shore.boot.applied = false) ∧
        (s.shore.boot.wellWait = false → t.shore.boot.phase = 10 ∧ t.shore.boot.applied = true))

/-- The capture buffer: CLEAR empties it; a load pops the oldest entry, or reads 0 where it is empty or a
stream owns it (R167). A load of CAP_DATA pops its FIFO's oldest entry, or reads 0 (R199). -/
def Obligations.CaptureReads : Prop :=
  ∀ (s : State) (p : PondId),
    exec (.cbufClear p) s = .next (withPond s p { pondOf s p with cbuf := [] }) ∧
    (∀ w e r, (pondOf s p).cbuf = (w, e) :: r → (rg (pondOf s p) 0x27C).getLsbD 31 = false →
      exec (.adcCbufData p) s = .next { withPond s p { pondOf s p with cbuf := r } with rdata := w }) ∧
    ((pondOf s p).cbuf = [] ∨ (rg (pondOf s p) 0x27C).getLsbD 31 = true →
      exec (.adcCbufData p) s = .next { s with rdata := 0 }) ∧
    (∀ (i : Fin 4) w r, (pondOf s p).cap.fifo[i] = w :: r →
      exec (.capData p i) s = .next { withPond s p { pondOf s p with cap := { (pondOf s p).cap with
        fifo := (pondOf s p).cap.fifo.set i r } } with rdata := w }) ∧
    (∀ i : Fin 4, (pondOf s p).cap.fifo[i] = [] → exec (.capData p i) s = .next { s with rdata := 0 })

/-- An enabled comparator whose input lies beyond its threshold, CODE × 2.5 V / 1,024 (R173), outside blanking
trips: it forces the PWM pins of its
mask idle at the balls, sets TRIPPED and raises its source; during blanking it does not, and trips at the
blanking's end if the output is still active. The output becomes inactive where the input lies back past the
threshold by the hysteresis of 0, 5, 10 or 20 mV (R173). A write of 1 to TRIPPED ends a latched force once the output
is inactive, and else changes nothing (R174, R176). A FLT pin at its
active level forces the PWM pins of its mask idle at the balls and sets FLT_FORCED; a write of 1 to FLT_FORCED
ends the force once the pin is inactive, and else changes nothing (R200). -/
def Obligations.ForcesAtTheBalls : Prop :=
  (∀ (s : State) (p : PondId) (n : Fin 2),
    (let ctrl := rg (pondOf s p) (0x300 + 4 * n.val)
     let level := 2500000000 * ((rg (pondOf s p) (0x308 + 4 * n.val)).extractLsb' 0 10).toInt
     let hyst : Int := 1024000000 * [0, 5, 10, 20].getD (fld ctrl 4 2) 0
     ∀ nv : Int,
      (bit ctrl 0 = true → (cmpOf (pondOf s p) n.val).done = false →
        (if bit ctrl 6 then 1024 * nv < level else level < 1024 * nv) →
        ∃ P, exec (.cmpTrip p ⟨n, nv⟩) s = .next (withPond s p P) ∧ (cmpOf P n.val).out = true ∧
          if (cmpOf (pondOf s p) n.val).blank then
            (cmpOf P n.val).force = (cmpOf (pondOf s p) n.val).force ∧ P.regs = (pondOf s p).regs ∧
              P.pic = (pondOf s p).pic
          else (∀ k < 4, bit ctrl (20 + k) = true → ball P k = false) ∧
            bit (rg P 0x310) n.val = true ∧ Pending P (10 + n.val)) ∧
      ((if bit ctrl 6 then level + hyst < 1024 * nv else 1024 * nv < level - hyst) →
        exec (.cmpOutputInactive p ⟨n, nv⟩) s = .next (withPond s p { pondOf s p with
          cmp := vset (pondOf s p).cmp n.val { cmpOf (pondOf s p) n.val with out := false, done := false } })) ∧
      (¬ (if bit ctrl 6 then level + hyst < 1024 * nv else 1024 * nv < level - hyst) →
        exec (.cmpOutputInactive p ⟨n, nv⟩) s = .next s)) ∧
    ((cmpOf (pondOf s p) n.val).blank = true → (cmpOf (pondOf s p) n.val).out = true →
      (cmpOf (pondOf s p) n.val).done = false →
      ∃ P, exec (.blankingEnd p n) s = .next (withPond s p P) ∧
        (∀ k < 4, bit (rg (pondOf s p) (0x300 + 4 * n.val)) (20 + k) = true → ball P k = false) ∧
        bit (rg P 0x310) n.val = true ∧ Pending P (10 + n.val)) ∧
    ((cmpOf (pondOf s p) n.val).out = false →
      ∃ P, exec (.blankingEnd p n) s = .next (withPond s p P) ∧ (cmpOf P n.val).blank = false ∧
        P.regs = (pondOf s p).regs ∧ P.pic = (pondOf s p).pic) ∧
    (∀ m : BitVec 2, m.getLsbD n.val = true →
      ∃ P, exec (.trippedClear p m) s = .next (withPond s p P) ∧
        if (cmpOf (pondOf s p) n.val).out then
          (cmpOf P n.val).force = (cmpOf (pondOf s p) n.val).force ∧
            bit (rg P 0x310) n.val = bit (rg (pondOf s p) 0x310) n.val
        else bit (rg P 0x310) n.val = false ∧
          (bit (rg (pondOf s p) (0x300 + 4 * n.val)) 7 = false → (cmpOf P n.val).force = 0))) ∧
  (∀ (s : State) (p : PondId) (n : Fin 2),
    (fltActive (pondOf s p) n.val = true →
      ∃ P, exec (.fltActive p n) s = .next (withPond s p P) ∧
        (∀ k < 4, bit (rg (pondOf s p) 0x500) (20 + 4 * n.val + k) = true → ball P k = false) ∧
        bit (rg P 0x504) (24 + n.val) = true) ∧
    (∀ m : BitVec 2, m.getLsbD n.val = true →
      ∃ P, exec (.fltForcedClear p m) s = .next (withPond s p P) ∧
        if fltActive (pondOf s p) n.val then
          bit (rg P 0x504) (24 + n.val) = bit (rg (pondOf s p) 0x504) (24 + n.val) ∧
            (if n.val = 0 then P.cap.force0 = (pondOf s p).cap.force0
              else P.cap.force1 = (pondOf s p).cap.force1)
        else bit (rg P 0x504) (24 + n.val) = false ∧
          (if n.val = 0 then P.cap.force0 = 0 else P.cap.force1 = 0)))

/-- A selected edge on a capture pin enters its FIFO with the level and the timebase to 1 ns, sets event latch 6 and
raises CAP_ENTRY; with the FIFO full it is lost and raises CAP_OVF (R198, R199). Event timers: a store to
ET_CMP_LO disarms, a store to ET_CMP_HI stores its bit 31 as ARMED, and an armed timer whose compare value
the copy has reached fires once and disarms (R196, R197). -/
def Obligations.CaptureUnitsAndTimers : Prop :=
  ∀ (s : State) (p : PondId),
    (∀ (i : Fin 4) (level : Bool), (i.val < 2 ∨ bit (rg (pondOf s p) 0x500) (14 + i.val) = false) →
      bit (pondOf s p).cap.pins i.val = !level →
      bit (rg (pondOf s p) 0x500) (2 * i.val + b2n (!level)) = true →
      ∃ P, exec (.captureEdge p i level) s = .next (withPond s p P) ∧
        bit P.cap.pins i.val = level ∧
        if (pondOf s p).cap.fifo[i].length < 4 then
          P.cap.fifo[i] = (pondOf s p).cap.fifo[i] ++
            [BitVec.ofNat 32 (2 ^ 31 + 2 ^ 30 * b2n level + (tbNow (pondClock s % 2) (pondOf s p)).toNat % 2 ^ 30)] ∧
          P.core.evt.getLsbD 6 = true ∧ Pending P (32 + i.val)
        else P.cap.fifo = (pondOf s p).cap.fifo ∧ bit (rg P 0x504) (28 + i.val) = true ∧
          Pending P (36 + i.val)) ∧
    (∀ (k : Fin 8) (v : Word),
      (exec (.etCmpHi p k v) s = .next (withPond s p { pondOf s p with
        regs := (pondOf s p).regs.set (0x4A0 + 4 * k.val) v })) ∧
      (∃ P, exec (.etCmpLo p k v) s = .next (withPond s p P) ∧ P = { pondOf s p with regs := P.regs } ∧
        rg P (0x480 + 4 * k.val) = v ∧
        BitIs (rg (pondOf s p) (0x4A0 + 4 * k.val)) (rg P (0x4A0 + 4 * k.val)) 31 false)) ∧
    (∀ (k : Fin 8) (c : Nat), (rg (pondOf s p) (0x4A0 + 4 * k.val)).getLsbD 31 = true →
      c = 2 ^ 32 * fld (rg (pondOf s p) (0x4A0 + 4 * k.val)) 0 31 +
        (rg (pondOf s p) (0x480 + 4 * k.val)).toNat →
      (c ≤ (pondOf s p).tb.toNat → (pondOf s p).tb.toNat < c + 2 ^ 63 →
        ∃ P, exec (.etFire p k) s = .next (withPond s p P) ∧ Pending P (24 + k.val) ∧
          BitIs (rg (pondOf s p) (0x4A0 + 4 * k.val)) (rg P (0x4A0 + 4 * k.val)) 31 false) ∧
      ((pondOf s p).tb.toNat < c → exec (.etFire p k) s = .next s))

/-! ### Pulses and lanes -/

/-- An arming write to PG_PRELOAD of a firmware-armed generator stores the duty and sets fresh; CLRFRESH clears
it; EN from 0 to 1 schedules the grid for the next boundary; EN from 1 to 0 idles the pin, clears fresh and
stops the grid (R180 to R182, R185). Generators 1 and 3 are those of an unpaired pair. -/
def Obligations.PulseArming : Prop :=
  ∀ (s : State) (p : PondId) (k : Fin 4),
    (∀ v : Word, fld (pgCfg (pondOf s p) k.val) 3 2 = 2 →
      (pgOf (pondOf s p) k.val).endCycle ≠ some (pctx s p).cyc →
      ∃ P, exec (.pgPreload p k v) s = .next (withPond s p P) ∧
        (pgOf P k.val).fresh = true ∧ fld (rg P (0x3B0 + 4 * k.val)) 0 21 = v.toNat % 2 ^ 21 ∧
        (∀ off, off ≠ 0x3B0 + 4 * k.val → rg P off = rg (pondOf s p) off) ∧
        (∀ j, j ≠ k.val → pgOf P j = pgOf (pondOf s p) j) ∧
        (pgOf P k.val).duty = (pgOf (pondOf s p) k.val).duty) ∧
    (∀ m : BitVec 4, m.getLsbD k.val = true → (pgOf (pondOf s p) k.val).armCycle ≠ some (pctx s p).cyc →
      ∃ P, exec (.clrfresh p m) s = .next (withPond s p P) ∧ (pgOf P k.val).fresh = false ∧
        P.regs = (pondOf s p).regs) ∧
    (pgSlave (pondOf s p) k.val = false → bit (pgCfg (pondOf s p) k.val) 0 = false →
      (pgOf (pondOf s p) k.val).grid = .stopped →
      ∃ P, exec (.pgGridEnable p k) s = .next (withPond s p P) ∧
        bit (pgCfg P k.val) 0 = true ∧ (pgOf P k.val).grid = .pending ∧
        (∀ j, j ≠ k.val → pgOf P j = pgOf (pondOf s p) j)) ∧
    (pgSlave (pondOf s p) k.val = false → bit (pgCfg (pondOf s p) k.val) 0 = true →
      ∃ P, exec (.pgGridDisable p k) s = .next (withPond s p P) ∧
        bit (pgCfg P k.val) 0 = false ∧ (pgOf P k.val).grid = .stopped ∧ (pgOf P k.val).fresh = false ∧
        ball P k.val = false)

/-- At a period end with no write in its pond cycle, an unpaired or even generator gives its source an event
and decides: with fresh, the next period is armed with PG_PRELOAD and PG_PERIOD and fresh clears; without, it
is dark, and the miss is counted and raises its source (R181); with ARM 3 it is never armed (R182). A waiting grid begins its first period
(R180, R212). An armed, unpaired generator's pin rises at t_r and falls at t_f (R183). -/
def Obligations.PulsePeriods : Prop :=
  ∀ (s : State) (p : PondId) (k : Fin 4), pgSlave (pondOf s p) k.val = false →
    (Undisturbed (pondOf s p) k.val (pctx s p).cyc → (pgOf (pondOf s p) k.val).held = none →
      (pgOf (pondOf s p) k.val).move = false → (pgOf (pondOf s p) k.val).grid = .running →
      ∃ P, exec (.periodEnd p k) s = .next (withPond s p P) ∧ Pending P (12 + k.val) ∧
        (pgOf P k.val).fresh =
          ((pgOf (pondOf s p) k.val).fresh && decide (fld (pgCfg (pondOf s p) k.val) 3 2 = 3)) ∧
        if (pgOf (pondOf s p) k.val).fresh ∧ fld (pgCfg (pondOf s p) k.val) 3 2 ≠ 3 then
          (pgOf P k.val).armed = true ∧
            (pgOf P k.val).duty = fld (rg (pondOf s p) (0x3B0 + 4 * k.val)) 0 21 ∧
            (pgOf P k.val).period = fld (rg (pondOf s p) (0x3A0 + 4 * k.val)) 0 21
        else (pgOf P k.val).armed = false ∧ Pending P (16 + k.val) ∧
          (pgOf P k.val).period = (pgOf (pondOf s p) k.val).period ∧
          fld (rg P 0x388) (8 * k.val) 8 = min 255 (fld (rg (pondOf s p) 0x388) (8 * k.val) 8 + 1)) ∧
    (∀ gap, Undisturbed (pondOf s p) k.val (pctx s p).cyc → (pgOf (pondOf s p) k.val).held = none →
      (pgOf (pondOf s p) k.val).grid = .waiting gap →
      ∃ P, exec (.firstPeriodStart p k) s = .next (withPond s p P) ∧ (pgOf P k.val).grid = .running ∧
        (pgOf P k.val).armed =
          ((pgOf (pondOf s p) k.val).fresh && decide (fld (pgCfg (pondOf s p) k.val) 3 2 ≠ 3)) ∧
        ((pgOf (pondOf s p) k.val).fresh = false → gap = false → rg P 0x388 = rg (pondOf s p) 0x388)) ∧
    ((pgOf (pondOf s p) k.val).grid = .running → (pgOf (pondOf s p) k.val).armed = true →
      pgPaired (pondOf s p) k.val = false → 0 < (pgOf (pondOf s p) k.val).duty →
      0 < (pgOf (pondOf s p) k.val).period →
      (∃ P, exec (.compareEdge p k 0) s = .next (withPond s p P) ∧ (pgOf P k.val).drive = true) ∧
      ((pgTimes (pondOf s p) k.val).2 < (pgOf (pondOf s p) k.val).period →
        ∃ P, exec (.compareEdge p k 1) s = .next (withPond s p P) ∧ (pgOf P k.val).drive = false))

/-- A lane's oldest computation writes its output and error, raises the lane's count, latch and source, and in
hardware mode with its target's ARM naming the lane stores the duty and sets fresh (R189). A write to LE_REF
stores the reference, clears RAMP, and clears REF_SRC unless the block is locked (R190). LE_COEF_DATA reads
the selected word, and a write stores an unlocked one (R202). -/
def Obligations.LaneOutputs : Prop :=
  ∀ (s : State) (p : PondId) (k : Fin 2),
    (∀ z r, (laneOf (pondOf s p) k.val).runs = z :: r →
      ∃ P, exec (.laneOutput p k) s = .next (withPond s p P) ∧ (laneOf P k.val).runs = r ∧
        rg P (0x430 + 4 * k.val) = (BitVec.ofInt 24 z.out).signExtend 32 ∧
        rg P (0x428 + 4 * k.val) = (BitVec.ofInt 24 z.err).signExtend 32 ∧
        rg P (0x448 + 4 * k.val) = rg (pondOf s p) (0x448 + 4 * k.val) + 1 ∧
        P.core.evt.getLsbD (2 + k.val) = true ∧ Pending P (20 + k.val) ∧
        (z.mode = 1 → z.tgtEn = true → z.target < 4 → (pgOf (pondOf s p) z.target).held = none →
          fld (pgCfg (pondOf s p) z.target) 3 2 = k.val → z.duty < 2 ^ 21 →
          (pgOf P z.target).fresh = true ∧ fld (rg P (0x3B0 + 4 * z.target)) 0 21 = z.duty)) ∧
    (∀ v : Word, ∃ P, exec (.leRef p k v) s = .next (withPond s p P) ∧
      rg P (0x420 + 4 * k.val) = BitVec.ofNat 32 (v.toNat % 2 ^ 24) ∧
      bit (rg P (0x418 + 4 * k.val)) 7 = false ∧
      bit (rg P (0x418 + 4 * k.val)) 5 =
        (bit (rg (pondOf s p) 0x400) 31 && bit (rg (pondOf s p) (0x418 + 4 * k.val)) 5) ∧
      (∀ off, off ≠ 0x420 + 4 * k.val → off ≠ 0x418 + 4 * k.val → rg P off = rg (pondOf s p) off)) ∧
    (∀ i, fld (rg (pondOf s p) 0x408) 0 5 = i → fld (rg (pondOf s p) 0x408) 8 1 = k.val →
      (∃ P, exec (.leCoefData p none) s = .next { withPond s p P with
          rdata := coefView (laneOf (pondOf s p) k.val) i } ∧ P.lane = (pondOf s p).lane ∧
        fld (rg P 0x408) 0 5 = if bit (rg (pondOf s p) 0x408) 31 then (i + 1) % 32 else i) ∧
      (∀ v : Word, i < 18 → bit (rg (pondOf s p) 0x400) 31 = false →
        ∃ P, exec (.leCoefData p (some v)) s = .next (withPond s p P) ∧
          (laneOf P k.val).coef.get i = BitVec.ofNat 32 (v.toNat % 2 ^ 24) ∧
          ∀ j, j ≠ i → (laneOf P k.val).coef.get j = (laneOf (pondOf s p) k.val).coef.get j))

/-! ### The sideband bus -/

/-- SB_CMD: a well-formed command of an enabled, idle controller is accepted; while BUSY it is lost with CMD_LOST
and nothing else changes; a malformed one ends with BAD_CMD and while HELD or RECOVERING with HELD, nothing being driven
(R423, R424, R426). START follows on the free bus, and not before it can be free (R427). SB_BUF_DATA reads and writes the selected word, a
transmit word only while no transaction runs (R435). -/
def Obligations.SidebandCommands : Prop :=
  ∀ (s : State) (p : PondId), bit (rg (pondOf s p) 0x580) 0 = true →
    (∀ w : Word, bit (rg (pondOf s p) 0x584) 31 = false → (∀ a, (pondOf s p).sb.roundAt = some a → s.ns < a) →
      bit (rg (pondOf s p) 0x584) 29 = false →
      (fld w 30 2 = 0 → fld w 19 9 ≤ 256 → fld w 10 9 ≤ 256 → ¬ (bit w 28 = true ∧ fld w 19 9 = 0) →
        ∃ P, exec (.sbCmd p w) s = .next (withPond s p P) ∧ P.sb.cmd = some w ∧ P.sb.started = false ∧
          BitIs (rg (pondOf s p) 0x584) (rg P 0x584) 31 true ∧ P.pic = (pondOf s p).pic) ∧
      (sbMalformed (pondOf s p) (setFld w 30 2 1) = false →
        ∃ P, exec (.groupCommand p w) s = .next (withPond s p P) ∧ P.sb.cmd = some (setFld w 30 2 1) ∧
          P.sb.started = false ∧ BitIs (rg (pondOf s p) 0x584) (rg P 0x584) 31 true) ∧
      (2 ≤ fld w 30 2 →
        ∃ P, exec (.sbCmd p w) s = .next (withPond s p P) ∧ SbEnded P 9)) ∧
    (∀ w : Word, bit (rg (pondOf s p) 0x584) 31 = false →
      (bit (rg (pondOf s p) 0x584) 29 = true ∨ ∃ a, (pondOf s p).sb.roundAt = some a ∧ a ≤ s.ns) →
      ∃ P, exec (.sbCmd p w) s = .next (withPond s p P) ∧ SbEnded P 7) ∧
    (∀ w : Word, bit (rg (pondOf s p) 0x584) 31 = true →
      ∃ P, exec (.sbCmd p w) s = .next (withPond s p P) ∧ P = { pondOf s p with regs := P.regs } ∧
        BitIs (rg (pondOf s p) 0x584) (rg P 0x584) 22 true ∧
        ∀ off, off ≠ 0x584 → rg P off = rg (pondOf s p) off) ∧
    ((pondOf s p).sb.cmd.isSome = true → (pondOf s p).sb.started = false →
      (∀ a b, (pondOf s p).sb.bus = some (a, b) → a ≤ s.ns →
        ∃ P, exec (.sbStart p) s = .next (withPond s p P) ∧
          P = { pondOf s p with sb := { (pondOf s p).sb with started := true, bus := none } }) ∧
      (∀ a b, (pondOf s p).sb.bus = some (a, b) → s.ns < a → exec (.sbStart p) s = .next s)) ∧
    (∀ i, fld (rg (pondOf s p) 0x58C) 0 7 = i → bit (rg (pondOf s p) 0x58C) 31 = false →
      (exec (.sbBufData p none) s = .next { s with
        rdata := BitVec.ofNat 32 (ofLe (if i < 64 then (pondOf s p).sb.tx.bytes (4 * i) 4
          else (pondOf s p).sb.rx.bytes (4 * (i - 64)) 4)) }) ∧
      (∀ v : Word, i < 64 → bit (rg (pondOf s p) 0x584) 31 = false →
        ∃ P, exec (.sbBufData p (some v)) s = .next (withPond s p P) ∧
          ofLe (P.sb.tx.bytes (4 * i) 4) = v.toNat ∧ P.regs = (pondOf s p).regs ∧
          ∀ j, (j < 4 * i ∨ 4 * i + 4 ≤ j) → P.sb.tx.get j = (pondOf s p).sb.tx.get j))

/-- A started transaction ends: OK with the bytes read in the receive buffer and the bus free after tBUF, ADDR_NACK or DATA_NACK, ARB_LOST,
or TIMEOUT with TIMEOUT_EN; a controller reset ends any transaction with RESET (R428 to R431). -/
def Obligations.SidebandEnds : Prop :=
  ∀ (s : State) (p : PondId) (w : Word), (pondOf s p).sb.cmd = some w →
    ((pondOf s p).sb.started = true →
      (∀ rx pec, fld w 30 2 = 0 → bit w 29 = false → bit w 28 = false → fld w 19 9 ≤ rx.length →
        ∃ P, exec (.sbTransactionEnd p none rx pec) s = .next (withPond s p P) ∧ SbEnded P 0 ∧
          P.sb.rx.bytes 0 (fld w 19 9) = rx.take (fld w 19 9) ∧ fld (rg P 0x584) 0 9 = fld w 19 9 ∧
          P.sb.bus = some (s.ns + sbBuf (pondOf s p), some (s.ns + sbBuf (pondOf s p)))) ∧
      (∀ rx pec, fld w 30 2 = 0 →
        ∃ P, exec (.sbTransactionEnd p (some 0) rx pec) s = .next (withPond s p P) ∧ SbEnded P 1) ∧
      (∀ rx pec, fld w 30 2 = 0 → 0 < fld w 10 9 →
        ∃ P, exec (.sbTransactionEnd p (some 1) rx pec) s = .next (withPond s p P) ∧ SbEnded P 2) ∧
      (∃ P, exec (.arbLost p) s = .next (withPond s p P) ∧ SbEnded P 3 ∧ P.sb.bus = some (s.ns, none)) ∧
      (bit (rg (pondOf s p) 0x580) 7 = true →
        ∃ P, exec (.sbTimeout p) s = .next (withPond s p P) ∧ SbEnded P 5)) ∧
    (∀ b, ∃ P, exec (.sbControllerReset p b) s = .next (withPond s p P) ∧ SbEnded P 8 ∧
      (b = true → bit (rg P 0x584) 22 = true) ∧
      P.sb.roundAt = if bit (rg (pondOf s p) 0x580) 0 then some s.ns else none)

/-- EN from 0 to 1 starts a recovery round (R432); a round that finds SDA high or frees it clears HELD and FAILED, and
the bus is free 50 µs or tBUF later (R427, R432: which of the two, log entry 38); one that fails sets HELD, raises
SB_HELD, and is followed by the next after 35 ms (R432, R433); the SB_RESET_N pulse's end makes the final round due
after 1 ms (R433); SB_ALERT_N raises SB_ALERT only on its change to asserted (R434). -/
def Obligations.SidebandRecovery : Prop :=
  ∀ (s : State) (p : PondId),
    (bit (rg (pondOf s p) 0x580) 0 = false →
      ∃ P, exec (.sbEn p true) s = .next (withPond s p P) ∧ bit (rg P 0x580) 0 = true ∧
        P.sb.roundAt = some s.ns ∧ P.sb.left = some (fld (rg (pondOf s p) 0x594) 0 4)) ∧
    (∀ a, (pondOf s p).sb.roundAt = some a → a ≤ s.ns →
      (∀ k : Fin 10, ∃ P, exec (.recoveryRound p false (some k)) s = .next (withPond s p P) ∧
        P.sb.roundAt = none ∧ bit (rg P 0x584) 29 = false ∧ bit (rg P 0x584) 28 = false ∧
        P.sb.sda = true ∧ P.sb.scl = true ∧
        P.sb.bus = if k.val = 0 then some (s.ns, some (s.ns + 50000))
          else some (s.ns + sbBuf (pondOf s p), some (s.ns + sbBuf (pondOf s p)))) ∧
      (∃ P, exec (.recoveryRound p false none) s = .next (withPond s p P) ∧
        bit (rg P 0x584) 29 = true ∧ Pending P 47 ∧
        ∀ n, (pondOf s p).sb.left = some (n + 1) → P.sb.left = some n ∧ P.sb.roundAt = some (s.ns + 35000000)) ∧
      (∃ P, exec (.recoveryRound p true none) s = .next (withPond s p P) ∧
        bit (rg P 0x584) 29 = true ∧ bit (rg P 0x584) 20 = true ∧ Pending P 47)) ∧
    (∀ a, (pondOf s p).sb.roundAt = some a → s.ns < a → ∀ b k, exec (.recoveryRound p b k) s = .next s) ∧
    (∀ a, (pondOf s p).sb.resetTill = some a → a ≤ s.ns →
      ∃ P, exec (.sbResetNRelease p) s = .next (withPond s p P) ∧ P.sb.resetTill = none ∧
        P.sb.roundAt = some (s.ns + 1000000) ∧ P.sb.left = none) ∧
    (∃ P, exec (.sbAlert p) s = .next (withPond s p P) ∧ bit (rg P 0x584) 26 = true ∧
      (if bit (rg (pondOf s p) 0x584) 26 then P.pic = (pondOf s p).pic else Pending P 46)) ∧
    (∃ P, exec (.sbAlertNRelease p) s = .next (withPond s p P) ∧ bit (rg P 0x584) 26 = false ∧
      P.pic = (pondOf s p).pic)

/-! ### Epochs -/

/-- RUN starts the timebase unit and locks it (R38, R47). A GSS edge is issued 1 µs after RUN, and then where the
Shore timebase reaches a nominal epoch start (R38, R42, R44); GSS_IN gives one within 8 ns of the expected
boundary and is ignored outside it, and the flywheel gives one 8 ns after it, counted (R45). -/
def Obligations.StrobeEdges : Prop :=
  (∀ s : State, s.shore.boot.applied = true → s.shore.tbs.runAt = none →
    ∃ t, exec .tbsRun s = .next t ∧ t = { s with shore := t.shore } ∧
      t.shore.tbs = { s.shore.tbs with runAt := some s.ns } ∧ t.shore.boot.phase = 11 ∧
      t.shore.boot.fwRun = !s.shore.boot.fwInvalid ∧ sreg t 0x6000 = 1 ∧ sreg t 0x6098 = 1) ∧
  (∀ (s : State) (r : Nat), s.shore.tbs.runAt = some r →
    ((s.shore.tbs.issued = 0 ∧ r + 1000 ≤ s.ns) ∨
      (0 < s.shore.tbs.issued ∧ gssMode s ≠ 2 ∧ s.shore.tbs.issued * lenOf s ≤ s.shore.tbs.tb.toNat) →
      ∃ t, exec .gssEdge s = .next t ∧ EdgeIssued s t false) ∧
    (gssMode s = 2 → 0 < s.shore.tbs.issued →
      (s.shore.tbs.lastNs + lenOf s ≤ s.ns + 8 ∧ s.ns ≤ s.shore.tbs.lastNs + lenOf s + 8 →
        ∃ t, exec .gssInEdge s = .next t ∧ EdgeIssued s t true) ∧
      (¬ (s.shore.tbs.lastNs + lenOf s ≤ s.ns + 8 ∧ s.ns ≤ s.shore.tbs.lastNs + lenOf s + 8) →
        exec .gssInEdge s = .next s) ∧
      (s.shore.tbs.lastNs + lenOf s + 8 ≤ s.ns →
        ∃ t, exec .flywheelEdge s = .next t ∧ EdgeIssued s t false ∧
          fld (sreg t 0x6024) 16 16 = min 65535 (fld (sreg s 0x6024) 16 16 + 1))))

/-- A pond registers a boundary: its epoch steps; out of service its timebase copy is slewed or stepped all the
same (R38, R40); in service and running it sets event latch 4, raises EPOCH,
writes EPOCH and EPOCH_START into the boundary record, and puts each message of the epoch in force with its
event (R43, R51, R54). The Shore registers its own (R43). -/
def Obligations.BoundariesRegister : Prop :=
  (∀ (s : State) (p : PondId), 0 < (pondOf s p).edges →
    ((pondOf s p).life.inService = false →
      let d : Int := (pondOf s p).stamp.toNat - (epochAfter (pondOf s p).epoch * lenOf s : Nat)
      ∃ t P, exec (.boundaryRegistration p) s = .next t ∧ t.ponds = (withPond s p P).ponds ∧
        P = { pondOf s p with
          edges := (pondOf s p).edges - 1, epoch := some (epochAfter (pondOf s p).epoch),
          tb := P.tb, slew := P.slew, alignB := P.alignB, alignPost := P.alignPost } ∧
        if 2 < d.natAbs then P.tb = (pondOf s p).tb - BitVec.ofInt 64 d ∧ P.slew = 0 ∧ P.alignB = true
        else P.tb = (pondOf s p).tb ∧ P.slew = -d.sign ∧ P.alignB = false) ∧
    (∃ t, exec (.boundaryRegistration p) s = .next t ∧
      (pondOf t p).epoch = some (epochAfter (pondOf s p).epoch) ∧
      (pondOf t p).edges = (pondOf s p).edges - 1) ∧
    ((pondOf s p).life.inService = true → (pondOf s p).life.started = true →
      (pondOf s p).life.resetEnd = none → (pondOf s p).life.resetReq = none → (pondOf s p).acts = [] →
      (pondOf s p).came = [] →
      ∃ t, exec (.boundaryRegistration p) s = .next t ∧
        (pondOf t p).core.evt.getLsbD 4 = true ∧ Pending (pondOf t p) 0 ∧
        ofLe ((pondOf t p).sram.bytes 0x1FFC0 8) = epochAfter (pondOf s p).epoch % 2 ^ 64 ∧
        ofLe ((pondOf t p).sram.bytes 0x1FFC8 8) = epochAfter (pondOf s p).epoch * lenOf s % 2 ^ 64 ∧
        ∀ h ∈ (pondOf s p).held, h.apply = epochAfter (pondOf s p).epoch → h.rx < 32 →
          (∀ x ∈ (pondOf s p).held, x.apply = h.apply → x.rx = h.rx → x = h) →
          (pondOf t p).rx.get h.rx = h.value ∧ Pending (pondOf t p) (64 + h.rx))) ∧
  (∀ s : State, 0 < s.shore.tbs.edges →
    ∃ t, exec .shoreBoundary s = .next t ∧ t.shore.tbs.epoch = some (epochAfter s.shore.tbs.epoch) ∧
      t.shore.tbs.edges = s.shore.tbs.edges - 1)

/-- The lease of a pond whose port is silent past the timeout falls due at the first boundary at or after that
moment (R30): one whose edge came after it and which the Shore has still to register, else the next. The slots of a
sluice closed at A are free from boundary A + 9 (R238). A port writes its due snapshot but for SEQ_END, in writes
no longer than its Max_Payload_Size and in address order; its end writes SEQ_END and leaves X
and the duration in the TMIR registers (R282). -/
def Obligations.OrphansSlotsAndSnapshots : Prop :=
  (∀ (s : State) (p : PondId) (l : Lease), leaseOf s p.val = some l → l.acted = false →
    max l.start (((portOf s l.port).lastUse).getD l.start) + 1000 * l.timeout ≤ s.ns →
    ∃ t, exec (.orphanPolicy p) s = .next t ∧
      t = { s with shore := { s.shore with leases := t.shore.leases } } ∧
      leaseOf t p.val = some { l with due := some (l.due.getD (
        if max l.start (((portOf s l.port).lastUse).getD l.start) + 1000 * l.timeout ≤ s.shore.tbs.lastNs ∧
            0 < s.shore.tbs.edges then s.shore.tbs.epoch.getD 0 + 1
        else s.shore.tbs.epoch.getD 0 + s.shore.tbs.edges + 1)) } ∧
      ∀ n, n ≠ p.val → leaseOf t n = leaseOf s n) ∧
  (∀ s : State, ∃ t, exec .sluiceSlotsFreed s = .next t ∧ t = { s with shore := t.shore } ∧
    (∀ r ∈ t.shore.weir.sluices, r ∈ s.shore.weir.sluices ∧
      ∀ a, r.closeAt = some a → s.shore.tbs.epoch.getD 0 < a + 9) ∧
    (∀ r ∈ s.shore.weir.sluices,
      (∀ x ∈ s.shore.weir.sluices, x.num = r.num → ∀ a, x.closeAt = some a → s.shore.tbs.epoch.getD 0 < a + 9) →
      r ∈ t.shore.weir.sluices) ∧
    (∀ r ∈ s.shore.weir.sluices, ∀ a, r.closeAt = some a → a + 9 ≤ s.shore.tbs.epoch.getD 0 → r.num < 255 →
      ∀ l ∈ r.path, ∀ j, (linkOf t l).wheel.get j ≠ BitVec.ofNat 8 (r.num + 1))) ∧
  (∀ (s : State) (h : PortId),
    (∀ x l b, (portOf s h.val).mirDue = some (x, l) → (ctxOf s h.val 0).block = some b →
      canRequest (portOf s h.val) = true → mirrorRuns s h.val = true → (portOf s h.val).mirBusy = none →
      l.length = mirSize (fld b.mirCfg 16 2) →
      ∃ t ws, exec (.mirrorSnapshot h) s = .next t ∧ t = { s with shore := t.shore } ∧
        (portOf t h.val).posted = (portOf s h.val).posted ++ ws ∧
        Sends ws b.mirBase (l.take (l.length - 8)) .mirror (maxPayload (portOf s h.val)) ∧
        (portOf t h.val).mirTail = b.mirBase + (l.length - 8) ∧
        (portOf t h.val).mirBusy = some (x, leAt l 0x28 4, s.ns) ∧
        (portOf t h.val).mirDue = none) ∧
    (∀ x a b, (portOf s h.val).mirBusy = some (x, a, b) →
      ∃ t, exec (.snapshotWriteEnd h) s = .next t ∧ t = { s with shore := t.shore } ∧
        (portOf t h.val).mirBusy = none ∧
        sreg t (0x8040 + 0x40 * h.val + 0x10) = BitVec.ofNat 32 x ∧
        sreg t (0x8040 + 0x40 * h.val + 0x14) = BitVec.ofNat 32 (x / 2 ^ 32) ∧
        sreg t (0x8040 + 0x40 * h.val + 0x24) = BitVec.ofNat 32 (s.ns - b) ∧
        (portOf t h.val).posted = (portOf s h.val).posted.filter (fun w => w.kind != .mirror) ++
          [⟨(portOf s h.val).mirTail, leBytes x 8, .mirror, 0⟩]))

/-! ### Start-up and resets -/

/-- POR_N asserted loses everything but the flash memories and the OTP row (R83): with no operation under way they keep
their words, and the ledger the places of its seals. Its release is a cold start, which latches the OTP row and
the roles, gives the token to the first steward port and begins BIST in every pond that is not fused out; some
pond is not, on any part (R2, R21, R24, R68). BIST's end lets a pond that passed calibrate and takes one that
failed out of service (R91), and the last ends step 5. The end of the regeneration ends step 4: a majority
within 1,024 bits of the enrolled value gives W where its check value agrees; else there are no keys (R341, R343).
Where nothing else is waited for, either end runs start-up to its step 10. -/
def Obligations.DeviceStart : Prop :=
  (∀ s : State, ∃ t, exec .porAssert s = .next t ∧ t.pending = s.pending ∧ t.ns = s.ns ∧
    t.shore.boot = Boot.reset ∧ t.shore.tbs = Tbs.reset ∧ t.shore.keys = Keys.reset ∧
    t.shore.alarms = Alarms.reset ∧ t.shore.token = none ∧ t.shore.leases = [] ∧ t.shore.cmds = [] ∧
    t.shore.weir = Weir.reset ∧
    (s.shore.otp.prog = none → s.shore.alarms.huskProg = false → t.shore.otp.words = s.shore.otp.words) ∧
    (s.shore.ledger.queue = [] → t.shore.ledger.archive = s.shore.ledger.archive ∧
      t.shore.ledger.archPos = s.shore.ledger.archPos) ∧
    (s.shore.ledger.queue = [] → s.shore.ledger.lgDraft = none → s.shore.ledger.lgErase = false →
      s.shore.sfl.op0 = none → s.shore.sfl.op1 = none → s.shore.sfl.selNew = [] →
      t.shore.sfl.words = s.shore.sfl.words) ∧
    ∀ p : PondId, (pondOf t p).core = Core.reset ∧ (pondOf t p).regs = pondRegs0 ∧ (pondOf t p).sram = [] ∧
      (pondOf t p).pfl.bank = (pondOf s p).pfl.bank ∧
      ((pondOf s p).pfl.op = none → (pondOf t p).pfl.words = (pondOf s p).pfl.words)) ∧
  (∀ s : State,
    (s.shore.boot.por = false → exec .porRelease s = .next s) ∧
    (s.shore.boot.por = true → (∃ q : PondId, fusedOut s q.val = false) →
      ∃ t, exec .porRelease s = .next t ∧ t.pending = s.pending ∧ t.ns = s.ns ∧ t.shore.boot.por = false ∧
        t.shore.boot.cause = 1 ∧ t.shore.boot.startNs = s.ns ∧ t.shore.boot.phase = 3 ∧
        t.shore.token = (List.range 4).find? (fun q => (portOf t q).role == 0) ∧
        (t.shore.boot.lc = 0 → ∀ q < 4, (portOf t q).role = 2) ∧
        ∀ p : PondId, t.shore.boot.bistWait.getLsbD p.val = !fusedOut s p.val ∧
          (pondOf t p).life.inService = !fusedOut s p.val)) ∧
  (∀ (s : State) (p : PondId) (units : BitVec 16),
    (s.shore.boot.bistWait.getLsbD p.val = false → exec (.bistEnd p units) s = .next s) ∧
    (s.shore.boot.bistWait.getLsbD p.val = true →
      s.shore.boot.wellWait = true ∨ (∃ q : PondId, q ≠ p ∧ s.shore.boot.bistWait.getLsbD q.val = true) →
      ∃ t, exec (.bistEnd p units) s = .next t ∧
        t = { s with ponds := t.ponds, shore := { s.shore with boot := t.shore.boot } } ∧
        BitIs s.shore.boot.bistWait t.shore.boot.bistWait p.val false ∧
        (t.shore.boot.bistWait = 0 → t.shore.boot.phase = 5) ∧
        (∀ q : PondId, q ≠ p → pondOf t q = pondOf s q) ∧
        (units = 0 → pondOf t p = { pondOf s p with
          life := { (pondOf s p).life with bistDone := true }, conv := (pondOf s p).conv.map calAtStart }) ∧
        (units ≠ 0 → pondOf t p = { pondOf s p with life := { (pondOf s p).life with inService := false } } ∧
          BitIs s.shore.boot.bistFail t.shore.boot.bistFail p.val true ∧
          t.shore.boot.bistUnit.get p.val = units)) ∧
    (units ≠ 0 → s.shore.boot.bistWait = BitVec.twoPow 64 p.val → s.shore.boot.wellWait = false →
      s.shore.boot.applied = false → calWaits (onPond p (fun P => { P with life := { P.life with inService := false } }) s) = false →
      ∃ t, exec (.bistEnd p units) s = .next t ∧ t.shore.boot.applied = true ∧ t.shore.boot.phase = 10)) ∧
  (∀ (s : State) (a b c : List Byte), s.shore.boot.wellWait = true →
    (s.shore.boot.bistWait ≠ 0 →
      ∃ t, exec (.wellspringRegeneration a (b, c)) s = .next t ∧
        t.pending = s.pending ∧ t.ns = s.ns ∧ t.ponds = s.ponds ∧
        t.shore.boot = { s.shore.boot with
          wellWait := false, phase := 4, keysAbsent := t.shore.boot.keysAbsent } ∧
        (s.shore.keys.inhibit = true → t.shore.keys = s.shore.keys ∧ t.shore.boot.keysAbsent = true) ∧
        (s.shore.keys.inhibit = false → ∀ v, pufCorrected s (majority a b c) = some v →
          sreg t 0x2008 = BitVec.ofNat 32 (65536 * bitsApart (majority a b c) v + 3200) ∧
          (pufCheck s (pufW v) = true → t.shore.keys = { s.shore.keys with w := some (pufW v) } ∧
            t.shore.boot.keysAbsent = s.shore.boot.keysAbsent) ∧
          (pufCheck s (pufW v) = false → t.shore.keys = { s.shore.keys with pufFail := true } ∧
            t.shore.boot.keysAbsent = true)) ∧
        (s.shore.keys.inhibit = false → pufCorrected s (majority a b c) = none →
          t.shore.keys = { s.shore.keys with pufFail := true } ∧ t.shore.boot.keysAbsent = true) ∧
        (∀ v, s.shore.otp.enrolled = v → v ≠ [] → otpBytes s 0x210 3056 = padTo 3056 (Config.pufHelper v) →
          bitsApart (majority a b c) v ≤ 1024 → s.shore.keys.inhibit = false → pufCheck s (pufW v) = true →
          t.shore.keys.w = some (pufW v))) ∧
    (s.shore.boot.bistWait = 0 → s.shore.boot.applied = false → calWaits s = false →
      ∃ t, exec (.wellspringRegeneration a (b, c)) s = .next t ∧ t.shore.boot.applied = true ∧
        t.shore.boot.phase = 10))

/-- RESET_N, an armed write of CRL_WARM_RESET and the watchdog's expiry start a warm device reset with their cause
(R75 to R79, R466); KICK reloads the watchdog; an armed register's first write is held, a second that is not
its complement and the expiry of 1 ms cancel it, after which a write is a first write again (R76); the loss of a
PLL's lock clears its bit and is
counted (R466). -/
def Obligations.WarmResets : Prop :=
  (∀ s : State, s.shore.boot.por = true → exec .resetN s = .next s) ∧
  (∀ (s : State) (q : PondId), s.shore.boot.por = false → LivePond s q →
    ∃ t, exec .resetN s = .next t ∧ WarmStarted s t 2) ∧
  (∀ (s : State) (q : PondId), s.shore.boot.por = false → LivePond s q → (sreg s 0x5014).getLsbD 31 = true → s.shore.boot.fwRun = true →
    s.shore.keys.shoreHalted = false → 1000000 * fld (sreg s 0x5014) 0 16 ≤ s.shore.boot.wdog →
    ∃ t, exec .watchdogExpiry s = .next t ∧ WarmStarted s t 8) ∧
  (∀ s : State, exec .watchdogKick s = .next { s with shore := { s.shore with
    boot := { s.shore.boot with wdog := 0 } } }) ∧
  (∀ (s : State) (v : Word),
    (KMap.get none s.shore.pairs 0x5004 = none →
      exec (.crlWarmReset v) s = .next { s with shore := { s.shore with
        pairs := KMap.set none s.shore.pairs 0x5004 (some (v, s.ns)) } }) ∧
    (∀ w a, KMap.get none s.shore.pairs 0x5004 = some (w, a) → a + 1000000 < s.ns →
      exec (.crlWarmReset v) s = .next { s with shore := { s.shore with
        pairs := KMap.set none s.shore.pairs 0x5004 (some (v, s.ns)) } }) ∧
    (∀ w a, KMap.get none s.shore.pairs 0x5004 = some (w, a) → s.ns ≤ a + 1000000 →
      (v ≠ ~~~w → exec (.crlWarmReset v) s = .next { s with shore := { s.shore with
        pairs := KMap.set none s.shore.pairs 0x5004 none } }) ∧
      (∀ q, v = ~~~w → s.shore.boot.por = false → LivePond s q →
        ∃ t, exec (.crlWarmReset v) s = .next t ∧ WarmStarted s t 4))) ∧
  (∀ (s : State) (r : Fin 3) (w : Word) (a : Nat), KMap.get none s.shore.pairs (armedReg r) = some (w, a) →
    a + 1000000 ≤ s.ns →
    exec (.armedPairExpiry r) s = .next { s with shore := { s.shore with
      pairs := KMap.set none s.shore.pairs (armedReg r) none } }) ∧
  (∀ (s : State) (j : Fin 65), s.shore.boot.pll.getLsbD j.val = true →
    ∃ t, exec (.pllLossOfLock j) s = .next t ∧ t.ponds = s.ponds ∧
      BitIs s.shore.boot.pll t.shore.boot.pll j.val false ∧
      fld (sreg t 0x505C) 16 16 = min 65535 (fld (sreg s 0x505C) 16 16 + 1))

/-- The second write of CRL_LC_ADVANCE's pair: TARGET 2 in Chrysalis with the owner's hash and a valid policy in the
OTP row programs the IMAGO mark, TARGET 3 erases the keys before the Husk mark, any other is refused (R87 to
R89); a mark that reads back well makes the part Husk. The second write of OTP_PROG_GO's pair programs a
blank, permitted word in Chrysalis while the block is unlocked (R393). -/
def Obligations.LifeCycleAndOtp : Prop :=
  (∀ (s : State) (v w : Word) (a : Nat), v = ~~~w → s.ns ≤ a + 1000000 →
    (KMap.get none s.shore.pairs 0x5010 = some (w, a) →
      (fld w 0 4 = 2 → s.shore.boot.lc = 1 → imagoReady s = true → s.shore.boot.lcPending ≠ 3 →
        ∃ t, exec (.crlLcAdvance v) s = .next t ∧ t = { s with shore := t.shore } ∧
          t.shore.otp.words = s.shore.otp.words.set 17 0xFFFFFFFF ∧ t.shore.boot.lc = 1 ∧
          t.shore.boot.lcPending = 2 ∧ t.shore.keys = s.shore.keys) ∧
      (fld w 0 4 = 3 → s.shore.boot.lc ≠ 3 → s.shore.alarms.huskWait = false →
        s.shore.alarms.huskProg = false → s.shore.alarms.erase = none →
        ∃ t, exec (.crlLcAdvance v) s = .next t ∧ t = { s with shore := t.shore } ∧
          t.shore.keys.w = none ∧ t.shore.keys.root = 0 ∧ t.shore.keys.kSetup = none ∧
          t.shore.keys.kId = none ∧ t.shore.keys.kAlias = none ∧ t.shore.keys.kSeal = none ∧
          t.shore.keys.kWrap = none ∧ t.shore.keys.drbg = none ∧ t.shore.keys.erased = true ∧
          t.shore.alarms.huskWait = true ∧ t.shore.alarms.erase = some s.ns ∧
          t.shore.boot.lcPending = 3 ∧ t.shore.otp = s.shore.otp) ∧
      (fld w 0 4 ≠ 2 → fld w 0 4 ≠ 3 →
        ∃ t, exec (.crlLcAdvance v) s = .next t ∧ t.shore.boot = s.shore.boot ∧ t.shore.otp = s.shore.otp ∧
          t.shore.keys = s.shore.keys ∧ (sreg t 0x500C).getLsbD 9 = true)) ∧
    (KMap.get none s.shore.pairs 0x408C = some (w, a) → s.shore.boot.lc = 1 → (sreg s 0x4000).getLsbD 31 = false →
      s.shore.otp.prog = none →
      (0x20 ≤ fld (sreg s 0x4084) 2 10 → fld (sreg s 0x4084) 2 10 ≤ 0x2E →
        s.shore.otp.words.get (fld (sreg s 0x4084) 2 10) = 0 → s.shore.otp.bad.get (fld (sreg s 0x4084) 2 10) = 0 →
        ∃ t, exec (.otpProgGo v) s = .next t ∧ t = { s with shore := t.shore } ∧
          t.shore.otp = { s.shore.otp with prog := some (fld (sreg s 0x4084) 2 10, sreg s 0x4088) }) ∧
      (fld (sreg s 0x4084) 2 10 < 0x20 ∨ 0x2E < fld (sreg s 0x4084) 2 10 →
        ∃ t, exec (.otpProgGo v) s = .next t ∧ t.shore.otp = s.shore.otp ∧
          (sreg t 0x4080).getLsbD 30 = true))) ∧
  (∀ (s : State) (i : Nat) (v : Word), s.shore.otp.prog = some (i, v) →
    ∃ n, exec (.otpProgramDone 0) s = .next { s with shore := { s.shore with
      otp := { s.shore.otp with
        words := s.shore.otp.words.set i v, bad := s.shore.otp.bad.set i 0, prog := none }, fresh := n } }) ∧
  (∀ s : State, s.shore.alarms.huskProg = true →
    ∃ t, exec (.huskMarkDone true) s = .next t ∧ t = { s with shore := t.shore } ∧ t.shore.boot.lc = 3 ∧
      t.shore.otp.words = s.shore.otp.words.set 18 0xFFFFFFFF ∧ t.shore.alarms.huskProg = false)

/-- A pond reset and a core-only reset are requested of the named ponds in service, by the steward's registers or by
MISC_RESET_REQ with its key (R80 to R82). The core-only reset completes the active claims, resets the core and
its registers but PCORE_LOCKPOLICY and starts the core at the reset entry, every event latch 0 but latch 5,
which follows the sources (assumption 10); SRAM, pending sources and every register of another block are
kept (R81, R98), where the flash word of the entry reads with no record. A pond reset ends at its restart
boundary, with the core at the reset entry of its
active bank (R80); where the pond's calibration made its first start late, that is recorded (R70). -/
def Obligations.PondResets : Prop :=
  (∀ (s : State) (i : Fin 2) (v : Word),
    (∃ t, exec (.crlPondReset i v) s = .next t ∧ t = { s with ponds := t.ponds } ∧
      ∀ p : PondId, pondOf t p =
        if p.val / 32 = i.val ∧ v.getLsbD (p.val % 32) = true ∧ (pondOf s p).life.inService = true ∧
          (pondOf s p).life.resetEnd = none ∧ (pondOf s p).life.resetReq = none then
          { pondOf s p with life := { (pondOf s p).life with resetReq := some 1, coreReq := none } }
        else pondOf s p) ∧
    (∃ t, exec (.crlCoreReset i v) s = .next t ∧ t = { s with ponds := t.ponds } ∧
      ∀ p : PondId, pondOf t p =
        if p.val / 32 = i.val ∧ v.getLsbD (p.val % 32) = true ∧ (pondOf s p).life.inService = true ∧
          (pondOf s p).life.resetEnd = none ∧ (pondOf s p).life.coreReq = none then
          { pondOf s p with life := { (pondOf s p).life with coreReq := some 3 } }
        else pondOf s p)) ∧
  (∀ (s : State) (p : PondId), (pondOf s p).life.resetEnd = none →
    ((pondOf s p).life.resetReq = none →
      exec (.miscResetReqPond p 0xA5C3) s = .next (withPond s p { pondOf s p with
        life := { (pondOf s p).life with resetReq := some 2, coreReq := none } })) ∧
    ((pondOf s p).life.coreReq = none →
      exec (.miscResetReqCore p 0xA5C3) s = .next (withPond s p { pondOf s p with
        life := { (pondOf s p).life with coreReq := some 4 } })) ∧
    (∀ key, key ≠ 0xA5C3 → exec (.miscResetReqPond p key) s = .next s ∧
      exec (.miscResetReqCore p key) s = .next s)) ∧
  (∀ (s : State) (p : PondId) (cause : Nat), (pondOf s p).life.coreReq = some cause →
    (pondOf s p).core.gate = none → (pondOf s p).life.swapDue = none → (pondOf s p).life.resetEnd = none →
    (pondOf s p).life.started = true → (pondOf s p).core.long = none → (pondOf s p).core.pb = [] →
    SMap.wf (pondOf s p).regs = true → CleanWord (pondOf s p) 0 →
    ∃ P, exec (.coreOnlyReset p) s = .next (withPond s p P) ∧
      P.core = { Core.reset with
        run := .running, pc := activeWord (pondOf s p) 0, halted := (pondOf s p).core.halted,
        evt := P.core.evt } ∧
      (∀ i < 8, i ≠ 5 → P.core.evt.getLsbD i = false) ∧
      P.pic = { (pondOf s p).pic with act := 0 } ∧ P.life.coreReq = none ∧ P.pfl = (pondOf s p).pfl ∧
      rg P 0x684 = BitVec.ofNat 32 cause ∧
      (∀ off < 0x20, rg P off = if off = 0x010 then 0x2001FFC0 else if off = 0x008 then
        rg (pondOf s p) 0x008 else 0) ∧
      (∀ off, 0x20 ≤ off → off ≠ 0x684 → rg P off = rg (pondOf s p) off) ∧ SameSram (pondOf s p) P) ∧
  (∀ (s : State) (p : PondId) (r : Nat), (pondOf s p).life.resetEnd = some r →
    r ≤ (pondOf s p).epoch.getD 0 → (pondOf s p).life.incWait = false → (pondOf s p).setup = [] →
    canStart { pondOf s p with life := { (pondOf s p).life with resetEnd := none, imageValid := true } } = true →
    (pondOf s p).life.calFail = false →
    activeOk (pondOf s p) = true → (pondOf s p).epoch ≠ none →
    (pondOf s p).life.startEp ≤ (pondOf s p).epoch.getD 0 →
    ∃ P, exec (.pondRestart p) s = .next { withPond s p P with shore := { s.shore with boot := { s.shore.boot with
        late := if (pondOf s p).life.calLate then setBit s.shore.boot.late p.val true else s.shore.boot.late } } } ∧
      P.life.resetEnd = none ∧ P.life.started = true ∧
      P.life.pinsLow = false ∧ P.core.run = .running ∧ P.core.pc = activeWord (pondOf s p) 0 ∧
      P.core.g = Core.reset.g ∧ P.core.flags = Core.reset.flags ∧ P.core.nest = 0)

/-! ### Host ports -/

/-- Training ends with the link up at a speed and width of Table 10.2 (R72); a break drops the link or its right to request, counts itself, pauses the
contexts that ran with CAUSE 1 and returns one that was starting to DISABLED (R257, R258); Bus Master Enable
and D0 come back, and the sizes of reads and writes are configured (R256). EN and ABANDON move a context as Table 10.6 says, with the lost completions counted
(R265, R266, R276 to R278); an acknowledged completion leaves the reserve (R276). -/
def Obligations.PortsAndContextStates : Prop :=
  (∀ (s : State) (h : PortId) (speed : BitVec 4) (width : BitVec 3) (flit : Bool),
    s.shore.boot.por = false → 2 ≤ s.shore.boot.phase →
    1 ≤ speed.toNat → speed.toNat ≤ 6 → (speed = 6 → flit = true) → width = 1 ∨ width = 2 ∨ width = 4 →
    ∃ t, exec (.linkUp h speed width flit) s = .next t ∧
      t = { s with shore := { s.shore with ports := t.shore.ports } } ∧
      portOf t h.val = { portOf s h.val with
        perst := false, link := true, ready := true, speed := speed.toNat, width := width.toNat, flit := flit } ∧
      ∀ q : PortId, q ≠ h → portOf t q.val = portOf s q.val) ∧
  (∀ (s : State) (h : PortId) (k : BreakKind),
    (breaks (portOf s h.val) k = false → exec (.portBreak h k) s = .next s) ∧
    (breaks (portOf s h.val) k = true →
      ∃ t, exec (.portBreak h k) s = .next t ∧ t.ns = s.ns ∧
        ((∀ x ∈ s.shore.cmds, x.prog = false) → t.ponds = s.ponds) ∧
        canRequest (portOf t h.val) = false ∧ (portOf t h.val).breaks = (portOf s h.val).breaks + 1 ∧
        (portOf t h.val).posted = [] ∧
        ∀ n : CtxId,
          (ctxOf t h.val n.val).fetched = [] ∧ (ctxOf t h.val n.val).asked = [] ∧
          (ctxOf t h.val n.val).polling = false ∧
          (ctxOf t h.val n.val).consumed = (ctxOf s h.val n.val).consumed ∧
          (let c := ctxOf s h.val n.val
           if c.st = 1 then (ctxOf t h.val n.val).st = 0
           else if c.st = 2 ∨ c.st = 3 ∨ c.st = 4 then
             (ctxOf t h.val n.val).st = 5 ∧ (ctxOf t h.val n.val).cause = 1
           else (ctxOf t h.val n.val).st = c.st))) ∧
  (∀ (s : State) (h : PortId), (portOf s h.val).link = true →
    (∃ t, exec (.configWrite h .bmeSet) s = .next t ∧ (portOf t h.val).bme = true ∧
      (portOf t h.val).d3 = (portOf s h.val).d3 ∧ t.ponds = s.ponds) ∧
    (∃ t, exec (.configWrite h .d0) s = .next t ∧ (portOf t h.val).d3 = false ∧
      (portOf t h.val).bme = (portOf s h.val).bme ∧ t.ponds = s.ponds) ∧
    (∃ t, exec (.configWrite h .d0) s = .next t ∧
      (portOf t h.val).cfg = (portOf s h.val).cfg) ∧
    (∀ (mps : Fin 3) (mrrs : Fin 6), ∃ t, exec (.configWrite h (.control mps mrrs)) s = .next t ∧ t.ponds = s.ponds ∧
      (portOf t h.val).cfg = { (portOf s h.val).cfg with mps := mps, mrrs := mrrs }) ∧
    (∀ w n q l r d a m, (portOf s h.val).posted = w ++ ⟨a, d, .cplTail n q, m⟩ :: r →
      (∀ x ∈ w, ∀ m z, x.kind ≠ .cplTail m z) → l = (portOf s h.val).reserve →
      ∃ t, exec (.completionAck h) s = .next t ∧ (portOf t h.val).posted = r ∧
        (portOf t h.val).reserve = l.filter (fun e => !(e.ctx == n && e.seq == q)))) ∧
  (∀ (s : State) (h : PortId) (n : CtxId),
    (let c := ctxOf s h.val n.val
     (c.st = 0 → ∃ t, exec (.contextEnable h n) s = .next t ∧ (ctxOf t h.val n.val).st = 1) ∧
     (c.st = 5 → ∃ t, exec (.contextEnable h n) s = .next t ∧
       (ctxOf t h.val n.val).gen = (if c.cut then c.gen else c.gen + 1) ∧
       (ctxOf t h.val n.val).st = if (portOf s h.val).reserve.any (fun e => e.ctx == n.val) then 2 else 3) ∧
     (c.st = 4 → ∃ t, exec (.contextEnable h n) s = .next t ∧ (ctxOf t h.val n.val).st = 3) ∧
     (c.st = 1 → ∃ t, exec (.contextDisable h n) s = .next t ∧ (ctxOf t h.val n.val).st = 0) ∧
     (c.st = 2 ∨ c.st = 3 → ∃ t, exec (.contextDisable h n) s = .next t ∧
       (ctxOf t h.val n.val).st =
         if (portOf s h.val).reserve.any (fun e => e.ctx == n.val) = false ∧ c.owed = 0 then 0 else 4) ∧
     (c.st = 0 ∨ c.st = 5 → ∃ t, exec (.abandon h n) s = .next t ∧
       (ctxOf t h.val n.val).st = 0 ∧ (ctxOf t h.val n.val).consumed = 0 ∧ (ctxOf t h.val n.val).seq = 0 ∧
       (ctxOf t h.val n.val).life = c.life + 1 ∧
       (portOf t h.val).reserve = (portOf s h.val).reserve.filter (fun e => e.ctx != n.val) ∧
       (sreg t (0x400 * h.val + 0x24)).toNat = min (2 ^ 32 - 1) ((sreg s (0x400 * h.val + 0x24)).toNat +
         ((portOf s h.val).reserve.filter (fun e => e.ctx == n.val)).length)) ∧
     (c.st ≠ 0 → c.st ≠ 5 → exec (.abandon h n) s = .next s)))

/-- A context's block that obeys Table 10.5 starts it; a bad block or a failed read faults it (R265). The doorbell is
polled at its interval on the Shore timebase (R269); its word carries CMD_TAIL and CPL_HEAD (R268), and the
tail asks for descriptors in reads of 1 to 8 that do not cross the ring's
end, up to the tail, and a tail or head that no ring can have pauses the context (R270, R271); a failing doorbell read
consumes nothing, and the context polls on (the model's reading, log 40); descriptors that arrive wait for
consumption. A setup BAR read gives the register's value, and clears an RC field; one that crosses an aligned
unit of 8 bytes is an Unsupported Request (R260, R262). -/
def Obligations.ContextFetches : Prop :=
  (∀ (s : State) (h : PortId) (n : CtxId), (ctxOf s h.val n.val).st = 1 →
    canRequest (portOf s h.val) = true → s.shore.boot.phase = 12 →
    (∀ d, d.length = 64 → blockOk n.val d = true →
      ∃ t, exec (.contextBlockRead h n (some d)) s = .next t ∧ (ctxOf t h.val n.val).st = 3 ∧
        (ctxOf t h.val n.val).block = some (blockOf d) ∧ (ctxOf t h.val n.val).polling = true) ∧
    (∀ d, d.length = 64 → blockOk n.val d = false →
      ∃ t, exec (.contextBlockRead h n (some d)) s = .next t ∧ (ctxOf t h.val n.val).st = 0 ∧
        (ctxOf t h.val n.val).cause = 3 ∧ (sreg t (0x400 * h.val + 0x38)).getLsbD n.val = true) ∧
    (∃ t, exec (.contextBlockRead h n none) s = .next t ∧ (ctxOf t h.val n.val).st = 0 ∧
      (ctxOf t h.val n.val).cause = 2 ∧ (sreg t (0x400 * h.val + 0x38)).getLsbD n.val = true)) ∧
  (∀ (s : State) (h : PortId) (n : CtxId) (b : Block) (c : Ctx), c = ctxOf s h.val n.val → c.st = 3 →
    c.block = some b →
    (∀ a, c.polling = false → canRequest (portOf s h.val) = true → c.pollAt = some a →
      (a + b.poll ≤ s.shore.tbs.tb.toNat → portReads s h.val < 64 → ∃ t, exec (.doorbellPoll h n) s = .next t ∧
        ctxOf t h.val n.val = { c with polling := true, pollAt := some s.shore.tbs.tb.toNat }) ∧
      (s.shore.tbs.tb.toNat < a + b.poll → exec (.doorbellPoll h n) s = .next s)) ∧
    (∀ (d : List Byte) (tail head : Word), tail.toNat = leAt d 0 4 → head.toNat = leAt d 4 4 → c.polling = true →
      (2 ^ b.cmdLog < (tail - c.consumed).toNat →
        ∃ t, exec (.doorbellData h n (some d)) s = .next t ∧ (ctxOf t h.val n.val).st = 5 ∧
          (ctxOf t h.val n.val).cause = 4) ∧
      ((tail - c.consumed).toNat ≤ 2 ^ b.cmdLog → 2 ^ b.cplLog < (c.seq - head).toNat →
        ∃ t, exec (.doorbellData h n (some d)) s = .next t ∧ (ctxOf t h.val n.val).st = 5 ∧
          (ctxOf t h.val n.val).cause = 5) ∧
      ((tail - c.consumed).toNat ≤ 2 ^ b.cmdLog → (c.seq - head).toNat ≤ 2 ^ b.cplLog →
        c.fetched.length + askedCount c ≤ (tail - c.consumed).toNat →
        ∃ t l, exec (.doorbellData h n (some d)) s = .next t ∧
          ctxOf t h.val n.val = { c with polling := false, tail := tail, head := head, asked := c.asked ++ l } ∧
          c.fetched.length + askedCount (ctxOf t h.val n.val) = (tail - c.consumed).toNat ∧
          ∀ x ∈ l, 1 ≤ x.2 ∧ x.2 ≤ 8 ∧ x.1.toNat % 2 ^ b.cmdLog + x.2 ≤ 2 ^ b.cmdLog)) ∧
    (c.polling = true → ∃ t, exec (.doorbellData h n none) s = .next t ∧
      ctxOf t h.val n.val = { c with polling := false } ∧ t.ponds = s.ponds ∧
      sreg t (0x400 * h.val + 0x6C) = BitVec.ofNat 32 b.db) ∧
    (∀ i k r, c.asked = (i, k) :: r →
      (∀ l : List Byte, l.length = 64 * k → ∃ t, exec (.descriptorData h n (some l)) s = .next t ∧
        (ctxOf t h.val n.val).asked = r ∧
        (ctxOf t h.val n.val).fetched.flatten = c.fetched.flatten ++ l ∧
        (ctxOf t h.val n.val).fetched.length = c.fetched.length + k) ∧
      (∃ t, exec (.descriptorData h n none) s = .next t ∧ (ctxOf t h.val n.val).st = 5 ∧
        (ctxOf t h.val n.val).cause = 6))) ∧
  (∀ (s : State) (h : PortId), (portOf s h.val).link = true → (portOf s h.val).ready = true →
    (∀ off : BitVec 16, off.toNat % 4 = 0 →
      off.toNat ≠ 0x010 → off.toNat ≠ 0x014 → off.toNat ≠ 0x018 → off.toNat ≠ 0x01C → off.toNat ≠ 0x028 →
      off.toNat ≠ 0x068 →
      exec (.setupBarRead h off 4) s = .next { s with
        rdata64 := ((hpView s h.val off.toNat).getD 0).setWidth 64, barUr := false }) ∧
    (∀ (off : BitVec 16) (len : Nat), 8 < off.toNat % 8 + len →
      exec (.setupBarRead h off len) s = .next { s with barUr := true }) ∧
    (∃ t, exec (.setupBarRead h 0x068 4) s = .next t ∧
      t.rdata64 = (sreg s (0x400 * h.val + 0x68)).setWidth 64 ∧ sreg t (0x400 * h.val + 0x68) = 0 ∧
      t.ponds = s.ponds) ∧
    (∃ t, exec (.setupBarRead h 0x010 8) s = .next t ∧
      t.rdata64.toNat = s.shore.tbs.epoch.getD 0 % 2 ^ 64 ∧ t.ponds = s.ponds))

/-- Register writes under the access codes and locks (R12, R467): PCORE_VBASE by the pond's core, not while
PCORE_CTRL.LOCK is 1; PCORE_CTRL.IE and its W1S lock; TBS_EPOCH_LEN by the Shore firmware, not while TBS_LOCK
is 1 nor outside its range (R47); the W1C HP_CTX_FAULT and the port's scratch word through the setup BAR, where
a write that is not a whole aligned word is an Unsupported Request (R261). An
offset that holds no register takes no write. -/
def Obligations.RegisterWrites : Prop :=
  (∀ (s : State) (p : PondId) (v : Word),
    (∃ P, exec (.registerWrite (.pond p) 0x00C v) s = .next (withPond s p P) ∧
      P = { pondOf s p with regs := P.regs } ∧ (∀ off, off ≠ 0x00C → rg P off = rg (pondOf s p) off) ∧
      if bit (rg (pondOf s p) 0) 31 then rg P 0x00C = rg (pondOf s p) 0x00C
      else rg P 0x00C = (v &&& 0xFFFFFF00) ||| (rg (pondOf s p) 0x00C &&& 0xFF)) ∧
    (∃ P, exec (.registerWrite (.pond p) 0 v) s = .next (withPond s p P) ∧
      P = { pondOf s p with regs := P.regs, core := { (pondOf s p).core with ie := v.getLsbD 4 } } ∧
      (∀ off, off ≠ 0 → rg P off = rg (pondOf s p) off) ∧
      (rg P 0).getLsbD 31 = ((rg (pondOf s p) 0).getLsbD 31 || v.getLsbD 31) ∧
      (rg P 0).getLsbD 0 = v.getLsbD 0) ∧
    (exec (.registerWrite (.pond p) 0x020 v) s = .next s)) ∧
  (∀ (s : State) (v : Word), ∃ t, exec (.registerWrite .shore 0x6008 v) s = .next t ∧
    t = { s with shore := { s.shore with regs := t.shore.regs } } ∧
    (∀ off, off ≠ 0x6008 → sreg t off = sreg s off) ∧
    if (sreg s 0x6098).getLsbD 0 = true ∨ fld v 0 17 < 500 ∨ 65536 < fld v 0 17 then
      sreg t 0x6008 = sreg s 0x6008
    else fld (sreg t 0x6008) 0 17 = fld v 0 17) ∧
  (∀ (s : State) (h : PortId) (v : Word), (portOf s h.val).link = true → (portOf s h.val).ready = true →
    (∀ off : BitVec 32, exec (.registerWrite (.bar h false) off v) s = .next { s with barUr := true }) ∧
    (∃ t, exec (.registerWrite (.bar h true) 0x038 v) s = .next t ∧
      t = { s with shore := { s.shore with regs := t.shore.regs }, barUr := false } ∧
      sreg t (0x400 * h.val + 0x38) = sreg s (0x400 * h.val + 0x38) &&& ~~~v ∧
      ∀ off, off ≠ 0x400 * h.val + 0x38 → sreg t off = sreg s off) ∧
    (∃ t, exec (.registerWrite (.bar h true) 0x07C v) s = .next t ∧
      t = { s with shore := { s.shore with regs := t.shore.regs }, barUr := false } ∧
      sreg t (0x400 * h.val + 0x7C) = v ∧
      ∀ off, off ≠ 0x400 * h.val + 0x7C → sreg t off = sreg s off))

/-! ### Host commands -/

/-- A command that Table 11.4 applies at an epoch is consumed, checked and held (R272, R289); its action packet goes to
its pond once epoch A − L has come (R58); one that fails a check completes with its status (R287), and so does
a PROG_SWAP whose target holds no verified mark. At the boundary of A a TAKEOVER takes the token, LEASE and
RELEASE of its holder set and end the lease, and UTC_ANCHOR anchors the ledger (R25, R27, R29, R305). -/
def Obligations.HostCommandsAreHeld : Prop :=
  (∀ c op, HeldRow c op → ∀ (s : State) (h : PortId) (n : CtxId) (d : List Byte), Consumes s h n d →
    leAt d 0 1 = op →
    (∀ st det, consumeChecks s h.val d = some (st, det) →
      ∃ t, exec (c h n) s = .next t ∧ Answered s t h n d st (det % 256) 0) ∧
    (consumeChecks s h.val d = none → op = 0x63 → verifiedMark s (leAt d 4 1) = false →
      ∃ t, exec (c h n) s = .next t ∧ Answered s t h n d 0x24 0 0) ∧
    (consumeChecks s h.val d = none → (op = 0x63 → verifiedMark s (leAt d 4 1) = true) →
      ∃ t b, exec (c h n) s = .next t ∧ TakenUp s t h n d (.held b) ∧ t.ponds = s.ponds ∧
        (b = true ↔ actsInPond op (leAt d 4 1) ∧ applyOf s d ≤ s.shore.tbs.epoch.getD 0 + latOf s) ∧
        if b then ∃ k : Packet, t.shore.weir.hubOut = s.shore.weir.hubOut ++ [k] ∧
          k.dest = leAt d 4 1 % 128 ∧ k.src = 64 ∧ k.cls = 0 ∧ k.kind = 4 ∧ k.apply = applyOf s d % 65536
        else t.shore.weir.hubOut = s.shore.weir.hubOut)) ∧
  (∀ (s : State) (c : Cmd) (b : Bool), 0 < s.shore.tbs.edges → s.shore.cmds = [c] → c.phase = .held b →
    c.apply = epochAfter s.shore.tbs.epoch →
    (c.op = 0x12 → ∃ t, exec .shoreBoundary s = .next t ∧ t.shore.cmds = [] ∧ t.shore.token = some c.port) ∧
    (s.shore.token = some c.port →
      (c.op = 0x10 → leaseOf s c.target = none → c.target < 64 → 0 < c.arg 0x14 4 →
        ∃ t, exec .shoreBoundary s = .next t ∧ t.shore.cmds = [] ∧ leaseOf t c.target = some {
          port := c.arg 0x10 1 % 4, policy := c.arg 0x10 1 / 16 % 4, timeout := c.arg 0x14 4,
          start := s.shore.tbs.lastNs, acted := false, due := none, done := false }) ∧
      (c.op = 0x11 → c.target < 64 → leaseOf s c.target ≠ none →
        ∃ t, exec .shoreBoundary s = .next t ∧ t.shore.cmds = [] ∧ leaseOf t c.target = none) ∧
      (c.op = 0x57 → ∃ t, exec .shoreBoundary s = .next t ∧ t.shore.cmds = [] ∧
        t.shore.ledger.anchor = some (c.apply, c.arg 0x10 8))))

/-- The commands carried out at consumption (R289): NOP, SVC_MAP_READ, BIND_TAG, UNBIND_TAG, ACCT_READ, SEAL_FETCH, PEEK
and POKE, each under the condition that its entry gives, with the statuses of Table 11.6 where one fails
(R61, R294, R304, R305, R312), and an opcode that the table does not assign. -/
def Obligations.HostCommandsAtOnce : Prop :=
  ∀ (s : State) (h : PortId) (n : CtxId) (d : List Byte), Consumes s h n d →
    (opInfo (leAt d 0 1) = none →
      ∃ t, exec (.unassignedOpcode h n) s = .next t ∧ Answered s t h n d 0x01 0 0) ∧
    (consumeChecks s h.val d = none →
      (leAt d 0 1 = 0x01 → ∃ t, exec (.hostNop h n) s = .next t ∧ Answered s t h n d 0 0 0) ∧
      (canRequest (portOf s h.val) = true →
        (leAt d 0 1 = 0x02 → ∃ t, exec (.svcMapRead h n) s = .next t ∧ Answered s t h n d 0 0 0 ∧
          Wrote t h.val (leAt d 0x10 8) (svcMap s) (.data s.shore.order)) ∧
        (∀ k, leAt d 0 1 = 0x55 → acctByTag s.shore.ledger (BitVec.ofNat 32 (leAt d 0x10 4)) = some k →
          mayRead s h.val k = true → ∃ t, exec (.acctRead h n) s = .next t ∧ Answered s t h n d 0 0 0 ∧
            Wrote t h.val (leAt d 0x18 8) (acctNow s k) (.data s.shore.order)) ∧
        (∀ b, leAt d 0 1 = 0x56 → leAt d 0x10 8 < s.shore.ledger.nextSeq → leAt d 0x10 8 < 2 ^ 64 - 1 →
          sealAt s (leAt d 0x10 8) = some b → b.length ≤ leAt d 0x20 4 →
          ∃ t, exec (.sealFetch h n) s = .next t ∧ Answered s t h n d 0 0 b.length ∧
            Wrote t h.val (leAt d 0x18 8) b (.data s.shore.order))) ∧
      (leAt d 0 1 = 0x55 → acctByTag s.shore.ledger (BitVec.ofNat 32 (leAt d 0x10 4)) = none →
        ∃ t, exec (.acctRead h n) s = .next t ∧ Answered s t h n d 0x19 0 0) ∧
      (leAt d 0 1 = 0x56 → leAt d 0x10 8 ≠ 2 ^ 64 - 1 → s.shore.ledger.nextSeq ≤ leAt d 0x10 8 →
        ∃ t, exec (.sealFetch h n) s = .next t ∧ Answered s t h n d 0x1E 0 0) ∧
      (s.shore.token = some h.val →
        (leAt d 0 1 = 0x53 → acctByTag s.shore.ledger (BitVec.ofNat 32 (leAt d 0x10 4)) ≠ none →
          boundPort s (BitVec.ofNat 32 (leAt d 0x10 4)) = none →
          ∃ t, exec (.bindTag h n) s = .next t ∧ Answered s t h n d 0 0 0 ∧
            t.shore.binds = s.shore.binds ++ [(BitVec.ofNat 32 (leAt d 0x10 4), leAt d 0x14 1 % 4)]) ∧
        (∀ q, leAt d 0 1 = 0x53 → acctByTag s.shore.ledger (BitVec.ofNat 32 (leAt d 0x10 4)) ≠ none →
          boundPort s (BitVec.ofNat 32 (leAt d 0x10 4)) = some q → q ≠ leAt d 0x14 1 % 4 → q < 4 →
          ∃ t, exec (.bindTag h n) s = .next t ∧ Answered s t h n d 0x1C q 0 ∧ t.shore.binds = s.shore.binds) ∧
        (leAt d 0 1 = 0x54 → boundPort s (BitVec.ofNat 32 (leAt d 0x10 4)) ≠ none →
          ∃ t, exec (.unbindTag h n) s = .next t ∧ Answered s t h n d 0 0 0 ∧
            boundPort t (BitVec.ofNat 32 (leAt d 0x10 4)) = none ∧
            ∀ tag, tag ≠ BitVec.ofNat 32 (leAt d 0x10 4) → boundPort t tag = boundPort s tag) ∧
        (leAt d 0 1 = 0x54 → boundPort s (BitVec.ofNat 32 (leAt d 0x10 4)) = none →
          ∃ t, exec (.unbindTag h n) s = .next t ∧ Answered s t h n d 0x1D 0 0) ∧
        ((portOf s h.val).role = 0 →
          (leAt d 0 1 = 0x20 → leAt d 4 1 = 64 → leAt d 0x10 4 = 0x6008 →
            ∃ t, exec (.peek h n) s = .next t ∧ Answered s t h n d 0 0 (sreg s 0x6008).toNat) ∧
          (leAt d 0 1 = 0x20 → leAt d 4 1 < 64 → peekable (leAt d 0x10 4) = true →
            (s.shore.mreqs.filter (fun r => r.pond == leAt d 4 1)).length < 4 →
            ∃ t k, exec (.peek h n) s = .next t ∧ TakenUp s t h n d .mgmt ∧
              t.shore.weir.hubOut = s.shore.weir.hubOut ++ [k] ∧ k.dest = leAt d 4 1 ∧ k.cls = 1 ∧ k.op = 1 ∧
              k.addr = leAt d 0x10 4 ∧ t.shore.mreqs = s.shore.mreqs ++ [⟨leAt d 4 1, k.tag, s.shore.order⟩]) ∧
          (leAt d 0 1 = 0x20 → leAt d 4 1 = 64 → leAt d 0x10 4 = 0x1400 →
            ∃ t, exec (.peek h n) s = .next t ∧ Answered s t h n d 0x0D 0 0)) ∧
        (leAt d 0 1 = 0x21 → leAt d 4 1 = 64 → leAt d 0x10 4 = 0x600C → (sreg s 0x6098).getLsbD 0 = false →
          1 ≤ leAt d 0x14 4 % 16 → leAt d 0x14 4 % 16 ≤ 8 →
          ∃ t, exec (.poke h n) s = .next t ∧ Answered s t h n d 0 0 0 ∧
            fld (sreg t 0x600C) 0 4 = leAt d 0x14 4 % 16) ∧
        (leAt d 0 1 = 0x21 → leAt d 4 1 = 64 → leAt d 0x10 4 = 0x6004 →
          ∃ t, exec (.poke h n) s = .next t ∧ Answered s t h n d 0x0D 0 0) ∧
        (leAt d 0 1 = 0x21 → leAt d 4 1 < 64 → pokeAccepts s (leAt d 4 1) (leAt d 0x10 4) = true →
          (s.shore.mreqs.filter (fun r => r.pond == leAt d 4 1)).length < 4 →
          ∃ t k, exec (.poke h n) s = .next t ∧ TakenUp s t h n d .mgmt ∧
            t.shore.weir.hubOut = s.shore.weir.hubOut ++ [k] ∧ k.dest = leAt d 4 1 ∧ k.cls = 1 ∧ k.op = 2 ∧
            k.addr = leAt d 0x10 4 ∧ k.data = BitVec.ofNat 32 (leAt d 0x14 4))))

/-- CONFIGURE, SLUICE_OPEN, PROG_WRITE and SPDM_XFER read their operand from host memory at consumption (R295, R299,
R307, R310), where the port can; a write beyond its target's area, a port without the token and a part without
keys end first. A record that is well formed is held; one with a bad offset ends with BAD_FIELD and the entry's
index, a bad check word with BAD_CHECK; while the last-gasp record has SCVU2 the record waits (R416). A sluice record
that breaks R300 ends with SLUICE_BAD. A write's bytes go to the pond block by block, and clear its verified mark (R308). A read that fails ends with DMA_READ and the first entry that
did not come. DETAIL of BAD_CHECK is free among the entries (log entry 63). -/
def Obligations.OperandsAreRead : Prop :=
  (∀ c op addr len, OperandRow c op addr len → ∀ (s : State) (h : PortId) (n : CtxId) (d : List Byte),
    Consumes s h n d → leAt d 0 1 = op → consumeChecks s h.val d = none →
    ((op = 0x61 → s.shore.token = some h.val ∧ leAt d 0x10 4 < areaSize (leAt d 4 1) ∧
        leAt d 0x10 4 + leAt d 0x14 4 ≤ areaSize (leAt d 4 1)) →
      (op = 0x70 → keysHeld s = true ∧ (s.shore.boot.lc = 1 ∨ s.shore.boot.lc = 2)) →
      (canRequest (portOf s h.val) = true →
        ∃ t, exec (c h n) s = .next t ∧ TakenUp s t h n d (.reading (addr d) (len d)) ∧ t.ponds = s.ponds) ∧
      (canRequest (portOf s h.val) = false →
        ∃ t, exec (c h n) s = .next t ∧ Answered s t h n d 0x0F 0 0 ∧
          sreg t (0x400 * h.val + 0x6C) = BitVec.ofNat 32 (addr d))) ∧
    (op = 0x61 → areaSize (leAt d 4 1) ≤ leAt d 0x10 4 →
      ∃ t, exec (c h n) s = .next t ∧ Answered s t h n d 0x02 0x10 0) ∧
    (op = 0x61 → leAt d 0x10 4 < areaSize (leAt d 4 1) → areaSize (leAt d 4 1) < leAt d 0x10 4 + leAt d 0x14 4 →
      ∃ t, exec (c h n) s = .next t ∧ Answered s t h n d 0x02 0x14 0) ∧
    (op = 0x70 → keysHeld s = false → ∃ t, exec (c h n) s = .next t ∧ Answered s t h n d 0x26 0 0)) ∧
  (∀ (s : State) (h : PortId) (c : Cmd) (r : List Cmd) (a len : Nat) (l : List Byte), readers s h.val = c :: r →
    c.phase = .reading a len → cmdOf s c.order = some c → l.length = len →
    (∀ x ∈ s.shore.cmds, x.prog = false) →
    (c.op = 0x30 → s.shore.ledger.lgDraft ≠ none →
      ∃ t, exec (.operandRead h 0 (some l)) s = .next t ∧ t.ponds = s.ponds ∧ bit (scvuView s 2 4) 3 = true ∧
        cmdOf t c.order = some { c with data := l, phase := .record }) ∧
    (∀ k, c.op = 0x30 → k = c.arg 0x18 1 → len = 8 * k + 8 → s.shore.ledger.lgDraft = none →
      (crc32c (l.take (8 * k)) = leAt l (8 * k) 4 ∧ leAt l (8 * k + 4) 4 = 0 →
        ((∀ i < k, leAt l (8 * i) 4 ≤ 0x6FC ∧ leAt l (8 * i) 4 % 4 = 0) →
          s.shore.tbs.epoch.getD 0 + latOf s < c.apply →
          ∃ t, exec (.operandRead h 0 (some l)) s = .next t ∧ t.ponds = s.ponds ∧
            cmdOf t c.order = some { c with data := l, phase := .held false }) ∧
        (∀ i < k, (∀ j < i, leAt l (8 * j) 4 ≤ 0x6FC ∧ leAt l (8 * j) 4 % 4 = 0) →
          ¬ (leAt l (8 * i) 4 ≤ 0x6FC ∧ leAt l (8 * i) 4 % 4 = 0) →
          ∃ t, exec (.operandRead h 0 (some l)) s = .next t ∧ t.ponds = s.ponds ∧ Completed s t c 0x02 i 0)) ∧
      (¬ (crc32c (l.take (8 * k)) = leAt l (8 * k) 4 ∧ leAt l (8 * k + 4) 4 = 0) → 0 < k →
        ∃ t i, exec (.operandRead h 0 (some l)) s = .next t ∧ t.ponds = s.ponds ∧ i < k ∧
          Completed s t c 0x10 i 0)) ∧
    (c.op = 0x40 →
      (sluiceCheck l = none → s.shore.tbs.epoch.getD 0 < c.apply →
        ∃ t, exec (.operandRead h 0 (some l)) s = .next t ∧ t.ponds = s.ponds ∧
          cmdOf t c.order = some { c with data := l, phase := .held false }) ∧
      (∀ i, sluiceCheck l = some i →
        ∃ t, exec (.operandRead h 0 (some l)) s = .next t ∧ t.ponds = s.ponds ∧ Completed s t c 0x16 (i % 256) 0)) ∧
    (c.op = 0x70 → leAt l 1 1 ∈ spdmCodes → (∀ x ∈ s.shore.cmds, x.port = h.val → x.op = 0x70 → x = c) →
      ∃ t, exec (.operandRead h 0 (some l)) s = .next t ∧ t.ponds = s.ponds ∧
        cmdOf t c.order = some { c with data := l, phase := .spdm })) ∧
  (∀ (s : State) (p : PondId) (q : PortId) (c : Cmd) (a len : Nat) (l : List Byte), s.shore.cmds = [c] →
    c.port = q.val → c.phase = .reading a len → l.length = len → c.op = 0x61 → c.target = p.val →
    (pondOf s p).life.resetEnd = none → (pondOf s p).pfl.op = none → cekOf s p.val = none →
    encryptedHead s p.val = false → writesHead (c.arg 0x10 4) l = false →
    ∃ t, exec (.operandRead q 0 (some l)) s = .next t ∧ (pondOf t p).pfl.verified = false ∧
      (pondOf t p).pfl.words = (pondOf s p).pfl.words ∧
      t.shore.cmds = [{ c with data := l, phase := .flash 0 }]) ∧
  (∀ (s : State) (h : PortId) (c : Cmd) (r : List Cmd) (a len : Nat), readers s h.val = c :: r →
    c.phase = .reading a len → cmdOf s c.order = some c →
    (∀ x ∈ eraseFirst (fun x => x.order == c.order) s.shore.cmds,
      x.prog = false ∧ (x.port = h.val → x.op = 0x70 → x.phase ≠ .spdm)) →
    (∃ t, exec (.operandRead h 0 none) s = .next t ∧ t.ponds = s.ponds ∧ Completed s t c 0x0F 0 0) ∧
    (∀ l : List Byte, l.length < len →
      ∃ t, exec (.operandRead h 0 (some l)) s = .next t ∧ t.ponds = s.ponds ∧
        Completed s t c 0x0F (if c.op = 0x30 then min (l.length / 8) (c.arg 0x18 1) else 0) 0))

/-! ### Program exchange -/

/-- With no program command before it, PROG_ERASE of a pond starts on the inactive bank and clears the verified
mark; one that meets a running operation completes with FLASH_BUSY (R307, R384, R386). PROG_VERIFY checks the
header, then waits for a check unit, takes it, gives it back, and completes with the mark or with its reason
(R308, R400, R416; the header check stands at its start, assumption 32). A flash operation ends with its
outcome, its word committed, or its sector erased (R384, R385). A program swap flips the bank and starts the other program with g0 at the handover and its pending sources kept
(R402, R404), and a core that its verified mark or its state no longer lets swap keeps its program (R142, R401;
assumption 42). An erase beyond its target fails its check (R307). -/
def Obligations.ProgramCommands : Prop :=
  (∀ (s : State) (h : PortId) (n : CtxId) (d : List Byte) (p : PondId), Consumes s h n d →
    consumeChecks s h.val d = none → s.shore.token = some h.val → (∀ x ∈ s.shore.cmds, x.prog = false) →
    leAt d 4 1 = p.val → (pondOf s p).life.resetEnd = none →
    (leAt d 0 1 = 0x60 → 64 < leAt d 0x10 2 + leAt d 0x14 2 →
      ∃ t, exec (.progErase h n) s = .next t ∧
        Answered s t h n d 0x02 (if 64 ≤ leAt d 0x10 2 then 0x10 else 0x14) 0) ∧
    (leAt d 0 1 = 0x60 → leAt d 0x10 2 + leAt d 0x14 2 ≤ 64 → (pondOf s p).pfl.op = none →
      ∃ t, exec (.progErase h n) s = .next t ∧ TakenUp s t h n d (.flash 0) ∧
        (pondOf t p).pfl.op =
          some ⟨2, true, (if (pondOf s p).pfl.bank then 0 else 8192) + 128 * leAt d 0x10 2, [], 0⟩ ∧
        (pondOf t p).pfl.verified = false ∧ (pondOf t p).pfl.words = (pondOf s p).pfl.words ∧
        (pondOf t p).core = (pondOf s p).core ∧ ∀ q : PondId, q ≠ p → pondOf t q = pondOf s q) ∧
    (leAt d 0 1 = 0x60 → leAt d 0x10 2 + leAt d 0x14 2 ≤ 64 → (pondOf s p).pfl.op ≠ none →
      ∃ t, exec (.progErase h n) s = .next t ∧ Answered { s with ponds := t.ponds } t h n d 0x21 0 0 ∧
        (pondOf t p).pfl.verified = false ∧ (pondOf t p).pfl.op = (pondOf s p).pfl.op ∧
        (pondOf t p).core = (pondOf s p).core ∧ ∀ q : PondId, q ≠ p → pondOf t q = pondOf s q) ∧
    (leAt d 0 1 = 0x62 → (pondOf s p).pfl.op = none → headFail s p.val = none →
      ∃ t, exec (.progVerify h n) s = .next t ∧ TakenUp s t h n d .unit ∧ (pondOf t p).pfl = (pondOf s p).pfl ∧
        (pondOf t p).core = (pondOf s p).core ∧ ∀ q : PondId, q ≠ p → pondOf t q = pondOf s q) ∧
    (∀ why, leAt d 0 1 = 0x62 → (pondOf s p).pfl.op = none → headFail s p.val = some why →
      ∃ t, exec (.progVerify h n) s = .next t ∧ Answered { s with ponds := t.ponds } t h n d 0x23 why 0 ∧
        (pondOf t p).pfl = (pondOf s p).pfl ∧ (pondOf t p).core = (pondOf s p).core ∧
        ∀ q : PondId, q ≠ p → pondOf t q = pondOf s q)) ∧
  (∀ (s : State) (c : Cmd) (r : List Cmd), s.shore.cmds = c :: r → c.phase = .unit → s.shore.scvuHeld = 0 →
    ∃ t, exec .verifyUnitAcquire s = .next t ∧ t.ponds = s.ponds ∧
      t.shore.cmds = { c with phase := .check 0 } :: r ∧ bit t.shore.scvuHeld 0 = true) ∧
  (∀ (s : State) (c : Cmd) (u : Fin 2), s.shore.cmds = [c] → c.phase = .check u.val → c.target < 64 →
    (pondAt s c.target).pfl.op ≠ none →
    ∃ t, exec (.verifyDone u) s = .next t ∧ bit t.shore.scvuHeld u.val = false ∧ Completed s t c 0x21 0 0) ∧
  (∀ (s : State) (c : Cmd) (u : Fin 2), s.shore.cmds = [c] → c.phase = .check u.val → c.target ≤ 65 →
    (c.target < 64 → (pondAt s c.target).pfl.op = none) →
    (c.target = 65 → s.shore.sfl.op0 = none ∧ s.shore.sfl.op1 = none ∧ s.shore.ledger.lgErase = false ∧
      s.shore.ledger.lgDraft = none) →
    ∃ t, exec (.verifyDone u) s = .next t ∧ bit t.shore.scvuHeld u.val = false ∧
      match (verifyRun c.target (unitFree c s)).2 with
      | .inl why => (why < 256 → Completed s t c 0x23 why 0) ∧ sreg t 0x20C0 = BitVec.ofNat 32 why
      | .inr v => Completed s t c 0 0 (v % 2 ^ 32) ∧ verifiedMark t c.target = true) ∧
  (∀ (s : State) (p : PondId) (w : Nat) (v : BitVec 256), (pondOf s p).pfl.op = some ⟨1, false, w, [v], 0⟩ →
    pondFlashClass (pondOf s p) w = 0 →
    (∃ P, exec (.flashOperationEnd (.pond p) none) s = .next (withPond s p P) ∧ P.pfl.op = none ∧
      flashWord P w = FWord.committed v ∧ (∀ i, i ≠ w → flashWord P i = flashWord (pondOf s p) i) ∧
      rg P 0x608 = 0 ∧ Pending P 52 ∧ P.sram = (pondOf s p).sram ∧ P.core.g = (pondOf s p).core.g) ∧
    (∃ P, exec (.flashOperationEnd (.pond p) (some 0)) s = .next (withPond s p P) ∧ P.pfl.op = none ∧
      (∀ i, i ≠ w → flashWord P i = flashWord (pondOf s p) i) ∧ fld (rg P 0x608) 16 4 = 2 ∧
      (rg P 0x60C).toNat = 32 * (w % 8192) ∧ Pending P 53 ∧ P.sram = (pondOf s p).sram)) ∧
  (∀ (s : State) (p : PondId) (c : Cmd) (i w : Nat), (pondOf s p).pfl.op = some ⟨2, true, w, [], 0⟩ →
    s.shore.cmds = [c] → c.op = 0x60 → c.target = p.val → c.phase = .flash i → c.arg 0x14 2 = i + 1 →
    ∃ t, exec (.flashOperationEnd (.pond p) none) s = .next t ∧ Completed s t c 0 0 0 ∧
      ∀ k, flashWord (pondOf t p) k = if k / 128 = w / 128 then FWord.erased else flashWord (pondOf s p) k) ∧
  (∀ (s : State) (p : PondId) (a : Nat), (pondOf s p).life.swapDue = some a → (pondOf s p).core.gate = none →
    (pondOf s p).pfl.verified = false ∨ (pondOf s p).core.run = .locked ∨ (pondOf s p).core.df = true →
    ∃ t, exec (.programSwap p) s = .next t ∧ (pondOf t p).pfl.bank = (pondOf s p).pfl.bank ∧
      (pondOf t p).pfl.words = (pondOf s p).pfl.words ∧ (pondOf t p).core = (pondOf s p).core ∧
      (pondOf t p).life.swapDue = none ∧ ∀ q : PondId, q ≠ p → pondOf t q = pondOf s q) ∧
  (∀ (s : State) (p : PondId) (a : Nat), (pondOf s p).life.swapDue = some a → (pondOf s p).core.gate = none →
    (pondOf s p).pfl.verified = true → (pondOf s p).core.run ≠ .locked → (pondOf s p).core.df = false →
    ∃ t, exec (.programSwap p) s = .next t ∧
      (pondOf t p).pfl.bank = !(pondOf s p).pfl.bank ∧ (pondOf t p).pfl.verified = false ∧
      (pondOf t p).pfl.armed = false ∧ (pondOf t p).pfl.words = (pondOf s p).pfl.words ∧
      (pondOf t p).core.run = .running ∧ (pondOf t p).core.pc = activeWord (pondOf t p) 0x28 ∧
      (pondOf t p).core.g = vset Core.reset.g 0 (rg (pondOf s p) 0x61C) ∧ (pondOf t p).pic.act = 0 ∧
      (∀ n, Pending (pondOf s p) n → Pending (pondOf t p) n) ∧ (pondOf t p).life.swapDue = none ∧
      (pondOf t p).life.swapped = some a ∧ t.shore.keys.swaps = s.shore.keys.swaps + 1 ∧
      (sreg t (0x2018 + 4 * (p.val / 32))).getLsbD (p.val % 32) = true ∧
      ∀ q : PondId, q ≠ p → pondOf t q = pondOf s q)

/-! ### Attestation -/

/-- The SPDM requests of one port (R310, R358): GET_VERSION answers 1.2 and opens the connection, which
GET_CAPABILITIES and NEGOTIATE_ALGORITHMS take on in turn; then digests, the certificate chain in parts,
challenges and measurements are answered, the signed ones not while key use is blocked (R359 to R362). A
request out of turn is answered by an error. The encodings are the standard's (log entry 20). -/
def Obligations.SpdmRequests : Prop :=
  ∀ (s : State) (h : PortId) (c : Cmd),
    (SpdmReady s h c 0x84 →
      (leAt c.data 0 1 = 0x10 → ∃ t, exec (.getVersion h) s = .next t ∧
        SpdmSays s t h c [0x10, 0x04, 0, 0, 0, 1, 0x00, 0x12] ∧ (8 ≤ c.arg 0x1C 4 → spdmState t h.val = 1)) ∧
      (leAt c.data 0 1 ≠ 0x10 → ∃ t, exec (.getVersion h) s = .next t ∧
        SpdmSays s t h c [0x12, 0x7F, 0x41, 0] ∧ spdmState t h.val = spdmState s h.val)) ∧
    (leAt c.data 0 1 = 0x12 →
      (∀ x code need, (x, code, need) ∈ [(Instr.getCapabilities, 0xE1, 1), (Instr.negotiateAlgorithms, 0xE3, 2),
          (Instr.getDigests, 0x81, 3), (Instr.getCertificate, 0x82, 3), (Instr.challenge, 0x83, 3),
          (Instr.getMeasurements, 0xE0, 3)] →
        SpdmReady s h c code → spdmState s h.val ≠ need →
        ∃ t, exec (x h) s = .next t ∧ SpdmSays s t h c [0x12, 0x7F, 0x04, 0] ∧ t.shore.keys = s.shore.keys) ∧
      (SpdmReady s h c 0xE1 → spdmState s h.val = 1 → 20 ≤ c.data.length → 42 ≤ leAt c.data 12 4 →
        leAt c.data 12 4 ≤ leAt c.data 16 4 →
        ∃ t l, exec (.getCapabilities h) s = .next t ∧ SpdmSays s t h c l ∧ l.length = 20 ∧ leAt l 8 4 = 0x16 ∧
          (20 ≤ c.arg 0x1C 4 → spdmState t h.val = 2)) ∧
      (SpdmReady s h c 0xE3 → spdmState s h.val = 2 → 32 ≤ c.data.length → leAt c.data 6 1 % 2 = 1 →
        leAt c.data 8 4 / 0x80 % 2 = 1 → leAt c.data 12 4 / 2 % 2 = 1 →
        ∃ t l, exec (.negotiateAlgorithms h) s = .next t ∧ SpdmSays s t h c l ∧ l.length = 36 ∧
          leAt l 12 4 = 0x80 ∧ leAt l 16 4 = 2 ∧ (36 ≤ c.arg 0x1C 4 → spdmState t h.val = 3)) ∧
      (SpdmReady s h c 0x81 → spdmState s h.val = 3 →
        ∃ t, exec (.getDigests h) s = .next t ∧ SpdmSays s t h c ([0x12, 0x01, 0, 1] ++ sha384 (certChain s)) ∧
          spdmState t h.val = 3) ∧
      (SpdmReady s h c 0x82 → spdmState s h.val = 3 → 8 ≤ c.data.length → leAt c.data 2 1 % 16 = 0 →
        leAt c.data 4 2 < (certChain s).length →
        ∃ t l, exec (.getCertificate h) s = .next t ∧ SpdmSays s t h c l ∧
          l.drop 8 = ((certChain s).drop (leAt c.data 4 2)).take (min (leAt c.data 6 2) 4088) ∧
          l.take 2 = [0x12, 0x02]) ∧
      (SpdmReady s h c 0x83 → spdmState s h.val = 3 → 36 ≤ c.data.length → leAt c.data 2 1 % 16 = 0 →
        leAt c.data 3 1 = 0 →
        (∀ k, keyBlocked s = false → s.shore.keys.kAlias = some k →
          ∃ t l, exec (.challenge h) s = .next t ∧
            SpdmSays s t h c ([0x12, 0x03, 0, 1] ++ sha384 (certChain s) ++ l)) ∧
        (keyBlocked s = true →
          ∃ t, exec (.challenge h) s = .next t ∧ SpdmSays s t h c [0x12, 0x7F, 0x03, 0])) ∧
      (SpdmReady s h c 0xE0 → spdmState s h.val = 3 →
        (4 ≤ c.data.length → leAt c.data 2 1 % 2 = 0 → leAt c.data 3 1 = 0 →
          ∃ t l, exec (.getMeasurements h) s = .next t ∧ SpdmSays s t h c ([0x12, 0x60, 71, 0, 0, 0, 0, 0] ++ l)) ∧
        (37 ≤ c.data.length → leAt c.data 2 1 % 2 = 1 → leAt c.data 3 1 = 0 → leAt c.data 36 1 % 16 = 0 →
          keyBlocked s = true →
          ∃ t, exec (.getMeasurements h) s = .next t ∧ SpdmSays s t h c [0x12, 0x7F, 0x03, 0])))

/-! ### Messages and energy -/

/-- A message of the bound source reaches its pond: on time it is held for its apply epoch; late, or too early, it is counted and never applied; one of another incarnation is discarded
(R50 to R52, R248, R249). A capture stream sends up to 12 entries at a time through its sluice; the hub holds the
packet for its apply epoch or counts it late, and the issuing
port writes them as records of 64 bytes in its ring, or counts them lost where it cannot write (R302; the
packet's DATA0 is log entry 21's). -/
def Obligations.MessagesAndStreams : Prop :=
  (∀ (s : State) (p : PondId) (k : Packet) (r : List Packet) (n : Nat),
    (pondOf s p).out = [] → KMap.get [] s.shore.weir.ejected p.val = k :: r → k.cls = 0 → k.kind = 0 →
    (pondOf s p).life.inService = true → (pondOf s p).life.resetEnd = none →
    boundRx (pondOf s p) k.src k.sendPort = some n →
    ∃ t, exec (.messageArrival ⟨p.val, Nat.lt_succ_of_lt p.isLt⟩) s = .next t ∧
      KMap.get [] t.shore.weir.ejected p.val = r ∧ (∀ q : PondId, q ≠ p → pondOf t q = pondOf s q) ∧
      (pondOf t p).rx = (pondOf s p).rx ∧ (pondOf t p).core.g = (pondOf s p).core.g ∧
      (k.src < 64 → ((pondOf s p).incTab.get k.src).toNat ≠ k.tag →
        (pondOf t p).held = (pondOf s p).held ∧
        (rg (pondOf t p) 0x648).toNat = min (2 ^ 32 - 1) ((rg (pondOf s p) 0x648).toNat + 1)) ∧
      ((k.src < 64 → ((pondOf s p).incTab.get k.src).toNat = k.tag) →
        let c := epochOf (pondOf s p)
        let a := applyEpoch c k.apply
        ((c : Int) < a → a ≤ (c : Int) + 9 →
          pondOf t p = { pondOf s p with
            held := (pondOf s p).held ++ [⟨n, k.src, BitVec.ofNat 8 k.tag, a.toNat, k.data0⟩],
            came := (pondOf t p).came }) ∧
        (a ≤ (c : Int) →
          (pondOf t p).held = (pondOf s p).held ∧ Pending (pondOf t p) 55 ∧ (pondOf t p).lateRx.getLsbD n = true ∧
          (pondOf t p).tap.lateNew = (pondOf s p).tap.lateNew + 1) ∧
        ((c : Int) + 9 < a → (pondOf t p).held = (pondOf s p).held ∧ Pending (pondOf t p) 56))) ∧
  (∀ (s : State) (p : PondId) (n : Nat) (w : Word × Nat) (r : List (Word × Nat)), (pondOf s p).stream = some n →
    (pondOf s p).cbuf = w :: r →
    (slOpenAt (pctx s p) n (epochOf (pondOf s p)) = true →
      ∃ P k, exec (.streamPacketSend p) s = .next (withPond s p P) ∧
        P = { pondOf s p with cbuf := P.cbuf, out := (pondOf s p).out ++ [k] } ∧ P.cbuf = (w :: r).drop 12 ∧
        k.dest = 64 ∧ k.src = p.val ∧ k.cls = 0 ∧ k.kind = 5 ∧ k.sluice = some n ∧ k.body.length = 4 ∧
        k.data0.toNat = w.2 % 2 ^ 32 + 2 ^ 32 * min 12 (r.length + 1)) ∧
    (slOpenAt (pctx s p) n (epochOf (pondOf s p)) = false →
      ∃ P, exec (.streamPacketSend p) s = .next (withPond s p P) ∧ P.out = (pondOf s p).out ∧
        P.cbuf = (w :: r).drop 12 ∧
        (rg P 0x644).toNat = min (2 ^ 32 - 1) ((rg (pondOf s p) 0x644).toNat + 1))) ∧
  (∀ (s : State) (h : PortId) (k : Packet) (r : List Packet) (x : Stream) (l : List Stream),
    s.shore.weir.streamIn = k :: r → applyEpoch (s.shore.tbs.epoch.getD 0) k.apply ≤ (s.shore.tbs.epoch.getD 0 : Int) →
    s.shore.streams = x :: l →
    x.pond = k.src → x.port = h.val → k.tag = (s.shore.weir.inc.get (k.src % 64)).toNat →
    (canRequest (portOf s h.val) = true →
      ∃ t, exec .streamRecord s = .next t ∧ t.shore.streams.head? = some { x with seq := x.seq + 1 } ∧
        (portOf t h.val).posted = (portOf s h.val).posted ++
          [⟨x.base + 64 * ((x.seq - 1) % 2 ^ (x.log2 - 6)), streamRecordBytes x.seq k, .stream, 0⟩] ∧
        (streamRecordBytes x.seq k).length = 64 ∧ t.shore.weir.streamIn = r ∧ t.ponds = s.ponds) ∧
    (canRequest (portOf s h.val) = false →
      ∃ t, exec .streamRecord s = .next t ∧
        t.shore.streams.head? = some { x with seq := x.seq + 1, lost := x.lost + 1 } ∧
        (portOf t h.val).posted = (portOf s h.val).posted ∧ t.ponds = s.ponds)) ∧
  (∀ (s : State) (k : Packet) (r : List Packet), s.shore.weir.hubOut = [] →
    KMap.get [] s.shore.weir.ejected 64 = k :: r → k.cls = 0 → k.kind = 5 →
    let c := s.shore.tbs.epoch.getD 0
    let a := applyEpoch c k.apply
    ∃ t, exec (.messageArrival 64) s = .next t ∧ t.ponds = s.ponds ∧ KMap.get [] t.shore.weir.ejected 64 = r ∧
      t.shore.weir.streamIn = s.shore.weir.streamIn ++
        (if k.tag = (s.shore.weir.inc.get (k.src % 64)).toNat ∧ (c : Int) < a ∧ a ≤ (c : Int) + 9 then
          [{ k with since := s.ns }] else []) ∧
      (k.tag = (s.shore.weir.inc.get (k.src % 64)).toNat → a ≤ (c : Int) →
        (sreg t 0x608C).toNat = min (2 ^ 32 - 1) ((sreg s 0x608C).toNat + 1)))

/-- The tap posts the whole quanta of the epochs before and keeps the residue (R315, R317); a post at the ledger is
held for its apply epoch, and a late one is booked at once into the account of its tag and counted (R318,
R319, R324). The oldest queued interval is sealed: the signature follows the header and the records, the
seals are chained, and none is made while key use is blocked (R332, R334, R335). -/
def Obligations.EnergyIsLedgered : Prop :=
  (∀ (s : State) (p : PondId), (pondOf s p).tap.due = true → (pondOf s p).life.incWait = false →
    (pondOf s p).life.inService = true → (pondOf s p).tap.opened = [] →
    ∃ t k, exec (.energyPost p) s = .next t ∧
      (let x := (pondOf s p).tap.x +
         (((pondOf s p).tap.pend.filter (fun q => decide (q.1 < epochOf (pondOf s p)))).map (·.2)).sum
       (pondOf t p).out = (pondOf s p).out ++ [k] ∧ k.dest = 64 ∧ k.src = p.val ∧ k.cls = 0 ∧ k.kind = 1 ∧
       k.apply = (epochOf (pondOf s p) + latOf s) % 65536 ∧ k.data0 = BitVec.ofInt 64 (x.fdiv (2 ^ 48)) ∧
       (pondOf t p).tap.x = x.fmod (2 ^ 48) ∧ (pondOf t p).tap.cum = (pondOf s p).tap.cum + x.fdiv (2 ^ 48)) ∧
      (pondOf t p).tap.due = false ∧ (pondOf t p).core = (pondOf s p).core ∧
      (pondOf t p).sram = (pondOf s p).sram ∧ t.shore.weir.energy = s.shore.weir.energy ++ [k] ∧
      ∀ q : PondId, q ≠ p → pondOf t q = pondOf s q) ∧
  (∀ (s : State) (k : Packet) (r : List Packet), KMap.get [] s.shore.weir.ejected 64 = k :: r → k.cls = 0 →
    k.kind = 1 →
    (let c := s.shore.tbs.epoch.getD 0
     let a := applyEpoch c k.apply
     ((c : Int) < a → a ≤ (c : Int) + 9 →
       ∃ t x, exec .energyPostArrival s = .next t ∧ t.shore.ledger.held = s.shore.ledger.held ++ [x] ∧
         x.apply = a.toNat ∧ x.pond = k.src % 64 ∧ x.quanta = k.data0.toInt ∧
         t.shore.ledger.accts = s.shore.ledger.accts ∧ t.ponds = s.ponds) ∧
     (∀ n, a ≤ (c : Int) → acctByTag s.shore.ledger (heldPostOf k c s.ns).tag = some n →
       (heldPostOf k c s.ns).cum = KMap.get 0 s.shore.ledger.cumL (k.src % 64) + k.data0.toInt →
       ∃ t, exec .energyPostArrival s = .next t ∧ t.shore.ledger.held = s.shore.ledger.held ∧
         (acctOf t.shore.ledger n).interval = (acctOf s.shore.ledger n).interval + k.data0.toInt ∧
         (acctOf t.shore.ledger n).total = (acctOf s.shore.ledger n).total + k.data0.toInt ∧
         t.shore.ledger.measuredAll = s.shore.ledger.measuredAll + k.data0.toInt ∧
         KMap.get 0 t.shore.ledger.cumL (k.src % 64) = (heldPostOf k c s.ns).cum ∧
         t.shore.ledger.cnt.latePosts = s.shore.ledger.cnt.latePosts + 1 ∧
         (∀ m, m ≠ n → acctOf t.shore.ledger m = acctOf s.shore.ledger m) ∧ t.ponds = s.ponds))) ∧
  (∀ (s : State) (x : IvSnap) (r : List IvSnap), s.shore.ledger.queue = x :: r → sealsOn s = true →
    s.shore.sfl.op0 = none → s.shore.ledger.lgErase = false → s.shore.ledger.lgDraft = none →
    ((s.shore.keys.kSeal ≠ none → keyBlocked s = false) →
      ∃ t, exec .sealArchive s = .next t ∧ t.shore.ledger.queue = r ∧
        t.shore.ledger.nextSeq = s.shore.ledger.nextSeq + 1 ∧
        t.shore.ledger.archive.getLast? = some (s.shore.ledger.archPos, (sealBytes s x).length) ∧
        t.shore.ledger.archPos = s.shore.ledger.archPos + (sealBytes s x).length ∧
        t.shore.ledger.prevHash = sha384 (sealBytes s x) ∧
        (sealBytes s x).length = 320 + 32 * x.recs.length ∧ t.ponds = s.ponds) ∧
    (s.shore.keys.kSeal ≠ none → keyBlocked s = true →
      ∃ t, exec .sealArchive s = .next t ∧ t.shore.ledger = s.shore.ledger ∧
        (sreg t 0x200C).toNat = min (2 ^ 32 - 1) ((sreg s 0x200C).toNat + 1) ∧ t.ponds = s.ponds))

/-! ### Management packets -/

/-- A pond's endpoint serves a read, a word write and a block write, each answered on the spillway under its tag; in a
reset it answers STATUS 1, and a block that meets a firmware operation is not written (R232, R294, R384, R398;
the code that the answer carries is assumption 32). At the hub the answers complete their PEEK, POKE and PROG_WRITE,
whose next block is sent until the last (R61, R294, R398). A notice of a new incarnation discards the older
messages that would still apply and is acknowledged; the last acknowledgement lets the pond post again (R85,
R249). What a notice and a block answer carry is the model's choice (assumption 21). -/
def Obligations.ManagementPackets : Prop :=
  (∀ (s : State) (p : PondId) (k : Packet) (r : List Packet), KMap.get [] s.shore.weir.ejected p.val = k :: r →
    k.cls = 1 → (pondOf s p).life.inService = true →
    let reply (t : State) (q : Packet) (op st : Nat) : Prop :=
      KMap.get [] t.shore.weir.ejected p.val = r ∧ (pondOf t p).out = (pondOf s p).out ++ [q] ∧ q.dest = 64 ∧
      q.src = p.val ∧ q.cls = 1 ∧ q.op = op ∧ q.tag = k.tag ∧ q.status = st ∧ q.addr = k.addr ∧
      (pondOf t p).core = (pondOf s p).core ∧ ∀ x : PondId, x ≠ p → pondOf t x = pondOf s x
    ((pondOf s p).life.resetEnd = none → k.op = 1 → 0x20000000 ≤ k.addr → k.addr < 0x20020000 →
      ∃ t q, exec (.managementRead p) s = .next t ∧ reply t q 3 0 ∧ (pondOf t p).sram = (pondOf s p).sram ∧
        q.data.toNat = ofLe ((pondOf s p).sram.bytes (k.addr - 0x20000000) 4)) ∧
    ((pondOf s p).life.resetEnd = none → k.op = 2 → 0x20000000 ≤ k.addr → k.addr < 0x2001FFC0 →
      ∃ t q, exec (.managementWrite p) s = .next t ∧ reply t q 4 0 ∧
        (pondOf t p).sram.bytes (k.addr - 0x20000000) 4 = leBytes k.data.toNat 4 ∧
        (pondOf t p).regs = (pondOf s p).regs ∧
        ∀ a, a + 0x20000000 < k.addr ∨ k.addr + 4 ≤ a + 0x20000000 →
          (pondOf t p).sram.get a = (pondOf s p).sram.get a) ∧
    ((pondOf s p).life.resetEnd ≠ none →
      (k.op = 1 → ∃ t q, exec (.managementRead p) s = .next t ∧ reply t q 3 1) ∧
      (k.op = 2 → ∃ t q, exec (.managementWrite p) s = .next t ∧ reply t q 4 1) ∧
      (k.op = 5 → ∃ t q, exec (.blockWrite p) s = .next t ∧ reply t q 6 1)) ∧
    ((pondOf s p).life.resetEnd = none → k.op = 5 → (pondOf s p).pfl.op = none →
      ∃ t, exec (.blockWrite p) s = .next t ∧
        (pondOf t p).pfl.op = some ⟨2, false, (if (pondOf s p).pfl.bank then 0 else 8192) + k.addr / 32,
          flashWords 2 k.bytes, k.tag⟩ ∧
        (pondOf t p).pfl.verified = false ∧ (pondOf t p).pfl.words = (pondOf s p).pfl.words ∧
        (pondOf t p).out = (pondOf s p).out ∧ (pondOf t p).core = (pondOf s p).core) ∧
    (∀ o, (pondOf s p).life.resetEnd = none → k.op = 5 → (pondOf s p).pfl.op = some o → o.owner = 1 →
      ∃ t q, exec (.blockWrite p) s = .next t ∧ reply t q 6 0 ∧ q.data = 0x21 ∧
        (pondOf t p).pfl = (pondOf s p).pfl) ∧
    (k.op = 0x10 →
      let b := applyEpoch (epochOf (pondOf s p)) (fld k.data 0 16)
      ∃ t q, exec (.incarnationNotice p) s = .next t ∧
        (pondOf t p).out = (pondOf s p).out ++ [q] ∧ q.dest = 64 ∧ q.op = 0x11 ∧ q.addr = k.addr ∧
        ((pondOf t p).incTab.get (k.addr % 256)).toNat = k.addr / 256 % 256 ∧
        (pondOf t p).held = (pondOf s p).held.filter (fun x =>
          !(x.src == k.addr % 256 && x.inc != BitVec.ofNat 8 (k.addr / 256) && decide (b < (x.apply : Int)))) ∧
        (pondOf t p).rx = (pondOf s p).rx)) ∧
  (∀ (s : State) (k : Packet) (r : List Packet), KMap.get [] s.shore.weir.ejected 64 = k :: r → k.cls = 1 →
    (∀ c : Cmd, s.shore.mreqs = [⟨k.src, k.tag, c.order⟩] → s.shore.mwait = [] → cmdOf s c.order = some c →
      (k.op = 3 → k.status ≤ 2 → ∃ t, exec .readResponse s = .next t ∧ t.shore.mreqs = [] ∧ t.ponds = s.ponds ∧
        Completed s t c ([0, 0x0E, 0x0D].getD k.status 0) 0 (if k.status = 0 then k.data.toNat else 0)) ∧
      (k.op = 4 → k.status ≤ 3 → ∃ t, exec .writeAcknowledge s = .next t ∧ t.shore.mreqs = [] ∧
        t.ponds = s.ponds ∧ Completed s t c ([0, 0x0E, 0x0D, 0x11].getD k.status 0) 0 0) ∧
      (∀ i, k.op = 6 → s.shore.cmds = [c] → c.phase = .flash i → c.op = 0x61 → c.target < 64 →
        c.arg 0x10 4 < 0x3FE00 →
        (k.status = 1 → ∃ t, exec .blockAcknowledge s = .next t ∧ Completed s t c 0x0E 0 0) ∧
        (k.status ≠ 1 → k.data = 0x21 → ∃ t, exec .blockAcknowledge s = .next t ∧ Completed s t c 0x21 0 0) ∧
        (k.status ≠ 1 → k.data ≠ 0 → k.data ≠ 0x21 → k.data.toNat < 256 →
          ∃ t, exec .blockAcknowledge s = .next t ∧ Completed s t c 0x22 k.data.toNat 0) ∧
        (k.status ≠ 1 → k.data = 0 → c.data.length ≤ 64 * (i + 1) →
          ∃ t, exec .blockAcknowledge s = .next t ∧ Completed s t c 0 0 0) ∧
        (k.status ≠ 1 → k.data = 0 → 64 * (i + 1) < c.data.length →
          ∃ t q, exec .blockAcknowledge s = .next t ∧ t.shore.cmds = [{ c with phase := .flash (i + 1) }] ∧
            t.shore.weir.hubOut = s.shore.weir.hubOut ++ [q] ∧ q.dest = c.target ∧ q.cls = 1 ∧ q.op = 5 ∧
            q.addr = (c.arg 0x10 4 + 64 * (i + 1)) % 2 ^ 32))) ∧
    (∀ (p : PondId) (l : List Nat), k.op = 0x11 → k.addr % 256 = p.val → s.shore.notices = [(p.val, l)] →
      ∃ t, exec .noticeAcknowledge s = .next t ∧
        (l.filter (fun n => n != k.src) = [] → t.shore.notices = [] ∧ (pondOf t p).life.incWait = false) ∧
        (l.filter (fun n => n != k.src) ≠ [] →
          t.shore.notices = [(p.val, l.filter (fun n => n != k.src))] ∧ t.ponds = s.ponds)))

/-! ### The Weir's links -/

/-- A link direction sends the sluice flit of the wheel's slot, else the flit of the lane that is due, else the sluice
flit of the next slot that has one (assumption 55), in a replay the
flit replayed, and nothing with 32 flits unacknowledged (R233, R235, R242); its receiver accepts a flit that
passes its check, asks once for one that does not, and discards those sent before its NAK was taken up (R242).
NAKs, credits and acknowledgements act on the sender; a failing one, a failure in a replay, a fourth failure or an
audit whose sum is not the link constant retrains the link (R239 to R243), and eight failed
retrainings in a row fail it until its timer (R244). -/
def Obligations.WeirLinks : Prop :=
  (∀ (s : State) (l : LinkId) (k : Link), k = linkOf s l.val →
    (2 ≤ k.st ∨ (k.replay = none ∧ 32 ≤ k.retry.length) → exec (.flitSend l) s = .next s) ∧
    (k.st < 2 → k.replay = none → k.retry.length < 32 →
      let sent (t : State) (v j : Nat) (f : Flit) : Prop :=
        ∃ w : WireFlit, w = ⟨f, v, k.seqS, sideOf f v k.seqS, k.round, (k.hs + 1) % 1024 == 0⟩ ∧
          (linkOf t l.val).seqS = k.seqS + 1 ∧ (linkOf t l.val).hs = k.hs + 1 ∧
          (linkOf t l.val).slot = (j + 1) % 16 ∧
          (linkOf t l.val).used = vset k.used v (vget k.used v 0 + 1) ∧
          (linkOf t l.val).retry = k.retry ++ [w] ∧ (linkOf t l.val).wire = k.wire ++ [w]
      (∀ n b f, pickSluice s l.val k.slot = some (n, b, f) →
        ∃ t, exec (.flitSend l) s = .next t ∧ sent t 3 k.slot f) ∧
      (∀ v x f, pickSluice s l.val k.slot = none → pickLane s l.val = some (v, x) →
        srcFlit s l.val v x = some f →
        ∃ t, exec (.flitSend l) s = .next t ∧ sent t v k.slot f ∧ (linkOf t l.val).rr = v ∧
          vget (linkOf t l.val).own v none = if f.tail then none else some x) ∧
      (∀ j n b f, pickSluice s l.val k.slot = none → pickLane s l.val = none →
        idleSlots s l.val = some (j, (n, b, f)) → ∃ t, exec (.flitSend l) s = .next t ∧ sent t 3 j f)) ∧
    (∀ q w, k.st < 2 → k.replay = some q → k.retry.find? (fun x => x.seq == q) = some w →
      ∃ t, exec (.flitSend l) s = .next t ∧ (linkOf t l.val).wire = k.wire ++
          [{ w with round := k.round, audit := w.audit || (k.hs + 1) % 1024 == 0 }] ∧
        (linkOf t l.val).seqS = k.seqS ∧ (linkOf t l.val).retry = k.retry ∧ (linkOf t l.val).hs = k.hs + 1)) ∧
  (∀ (s : State) (l : LinkId) (k : Link) (w : WireFlit) (r : List WireFlit), k = linkOf s l.val → k.wire = w :: r →
    (∃ t, exec (.flitReceive l .dropped) s = .next t ∧ linkOf t l.val = { k with wire := r } ∧ t.ponds = s.ponds) ∧
    (w.round ≠ k.roundR →
      ∃ t, exec (.flitReceive l .none) s = .next t ∧ linkOf t l.val = { k with wire := r } ∧ t.ponds = s.ponds) ∧
    (w.round = k.roundR →
      (flitCheck w.flit.data (fld w.side 12 4) k.seqR = fld w.side 0 12 →
        ∃ t, exec (.flitReceive l .none) s = .next t ∧ (linkOf t l.val).wire = r ∧
          (linkOf t l.val).seqR = k.seqR + 1 ∧ (linkOf t l.val).audit = (k.audit || w.audit) ∧
          (linkOf t l.val).fails = 0 ∧
          RetMsg.ack k.seqR ∈ (linkOf t l.val).ret) ∧
      (flitCheck w.flit.data (fld w.side 12 4) k.seqR ≠ fld w.side 0 12 →
        ∃ t, exec (.flitReceive l .none) s = .next t ∧ (linkOf t l.val).seqR = k.seqR ∧
          (linkOf t l.val).buf = k.buf ∧
          (sreg t (0x10E8 + 4 * linkRing l.val)).toNat =
            min (2 ^ 32 - 1) ((sreg s (0x10E8 + 4 * linkRing l.val)).toNat + 1) ∧
          if k.replay ≠ none ∨ 3 ≤ k.fails then
            (linkOf t l.val).st = 2 ∧ (k.st ≠ 2 → (linkOf t l.val).wire = [] ∧ (linkOf t l.val).ret = [])
          else linkOf t l.val = { k with
            wire := r, fails := k.fails + 1, roundR := k.roundR + 1, ret := k.ret ++ [.nak k.seqR] }))) ∧
  (∀ (s : State) (l : LinkId) (k : Link) (r : List RetMsg), k = linkOf s l.val →
    (∀ q, k.ret = .nak q :: r → ∃ t, exec (.nak l false) s = .next t ∧
      linkOf t l.val = (if k.retry.any (fun w => w.seq == q) then
          { k with ret := r, round := k.round + 1, replay := some q, st := 1 }
        else { k with ret := r, round := k.round + 1, replay := none, st := 0 }) ∧
      (sreg t (0x10A0 + 4 * linkRing l.val)).toNat =
        min (2 ^ 32 - 1) ((sreg s (0x10A0 + 4 * linkRing l.val)).toNat + 1)) ∧
    (∀ v, k.ret = .credit v :: r → ∃ t, exec (.creditReturn l false) s = .next t ∧
      linkOf t l.val = { k with ret := r, used := vset k.used v (vget k.used v 0 - 1) }) ∧
    (∀ q, k.ret = .ack q :: r → ∃ t, exec (.linkAcknowledgement l false) s = .next t ∧
      linkOf t l.val = { k with ret := r, retry := k.retry.filter (fun w => decide (q < w.seq)) }) ∧
    (k.st ≠ 2 →
      (∀ q, k.ret = .nak q :: r → ∃ t, exec (.nak l true) s = .next t ∧ (linkOf t l.val).st = 2) ∧
      (∀ v, k.ret = .credit v :: r → ∃ t, exec (.creditReturn l true) s = .next t ∧ (linkOf t l.val).st = 2 ∧
        (linkOf t l.val).used = k.used) ∧
      (∀ q, k.ret = .ack q :: r → ∃ t, exec (.linkAcknowledgement l true) s = .next t ∧
        (linkOf t l.val).st = 2 ∧ (linkOf t l.val).retry = k.retry) ∧
      (∃ t, exec (.retrain l) s = .next t ∧ linkOf t l.val = { k with
          st := 2, wire := [], ret := [], replay := none, roundR := k.round, fails := 0 } ∧
        (sreg t (0x10C4 + 4 * linkRing l.val)).toNat =
          min (2 ^ 32 - 1) ((sreg s (0x10C4 + 4 * linkRing l.val)).toNat + 1) ∧ t.ponds = s.ponds)) ∧
    (k.audit = true →
      let away (v : Nat) : Nat := (k.retry.filter (fun w => w.lane == v && decide (k.seqR ≤ w.seq))).length +
        (vget k.buf v []).length + (k.ret.filter (fun m => m == .credit v)).length
      ((∀ v < 4, creditsHeld k v + away v = laneSize v) →
        ∃ t, exec (.creditAudit l none) s = .next t ∧ linkOf t l.val = { k with audit := false } ∧
        t.ponds = s.ponds) ∧
      (∀ (v : Fin 4) (x : Word), x.toNat + away v.val ≠ laneSize v.val →
        ∃ t, exec (.creditAudit l (some (v, x))) s = .next t ∧ (linkOf t l.val).st = 2 ∧
          t.shore.alarms.active.getLsbD 5 = true ∧ t.ponds = s.ponds)) ∧
    (k.st = 2 →
      (∃ t, exec (.retrainDone l true) s = .next t ∧ (linkOf t l.val).rfails = 0 ∧
        (linkOf t l.val).retry = k.retry.filter (fun w => decide (k.seqR ≤ w.seq)) ∧ (linkOf t l.val).ret = [] ∧
        (linkOf t l.val).replay = (if (linkOf t l.val).retry = [] then none else some k.seqR) ∧
        (linkOf t l.val).st = (if (linkOf t l.val).retry = [] then 0 else 1) ∧
        (∀ v, v < 4 → vget (linkOf t l.val).used v 0 = (vget k.buf v []).length +
          ((linkOf t l.val).retry.filter (fun w => w.lane == v)).length) ∧
        (sreg t (0x1130 + 4 * linkRing l.val)).getLsbD (l.val % 18) = false) ∧
      (∃ t, exec (.retrainDone l false) s = .next t ∧ (linkOf t l.val).rfails = k.rfails + 1 ∧
        if 7 ≤ k.rfails then
          (linkOf t l.val).st = 3 ∧ (sreg t (0x1130 + 4 * linkRing l.val)).getLsbD (l.val % 18) = true
        else (linkOf t l.val).st = 2)) ∧
    (k.st = 3 → ∃ t, exec (.retrainTimer l) s = .next t ∧ (linkOf t l.val).st = 2))

/-! ### Alarms and the supply warning -/

/-- Registered sources become active and raised and are counted, whatever their level without a change in any pond;
from level B key use is blocked, from level C the keys are erased (R365, R366, R368, R369), VGLITCH and CGLITCH
masked after a supply warning (R449). A condition ends, an injection works in Larva only, and an erase ends and lets
a Husk transition that waits program its mark (R363, R367). A fall of SUPPLY_WARN_N begins the last-gasp record where
it is armed and ready, and is counted where it is not ready; the record commits, with the check value of SCVU2, and
the configuration record that waited for that unit is checked (R416; DONE of the unit: log entry 74); 1 ms after the
rise it is erased, which makes the block ready again (R337, R391). -/
def Obligations.AlarmsAndSupply : Prop :=
  (∀ (s : State) (m : BitVec 8), s.shore.boot.por = false →
    let m1 := if s.shore.ledger.mask then m &&& 0xFC else m
    ∃ t, exec (.alarmRegistration m) s = .next t ∧ t.ponds = s.ponds ∧
      t.shore.alarms.active = s.shore.alarms.active ||| m1 ∧ t.shore.alarms.raised = s.shore.alarms.raised ||| m1 ∧
      t.shore.alarms.live = s.shore.alarms.live ||| (m1 &&& 0x0C) ∧
      (∀ n, n < 8 → (sreg t (0x2110 + 4 * n)).toNat = if m1.getLsbD n then
        min (2 ^ 32 - 1) ((sreg s (0x2110 + 4 * n)).toNat + 1) else (sreg s (0x2110 + 4 * n)).toNat) ∧
      (∀ n, n < 8 → m1.getLsbD n = true → 1 ≤ alarmActs s n → keyBlocked t = true) ∧
      (∀ n, n < 8 → m1.getLsbD n = true → 2 ≤ alarmActs s n → s.shore.alarms.erase = none →
        t.shore.alarms.erase = some s.ns ∧ t.shore.keys.w = none ∧ t.shore.keys.root = 0 ∧
        t.shore.keys.kSeal = none ∧ t.shore.keys.drbg = none ∧ t.shore.keys.erased = true) ∧
      ((∀ n, n < 8 → m1.getLsbD n = true → alarmActs s n < 2) → t.shore.keys = s.shore.keys)) ∧
  (∀ (s : State) (n : Fin 8), ∃ t, exec (.alarmConditionEnd n) s = .next t ∧
    t = { s with shore := { s.shore with alarms := { s.shore.alarms with live := t.shore.alarms.live } } } ∧
    ∀ i, t.shore.alarms.live.getLsbD i = (s.shore.alarms.live.getLsbD i && decide (i ≠ n.val))) ∧
  (∀ (s : State) (m : BitVec 8),
    (s.shore.boot.lc = 0 → s.shore.boot.por = false → ∃ t, exec (.inject m) s = .next t ∧ t.ponds = s.ponds ∧
      t.shore.alarms.active = s.shore.alarms.active ||| m ∧ t.shore.alarms.live = s.shore.alarms.live) ∧
    (s.shore.boot.lc ≠ 0 → exec (.inject m) s = .next s)) ∧
  (∀ (s : State) (a : Nat), s.shore.alarms.erase = some a →
    ∃ t, exec .eraseComplete s = .next t ∧ t.shore.alarms.erase = none ∧ t.ponds = s.ponds ∧
      t.shore.alarms.huskProg = (s.shore.alarms.huskProg || s.shore.alarms.huskWait) ∧
      t.shore.alarms.huskWait = false ∧ t.shore.keys = s.shore.keys ∧
      (sreg t 0x21A8).toNat = 2 ^ 31 + min 65535 (s.ns - a)) ∧
  (∀ s : State,
    (s.shore.ledger.warn = true → s.shore.boot.por = false →
      (s.shore.ledger.lgReady = true → bit (sreg s 0x3000) 1 = true →
        ∃ t g, exec .supplyWarnNFall s = .next t ∧ t.shore.ledger.warn = false ∧ t.shore.ledger.mask = true ∧
          t.shore.ledger.lgDraft = some g ∧ g.seq = s.shore.ledger.nextSeq ∧
          g.body.start = (match s.shore.ledger.queue with | [] => s.shore.ledger.ivStart | x :: _ => x.start) ∧
          t.shore.ledger.lgReady = false ∧ t.shore.ledger.accts = s.shore.ledger.accts ∧
          ((∀ x ∈ s.shore.cmds, x.prog = false) →
            t.shore.sfl.op0 = none ∧ t.shore.sfl.op1 = none ∧ t.ponds = s.ponds)) ∧
      (s.shore.ledger.lgReady = false →
        ∃ t, exec .supplyWarnNFall s = .next t ∧ t.shore.ledger.lgDraft = s.shore.ledger.lgDraft ∧
          t.shore.sfl = s.shore.sfl ∧ t.shore.ledger.mask = true ∧
          (sreg t 0x3060).toNat = min (2 ^ 32 - 1) ((sreg s 0x3060).toNat + 1) ∧ t.ponds = s.ponds)) ∧
    (s.shore.ledger.warn = false → ∃ t, exec .supplyWarnNRise s = .next t ∧
      t = { s with shore := { s.shore with ledger := { s.shore.ledger with
        warn := true, warnRise := some s.ns } } }) ∧
    (∀ g, s.shore.ledger.lgDraft = some g → (∀ x ∈ s.shore.cmds, x.prog = false ∧ x.phase ≠ .record) →
      ∃ t, exec .lastGaspCommit s = .next t ∧
      t.shore.ledger.lgDraft = none ∧ t.ponds = s.ponds ∧ bit (scvuView t 2 4) 0 = true ∧
      (sflArr t).word 0xE104 = FWord.committed (BitVec.ofNat 256 (ofLe (padTo 32 (gaspEnd s g)))) ∧
      (sreg t 0x305C).toNat = min (2 ^ 32 - 1) ((sreg s 0x305C).toNat + 1)) ∧
    (∀ g c k, s.shore.ledger.lgDraft = some g → s.shore.cmds = [c] → c.phase = .record → c.op = 0x30 →
      k = c.arg 0x18 1 → 0 < k →
      (crc32c (c.data.take (8 * k)) = leAt c.data (8 * k) 4 → leAt c.data (8 * k + 4) 4 = 0 →
        (∀ i < k, leAt c.data (8 * i) 4 ≤ 0x6FC ∧ leAt c.data (8 * i) 4 % 4 = 0) →
        s.shore.tbs.epoch.getD 0 + latOf s < c.apply →
        ∃ t, exec .lastGaspCommit s = .next t ∧ t.shore.ledger.lgDraft = none ∧ t.ponds = s.ponds ∧
          t.shore.cmds = [{ c with phase := .held false }]) ∧
      (crc32c (c.data.take (8 * k)) ≠ leAt c.data (8 * k) 4 →
        ∃ t i, exec .lastGaspCommit s = .next t ∧ t.shore.ledger.lgDraft = none ∧ t.ponds = s.ponds ∧ i < k ∧
          Completed s t c 0x10 i 0)) ∧
    (∀ a, s.shore.ledger.warnRise = some a →
      (a + 1000000 ≤ s.ns → ∃ t, exec .lastGaspRearm s = .next t ∧ t.shore.ledger.mask = false ∧
        t.shore.ledger.warnRise = none ∧ t.ponds = s.ponds ∧
        (gaspEmpty s = false → t.shore.ledger.lgErase = true)) ∧
      (s.ns < a + 1000000 → exec .lastGaspRearm s = .next s)) ∧
    (s.shore.ledger.lgErase = true → s.shore.sfl.op0 = none → s.shore.ledger.lgDraft = none →
      (∀ x ∈ s.shore.cmds, x.prog = false) →
      ∃ t, exec .lastGaspEraseDone s = .next t ∧ gaspEmpty t = true ∧ t.shore.ledger.lgErase = false ∧
        t.shore.ledger.lgReady = true ∧ t.ponds = s.ponds ∧
        (sreg t 0x404C).toNat = min (2 ^ 32 - 1) ((sreg s 0x404C).toNat + 4)))

/-! ### The debug port -/

/-- A challenge is issued where DBG_EN allows it, source 6 is not active and the DRBG may be used (R371 to R373); a
response of an accepted signer unlocks its scope at the next boundary, any other one, or none within 10 s, is a
strike, the third of which raises source 6 (R373). Relocking ends the unlock and releases held cores (assumption
25); a debugger halts, steps, resumes,
reads and writes unlocked ponds only (R374). Gramond provisioning programs a Larva part whose helper field is blank,
and no other (R87, R344, R393). -/
def Obligations.DebugPort : Prop :=
  (∀ s : State,
    (s.shore.keys.dbgEn = false ∨ s.shore.alarms.active.getLsbD 6 = true → exec .debugChallenge s = .next s) ∧
    (∀ x, s.shore.keys.dbgEn = true → s.shore.alarms.active.getLsbD 6 = false → keyBlocked s = false →
      s.shore.keys.drbg = some x →
      ∃ t c, exec .debugChallenge s = .next t ∧ t.shore.keys.chal = some (c, s.ns) ∧ c.length = 64 ∧
        slice c 0x20 16 = serialBytes s ∧ leAt c 0x30 1 = s.shore.boot.lc % 256 ∧
        leAt c 0x31 1 = s.shore.keys.strikes % 256 ∧ t.shore.keys.unlocked = s.shore.keys.unlocked ∧
        t.ponds = s.ponds)) ∧
  (∀ (s : State) (c : List Byte) (a : Nat), s.shore.keys.chal = some (c, a) →
    let strike (t : State) : Prop :=
      t.shore.keys.strikes = s.shore.keys.strikes + 1 ∧ t.shore.keys.chal = none ∧
      t.shore.keys.unlockDue = s.shore.keys.unlockDue ∧ t.ponds = s.ponds ∧
      t.shore.alarms.active.getLsbD 6 =
        (s.shore.alarms.active.getLsbD 6 || decide (s.shore.keys.strikes + 1 = 3))
    (∀ r : List Byte,
      let good := debugSigner s (slice r 0x10 97) &&
        ecdsaVerify (slice r 0x10 97) (sha384 (asciiBytes "K64/DEBUG" ++ c ++ slice r 0 16)) (slice r 0x71 96)
      ∃ t, exec (.debugResponse r) s = .next t ∧
        if s.ns ≤ a + 10000000000 ∧ good = true then
          t.shore.keys.strikes = 0 ∧ t.shore.keys.chal = none ∧ t.ponds = s.ponds ∧
          t.shore.keys.unlocked = s.shore.keys.unlocked ∧
          ∃ sc, t.shore.keys.unlockDue = some sc ∧ sc.toNat = leAt r 0 8 + 2 ^ 64 * (leAt r 8 1 % 2)
        else strike t) ∧
    (a + 10000000000 ≤ s.ns → ∃ t, exec .debugTimeout s = .next t ∧ strike t) ∧
    (s.ns < a + 10000000000 → exec .debugTimeout s = .next s)) ∧
  (∀ s : State, ∃ t, exec .debugRelock s = .next t ∧ t.shore.keys.unlocked = 0 ∧ t.shore.keys.unlockDue = none ∧
    t.shore.keys.shoreHalted = false ∧
    ∀ p : PondId, pondOf t p =
      { pondOf s p with core := { (pondOf s p).core with halted := false, stepping := false } }) ∧
  (∀ (s : State) (p : PondId),
    (dbgPond s p.val = false → ∀ x v, exec (.debuggerAccess (.halt (some p))) s = .next s ∧
      exec (.debuggerAccess (.resume (some p))) s = .next s ∧ exec (.debuggerAccess (.step p)) s = .next s ∧
      exec (.debuggerAccess (.read p x)) s = .next s ∧ exec (.debuggerAccess (.write p x v)) s = .next s) ∧
    (dbgPond s p.val = true →
      exec (.debuggerAccess (.halt (some p))) s = .next (withPond s p
        { pondOf s p with core := { (pondOf s p).core with halted := true, stepping := false } }) ∧
      exec (.debuggerAccess (.resume (some p))) s = .next (withPond s p
        { pondOf s p with core := { (pondOf s p).core with halted := false, stepping := false } }) ∧
      exec (.debuggerAccess (.step p)) s = .next (withPond s p
        { pondOf s p with core := { (pondOf s p).core with stepping := (pondOf s p).core.halted } }) ∧
      ∀ x : Word, x.toNat % 4 = 0 → 0x20000000 ≤ x.toNat → x.toNat < 0x2001FFC0 →
        (∃ t, exec (.debuggerAccess (.read p x)) s = .next t ∧ t.ponds = s.ponds ∧
          t.rdata.toNat = ofLe ((pondOf s p).sram.bytes (x.toNat - 0x20000000) 4)) ∧
        (∀ v : Word, ∃ P, exec (.debuggerAccess (.write p x v)) s = .next (withPond s p P) ∧
          P.core = (pondOf s p).core ∧ P.sram.bytes (x.toNat - 0x20000000) 4 = leBytes v.toNat 4 ∧
          ∀ b, b + 0x20000000 < x.toNat ∨ x.toNat + 4 ≤ b + 0x20000000 →
            P.sram.get b = (pondOf s p).sram.get b))) ∧
  (∀ (s : State) (ident puf root cert : List Byte),
    (s.shore.boot.lc = 0 → s.shore.boot.por = false → 3 ≤ s.shore.boot.phase → enrolled s = false →
      ∃ t, exec (.gramondProvisioning ident puf (root, cert)) s = .next t ∧ t.ponds = s.ponds ∧
        t.shore.otp.words.get 16 = 0xFFFFFFFF ∧ t.shore.boot.lc = 0 ∧ t.shore.otp.latched = s.shore.otp.latched ∧
        ∀ i, i < 16 → t.shore.otp.words.get i =
          if s.shore.otp.words.get i = 0 ∧ s.shore.otp.bad.get i = 0 then
            wordAt ((padTo 112 ident).take 64) (4 * i)
          else s.shore.otp.words.get i) ∧
    (s.shore.boot.lc ≠ 0 ∨ enrolled s = true →
      exec (.gramondProvisioning ident puf (root, cert)) s = .next s))

/-! ### Encoding, reset and invariants -/

/-- The word that the encoder gives for a well-formed instruction of the pond core decodes to that instruction, with
every operand (R100, R101; Tables 4.8 to 4.14): no bit of an encoding is dropped. The unit count of a long
instruction is the command's own operand and no part of its word. -/
def Obligations.EncodeThenDecode : Prop :=
  ∀ (i : Instr) (w : Word), Instr.wf i = true → PondWord.encode i = some w →
    ∃ (p : PondId) (u : Nat), PondWord.decode p u w = some i

/-- State.reset: no command waits, no command is held, every pond core is at the state of R98 but not started, the
registers hold the values of the Reset columns (Tables 2.4, 5.13, 6.7, 6.10, 7.4, 7.9, 15.4, 16.5, 19.7), the ledger has
account 0 open, and the invariants hold. Reset values of registers for which the spec gives none are log entry
3's and not stated here. -/
def Obligations.ResetState : Prop :=
  State.reset.pending = [] ∧ State.reset.shore.cmds = [] ∧ State.reset.shore.leases = [] ∧
  State.reset.shore.boot.por = true ∧ State.reset.shore.tbs.epoch = none ∧
  (sreg State.reset 0x6008).toNat = 2000 ∧ (sreg State.reset 0x600C).toNat = 2 ∧
  fld (sreg State.reset 0x5014) 0 16 = 1000 ∧ (acctOf State.reset.shore.ledger 0).st = 1 ∧
  (∀ p : PondId,
    let P := pondOf State.reset p
    (∀ d : RegIx, gr P d = if d = 15 then 0x2001FF00 else 0) ∧ P.core.acc = 0 ∧
    P.core.flags = ⟨false, false, false, false, false⟩ ∧ P.core.ie = false ∧ P.core.evt = 0 ∧ P.core.nest = 0 ∧
    P.core.df = false ∧ P.core.sb = [] ∧ P.core.pb = [] ∧ P.pic.pend = 0 ∧ P.pic.act = 0 ∧ P.life.started = false ∧
    (∀ x ∈ [(0x010, 0x2001FFC0), (0x260, 0x7FFF8000), (0x264, 0x7FFF8000), (0x290, 0x80008000), (0x390, 0x18),
        (0x3A0, 8000), (0x548, 0x0047001F), (0x61C, 0x20000000), (0x000, 0), (0x00C, 0)],
      (rg P x.1).toNat = x.2) ∧
    ∀ a, sramByte P (0x20000000 + a) = 0) ∧
  BuffersFit State.reset ∧ OrdersRise State.reset

/-- Every step keeps the bounds of the store buffer and the post buffer of every pond core: four and eight entries
(R122, R124). -/
def Obligations.StepKeepsBuffers : Prop :=
  ∀ s t : State, BuffersFit s → step s = .next t → BuffersFit t

/-- Every step keeps the commands that have not completed in consumption order, with numbers below the next one: no
two of them share a number (R59, R272). -/
def Obligations.StepKeepsOrders : Prop :=
  ∀ s t : State, OrdersRise s → step s = .next t → OrdersRise t
end

