-- ==== Sys2Proof/Laws/Maps.lean ====
section
/-! SUPPORT. The sparse maps that hold registers and memory: a read after a write, and the canonical form
that every operation keeps. -/

namespace Sys2Proof.Machine

variable {α : Type} {d v w : α} {m : KMap α} {k j lo : Nat}

@[simp] theorem KMap.get_nil (d : α) (k : Nat) : KMap.get d [] k = d := rfl

theorem KMap.get_erase_self (d : α) (m : KMap α) (k : Nat) : KMap.get d (KMap.erase m k) k = d := by
  induction m with
  | nil => rfl
  | cons x r ih =>
    simp only [KMap.erase]
    split
    · exact ih
    · simp [KMap.get, *]

theorem KMap.get_erase_ne (d : α) (m : KMap α) (h : j ≠ k) :
    KMap.get d (KMap.erase m k) j = KMap.get d m j := by
  induction m with
  | nil => rfl
  | cons x r ih =>
    obtain ⟨a, b⟩ := x
    simp only [KMap.erase]
    split
    · rename_i e
      subst e
      rw [ih, KMap.get, if_neg (Ne.symm h)]
    · simp only [KMap.get]
      rw [ih]

theorem KMap.not_mem_erase (m : KMap α) (k : Nat) (w : α) : (k, w) ∉ KMap.erase m k := by
  induction m with
  | nil => simp [KMap.erase]
  | cons x r ih =>
    obtain ⟨a, b⟩ := x
    simp only [KMap.erase]
    split
    · exact ih
    · rename_i hx
      intro hw
      rcases List.mem_cons.1 hw with e | e
      · exact hx (Prod.mk.inj e).1.symm
      · exact ih e

theorem KMap.get_insert (d : α) {m : KMap α} {k : Nat} (v : α) (j : Nat) (hn : ∀ w, (k, w) ∉ m) :
    KMap.get d (KMap.insert k v m) j = if j = k then v else KMap.get d m j := by
  induction m with
  | nil => simp only [KMap.insert, KMap.get, eq_comm]
  | cons x r ih =>
    obtain ⟨a, b⟩ := x
    have ha : a ≠ k := fun e => hn b (by simp [e])
    simp only [KMap.insert]
    split
    · simp only [KMap.get, eq_comm]
    · simp only [KMap.get]
      rw [ih (fun w hw => hn w (List.mem_cons_of_mem _ hw))]
      by_cases e : a = j
      · subst e
        simp [ha]
      · simp [e]

/-- A read after a write: the value at the number written, else what was there before. -/
theorem KMap.get_set [DecidableEq α] (d : α) (m : KMap α) (k : Nat) (v : α) (j : Nat) :
    KMap.get d (KMap.set d m k v) j = if j = k then v else KMap.get d m j := by
  unfold KMap.set
  split
  · split
    · rename_i e h
      rw [h, KMap.get_erase_self, e]
    · rename_i h
      exact KMap.get_erase_ne d m h
  · rw [KMap.get_insert d v j (KMap.not_mem_erase m k)]
    split
    · rfl
    · rename_i h
      exact KMap.get_erase_ne d m h

@[simp] theorem KMap.get_set_self [DecidableEq α] (d : α) (m : KMap α) (k : Nat) (v : α) :
    KMap.get d (KMap.set d m k v) k = v := by rw [KMap.get_set, if_pos rfl]

theorem KMap.get_set_ne [DecidableEq α] (d : α) (m : KMap α) (v : α) (h : j ≠ k) :
    KMap.get d (KMap.set d m k v) j = KMap.get d m j := by rw [KMap.get_set, if_neg h]

theorem SMap.get_set {n : Nat} (m : SMap n) (k : Nat) (v : BitVec n) (j : Nat) :
    (m.set k v).get j = if j = k then v else m.get j := KMap.get_set 0 m k v j

@[simp] theorem SMap.get_set_self {n : Nat} (m : SMap n) (k : Nat) (v : BitVec n) : (m.set k v).get k = v :=
  KMap.get_set_self 0 m k v

theorem SMap.get_set_ne {n : Nat} (m : SMap n) (v : BitVec n) (h : j ≠ k) : (m.set k v).get j = m.get j :=
  KMap.get_set_ne 0 m v h

/-- Bytes stored from `a` upward read back in order; every other byte is kept. -/
theorem SMap.get_setBytes (m : SMap 8) (a : Nat) (l : List Byte) (j : Nat) :
    (m.setBytes a l).get j = if a ≤ j ∧ j < a + l.length then l.getD (j - a) 0 else m.get j := by
  induction l generalizing m a with
  | nil => rw [SMap.setBytes, if_neg (by simp)]
  | cons b r ih =>
    rw [SMap.setBytes, ih, List.length_cons]
    by_cases h : a + 1 ≤ j ∧ j < a + 1 + r.length
    · rw [if_pos h, if_pos (by omega)]
      obtain ⟨i, rfl⟩ : ∃ i, j = a + 1 + i := ⟨j - (a + 1), by omega⟩
      have e1 : a + 1 + i - (a + 1) = i := by omega
      have e2 : a + 1 + i - a = i + 1 := by omega
      rw [e1, e2, List.getD_cons_succ]
    · rw [if_neg h, SMap.get_set]
      by_cases e : j = a
      · rw [if_pos e, if_pos (by omega), e, Nat.sub_self, List.getD_cons_zero]
      · rw [if_neg e, if_neg (by omega)]

/-! ### The canonical form -/

theorem KMap.wfFrom_cons [DecidableEq α] {lo : Option Nat} :
    KMap.wfFrom d lo ((k, v) :: m) = true ↔ (∀ l, lo = some l → l < k) ∧ v ≠ d ∧ KMap.wfFrom d (some k) m = true := by
  cases lo <;> simp [KMap.wfFrom, and_assoc]

theorem KMap.wfFrom_mono [DecidableEq α] {lo lo' : Option Nat} (h : KMap.wfFrom d lo m = true)
    (hl : ∀ l', lo' = some l' → ∃ l, lo = some l ∧ l' ≤ l) : KMap.wfFrom d lo' m = true := by
  cases m with
  | nil => rfl
  | cons x r =>
    obtain ⟨a, b⟩ := x
    rw [KMap.wfFrom_cons] at *
    refine ⟨fun l' e => ?_, h.2⟩
    obtain ⟨l, e2, hle⟩ := hl l' e
    have := h.1 l e2
    omega

theorem KMap.wfFrom_erase [DecidableEq α] {lo : Option Nat} (h : KMap.wfFrom d lo m = true) :
    KMap.wfFrom d lo (KMap.erase m k) = true := by
  induction m generalizing lo with
  | nil => rfl
  | cons x r ih =>
    obtain ⟨a, b⟩ := x
    rw [KMap.wfFrom_cons] at h
    simp only [KMap.erase]
    split
    · refine KMap.wfFrom_mono (ih h.2.2) (fun l' e => ⟨a, rfl, ?_⟩)
      have := h.1 l' e
      omega
    · rw [KMap.wfFrom_cons]
      exact ⟨h.1, h.2.1, ih h.2.2⟩

theorem KMap.wfFrom_insert [DecidableEq α] {lo : Option Nat} (h : KMap.wfFrom d lo m = true) (hv : v ≠ d)
    (hk : ∀ l, lo = some l → l < k) (hn : ∀ w, (k, w) ∉ m) : KMap.wfFrom d lo (KMap.insert k v m) = true := by
  induction m generalizing lo with
  | nil => exact KMap.wfFrom_cons.2 ⟨hk, hv, rfl⟩
  | cons x r ih =>
    obtain ⟨a, b⟩ := x
    have h' := KMap.wfFrom_cons.1 h
    simp only [KMap.insert]
    split
    · rename_i hlt
      refine KMap.wfFrom_cons.2 ⟨hk, hv, KMap.wfFrom_cons.2 ⟨?_, h'.2⟩⟩
      rintro l ⟨⟩
      exact hlt
    · rename_i hlt
      refine KMap.wfFrom_cons.2 ⟨h'.1, h'.2.1, ih h'.2.2 ?_ (fun w hw => hn w (List.mem_cons_of_mem _ hw))⟩
      rintro l ⟨⟩
      have : a ≠ k := fun e => hn b (by simp [e])
      omega

/-- A write keeps the canonical form. -/
theorem KMap.wf_set [DecidableEq α] (h : KMap.wf d m = true) (k : Nat) (v : α) :
    KMap.wf d (KMap.set d m k v) = true := by
  unfold KMap.set
  split
  · exact KMap.wfFrom_erase h
  · rename_i hv
    exact KMap.wfFrom_insert (KMap.wfFrom_erase h) hv (fun _ e => by cases e) (KMap.not_mem_erase m k)

theorem SMap.wf_set {n : Nat} {m : SMap n} (h : m.wf = true) (k : Nat) (v : BitVec n) : (m.set k v).wf = true :=
  KMap.wf_set h k v

theorem SMap.wf_setAll {n : Nat} {m : SMap n} (h : m.wf = true) (k j : Nat) (l : List (BitVec n)) :
    (m.setAll k j l).wf = true := by
  induction l generalizing m k with
  | nil => exact h
  | cons v r ih => exact ih (SMap.wf_set h k v) _

theorem SMap.wf_setBytes {m : SMap 8} (h : m.wf = true) (a : Nat) (l : List Byte) : (m.setBytes a l).wf = true := by
  induction l generalizing m a with
  | nil => exact h
  | cons v r ih => exact ih (SMap.wf_set h a v) _

theorem KMap.wfFrom_filter [DecidableEq α] {lo : Option Nat} (p : Nat × α → Bool) (h : KMap.wfFrom d lo m = true) :
    KMap.wfFrom d lo (m.filter p) = true := by
  induction m generalizing lo with
  | nil => rfl
  | cons x r ih =>
    obtain ⟨a, b⟩ := x
    rw [KMap.wfFrom_cons] at h
    rw [List.filter_cons]
    split
    · exact KMap.wfFrom_cons.2 ⟨h.1, h.2.1, ih h.2.2⟩
    · refine KMap.wfFrom_mono (ih h.2.2) (fun l' e => ⟨a, rfl, ?_⟩)
      have := h.1 l' e
      omega

theorem SMap.wf_clear {n : Nat} {m : SMap n} (h : m.wf = true) (a len : Nat) : (m.clear a len).wf = true :=
  KMap.wfFrom_filter _ h

/-- Two canonical maps that read alike are equal. -/
theorem KMap.ext_of_wf [DecidableEq α] {m n : KMap α} (hm : KMap.wf d m = true) (hn : KMap.wf d n = true)
    (h : ∀ k, KMap.get d m k = KMap.get d n k) : m = n := by
  have low : ∀ (m : KMap α) (lo k : Nat), KMap.wfFrom d (some lo) m = true → k ≤ lo → KMap.get d m k = d := by
    intro m
    induction m with
    | nil => intros; rfl
    | cons x r ih =>
      obtain ⟨a, b⟩ := x
      intro lo k hw hk
      have hw' := KMap.wfFrom_cons.1 hw
      have := hw'.1 lo rfl
      rw [KMap.get, if_neg (by omega)]
      exact ih a k hw'.2.2 (by omega)
  have main : ∀ (m n : KMap α) (lo lo' : Option Nat), KMap.wfFrom d lo m = true → KMap.wfFrom d lo' n = true →
      (∀ k, KMap.get d m k = KMap.get d n k) → m = n := by
    intro m
    induction m with
    | nil =>
      intro n lo lo' _ hn h
      cases n with
      | nil => rfl
      | cons y s =>
        obtain ⟨a, b⟩ := y
        have := h a
        simp only [KMap.get, if_true] at this
        exact absurd this.symm (KMap.wfFrom_cons.1 hn).2.1
    | cons x r ih =>
      obtain ⟨a, b⟩ := x
      intro n lo lo' hm hn h
      have hm' := KMap.wfFrom_cons.1 hm
      cases n with
      | nil =>
        have := h a
        simp only [KMap.get, if_true] at this
        exact absurd this hm'.2.1
      | cons y s =>
        obtain ⟨a', b'⟩ := y
        have hn' := KMap.wfFrom_cons.1 hn
        have hk : a = a' := by
          rcases Nat.lt_trichotomy a a' with hlt | e | hlt
          · have := h a
            rw [KMap.get, if_pos rfl, KMap.get, if_neg (by omega), low s a' a hn'.2.2 (by omega)] at this
            exact absurd this hm'.2.1
          · exact e
          · have := h a'
            rw [KMap.get, if_neg (by omega), low r a a' hm'.2.2 (by omega), KMap.get, if_pos rfl] at this
            exact absurd this.symm hn'.2.1
        subst hk
        have hb : b = b' := by
          have := h a
          simpa [KMap.get] using this
        subst hb
        have hr : r = s := by
          refine ih s (some a) (some a) hm'.2.2 hn'.2.2 (fun k => ?_)
          by_cases hka : k ≤ a
          · rw [low r a k hm'.2.2 hka, low s a k hn'.2.2 hka]
          · have := h k
            rwa [KMap.get, if_neg (by omega), KMap.get, if_neg (by omega)] at this
        rw [hr]
  exact main m n none none hm hn h

/-! ### The memory of the ponds -/

theorem Memory.wf_set {m : Memory} (h : m.wf = true) (k : Nat) (v : Byte) : Memory.wf (SMap.set m k v) = true :=
  SMap.wf_set h k v

theorem Memory.wf_setBytes {m : Memory} (h : m.wf = true) (a : Nat) (l : List Byte) :
    Memory.wf (SMap.setBytes m a l) = true := SMap.wf_setBytes h a l

/-- Every pond's memory has the canonical form at reset, and so have its registers. -/
theorem reset_wf (p : Fin 64) :
    Memory.wf (State.reset.ponds[p]).sram = true ∧ SMap.wf (State.reset.ponds[p]).regs = true := by
  have : State.reset.ponds[p] = Pond.reset := by
    show (Vector.replicate 64 Pond.reset)[p.val] = _
    rw [Vector.getElem_replicate]
  rw [this]
  constructor <;> decide

end Sys2Proof.Machine
end

