-- ==== Sys2Proof/Laws/State.lean ====
section
/-! SUPPORT. One lemma per field per update of a pond and of the machine, each true by definition. -/

namespace Sys2Proof.Machine

variable (P : Pond) (s : State)

/-! ### A pond -/

@[simp] theorem rset_core (off : Nat) (v : Word) : (rset off v P).core = P.core := rfl
@[simp] theorem rset_pic (off : Nat) (v : Word) : (rset off v P).pic = P.pic := rfl
@[simp] theorem rset_regs (off : Nat) (v : Word) : (rset off v P).regs = P.regs.set off v := rfl
@[simp] theorem rset_sram (off : Nat) (v : Word) : (rset off v P).sram = P.sram := rfl
@[simp] theorem rset_ecc (off : Nat) (v : Word) : (rset off v P).ecc = P.ecc := rfl
@[simp] theorem rset_pfl (off : Nat) (v : Word) : (rset off v P).pfl = P.pfl := rfl
@[simp] theorem rset_tb (off : Nat) (v : Word) : (rset off v P).tb = P.tb := rfl
@[simp] theorem rset_stamp (off : Nat) (v : Word) : (rset off v P).stamp = P.stamp := rfl
@[simp] theorem rset_tbRun (off : Nat) (v : Word) : (rset off v P).tbRun = P.tbRun := rfl
@[simp] theorem rset_slew (off : Nat) (v : Word) : (rset off v P).slew = P.slew := rfl
@[simp] theorem rset_epoch (off : Nat) (v : Word) : (rset off v P).epoch = P.epoch := rfl
@[simp] theorem rset_edges (off : Nat) (v : Word) : (rset off v P).edges = P.edges := rfl
@[simp] theorem rset_conv (off : Nat) (v : Word) : (rset off v P).conv = P.conv := rfl
@[simp] theorem rset_gss (off : Nat) (v : Word) : (rset off v P).gss = P.gss := rfl
@[simp] theorem rset_cbuf (off : Nat) (v : Word) : (rset off v P).cbuf = P.cbuf := rfl
@[simp] theorem rset_tap (off : Nat) (v : Word) : (rset off v P).tap = P.tap := rfl
@[simp] theorem rset_cmp (off : Nat) (v : Word) : (rset off v P).cmp = P.cmp := rfl
@[simp] theorem rset_pg (off : Nat) (v : Word) : (rset off v P).pg = P.pg := rfl
@[simp] theorem rset_lane (off : Nat) (v : Word) : (rset off v P).lane = P.lane := rfl
@[simp] theorem rset_cap (off : Nat) (v : Word) : (rset off v P).cap = P.cap := rfl
@[simp] theorem rset_cvu (off : Nat) (v : Word) : (rset off v P).cvu = P.cvu := rfl
@[simp] theorem rset_sb (off : Nat) (v : Word) : (rset off v P).sb = P.sb := rfl
@[simp] theorem rset_grp (off : Nat) (v : Word) : (rset off v P).grp = P.grp := rfl
@[simp] theorem rset_rx (off : Nat) (v : Word) : (rset off v P).rx = P.rx := rfl
@[simp] theorem rset_held (off : Nat) (v : Word) : (rset off v P).held = P.held := rfl
@[simp] theorem rset_acts (off : Nat) (v : Word) : (rset off v P).acts = P.acts := rfl
@[simp] theorem rset_life (off : Nat) (v : Word) : (rset off v P).life = P.life := rfl
@[simp] theorem rset_out (off : Nat) (v : Word) : (rset off v P).out = P.out := rfl
@[simp] theorem rset_fresh (off : Nat) (v : Word) : (rset off v P).fresh = P.fresh := rfl
@[simp] theorem rset_edgeNs (off : Nat) (v : Word) : (rset off v P).edgeNs = P.edgeNs := rfl
@[simp] theorem rset_alignB (off : Nat) (v : Word) : (rset off v P).alignB = P.alignB := rfl
@[simp] theorem rset_alignPost (off : Nat) (v : Word) : (rset off v P).alignPost = P.alignPost := rfl
@[simp] theorem rset_gssPrev (off : Nat) (v : Word) : (rset off v P).gssPrev = P.gssPrev := rfl
@[simp] theorem rset_cbufFirst (off : Nat) (v : Word) : (rset off v P).cbufFirst = P.cbufFirst := rfl
@[simp] theorem rset_handover (off : Nat) (v : Word) : (rset off v P).handover = P.handover := rfl
@[simp] theorem rset_laneQ (off : Nat) (v : Word) : (rset off v P).laneQ = P.laneQ := rfl
@[simp] theorem rset_sendRec (off : Nat) (v : Word) : (rset off v P).sendRec = P.sendRec := rfl
@[simp] theorem rset_recvRec (off : Nat) (v : Word) : (rset off v P).recvRec = P.recvRec := rfl
@[simp] theorem rset_recvDef (off : Nat) (v : Word) : (rset off v P).recvDef = P.recvDef := rfl
@[simp] theorem rset_incTab (off : Nat) (v : Word) : (rset off v P).incTab = P.incTab := rfl
@[simp] theorem rset_lateRx (off : Nat) (v : Word) : (rset off v P).lateRx = P.lateRx := rfl
@[simp] theorem rset_applied (off : Nat) (v : Word) : (rset off v P).applied = P.applied := rfl
@[simp] theorem rset_came (off : Nat) (v : Word) : (rset off v P).came = P.came := rfl
@[simp] theorem rset_lastPosts (off : Nat) (v : Word) : (rset off v P).lastPosts = P.lastPosts := rfl
@[simp] theorem rset_stream (off : Nat) (v : Word) : (rset off v P).stream = P.stream := rfl
@[simp] theorem rset_setup (off : Nat) (v : Word) : (rset off v P).setup = P.setup := rfl

@[simp] theorem useFree_core : (useFree P).core = P.core := rfl
@[simp] theorem useFree_pic : (useFree P).pic = P.pic := rfl
@[simp] theorem useFree_regs : (useFree P).regs = P.regs := rfl
@[simp] theorem useFree_sram : (useFree P).sram = P.sram := rfl
@[simp] theorem useFree_ecc : (useFree P).ecc = P.ecc := rfl
@[simp] theorem useFree_pfl : (useFree P).pfl = P.pfl := rfl
@[simp] theorem useFree_tb : (useFree P).tb = P.tb := rfl
@[simp] theorem useFree_stamp : (useFree P).stamp = P.stamp := rfl
@[simp] theorem useFree_tbRun : (useFree P).tbRun = P.tbRun := rfl
@[simp] theorem useFree_slew : (useFree P).slew = P.slew := rfl
@[simp] theorem useFree_epoch : (useFree P).epoch = P.epoch := rfl
@[simp] theorem useFree_edges : (useFree P).edges = P.edges := rfl
@[simp] theorem useFree_conv : (useFree P).conv = P.conv := rfl
@[simp] theorem useFree_gss : (useFree P).gss = P.gss := rfl
@[simp] theorem useFree_cbuf : (useFree P).cbuf = P.cbuf := rfl
@[simp] theorem useFree_tap : (useFree P).tap = P.tap := rfl
@[simp] theorem useFree_cmp : (useFree P).cmp = P.cmp := rfl
@[simp] theorem useFree_pg : (useFree P).pg = P.pg := rfl
@[simp] theorem useFree_lane : (useFree P).lane = P.lane := rfl
@[simp] theorem useFree_cap : (useFree P).cap = P.cap := rfl
@[simp] theorem useFree_cvu : (useFree P).cvu = P.cvu := rfl
@[simp] theorem useFree_sb : (useFree P).sb = P.sb := rfl
@[simp] theorem useFree_grp : (useFree P).grp = P.grp := rfl
@[simp] theorem useFree_rx : (useFree P).rx = P.rx := rfl
@[simp] theorem useFree_held : (useFree P).held = P.held := rfl
@[simp] theorem useFree_acts : (useFree P).acts = P.acts := rfl
@[simp] theorem useFree_life : (useFree P).life = P.life := rfl
@[simp] theorem useFree_out : (useFree P).out = P.out := rfl
@[simp] theorem useFree_fresh : (useFree P).fresh = P.fresh + 1 := rfl
@[simp] theorem useFree_edgeNs : (useFree P).edgeNs = P.edgeNs := rfl
@[simp] theorem useFree_alignB : (useFree P).alignB = P.alignB := rfl
@[simp] theorem useFree_alignPost : (useFree P).alignPost = P.alignPost := rfl
@[simp] theorem useFree_gssPrev : (useFree P).gssPrev = P.gssPrev := rfl
@[simp] theorem useFree_cbufFirst : (useFree P).cbufFirst = P.cbufFirst := rfl
@[simp] theorem useFree_handover : (useFree P).handover = P.handover := rfl
@[simp] theorem useFree_laneQ : (useFree P).laneQ = P.laneQ := rfl
@[simp] theorem useFree_sendRec : (useFree P).sendRec = P.sendRec := rfl
@[simp] theorem useFree_recvRec : (useFree P).recvRec = P.recvRec := rfl
@[simp] theorem useFree_recvDef : (useFree P).recvDef = P.recvDef := rfl
@[simp] theorem useFree_incTab : (useFree P).incTab = P.incTab := rfl
@[simp] theorem useFree_lateRx : (useFree P).lateRx = P.lateRx := rfl
@[simp] theorem useFree_applied : (useFree P).applied = P.applied := rfl
@[simp] theorem useFree_came : (useFree P).came = P.came := rfl
@[simp] theorem useFree_lastPosts : (useFree P).lastPosts = P.lastPosts := rfl
@[simp] theorem useFree_stream : (useFree P).stream = P.stream := rfl
@[simp] theorem useFree_setup : (useFree P).setup = P.setup := rfl

@[simp] theorem latch_pic (i : Nat) : (latch i P).pic = P.pic := rfl
@[simp] theorem latch_regs (i : Nat) : (latch i P).regs = P.regs := rfl
@[simp] theorem latch_sram (i : Nat) : (latch i P).sram = P.sram := rfl
@[simp] theorem latch_ecc (i : Nat) : (latch i P).ecc = P.ecc := rfl
@[simp] theorem latch_pfl (i : Nat) : (latch i P).pfl = P.pfl := rfl
@[simp] theorem latch_tb (i : Nat) : (latch i P).tb = P.tb := rfl
@[simp] theorem latch_stamp (i : Nat) : (latch i P).stamp = P.stamp := rfl
@[simp] theorem latch_tbRun (i : Nat) : (latch i P).tbRun = P.tbRun := rfl
@[simp] theorem latch_slew (i : Nat) : (latch i P).slew = P.slew := rfl
@[simp] theorem latch_epoch (i : Nat) : (latch i P).epoch = P.epoch := rfl
@[simp] theorem latch_edges (i : Nat) : (latch i P).edges = P.edges := rfl
@[simp] theorem latch_conv (i : Nat) : (latch i P).conv = P.conv := rfl
@[simp] theorem latch_gss (i : Nat) : (latch i P).gss = P.gss := rfl
@[simp] theorem latch_cbuf (i : Nat) : (latch i P).cbuf = P.cbuf := rfl
@[simp] theorem latch_tap (i : Nat) : (latch i P).tap = P.tap := rfl
@[simp] theorem latch_cmp (i : Nat) : (latch i P).cmp = P.cmp := rfl
@[simp] theorem latch_pg (i : Nat) : (latch i P).pg = P.pg := rfl
@[simp] theorem latch_lane (i : Nat) : (latch i P).lane = P.lane := rfl
@[simp] theorem latch_cap (i : Nat) : (latch i P).cap = P.cap := rfl
@[simp] theorem latch_cvu (i : Nat) : (latch i P).cvu = P.cvu := rfl
@[simp] theorem latch_sb (i : Nat) : (latch i P).sb = P.sb := rfl
@[simp] theorem latch_grp (i : Nat) : (latch i P).grp = P.grp := rfl
@[simp] theorem latch_rx (i : Nat) : (latch i P).rx = P.rx := rfl
@[simp] theorem latch_held (i : Nat) : (latch i P).held = P.held := rfl
@[simp] theorem latch_acts (i : Nat) : (latch i P).acts = P.acts := rfl
@[simp] theorem latch_life (i : Nat) : (latch i P).life = P.life := rfl
@[simp] theorem latch_out (i : Nat) : (latch i P).out = P.out := rfl
@[simp] theorem latch_fresh (i : Nat) : (latch i P).fresh = P.fresh := rfl
@[simp] theorem latch_edgeNs (i : Nat) : (latch i P).edgeNs = P.edgeNs := rfl
@[simp] theorem latch_alignB (i : Nat) : (latch i P).alignB = P.alignB := rfl
@[simp] theorem latch_alignPost (i : Nat) : (latch i P).alignPost = P.alignPost := rfl
@[simp] theorem latch_gssPrev (i : Nat) : (latch i P).gssPrev = P.gssPrev := rfl
@[simp] theorem latch_cbufFirst (i : Nat) : (latch i P).cbufFirst = P.cbufFirst := rfl
@[simp] theorem latch_handover (i : Nat) : (latch i P).handover = P.handover := rfl
@[simp] theorem latch_laneQ (i : Nat) : (latch i P).laneQ = P.laneQ := rfl
@[simp] theorem latch_sendRec (i : Nat) : (latch i P).sendRec = P.sendRec := rfl
@[simp] theorem latch_recvRec (i : Nat) : (latch i P).recvRec = P.recvRec := rfl
@[simp] theorem latch_recvDef (i : Nat) : (latch i P).recvDef = P.recvDef := rfl
@[simp] theorem latch_incTab (i : Nat) : (latch i P).incTab = P.incTab := rfl
@[simp] theorem latch_lateRx (i : Nat) : (latch i P).lateRx = P.lateRx := rfl
@[simp] theorem latch_applied (i : Nat) : (latch i P).applied = P.applied := rfl
@[simp] theorem latch_came (i : Nat) : (latch i P).came = P.came := rfl
@[simp] theorem latch_lastPosts (i : Nat) : (latch i P).lastPosts = P.lastPosts := rfl
@[simp] theorem latch_stream (i : Nat) : (latch i P).stream = P.stream := rfl
@[simp] theorem latch_setup (i : Nat) : (latch i P).setup = P.setup := rfl

@[simp] theorem gset_pic (r : RegIx) (v : Word) : (gset r v P).pic = P.pic := rfl
@[simp] theorem gset_regs (r : RegIx) (v : Word) : (gset r v P).regs = P.regs := rfl
@[simp] theorem gset_sram (r : RegIx) (v : Word) : (gset r v P).sram = P.sram := rfl
@[simp] theorem gset_ecc (r : RegIx) (v : Word) : (gset r v P).ecc = P.ecc := rfl
@[simp] theorem gset_pfl (r : RegIx) (v : Word) : (gset r v P).pfl = P.pfl := rfl
@[simp] theorem gset_tb (r : RegIx) (v : Word) : (gset r v P).tb = P.tb := rfl
@[simp] theorem gset_stamp (r : RegIx) (v : Word) : (gset r v P).stamp = P.stamp := rfl
@[simp] theorem gset_tbRun (r : RegIx) (v : Word) : (gset r v P).tbRun = P.tbRun := rfl
@[simp] theorem gset_slew (r : RegIx) (v : Word) : (gset r v P).slew = P.slew := rfl
@[simp] theorem gset_epoch (r : RegIx) (v : Word) : (gset r v P).epoch = P.epoch := rfl
@[simp] theorem gset_edges (r : RegIx) (v : Word) : (gset r v P).edges = P.edges := rfl
@[simp] theorem gset_conv (r : RegIx) (v : Word) : (gset r v P).conv = P.conv := rfl
@[simp] theorem gset_gss (r : RegIx) (v : Word) : (gset r v P).gss = P.gss := rfl
@[simp] theorem gset_cbuf (r : RegIx) (v : Word) : (gset r v P).cbuf = P.cbuf := rfl
@[simp] theorem gset_tap (r : RegIx) (v : Word) : (gset r v P).tap = P.tap := rfl
@[simp] theorem gset_cmp (r : RegIx) (v : Word) : (gset r v P).cmp = P.cmp := rfl
@[simp] theorem gset_pg (r : RegIx) (v : Word) : (gset r v P).pg = P.pg := rfl
@[simp] theorem gset_lane (r : RegIx) (v : Word) : (gset r v P).lane = P.lane := rfl
@[simp] theorem gset_cap (r : RegIx) (v : Word) : (gset r v P).cap = P.cap := rfl
@[simp] theorem gset_cvu (r : RegIx) (v : Word) : (gset r v P).cvu = P.cvu := rfl
@[simp] theorem gset_sb (r : RegIx) (v : Word) : (gset r v P).sb = P.sb := rfl
@[simp] theorem gset_grp (r : RegIx) (v : Word) : (gset r v P).grp = P.grp := rfl
@[simp] theorem gset_rx (r : RegIx) (v : Word) : (gset r v P).rx = P.rx := rfl
@[simp] theorem gset_held (r : RegIx) (v : Word) : (gset r v P).held = P.held := rfl
@[simp] theorem gset_acts (r : RegIx) (v : Word) : (gset r v P).acts = P.acts := rfl
@[simp] theorem gset_life (r : RegIx) (v : Word) : (gset r v P).life = P.life := rfl
@[simp] theorem gset_out (r : RegIx) (v : Word) : (gset r v P).out = P.out := rfl
@[simp] theorem gset_fresh (r : RegIx) (v : Word) : (gset r v P).fresh = P.fresh := rfl
@[simp] theorem gset_edgeNs (r : RegIx) (v : Word) : (gset r v P).edgeNs = P.edgeNs := rfl
@[simp] theorem gset_alignB (r : RegIx) (v : Word) : (gset r v P).alignB = P.alignB := rfl
@[simp] theorem gset_alignPost (r : RegIx) (v : Word) : (gset r v P).alignPost = P.alignPost := rfl
@[simp] theorem gset_gssPrev (r : RegIx) (v : Word) : (gset r v P).gssPrev = P.gssPrev := rfl
@[simp] theorem gset_cbufFirst (r : RegIx) (v : Word) : (gset r v P).cbufFirst = P.cbufFirst := rfl
@[simp] theorem gset_handover (r : RegIx) (v : Word) : (gset r v P).handover = P.handover := rfl
@[simp] theorem gset_laneQ (r : RegIx) (v : Word) : (gset r v P).laneQ = P.laneQ := rfl
@[simp] theorem gset_sendRec (r : RegIx) (v : Word) : (gset r v P).sendRec = P.sendRec := rfl
@[simp] theorem gset_recvRec (r : RegIx) (v : Word) : (gset r v P).recvRec = P.recvRec := rfl
@[simp] theorem gset_recvDef (r : RegIx) (v : Word) : (gset r v P).recvDef = P.recvDef := rfl
@[simp] theorem gset_incTab (r : RegIx) (v : Word) : (gset r v P).incTab = P.incTab := rfl
@[simp] theorem gset_lateRx (r : RegIx) (v : Word) : (gset r v P).lateRx = P.lateRx := rfl
@[simp] theorem gset_applied (r : RegIx) (v : Word) : (gset r v P).applied = P.applied := rfl
@[simp] theorem gset_came (r : RegIx) (v : Word) : (gset r v P).came = P.came := rfl
@[simp] theorem gset_lastPosts (r : RegIx) (v : Word) : (gset r v P).lastPosts = P.lastPosts := rfl
@[simp] theorem gset_stream (r : RegIx) (v : Word) : (gset r v P).stream = P.stream := rfl
@[simp] theorem gset_setup (r : RegIx) (v : Word) : (gset r v P).setup = P.setup := rfl

@[simp] theorem setFlags_pic (f : Flags) : (setFlags f P).pic = P.pic := rfl
@[simp] theorem setFlags_regs (f : Flags) : (setFlags f P).regs = P.regs := rfl
@[simp] theorem setFlags_sram (f : Flags) : (setFlags f P).sram = P.sram := rfl
@[simp] theorem setFlags_ecc (f : Flags) : (setFlags f P).ecc = P.ecc := rfl
@[simp] theorem setFlags_pfl (f : Flags) : (setFlags f P).pfl = P.pfl := rfl
@[simp] theorem setFlags_tb (f : Flags) : (setFlags f P).tb = P.tb := rfl
@[simp] theorem setFlags_stamp (f : Flags) : (setFlags f P).stamp = P.stamp := rfl
@[simp] theorem setFlags_tbRun (f : Flags) : (setFlags f P).tbRun = P.tbRun := rfl
@[simp] theorem setFlags_slew (f : Flags) : (setFlags f P).slew = P.slew := rfl
@[simp] theorem setFlags_epoch (f : Flags) : (setFlags f P).epoch = P.epoch := rfl
@[simp] theorem setFlags_edges (f : Flags) : (setFlags f P).edges = P.edges := rfl
@[simp] theorem setFlags_conv (f : Flags) : (setFlags f P).conv = P.conv := rfl
@[simp] theorem setFlags_gss (f : Flags) : (setFlags f P).gss = P.gss := rfl
@[simp] theorem setFlags_cbuf (f : Flags) : (setFlags f P).cbuf = P.cbuf := rfl
@[simp] theorem setFlags_tap (f : Flags) : (setFlags f P).tap = P.tap := rfl
@[simp] theorem setFlags_cmp (f : Flags) : (setFlags f P).cmp = P.cmp := rfl
@[simp] theorem setFlags_pg (f : Flags) : (setFlags f P).pg = P.pg := rfl
@[simp] theorem setFlags_lane (f : Flags) : (setFlags f P).lane = P.lane := rfl
@[simp] theorem setFlags_cap (f : Flags) : (setFlags f P).cap = P.cap := rfl
@[simp] theorem setFlags_cvu (f : Flags) : (setFlags f P).cvu = P.cvu := rfl
@[simp] theorem setFlags_sb (f : Flags) : (setFlags f P).sb = P.sb := rfl
@[simp] theorem setFlags_grp (f : Flags) : (setFlags f P).grp = P.grp := rfl
@[simp] theorem setFlags_rx (f : Flags) : (setFlags f P).rx = P.rx := rfl
@[simp] theorem setFlags_held (f : Flags) : (setFlags f P).held = P.held := rfl
@[simp] theorem setFlags_acts (f : Flags) : (setFlags f P).acts = P.acts := rfl
@[simp] theorem setFlags_life (f : Flags) : (setFlags f P).life = P.life := rfl
@[simp] theorem setFlags_out (f : Flags) : (setFlags f P).out = P.out := rfl
@[simp] theorem setFlags_fresh (f : Flags) : (setFlags f P).fresh = P.fresh := rfl
@[simp] theorem setFlags_edgeNs (f : Flags) : (setFlags f P).edgeNs = P.edgeNs := rfl
@[simp] theorem setFlags_alignB (f : Flags) : (setFlags f P).alignB = P.alignB := rfl
@[simp] theorem setFlags_alignPost (f : Flags) : (setFlags f P).alignPost = P.alignPost := rfl
@[simp] theorem setFlags_gssPrev (f : Flags) : (setFlags f P).gssPrev = P.gssPrev := rfl
@[simp] theorem setFlags_cbufFirst (f : Flags) : (setFlags f P).cbufFirst = P.cbufFirst := rfl
@[simp] theorem setFlags_handover (f : Flags) : (setFlags f P).handover = P.handover := rfl
@[simp] theorem setFlags_laneQ (f : Flags) : (setFlags f P).laneQ = P.laneQ := rfl
@[simp] theorem setFlags_sendRec (f : Flags) : (setFlags f P).sendRec = P.sendRec := rfl
@[simp] theorem setFlags_recvRec (f : Flags) : (setFlags f P).recvRec = P.recvRec := rfl
@[simp] theorem setFlags_recvDef (f : Flags) : (setFlags f P).recvDef = P.recvDef := rfl
@[simp] theorem setFlags_incTab (f : Flags) : (setFlags f P).incTab = P.incTab := rfl
@[simp] theorem setFlags_lateRx (f : Flags) : (setFlags f P).lateRx = P.lateRx := rfl
@[simp] theorem setFlags_applied (f : Flags) : (setFlags f P).applied = P.applied := rfl
@[simp] theorem setFlags_came (f : Flags) : (setFlags f P).came = P.came := rfl
@[simp] theorem setFlags_lastPosts (f : Flags) : (setFlags f P).lastPosts = P.lastPosts := rfl
@[simp] theorem setFlags_stream (f : Flags) : (setFlags f P).stream = P.stream := rfl
@[simp] theorem setFlags_setup (f : Flags) : (setFlags f P).setup = P.setup := rfl

@[simp] theorem pgSet_core (k : Nat) (g : Pg) : (pgSet k g P).core = P.core := rfl
@[simp] theorem pgSet_pic (k : Nat) (g : Pg) : (pgSet k g P).pic = P.pic := rfl
@[simp] theorem pgSet_regs (k : Nat) (g : Pg) : (pgSet k g P).regs = P.regs := rfl
@[simp] theorem pgSet_sram (k : Nat) (g : Pg) : (pgSet k g P).sram = P.sram := rfl
@[simp] theorem pgSet_ecc (k : Nat) (g : Pg) : (pgSet k g P).ecc = P.ecc := rfl
@[simp] theorem pgSet_pfl (k : Nat) (g : Pg) : (pgSet k g P).pfl = P.pfl := rfl
@[simp] theorem pgSet_tb (k : Nat) (g : Pg) : (pgSet k g P).tb = P.tb := rfl
@[simp] theorem pgSet_stamp (k : Nat) (g : Pg) : (pgSet k g P).stamp = P.stamp := rfl
@[simp] theorem pgSet_tbRun (k : Nat) (g : Pg) : (pgSet k g P).tbRun = P.tbRun := rfl
@[simp] theorem pgSet_slew (k : Nat) (g : Pg) : (pgSet k g P).slew = P.slew := rfl
@[simp] theorem pgSet_epoch (k : Nat) (g : Pg) : (pgSet k g P).epoch = P.epoch := rfl
@[simp] theorem pgSet_edges (k : Nat) (g : Pg) : (pgSet k g P).edges = P.edges := rfl
@[simp] theorem pgSet_conv (k : Nat) (g : Pg) : (pgSet k g P).conv = P.conv := rfl
@[simp] theorem pgSet_gss (k : Nat) (g : Pg) : (pgSet k g P).gss = P.gss := rfl
@[simp] theorem pgSet_cbuf (k : Nat) (g : Pg) : (pgSet k g P).cbuf = P.cbuf := rfl
@[simp] theorem pgSet_tap (k : Nat) (g : Pg) : (pgSet k g P).tap = P.tap := rfl
@[simp] theorem pgSet_cmp (k : Nat) (g : Pg) : (pgSet k g P).cmp = P.cmp := rfl
@[simp] theorem pgSet_pg (k : Nat) (g : Pg) : (pgSet k g P).pg = vset P.pg k g := rfl
@[simp] theorem pgSet_lane (k : Nat) (g : Pg) : (pgSet k g P).lane = P.lane := rfl
@[simp] theorem pgSet_cap (k : Nat) (g : Pg) : (pgSet k g P).cap = P.cap := rfl
@[simp] theorem pgSet_cvu (k : Nat) (g : Pg) : (pgSet k g P).cvu = P.cvu := rfl
@[simp] theorem pgSet_sb (k : Nat) (g : Pg) : (pgSet k g P).sb = P.sb := rfl
@[simp] theorem pgSet_grp (k : Nat) (g : Pg) : (pgSet k g P).grp = P.grp := rfl
@[simp] theorem pgSet_rx (k : Nat) (g : Pg) : (pgSet k g P).rx = P.rx := rfl
@[simp] theorem pgSet_held (k : Nat) (g : Pg) : (pgSet k g P).held = P.held := rfl
@[simp] theorem pgSet_acts (k : Nat) (g : Pg) : (pgSet k g P).acts = P.acts := rfl
@[simp] theorem pgSet_life (k : Nat) (g : Pg) : (pgSet k g P).life = P.life := rfl
@[simp] theorem pgSet_out (k : Nat) (g : Pg) : (pgSet k g P).out = P.out := rfl
@[simp] theorem pgSet_fresh (k : Nat) (g : Pg) : (pgSet k g P).fresh = P.fresh := rfl
@[simp] theorem pgSet_edgeNs (k : Nat) (g : Pg) : (pgSet k g P).edgeNs = P.edgeNs := rfl
@[simp] theorem pgSet_alignB (k : Nat) (g : Pg) : (pgSet k g P).alignB = P.alignB := rfl
@[simp] theorem pgSet_alignPost (k : Nat) (g : Pg) : (pgSet k g P).alignPost = P.alignPost := rfl
@[simp] theorem pgSet_gssPrev (k : Nat) (g : Pg) : (pgSet k g P).gssPrev = P.gssPrev := rfl
@[simp] theorem pgSet_cbufFirst (k : Nat) (g : Pg) : (pgSet k g P).cbufFirst = P.cbufFirst := rfl
@[simp] theorem pgSet_handover (k : Nat) (g : Pg) : (pgSet k g P).handover = P.handover := rfl
@[simp] theorem pgSet_laneQ (k : Nat) (g : Pg) : (pgSet k g P).laneQ = P.laneQ := rfl
@[simp] theorem pgSet_sendRec (k : Nat) (g : Pg) : (pgSet k g P).sendRec = P.sendRec := rfl
@[simp] theorem pgSet_recvRec (k : Nat) (g : Pg) : (pgSet k g P).recvRec = P.recvRec := rfl
@[simp] theorem pgSet_recvDef (k : Nat) (g : Pg) : (pgSet k g P).recvDef = P.recvDef := rfl
@[simp] theorem pgSet_incTab (k : Nat) (g : Pg) : (pgSet k g P).incTab = P.incTab := rfl
@[simp] theorem pgSet_lateRx (k : Nat) (g : Pg) : (pgSet k g P).lateRx = P.lateRx := rfl
@[simp] theorem pgSet_applied (k : Nat) (g : Pg) : (pgSet k g P).applied = P.applied := rfl
@[simp] theorem pgSet_came (k : Nat) (g : Pg) : (pgSet k g P).came = P.came := rfl
@[simp] theorem pgSet_lastPosts (k : Nat) (g : Pg) : (pgSet k g P).lastPosts = P.lastPosts := rfl
@[simp] theorem pgSet_stream (k : Nat) (g : Pg) : (pgSet k g P).stream = P.stream := rfl
@[simp] theorem pgSet_setup (k : Nat) (g : Pg) : (pgSet k g P).setup = P.setup := rfl

@[simp] theorem convSet_core (n : Nat) (c : Conv) : (convSet n c P).core = P.core := rfl
@[simp] theorem convSet_pic (n : Nat) (c : Conv) : (convSet n c P).pic = P.pic := rfl
@[simp] theorem convSet_regs (n : Nat) (c : Conv) : (convSet n c P).regs = P.regs := rfl
@[simp] theorem convSet_sram (n : Nat) (c : Conv) : (convSet n c P).sram = P.sram := rfl
@[simp] theorem convSet_ecc (n : Nat) (c : Conv) : (convSet n c P).ecc = P.ecc := rfl
@[simp] theorem convSet_pfl (n : Nat) (c : Conv) : (convSet n c P).pfl = P.pfl := rfl
@[simp] theorem convSet_tb (n : Nat) (c : Conv) : (convSet n c P).tb = P.tb := rfl
@[simp] theorem convSet_stamp (n : Nat) (c : Conv) : (convSet n c P).stamp = P.stamp := rfl
@[simp] theorem convSet_tbRun (n : Nat) (c : Conv) : (convSet n c P).tbRun = P.tbRun := rfl
@[simp] theorem convSet_slew (n : Nat) (c : Conv) : (convSet n c P).slew = P.slew := rfl
@[simp] theorem convSet_epoch (n : Nat) (c : Conv) : (convSet n c P).epoch = P.epoch := rfl
@[simp] theorem convSet_edges (n : Nat) (c : Conv) : (convSet n c P).edges = P.edges := rfl
@[simp] theorem convSet_conv (n : Nat) (c : Conv) : (convSet n c P).conv = vset P.conv n c := rfl
@[simp] theorem convSet_gss (n : Nat) (c : Conv) : (convSet n c P).gss = P.gss := rfl
@[simp] theorem convSet_cbuf (n : Nat) (c : Conv) : (convSet n c P).cbuf = P.cbuf := rfl
@[simp] theorem convSet_tap (n : Nat) (c : Conv) : (convSet n c P).tap = P.tap := rfl
@[simp] theorem convSet_cmp (n : Nat) (c : Conv) : (convSet n c P).cmp = P.cmp := rfl
@[simp] theorem convSet_pg (n : Nat) (c : Conv) : (convSet n c P).pg = P.pg := rfl
@[simp] theorem convSet_lane (n : Nat) (c : Conv) : (convSet n c P).lane = P.lane := rfl
@[simp] theorem convSet_cap (n : Nat) (c : Conv) : (convSet n c P).cap = P.cap := rfl
@[simp] theorem convSet_cvu (n : Nat) (c : Conv) : (convSet n c P).cvu = P.cvu := rfl
@[simp] theorem convSet_sb (n : Nat) (c : Conv) : (convSet n c P).sb = P.sb := rfl
@[simp] theorem convSet_grp (n : Nat) (c : Conv) : (convSet n c P).grp = P.grp := rfl
@[simp] theorem convSet_rx (n : Nat) (c : Conv) : (convSet n c P).rx = P.rx := rfl
@[simp] theorem convSet_held (n : Nat) (c : Conv) : (convSet n c P).held = P.held := rfl
@[simp] theorem convSet_acts (n : Nat) (c : Conv) : (convSet n c P).acts = P.acts := rfl
@[simp] theorem convSet_life (n : Nat) (c : Conv) : (convSet n c P).life = P.life := rfl
@[simp] theorem convSet_out (n : Nat) (c : Conv) : (convSet n c P).out = P.out := rfl
@[simp] theorem convSet_fresh (n : Nat) (c : Conv) : (convSet n c P).fresh = P.fresh := rfl
@[simp] theorem convSet_edgeNs (n : Nat) (c : Conv) : (convSet n c P).edgeNs = P.edgeNs := rfl
@[simp] theorem convSet_alignB (n : Nat) (c : Conv) : (convSet n c P).alignB = P.alignB := rfl
@[simp] theorem convSet_alignPost (n : Nat) (c : Conv) : (convSet n c P).alignPost = P.alignPost := rfl
@[simp] theorem convSet_gssPrev (n : Nat) (c : Conv) : (convSet n c P).gssPrev = P.gssPrev := rfl
@[simp] theorem convSet_cbufFirst (n : Nat) (c : Conv) : (convSet n c P).cbufFirst = P.cbufFirst := rfl
@[simp] theorem convSet_handover (n : Nat) (c : Conv) : (convSet n c P).handover = P.handover := rfl
@[simp] theorem convSet_laneQ (n : Nat) (c : Conv) : (convSet n c P).laneQ = P.laneQ := rfl
@[simp] theorem convSet_sendRec (n : Nat) (c : Conv) : (convSet n c P).sendRec = P.sendRec := rfl
@[simp] theorem convSet_recvRec (n : Nat) (c : Conv) : (convSet n c P).recvRec = P.recvRec := rfl
@[simp] theorem convSet_recvDef (n : Nat) (c : Conv) : (convSet n c P).recvDef = P.recvDef := rfl
@[simp] theorem convSet_incTab (n : Nat) (c : Conv) : (convSet n c P).incTab = P.incTab := rfl
@[simp] theorem convSet_lateRx (n : Nat) (c : Conv) : (convSet n c P).lateRx = P.lateRx := rfl
@[simp] theorem convSet_applied (n : Nat) (c : Conv) : (convSet n c P).applied = P.applied := rfl
@[simp] theorem convSet_came (n : Nat) (c : Conv) : (convSet n c P).came = P.came := rfl
@[simp] theorem convSet_lastPosts (n : Nat) (c : Conv) : (convSet n c P).lastPosts = P.lastPosts := rfl
@[simp] theorem convSet_stream (n : Nat) (c : Conv) : (convSet n c P).stream = P.stream := rfl
@[simp] theorem convSet_setup (n : Nat) (c : Conv) : (convSet n c P).setup = P.setup := rfl

@[simp] theorem laneSet_core (k : Nat) (l : Lane) : (laneSet k l P).core = P.core := rfl
@[simp] theorem laneSet_pic (k : Nat) (l : Lane) : (laneSet k l P).pic = P.pic := rfl
@[simp] theorem laneSet_regs (k : Nat) (l : Lane) : (laneSet k l P).regs = P.regs := rfl
@[simp] theorem laneSet_sram (k : Nat) (l : Lane) : (laneSet k l P).sram = P.sram := rfl
@[simp] theorem laneSet_ecc (k : Nat) (l : Lane) : (laneSet k l P).ecc = P.ecc := rfl
@[simp] theorem laneSet_pfl (k : Nat) (l : Lane) : (laneSet k l P).pfl = P.pfl := rfl
@[simp] theorem laneSet_tb (k : Nat) (l : Lane) : (laneSet k l P).tb = P.tb := rfl
@[simp] theorem laneSet_stamp (k : Nat) (l : Lane) : (laneSet k l P).stamp = P.stamp := rfl
@[simp] theorem laneSet_tbRun (k : Nat) (l : Lane) : (laneSet k l P).tbRun = P.tbRun := rfl
@[simp] theorem laneSet_slew (k : Nat) (l : Lane) : (laneSet k l P).slew = P.slew := rfl
@[simp] theorem laneSet_epoch (k : Nat) (l : Lane) : (laneSet k l P).epoch = P.epoch := rfl
@[simp] theorem laneSet_edges (k : Nat) (l : Lane) : (laneSet k l P).edges = P.edges := rfl
@[simp] theorem laneSet_conv (k : Nat) (l : Lane) : (laneSet k l P).conv = P.conv := rfl
@[simp] theorem laneSet_gss (k : Nat) (l : Lane) : (laneSet k l P).gss = P.gss := rfl
@[simp] theorem laneSet_cbuf (k : Nat) (l : Lane) : (laneSet k l P).cbuf = P.cbuf := rfl
@[simp] theorem laneSet_tap (k : Nat) (l : Lane) : (laneSet k l P).tap = P.tap := rfl
@[simp] theorem laneSet_cmp (k : Nat) (l : Lane) : (laneSet k l P).cmp = P.cmp := rfl
@[simp] theorem laneSet_pg (k : Nat) (l : Lane) : (laneSet k l P).pg = P.pg := rfl
@[simp] theorem laneSet_lane (k : Nat) (l : Lane) : (laneSet k l P).lane = vset P.lane k l := rfl
@[simp] theorem laneSet_cap (k : Nat) (l : Lane) : (laneSet k l P).cap = P.cap := rfl
@[simp] theorem laneSet_cvu (k : Nat) (l : Lane) : (laneSet k l P).cvu = P.cvu := rfl
@[simp] theorem laneSet_sb (k : Nat) (l : Lane) : (laneSet k l P).sb = P.sb := rfl
@[simp] theorem laneSet_grp (k : Nat) (l : Lane) : (laneSet k l P).grp = P.grp := rfl
@[simp] theorem laneSet_rx (k : Nat) (l : Lane) : (laneSet k l P).rx = P.rx := rfl
@[simp] theorem laneSet_held (k : Nat) (l : Lane) : (laneSet k l P).held = P.held := rfl
@[simp] theorem laneSet_acts (k : Nat) (l : Lane) : (laneSet k l P).acts = P.acts := rfl
@[simp] theorem laneSet_life (k : Nat) (l : Lane) : (laneSet k l P).life = P.life := rfl
@[simp] theorem laneSet_out (k : Nat) (l : Lane) : (laneSet k l P).out = P.out := rfl
@[simp] theorem laneSet_fresh (k : Nat) (l : Lane) : (laneSet k l P).fresh = P.fresh := rfl
@[simp] theorem laneSet_edgeNs (k : Nat) (l : Lane) : (laneSet k l P).edgeNs = P.edgeNs := rfl
@[simp] theorem laneSet_alignB (k : Nat) (l : Lane) : (laneSet k l P).alignB = P.alignB := rfl
@[simp] theorem laneSet_alignPost (k : Nat) (l : Lane) : (laneSet k l P).alignPost = P.alignPost := rfl
@[simp] theorem laneSet_gssPrev (k : Nat) (l : Lane) : (laneSet k l P).gssPrev = P.gssPrev := rfl
@[simp] theorem laneSet_cbufFirst (k : Nat) (l : Lane) : (laneSet k l P).cbufFirst = P.cbufFirst := rfl
@[simp] theorem laneSet_handover (k : Nat) (l : Lane) : (laneSet k l P).handover = P.handover := rfl
@[simp] theorem laneSet_laneQ (k : Nat) (l : Lane) : (laneSet k l P).laneQ = P.laneQ := rfl
@[simp] theorem laneSet_sendRec (k : Nat) (l : Lane) : (laneSet k l P).sendRec = P.sendRec := rfl
@[simp] theorem laneSet_recvRec (k : Nat) (l : Lane) : (laneSet k l P).recvRec = P.recvRec := rfl
@[simp] theorem laneSet_recvDef (k : Nat) (l : Lane) : (laneSet k l P).recvDef = P.recvDef := rfl
@[simp] theorem laneSet_incTab (k : Nat) (l : Lane) : (laneSet k l P).incTab = P.incTab := rfl
@[simp] theorem laneSet_lateRx (k : Nat) (l : Lane) : (laneSet k l P).lateRx = P.lateRx := rfl
@[simp] theorem laneSet_applied (k : Nat) (l : Lane) : (laneSet k l P).applied = P.applied := rfl
@[simp] theorem laneSet_came (k : Nat) (l : Lane) : (laneSet k l P).came = P.came := rfl
@[simp] theorem laneSet_lastPosts (k : Nat) (l : Lane) : (laneSet k l P).lastPosts = P.lastPosts := rfl
@[simp] theorem laneSet_stream (k : Nat) (l : Lane) : (laneSet k l P).stream = P.stream := rfl
@[simp] theorem laneSet_setup (k : Nat) (l : Lane) : (laneSet k l P).setup = P.setup := rfl

@[simp] theorem cmpSet_core (n : Nat) (c : Cmp) : (cmpSet n c P).core = P.core := rfl
@[simp] theorem cmpSet_pic (n : Nat) (c : Cmp) : (cmpSet n c P).pic = P.pic := rfl
@[simp] theorem cmpSet_regs (n : Nat) (c : Cmp) : (cmpSet n c P).regs = P.regs := rfl
@[simp] theorem cmpSet_sram (n : Nat) (c : Cmp) : (cmpSet n c P).sram = P.sram := rfl
@[simp] theorem cmpSet_ecc (n : Nat) (c : Cmp) : (cmpSet n c P).ecc = P.ecc := rfl
@[simp] theorem cmpSet_pfl (n : Nat) (c : Cmp) : (cmpSet n c P).pfl = P.pfl := rfl
@[simp] theorem cmpSet_tb (n : Nat) (c : Cmp) : (cmpSet n c P).tb = P.tb := rfl
@[simp] theorem cmpSet_stamp (n : Nat) (c : Cmp) : (cmpSet n c P).stamp = P.stamp := rfl
@[simp] theorem cmpSet_tbRun (n : Nat) (c : Cmp) : (cmpSet n c P).tbRun = P.tbRun := rfl
@[simp] theorem cmpSet_slew (n : Nat) (c : Cmp) : (cmpSet n c P).slew = P.slew := rfl
@[simp] theorem cmpSet_epoch (n : Nat) (c : Cmp) : (cmpSet n c P).epoch = P.epoch := rfl
@[simp] theorem cmpSet_edges (n : Nat) (c : Cmp) : (cmpSet n c P).edges = P.edges := rfl
@[simp] theorem cmpSet_conv (n : Nat) (c : Cmp) : (cmpSet n c P).conv = P.conv := rfl
@[simp] theorem cmpSet_gss (n : Nat) (c : Cmp) : (cmpSet n c P).gss = P.gss := rfl
@[simp] theorem cmpSet_cbuf (n : Nat) (c : Cmp) : (cmpSet n c P).cbuf = P.cbuf := rfl
@[simp] theorem cmpSet_tap (n : Nat) (c : Cmp) : (cmpSet n c P).tap = P.tap := rfl
@[simp] theorem cmpSet_cmp (n : Nat) (c : Cmp) : (cmpSet n c P).cmp = vset P.cmp n c := rfl
@[simp] theorem cmpSet_pg (n : Nat) (c : Cmp) : (cmpSet n c P).pg = P.pg := rfl
@[simp] theorem cmpSet_lane (n : Nat) (c : Cmp) : (cmpSet n c P).lane = P.lane := rfl
@[simp] theorem cmpSet_cap (n : Nat) (c : Cmp) : (cmpSet n c P).cap = P.cap := rfl
@[simp] theorem cmpSet_cvu (n : Nat) (c : Cmp) : (cmpSet n c P).cvu = P.cvu := rfl
@[simp] theorem cmpSet_sb (n : Nat) (c : Cmp) : (cmpSet n c P).sb = P.sb := rfl
@[simp] theorem cmpSet_grp (n : Nat) (c : Cmp) : (cmpSet n c P).grp = P.grp := rfl
@[simp] theorem cmpSet_rx (n : Nat) (c : Cmp) : (cmpSet n c P).rx = P.rx := rfl
@[simp] theorem cmpSet_held (n : Nat) (c : Cmp) : (cmpSet n c P).held = P.held := rfl
@[simp] theorem cmpSet_acts (n : Nat) (c : Cmp) : (cmpSet n c P).acts = P.acts := rfl
@[simp] theorem cmpSet_life (n : Nat) (c : Cmp) : (cmpSet n c P).life = P.life := rfl
@[simp] theorem cmpSet_out (n : Nat) (c : Cmp) : (cmpSet n c P).out = P.out := rfl
@[simp] theorem cmpSet_fresh (n : Nat) (c : Cmp) : (cmpSet n c P).fresh = P.fresh := rfl
@[simp] theorem cmpSet_edgeNs (n : Nat) (c : Cmp) : (cmpSet n c P).edgeNs = P.edgeNs := rfl
@[simp] theorem cmpSet_alignB (n : Nat) (c : Cmp) : (cmpSet n c P).alignB = P.alignB := rfl
@[simp] theorem cmpSet_alignPost (n : Nat) (c : Cmp) : (cmpSet n c P).alignPost = P.alignPost := rfl
@[simp] theorem cmpSet_gssPrev (n : Nat) (c : Cmp) : (cmpSet n c P).gssPrev = P.gssPrev := rfl
@[simp] theorem cmpSet_cbufFirst (n : Nat) (c : Cmp) : (cmpSet n c P).cbufFirst = P.cbufFirst := rfl
@[simp] theorem cmpSet_handover (n : Nat) (c : Cmp) : (cmpSet n c P).handover = P.handover := rfl
@[simp] theorem cmpSet_laneQ (n : Nat) (c : Cmp) : (cmpSet n c P).laneQ = P.laneQ := rfl
@[simp] theorem cmpSet_sendRec (n : Nat) (c : Cmp) : (cmpSet n c P).sendRec = P.sendRec := rfl
@[simp] theorem cmpSet_recvRec (n : Nat) (c : Cmp) : (cmpSet n c P).recvRec = P.recvRec := rfl
@[simp] theorem cmpSet_recvDef (n : Nat) (c : Cmp) : (cmpSet n c P).recvDef = P.recvDef := rfl
@[simp] theorem cmpSet_incTab (n : Nat) (c : Cmp) : (cmpSet n c P).incTab = P.incTab := rfl
@[simp] theorem cmpSet_lateRx (n : Nat) (c : Cmp) : (cmpSet n c P).lateRx = P.lateRx := rfl
@[simp] theorem cmpSet_applied (n : Nat) (c : Cmp) : (cmpSet n c P).applied = P.applied := rfl
@[simp] theorem cmpSet_came (n : Nat) (c : Cmp) : (cmpSet n c P).came = P.came := rfl
@[simp] theorem cmpSet_lastPosts (n : Nat) (c : Cmp) : (cmpSet n c P).lastPosts = P.lastPosts := rfl
@[simp] theorem cmpSet_stream (n : Nat) (c : Cmp) : (cmpSet n c P).stream = P.stream := rfl
@[simp] theorem cmpSet_setup (n : Nat) (c : Cmp) : (cmpSet n c P).setup = P.setup := rfl

@[simp] theorem cvuMod_core (k : Nat) (f : Cvu → Cvu) : (cvuMod k f P).core = P.core := rfl
@[simp] theorem cvuMod_pic (k : Nat) (f : Cvu → Cvu) : (cvuMod k f P).pic = P.pic := rfl
@[simp] theorem cvuMod_regs (k : Nat) (f : Cvu → Cvu) : (cvuMod k f P).regs = P.regs := rfl
@[simp] theorem cvuMod_sram (k : Nat) (f : Cvu → Cvu) : (cvuMod k f P).sram = P.sram := rfl
@[simp] theorem cvuMod_ecc (k : Nat) (f : Cvu → Cvu) : (cvuMod k f P).ecc = P.ecc := rfl
@[simp] theorem cvuMod_pfl (k : Nat) (f : Cvu → Cvu) : (cvuMod k f P).pfl = P.pfl := rfl
@[simp] theorem cvuMod_tb (k : Nat) (f : Cvu → Cvu) : (cvuMod k f P).tb = P.tb := rfl
@[simp] theorem cvuMod_stamp (k : Nat) (f : Cvu → Cvu) : (cvuMod k f P).stamp = P.stamp := rfl
@[simp] theorem cvuMod_tbRun (k : Nat) (f : Cvu → Cvu) : (cvuMod k f P).tbRun = P.tbRun := rfl
@[simp] theorem cvuMod_slew (k : Nat) (f : Cvu → Cvu) : (cvuMod k f P).slew = P.slew := rfl
@[simp] theorem cvuMod_epoch (k : Nat) (f : Cvu → Cvu) : (cvuMod k f P).epoch = P.epoch := rfl
@[simp] theorem cvuMod_edges (k : Nat) (f : Cvu → Cvu) : (cvuMod k f P).edges = P.edges := rfl
@[simp] theorem cvuMod_conv (k : Nat) (f : Cvu → Cvu) : (cvuMod k f P).conv = P.conv := rfl
@[simp] theorem cvuMod_gss (k : Nat) (f : Cvu → Cvu) : (cvuMod k f P).gss = P.gss := rfl
@[simp] theorem cvuMod_cbuf (k : Nat) (f : Cvu → Cvu) : (cvuMod k f P).cbuf = P.cbuf := rfl
@[simp] theorem cvuMod_tap (k : Nat) (f : Cvu → Cvu) : (cvuMod k f P).tap = P.tap := rfl
@[simp] theorem cvuMod_cmp (k : Nat) (f : Cvu → Cvu) : (cvuMod k f P).cmp = P.cmp := rfl
@[simp] theorem cvuMod_pg (k : Nat) (f : Cvu → Cvu) : (cvuMod k f P).pg = P.pg := rfl
@[simp] theorem cvuMod_lane (k : Nat) (f : Cvu → Cvu) : (cvuMod k f P).lane = P.lane := rfl
@[simp] theorem cvuMod_cap (k : Nat) (f : Cvu → Cvu) : (cvuMod k f P).cap = P.cap := rfl
@[simp] theorem cvuMod_cvu (k : Nat) (f : Cvu → Cvu) : (cvuMod k f P).cvu = vset P.cvu k (f (vget P.cvu k Cvu.reset)) := rfl
@[simp] theorem cvuMod_sb (k : Nat) (f : Cvu → Cvu) : (cvuMod k f P).sb = P.sb := rfl
@[simp] theorem cvuMod_grp (k : Nat) (f : Cvu → Cvu) : (cvuMod k f P).grp = P.grp := rfl
@[simp] theorem cvuMod_rx (k : Nat) (f : Cvu → Cvu) : (cvuMod k f P).rx = P.rx := rfl
@[simp] theorem cvuMod_held (k : Nat) (f : Cvu → Cvu) : (cvuMod k f P).held = P.held := rfl
@[simp] theorem cvuMod_acts (k : Nat) (f : Cvu → Cvu) : (cvuMod k f P).acts = P.acts := rfl
@[simp] theorem cvuMod_life (k : Nat) (f : Cvu → Cvu) : (cvuMod k f P).life = P.life := rfl
@[simp] theorem cvuMod_out (k : Nat) (f : Cvu → Cvu) : (cvuMod k f P).out = P.out := rfl
@[simp] theorem cvuMod_fresh (k : Nat) (f : Cvu → Cvu) : (cvuMod k f P).fresh = P.fresh := rfl
@[simp] theorem cvuMod_edgeNs (k : Nat) (f : Cvu → Cvu) : (cvuMod k f P).edgeNs = P.edgeNs := rfl
@[simp] theorem cvuMod_alignB (k : Nat) (f : Cvu → Cvu) : (cvuMod k f P).alignB = P.alignB := rfl
@[simp] theorem cvuMod_alignPost (k : Nat) (f : Cvu → Cvu) : (cvuMod k f P).alignPost = P.alignPost := rfl
@[simp] theorem cvuMod_gssPrev (k : Nat) (f : Cvu → Cvu) : (cvuMod k f P).gssPrev = P.gssPrev := rfl
@[simp] theorem cvuMod_cbufFirst (k : Nat) (f : Cvu → Cvu) : (cvuMod k f P).cbufFirst = P.cbufFirst := rfl
@[simp] theorem cvuMod_handover (k : Nat) (f : Cvu → Cvu) : (cvuMod k f P).handover = P.handover := rfl
@[simp] theorem cvuMod_laneQ (k : Nat) (f : Cvu → Cvu) : (cvuMod k f P).laneQ = P.laneQ := rfl
@[simp] theorem cvuMod_sendRec (k : Nat) (f : Cvu → Cvu) : (cvuMod k f P).sendRec = P.sendRec := rfl
@[simp] theorem cvuMod_recvRec (k : Nat) (f : Cvu → Cvu) : (cvuMod k f P).recvRec = P.recvRec := rfl
@[simp] theorem cvuMod_recvDef (k : Nat) (f : Cvu → Cvu) : (cvuMod k f P).recvDef = P.recvDef := rfl
@[simp] theorem cvuMod_incTab (k : Nat) (f : Cvu → Cvu) : (cvuMod k f P).incTab = P.incTab := rfl
@[simp] theorem cvuMod_lateRx (k : Nat) (f : Cvu → Cvu) : (cvuMod k f P).lateRx = P.lateRx := rfl
@[simp] theorem cvuMod_applied (k : Nat) (f : Cvu → Cvu) : (cvuMod k f P).applied = P.applied := rfl
@[simp] theorem cvuMod_came (k : Nat) (f : Cvu → Cvu) : (cvuMod k f P).came = P.came := rfl
@[simp] theorem cvuMod_lastPosts (k : Nat) (f : Cvu → Cvu) : (cvuMod k f P).lastPosts = P.lastPosts := rfl
@[simp] theorem cvuMod_stream (k : Nat) (f : Cvu → Cvu) : (cvuMod k f P).stream = P.stream := rfl
@[simp] theorem cvuMod_setup (k : Nat) (f : Cvu → Cvu) : (cvuMod k f P).setup = P.setup := rfl

@[simp] theorem sbMod_core (f : Sb → Sb) : (sbMod f P).core = P.core := rfl
@[simp] theorem sbMod_pic (f : Sb → Sb) : (sbMod f P).pic = P.pic := rfl
@[simp] theorem sbMod_regs (f : Sb → Sb) : (sbMod f P).regs = P.regs := rfl
@[simp] theorem sbMod_sram (f : Sb → Sb) : (sbMod f P).sram = P.sram := rfl
@[simp] theorem sbMod_ecc (f : Sb → Sb) : (sbMod f P).ecc = P.ecc := rfl
@[simp] theorem sbMod_pfl (f : Sb → Sb) : (sbMod f P).pfl = P.pfl := rfl
@[simp] theorem sbMod_tb (f : Sb → Sb) : (sbMod f P).tb = P.tb := rfl
@[simp] theorem sbMod_stamp (f : Sb → Sb) : (sbMod f P).stamp = P.stamp := rfl
@[simp] theorem sbMod_tbRun (f : Sb → Sb) : (sbMod f P).tbRun = P.tbRun := rfl
@[simp] theorem sbMod_slew (f : Sb → Sb) : (sbMod f P).slew = P.slew := rfl
@[simp] theorem sbMod_epoch (f : Sb → Sb) : (sbMod f P).epoch = P.epoch := rfl
@[simp] theorem sbMod_edges (f : Sb → Sb) : (sbMod f P).edges = P.edges := rfl
@[simp] theorem sbMod_conv (f : Sb → Sb) : (sbMod f P).conv = P.conv := rfl
@[simp] theorem sbMod_gss (f : Sb → Sb) : (sbMod f P).gss = P.gss := rfl
@[simp] theorem sbMod_cbuf (f : Sb → Sb) : (sbMod f P).cbuf = P.cbuf := rfl
@[simp] theorem sbMod_tap (f : Sb → Sb) : (sbMod f P).tap = P.tap := rfl
@[simp] theorem sbMod_cmp (f : Sb → Sb) : (sbMod f P).cmp = P.cmp := rfl
@[simp] theorem sbMod_pg (f : Sb → Sb) : (sbMod f P).pg = P.pg := rfl
@[simp] theorem sbMod_lane (f : Sb → Sb) : (sbMod f P).lane = P.lane := rfl
@[simp] theorem sbMod_cap (f : Sb → Sb) : (sbMod f P).cap = P.cap := rfl
@[simp] theorem sbMod_cvu (f : Sb → Sb) : (sbMod f P).cvu = P.cvu := rfl
@[simp] theorem sbMod_sb (f : Sb → Sb) : (sbMod f P).sb = f P.sb := rfl
@[simp] theorem sbMod_grp (f : Sb → Sb) : (sbMod f P).grp = P.grp := rfl
@[simp] theorem sbMod_rx (f : Sb → Sb) : (sbMod f P).rx = P.rx := rfl
@[simp] theorem sbMod_held (f : Sb → Sb) : (sbMod f P).held = P.held := rfl
@[simp] theorem sbMod_acts (f : Sb → Sb) : (sbMod f P).acts = P.acts := rfl
@[simp] theorem sbMod_life (f : Sb → Sb) : (sbMod f P).life = P.life := rfl
@[simp] theorem sbMod_out (f : Sb → Sb) : (sbMod f P).out = P.out := rfl
@[simp] theorem sbMod_fresh (f : Sb → Sb) : (sbMod f P).fresh = P.fresh := rfl
@[simp] theorem sbMod_edgeNs (f : Sb → Sb) : (sbMod f P).edgeNs = P.edgeNs := rfl
@[simp] theorem sbMod_alignB (f : Sb → Sb) : (sbMod f P).alignB = P.alignB := rfl
@[simp] theorem sbMod_alignPost (f : Sb → Sb) : (sbMod f P).alignPost = P.alignPost := rfl
@[simp] theorem sbMod_gssPrev (f : Sb → Sb) : (sbMod f P).gssPrev = P.gssPrev := rfl
@[simp] theorem sbMod_cbufFirst (f : Sb → Sb) : (sbMod f P).cbufFirst = P.cbufFirst := rfl
@[simp] theorem sbMod_handover (f : Sb → Sb) : (sbMod f P).handover = P.handover := rfl
@[simp] theorem sbMod_laneQ (f : Sb → Sb) : (sbMod f P).laneQ = P.laneQ := rfl
@[simp] theorem sbMod_sendRec (f : Sb → Sb) : (sbMod f P).sendRec = P.sendRec := rfl
@[simp] theorem sbMod_recvRec (f : Sb → Sb) : (sbMod f P).recvRec = P.recvRec := rfl
@[simp] theorem sbMod_recvDef (f : Sb → Sb) : (sbMod f P).recvDef = P.recvDef := rfl
@[simp] theorem sbMod_incTab (f : Sb → Sb) : (sbMod f P).incTab = P.incTab := rfl
@[simp] theorem sbMod_lateRx (f : Sb → Sb) : (sbMod f P).lateRx = P.lateRx := rfl
@[simp] theorem sbMod_applied (f : Sb → Sb) : (sbMod f P).applied = P.applied := rfl
@[simp] theorem sbMod_came (f : Sb → Sb) : (sbMod f P).came = P.came := rfl
@[simp] theorem sbMod_lastPosts (f : Sb → Sb) : (sbMod f P).lastPosts = P.lastPosts := rfl
@[simp] theorem sbMod_stream (f : Sb → Sb) : (sbMod f P).stream = P.stream := rfl
@[simp] theorem sbMod_setup (f : Sb → Sb) : (sbMod f P).setup = P.setup := rfl

@[simp] theorem emit_core (ns : Nat) (k : Packet) : (emit ns k P).core = P.core := rfl
@[simp] theorem emit_pic (ns : Nat) (k : Packet) : (emit ns k P).pic = P.pic := rfl
@[simp] theorem emit_regs (ns : Nat) (k : Packet) : (emit ns k P).regs = P.regs := rfl
@[simp] theorem emit_sram (ns : Nat) (k : Packet) : (emit ns k P).sram = P.sram := rfl
@[simp] theorem emit_ecc (ns : Nat) (k : Packet) : (emit ns k P).ecc = P.ecc := rfl
@[simp] theorem emit_pfl (ns : Nat) (k : Packet) : (emit ns k P).pfl = P.pfl := rfl
@[simp] theorem emit_tb (ns : Nat) (k : Packet) : (emit ns k P).tb = P.tb := rfl
@[simp] theorem emit_stamp (ns : Nat) (k : Packet) : (emit ns k P).stamp = P.stamp := rfl
@[simp] theorem emit_tbRun (ns : Nat) (k : Packet) : (emit ns k P).tbRun = P.tbRun := rfl
@[simp] theorem emit_slew (ns : Nat) (k : Packet) : (emit ns k P).slew = P.slew := rfl
@[simp] theorem emit_epoch (ns : Nat) (k : Packet) : (emit ns k P).epoch = P.epoch := rfl
@[simp] theorem emit_edges (ns : Nat) (k : Packet) : (emit ns k P).edges = P.edges := rfl
@[simp] theorem emit_conv (ns : Nat) (k : Packet) : (emit ns k P).conv = P.conv := rfl
@[simp] theorem emit_gss (ns : Nat) (k : Packet) : (emit ns k P).gss = P.gss := rfl
@[simp] theorem emit_cbuf (ns : Nat) (k : Packet) : (emit ns k P).cbuf = P.cbuf := rfl
@[simp] theorem emit_tap (ns : Nat) (k : Packet) : (emit ns k P).tap = P.tap := rfl
@[simp] theorem emit_cmp (ns : Nat) (k : Packet) : (emit ns k P).cmp = P.cmp := rfl
@[simp] theorem emit_pg (ns : Nat) (k : Packet) : (emit ns k P).pg = P.pg := rfl
@[simp] theorem emit_lane (ns : Nat) (k : Packet) : (emit ns k P).lane = P.lane := rfl
@[simp] theorem emit_cap (ns : Nat) (k : Packet) : (emit ns k P).cap = P.cap := rfl
@[simp] theorem emit_cvu (ns : Nat) (k : Packet) : (emit ns k P).cvu = P.cvu := rfl
@[simp] theorem emit_sb (ns : Nat) (k : Packet) : (emit ns k P).sb = P.sb := rfl
@[simp] theorem emit_grp (ns : Nat) (k : Packet) : (emit ns k P).grp = P.grp := rfl
@[simp] theorem emit_rx (ns : Nat) (k : Packet) : (emit ns k P).rx = P.rx := rfl
@[simp] theorem emit_held (ns : Nat) (k : Packet) : (emit ns k P).held = P.held := rfl
@[simp] theorem emit_acts (ns : Nat) (k : Packet) : (emit ns k P).acts = P.acts := rfl
@[simp] theorem emit_life (ns : Nat) (k : Packet) : (emit ns k P).life = P.life := rfl
@[simp] theorem emit_out (ns : Nat) (k : Packet) : (emit ns k P).out = P.out ++ [{ k with since := ns }] := rfl
@[simp] theorem emit_fresh (ns : Nat) (k : Packet) : (emit ns k P).fresh = P.fresh := rfl
@[simp] theorem emit_edgeNs (ns : Nat) (k : Packet) : (emit ns k P).edgeNs = P.edgeNs := rfl
@[simp] theorem emit_alignB (ns : Nat) (k : Packet) : (emit ns k P).alignB = P.alignB := rfl
@[simp] theorem emit_alignPost (ns : Nat) (k : Packet) : (emit ns k P).alignPost = P.alignPost := rfl
@[simp] theorem emit_gssPrev (ns : Nat) (k : Packet) : (emit ns k P).gssPrev = P.gssPrev := rfl
@[simp] theorem emit_cbufFirst (ns : Nat) (k : Packet) : (emit ns k P).cbufFirst = P.cbufFirst := rfl
@[simp] theorem emit_handover (ns : Nat) (k : Packet) : (emit ns k P).handover = P.handover := rfl
@[simp] theorem emit_laneQ (ns : Nat) (k : Packet) : (emit ns k P).laneQ = P.laneQ := rfl
@[simp] theorem emit_sendRec (ns : Nat) (k : Packet) : (emit ns k P).sendRec = P.sendRec := rfl
@[simp] theorem emit_recvRec (ns : Nat) (k : Packet) : (emit ns k P).recvRec = P.recvRec := rfl
@[simp] theorem emit_recvDef (ns : Nat) (k : Packet) : (emit ns k P).recvDef = P.recvDef := rfl
@[simp] theorem emit_incTab (ns : Nat) (k : Packet) : (emit ns k P).incTab = P.incTab := rfl
@[simp] theorem emit_lateRx (ns : Nat) (k : Packet) : (emit ns k P).lateRx = P.lateRx := rfl
@[simp] theorem emit_applied (ns : Nat) (k : Packet) : (emit ns k P).applied = P.applied := rfl
@[simp] theorem emit_came (ns : Nat) (k : Packet) : (emit ns k P).came = P.came := rfl
@[simp] theorem emit_lastPosts (ns : Nat) (k : Packet) : (emit ns k P).lastPosts = P.lastPosts := rfl
@[simp] theorem emit_stream (ns : Nat) (k : Packet) : (emit ns k P).stream = P.stream := rfl
@[simp] theorem emit_setup (ns : Nat) (k : Packet) : (emit ns k P).setup = P.setup := rfl

/-! ### The core of a pond -/

@[simp] theorem gset_core_g (r : RegIx) (v : Word) : (gset r v P).core.g = vset P.core.g r.toNat v := rfl
@[simp] theorem gset_core_acc (r : RegIx) (v : Word) : (gset r v P).core.acc = P.core.acc := rfl
@[simp] theorem gset_core_flags (r : RegIx) (v : Word) : (gset r v P).core.flags = P.core.flags := rfl
@[simp] theorem gset_core_ie (r : RegIx) (v : Word) : (gset r v P).core.ie = P.core.ie := rfl
@[simp] theorem gset_core_evt (r : RegIx) (v : Word) : (gset r v P).core.evt = P.core.evt := rfl
@[simp] theorem gset_core_nest (r : RegIx) (v : Word) : (gset r v P).core.nest = P.core.nest := rfl
@[simp] theorem gset_core_df (r : RegIx) (v : Word) : (gset r v P).core.df = P.core.df := rfl
@[simp] theorem gset_core_pc (r : RegIx) (v : Word) : (gset r v P).core.pc = P.core.pc := rfl
@[simp] theorem gset_core_run (r : RegIx) (v : Word) : (gset r v P).core.run = P.core.run := rfl
@[simp] theorem gset_core_halted (r : RegIx) (v : Word) : (gset r v P).core.halted = P.core.halted := rfl
@[simp] theorem gset_core_stepping (r : RegIx) (v : Word) : (gset r v P).core.stepping = P.core.stepping := rfl
@[simp] theorem gset_core_gate (r : RegIx) (v : Word) : (gset r v P).core.gate = P.core.gate := rfl
@[simp] theorem gset_core_long (r : RegIx) (v : Word) : (gset r v P).core.long = P.core.long := rfl
@[simp] theorem gset_core_ca (r : RegIx) (v : Word) : (gset r v P).core.ca = P.core.ca := rfl
@[simp] theorem gset_core_hazard (r : RegIx) (v : Word) : (gset r v P).core.hazard = P.core.hazard := rfl
@[simp] theorem gset_core_accAge (r : RegIx) (v : Word) : (gset r v P).core.accAge = P.core.accAge := rfl
@[simp] theorem gset_core_perStore (r : RegIx) (v : Word) : (gset r v P).core.perStore = P.core.perStore := rfl
@[simp] theorem gset_core_sb (r : RegIx) (v : Word) : (gset r v P).core.sb = P.core.sb := rfl
@[simp] theorem gset_core_pb (r : RegIx) (v : Word) : (gset r v P).core.pb = P.core.pb := rfl
@[simp] theorem gset_core_stalled (r : RegIx) (v : Word) : (gset r v P).core.stalled = P.core.stalled := rfl
@[simp] theorem gset_core_waitCyc (r : RegIx) (v : Word) : (gset r v P).core.waitCyc = P.core.waitCyc := rfl

@[simp] theorem setFlags_core_g (f : Flags) : (setFlags f P).core.g = P.core.g := rfl
@[simp] theorem setFlags_core_acc (f : Flags) : (setFlags f P).core.acc = P.core.acc := rfl
@[simp] theorem setFlags_core_flags (f : Flags) : (setFlags f P).core.flags = f := rfl
@[simp] theorem setFlags_core_ie (f : Flags) : (setFlags f P).core.ie = P.core.ie := rfl
@[simp] theorem setFlags_core_evt (f : Flags) : (setFlags f P).core.evt = P.core.evt := rfl
@[simp] theorem setFlags_core_nest (f : Flags) : (setFlags f P).core.nest = P.core.nest := rfl
@[simp] theorem setFlags_core_df (f : Flags) : (setFlags f P).core.df = P.core.df := rfl
@[simp] theorem setFlags_core_pc (f : Flags) : (setFlags f P).core.pc = P.core.pc := rfl
@[simp] theorem setFlags_core_run (f : Flags) : (setFlags f P).core.run = P.core.run := rfl
@[simp] theorem setFlags_core_halted (f : Flags) : (setFlags f P).core.halted = P.core.halted := rfl
@[simp] theorem setFlags_core_stepping (f : Flags) : (setFlags f P).core.stepping = P.core.stepping := rfl
@[simp] theorem setFlags_core_gate (f : Flags) : (setFlags f P).core.gate = P.core.gate := rfl
@[simp] theorem setFlags_core_long (f : Flags) : (setFlags f P).core.long = P.core.long := rfl
@[simp] theorem setFlags_core_ca (f : Flags) : (setFlags f P).core.ca = P.core.ca := rfl
@[simp] theorem setFlags_core_hazard (f : Flags) : (setFlags f P).core.hazard = P.core.hazard := rfl
@[simp] theorem setFlags_core_accAge (f : Flags) : (setFlags f P).core.accAge = P.core.accAge := rfl
@[simp] theorem setFlags_core_perStore (f : Flags) : (setFlags f P).core.perStore = P.core.perStore := rfl
@[simp] theorem setFlags_core_sb (f : Flags) : (setFlags f P).core.sb = P.core.sb := rfl
@[simp] theorem setFlags_core_pb (f : Flags) : (setFlags f P).core.pb = P.core.pb := rfl
@[simp] theorem setFlags_core_stalled (f : Flags) : (setFlags f P).core.stalled = P.core.stalled := rfl
@[simp] theorem setFlags_core_waitCyc (f : Flags) : (setFlags f P).core.waitCyc = P.core.waitCyc := rfl

@[simp] theorem latch_core_g (i : Nat) : (latch i P).core.g = P.core.g := rfl
@[simp] theorem latch_core_acc (i : Nat) : (latch i P).core.acc = P.core.acc := rfl
@[simp] theorem latch_core_flags (i : Nat) : (latch i P).core.flags = P.core.flags := rfl
@[simp] theorem latch_core_ie (i : Nat) : (latch i P).core.ie = P.core.ie := rfl
@[simp] theorem latch_core_evt (i : Nat) : (latch i P).core.evt = setBit P.core.evt i true := rfl
@[simp] theorem latch_core_nest (i : Nat) : (latch i P).core.nest = P.core.nest := rfl
@[simp] theorem latch_core_df (i : Nat) : (latch i P).core.df = P.core.df := rfl
@[simp] theorem latch_core_pc (i : Nat) : (latch i P).core.pc = P.core.pc := rfl
@[simp] theorem latch_core_run (i : Nat) : (latch i P).core.run = P.core.run := rfl
@[simp] theorem latch_core_halted (i : Nat) : (latch i P).core.halted = P.core.halted := rfl
@[simp] theorem latch_core_stepping (i : Nat) : (latch i P).core.stepping = P.core.stepping := rfl
@[simp] theorem latch_core_gate (i : Nat) : (latch i P).core.gate = P.core.gate := rfl
@[simp] theorem latch_core_long (i : Nat) : (latch i P).core.long = P.core.long := rfl
@[simp] theorem latch_core_ca (i : Nat) : (latch i P).core.ca = P.core.ca := rfl
@[simp] theorem latch_core_hazard (i : Nat) : (latch i P).core.hazard = P.core.hazard := rfl
@[simp] theorem latch_core_accAge (i : Nat) : (latch i P).core.accAge = P.core.accAge := rfl
@[simp] theorem latch_core_perStore (i : Nat) : (latch i P).core.perStore = P.core.perStore := rfl
@[simp] theorem latch_core_sb (i : Nat) : (latch i P).core.sb = P.core.sb := rfl
@[simp] theorem latch_core_pb (i : Nat) : (latch i P).core.pb = P.core.pb := rfl
@[simp] theorem latch_core_stalled (i : Nat) : (latch i P).core.stalled = P.core.stalled := rfl
@[simp] theorem latch_core_waitCyc (i : Nat) : (latch i P).core.waitCyc = P.core.waitCyc := rfl

/-! ### Registers -/

@[simp] theorem rg_rset_self (off : Nat) (v : Word) : rg (rset off v P) off = v := SMap.get_set_self _ _ _

theorem rg_rset_ne {off o : Nat} (v : Word) (h : o ≠ off) : rg (rset off v P) o = rg P o := SMap.get_set_ne _ _ h

theorem rg_rset (off : Nat) (v : Word) (o : Nat) : rg (rset off v P) o = if o = off then v else rg P o :=
  SMap.get_set _ _ _ _

@[simp] theorem rg_useFree (off : Nat) : rg (useFree P) off = rg P off := rfl
@[simp] theorem rg_latch (i off : Nat) : rg (latch i P) off = rg P off := rfl
@[simp] theorem rg_gset (r : RegIx) (v : Word) (off : Nat) : rg (gset r v P) off = rg P off := rfl
@[simp] theorem rg_setFlags (f : Flags) (off : Nat) : rg (setFlags f P) off = rg P off := rfl
@[simp] theorem rg_pgSet (k : Nat) (g : Pg) (off : Nat) : rg (pgSet k g P) off = rg P off := rfl
@[simp] theorem rg_convSet (n : Nat) (c : Conv) (off : Nat) : rg (convSet n c P) off = rg P off := rfl
@[simp] theorem rg_laneSet (k : Nat) (l : Lane) (off : Nat) : rg (laneSet k l P) off = rg P off := rfl
@[simp] theorem rg_cmpSet (n : Nat) (c : Cmp) (off : Nat) : rg (cmpSet n c P) off = rg P off := rfl
@[simp] theorem rg_cvuMod (k : Nat) (f : Cvu → Cvu) (off : Nat) : rg (cvuMod k f P) off = rg P off := rfl
@[simp] theorem rg_sbMod (f : Sb → Sb) (off : Nat) : rg (sbMod f P) off = rg P off := rfl
@[simp] theorem rg_emit (ns : Nat) (k : Packet) (off : Nat) : rg (emit ns k P) off = rg P off := rfl

/-! ### Vectors by number -/

theorem vset_ge {α : Type} {n : Nat} (v : Vector α n) {i : Nat} (x : α) (h : n ≤ i) : vset v i x = v := by
  apply Vector.ext
  intro j hj
  simp only [vset]
  rw [Vector.getElem_setIfInBounds]
  rw [if_neg (by omega)]

theorem vget_vset {α : Type} {n : Nat} (v : Vector α n) (i j : Nat) (x d : α) (h : i < n) :
    vget (vset v i x) j d = if j = i then x else vget v j d := by
  obtain ⟨a, rfl⟩ := v
  simp only [vget, vset, Vector.getD, Vector.setIfInBounds, Array.getD, Array.size_setIfInBounds]
  by_cases hj : j < a.size
  · simp [hj, Array.getElem_setIfInBounds, eq_comm]
  · have : j ≠ i := by omega
    simp [hj, this]

theorem gr_gset (r q : RegIx) (v : Word) : gr (gset r v P) q = if q = r then v else gr P q := by
  unfold gr
  rw [gset_core_g, vget_vset _ _ _ _ _ (by omega)]
  simp only [BitVec.toNat_inj]

/-! ### The machine -/

@[simp] theorem onPond_pending (p : PondId) (f : Pond → Pond) : (onPond p f s).pending = s.pending := rfl
@[simp] theorem onPond_ns (p : PondId) (f : Pond → Pond) : (onPond p f s).ns = s.ns := rfl
@[simp] theorem onPond_rdata (p : PondId) (f : Pond → Pond) : (onPond p f s).rdata = s.rdata := rfl
@[simp] theorem onPond_rdata64 (p : PondId) (f : Pond → Pond) : (onPond p f s).rdata64 = s.rdata64 := rfl
@[simp] theorem onPond_shore (p : PondId) (f : Pond → Pond) : (onPond p f s).shore = s.shore := rfl
@[simp] theorem onPond_barUr (p : PondId) (f : Pond → Pond) : (onPond p f s).barUr = s.barUr := rfl

@[simp] theorem withPond_pending (p : PondId) (Q : Pond) : (withPond s p Q).pending = s.pending := rfl
@[simp] theorem withPond_ns (p : PondId) (Q : Pond) : (withPond s p Q).ns = s.ns := rfl
@[simp] theorem withPond_rdata (p : PondId) (Q : Pond) : (withPond s p Q).rdata = s.rdata := rfl
@[simp] theorem withPond_rdata64 (p : PondId) (Q : Pond) : (withPond s p Q).rdata64 = s.rdata64 := rfl
@[simp] theorem withPond_shore (p : PondId) (Q : Pond) : (withPond s p Q).shore = s.shore := rfl
@[simp] theorem withPond_barUr (p : PondId) (Q : Pond) : (withPond s p Q).barUr = s.barUr := rfl

@[simp] theorem onPondN_pending (n : Nat) (f : Pond → Pond) : (onPondN n f s).pending = s.pending := rfl
@[simp] theorem onPondN_ns (n : Nat) (f : Pond → Pond) : (onPondN n f s).ns = s.ns := rfl
@[simp] theorem onPondN_rdata (n : Nat) (f : Pond → Pond) : (onPondN n f s).rdata = s.rdata := rfl
@[simp] theorem onPondN_rdata64 (n : Nat) (f : Pond → Pond) : (onPondN n f s).rdata64 = s.rdata64 := rfl
@[simp] theorem onPondN_shore (n : Nat) (f : Pond → Pond) : (onPondN n f s).shore = s.shore := rfl
@[simp] theorem onPondN_barUr (n : Nat) (f : Pond → Pond) : (onPondN n f s).barUr = s.barUr := rfl

@[simp] theorem onPonds_pending (f : Pond → Pond) : (onPonds f s).pending = s.pending := rfl
@[simp] theorem onPonds_ns (f : Pond → Pond) : (onPonds f s).ns = s.ns := rfl
@[simp] theorem onPonds_rdata (f : Pond → Pond) : (onPonds f s).rdata = s.rdata := rfl
@[simp] theorem onPonds_rdata64 (f : Pond → Pond) : (onPonds f s).rdata64 = s.rdata64 := rfl
@[simp] theorem onPonds_shore (f : Pond → Pond) : (onPonds f s).shore = s.shore := rfl
@[simp] theorem onPonds_barUr (f : Pond → Pond) : (onPonds f s).barUr = s.barUr := rfl

@[simp] theorem onShore_pending (f : Shore → Shore) : (onShore f s).pending = s.pending := rfl
@[simp] theorem onShore_ns (f : Shore → Shore) : (onShore f s).ns = s.ns := rfl
@[simp] theorem onShore_rdata (f : Shore → Shore) : (onShore f s).rdata = s.rdata := rfl
@[simp] theorem onShore_rdata64 (f : Shore → Shore) : (onShore f s).rdata64 = s.rdata64 := rfl
@[simp] theorem onShore_ponds (f : Shore → Shore) : (onShore f s).ponds = s.ponds := rfl
@[simp] theorem onShore_shore (f : Shore → Shore) : (onShore f s).shore = f s.shore := rfl
@[simp] theorem onShore_barUr (f : Shore → Shore) : (onShore f s).barUr = s.barUr := rfl

@[simp] theorem onTbs_ponds (f : Tbs → Tbs) : (onTbs f s).ponds = s.ponds := rfl
@[simp] theorem onTbs_pending (f : Tbs → Tbs) : (onTbs f s).pending = s.pending := rfl
@[simp] theorem onTbs_regs (f : Tbs → Tbs) : (onTbs f s).shore.regs = s.shore.regs := rfl
@[simp] theorem onTbs_tbs (f : Tbs → Tbs) : (onTbs f s).shore.tbs = f s.shore.tbs := rfl
@[simp] theorem onTbs_boot (f : Tbs → Tbs) : (onTbs f s).shore.boot = s.shore.boot := rfl
@[simp] theorem onTbs_weir (f : Tbs → Tbs) : (onTbs f s).shore.weir = s.shore.weir := rfl
@[simp] theorem onTbs_ports (f : Tbs → Tbs) : (onTbs f s).shore.ports = s.shore.ports := rfl
@[simp] theorem onTbs_token (f : Tbs → Tbs) : (onTbs f s).shore.token = s.shore.token := rfl
@[simp] theorem onTbs_leases (f : Tbs → Tbs) : (onTbs f s).shore.leases = s.shore.leases := rfl
@[simp] theorem onTbs_cmds (f : Tbs → Tbs) : (onTbs f s).shore.cmds = s.shore.cmds := rfl
@[simp] theorem onTbs_order (f : Tbs → Tbs) : (onTbs f s).shore.order = s.shore.order := rfl
@[simp] theorem onTbs_streams (f : Tbs → Tbs) : (onTbs f s).shore.streams = s.shore.streams := rfl
@[simp] theorem onTbs_mreqs (f : Tbs → Tbs) : (onTbs f s).shore.mreqs = s.shore.mreqs := rfl
@[simp] theorem onTbs_mwait (f : Tbs → Tbs) : (onTbs f s).shore.mwait = s.shore.mwait := rfl
@[simp] theorem onTbs_notices (f : Tbs → Tbs) : (onTbs f s).shore.notices = s.shore.notices := rfl
@[simp] theorem onTbs_binds (f : Tbs → Tbs) : (onTbs f s).shore.binds = s.shore.binds := rfl
@[simp] theorem onTbs_ledger (f : Tbs → Tbs) : (onTbs f s).shore.ledger = s.shore.ledger := rfl
@[simp] theorem onTbs_keys (f : Tbs → Tbs) : (onTbs f s).shore.keys = s.shore.keys := rfl
@[simp] theorem onTbs_alarms (f : Tbs → Tbs) : (onTbs f s).shore.alarms = s.shore.alarms := rfl
@[simp] theorem onTbs_sfl (f : Tbs → Tbs) : (onTbs f s).shore.sfl = s.shore.sfl := rfl
@[simp] theorem onTbs_otp (f : Tbs → Tbs) : (onTbs f s).shore.otp = s.shore.otp := rfl
@[simp] theorem onTbs_scvu (f : Tbs → Tbs) : (onTbs f s).shore.scvu = s.shore.scvu := rfl
@[simp] theorem onTbs_scvuHeld (f : Tbs → Tbs) : (onTbs f s).shore.scvuHeld = s.shore.scvuHeld := rfl
@[simp] theorem onTbs_pairs (f : Tbs → Tbs) : (onTbs f s).shore.pairs = s.shore.pairs := rfl
@[simp] theorem onTbs_fresh (f : Tbs → Tbs) : (onTbs f s).shore.fresh = s.shore.fresh := rfl
@[simp] theorem onTbs_taken (f : Tbs → Tbs) : (onTbs f s).shore.taken = s.shore.taken := rfl
@[simp] theorem onTbs_judged (f : Tbs → Tbs) : (onTbs f s).shore.judged = s.shore.judged := rfl
@[simp] theorem onTbs_groupPorts (f : Tbs → Tbs) : (onTbs f s).shore.groupPorts = s.shore.groupPorts := rfl
@[simp] theorem onTbs_hi (f : Tbs → Tbs) : (onTbs f s).shore.hi = s.shore.hi := rfl

@[simp] theorem onBoot_ponds (f : Boot → Boot) : (onBoot f s).ponds = s.ponds := rfl
@[simp] theorem onBoot_pending (f : Boot → Boot) : (onBoot f s).pending = s.pending := rfl
@[simp] theorem onBoot_regs (f : Boot → Boot) : (onBoot f s).shore.regs = s.shore.regs := rfl
@[simp] theorem onBoot_tbs (f : Boot → Boot) : (onBoot f s).shore.tbs = s.shore.tbs := rfl
@[simp] theorem onBoot_boot (f : Boot → Boot) : (onBoot f s).shore.boot = f s.shore.boot := rfl
@[simp] theorem onBoot_weir (f : Boot → Boot) : (onBoot f s).shore.weir = s.shore.weir := rfl
@[simp] theorem onBoot_ports (f : Boot → Boot) : (onBoot f s).shore.ports = s.shore.ports := rfl
@[simp] theorem onBoot_token (f : Boot → Boot) : (onBoot f s).shore.token = s.shore.token := rfl
@[simp] theorem onBoot_leases (f : Boot → Boot) : (onBoot f s).shore.leases = s.shore.leases := rfl
@[simp] theorem onBoot_cmds (f : Boot → Boot) : (onBoot f s).shore.cmds = s.shore.cmds := rfl
@[simp] theorem onBoot_order (f : Boot → Boot) : (onBoot f s).shore.order = s.shore.order := rfl
@[simp] theorem onBoot_streams (f : Boot → Boot) : (onBoot f s).shore.streams = s.shore.streams := rfl
@[simp] theorem onBoot_mreqs (f : Boot → Boot) : (onBoot f s).shore.mreqs = s.shore.mreqs := rfl
@[simp] theorem onBoot_mwait (f : Boot → Boot) : (onBoot f s).shore.mwait = s.shore.mwait := rfl
@[simp] theorem onBoot_notices (f : Boot → Boot) : (onBoot f s).shore.notices = s.shore.notices := rfl
@[simp] theorem onBoot_binds (f : Boot → Boot) : (onBoot f s).shore.binds = s.shore.binds := rfl
@[simp] theorem onBoot_ledger (f : Boot → Boot) : (onBoot f s).shore.ledger = s.shore.ledger := rfl
@[simp] theorem onBoot_keys (f : Boot → Boot) : (onBoot f s).shore.keys = s.shore.keys := rfl
@[simp] theorem onBoot_alarms (f : Boot → Boot) : (onBoot f s).shore.alarms = s.shore.alarms := rfl
@[simp] theorem onBoot_sfl (f : Boot → Boot) : (onBoot f s).shore.sfl = s.shore.sfl := rfl
@[simp] theorem onBoot_otp (f : Boot → Boot) : (onBoot f s).shore.otp = s.shore.otp := rfl
@[simp] theorem onBoot_scvu (f : Boot → Boot) : (onBoot f s).shore.scvu = s.shore.scvu := rfl
@[simp] theorem onBoot_scvuHeld (f : Boot → Boot) : (onBoot f s).shore.scvuHeld = s.shore.scvuHeld := rfl
@[simp] theorem onBoot_pairs (f : Boot → Boot) : (onBoot f s).shore.pairs = s.shore.pairs := rfl
@[simp] theorem onBoot_fresh (f : Boot → Boot) : (onBoot f s).shore.fresh = s.shore.fresh := rfl
@[simp] theorem onBoot_taken (f : Boot → Boot) : (onBoot f s).shore.taken = s.shore.taken := rfl
@[simp] theorem onBoot_judged (f : Boot → Boot) : (onBoot f s).shore.judged = s.shore.judged := rfl
@[simp] theorem onBoot_groupPorts (f : Boot → Boot) : (onBoot f s).shore.groupPorts = s.shore.groupPorts := rfl
@[simp] theorem onBoot_hi (f : Boot → Boot) : (onBoot f s).shore.hi = s.shore.hi := rfl

@[simp] theorem onWeir_ponds (f : Weir → Weir) : (onWeir f s).ponds = s.ponds := rfl
@[simp] theorem onWeir_pending (f : Weir → Weir) : (onWeir f s).pending = s.pending := rfl
@[simp] theorem onWeir_regs (f : Weir → Weir) : (onWeir f s).shore.regs = s.shore.regs := rfl
@[simp] theorem onWeir_tbs (f : Weir → Weir) : (onWeir f s).shore.tbs = s.shore.tbs := rfl
@[simp] theorem onWeir_boot (f : Weir → Weir) : (onWeir f s).shore.boot = s.shore.boot := rfl
@[simp] theorem onWeir_weir (f : Weir → Weir) : (onWeir f s).shore.weir = f s.shore.weir := rfl
@[simp] theorem onWeir_ports (f : Weir → Weir) : (onWeir f s).shore.ports = s.shore.ports := rfl
@[simp] theorem onWeir_token (f : Weir → Weir) : (onWeir f s).shore.token = s.shore.token := rfl
@[simp] theorem onWeir_leases (f : Weir → Weir) : (onWeir f s).shore.leases = s.shore.leases := rfl
@[simp] theorem onWeir_cmds (f : Weir → Weir) : (onWeir f s).shore.cmds = s.shore.cmds := rfl
@[simp] theorem onWeir_order (f : Weir → Weir) : (onWeir f s).shore.order = s.shore.order := rfl
@[simp] theorem onWeir_streams (f : Weir → Weir) : (onWeir f s).shore.streams = s.shore.streams := rfl
@[simp] theorem onWeir_mreqs (f : Weir → Weir) : (onWeir f s).shore.mreqs = s.shore.mreqs := rfl
@[simp] theorem onWeir_mwait (f : Weir → Weir) : (onWeir f s).shore.mwait = s.shore.mwait := rfl
@[simp] theorem onWeir_notices (f : Weir → Weir) : (onWeir f s).shore.notices = s.shore.notices := rfl
@[simp] theorem onWeir_binds (f : Weir → Weir) : (onWeir f s).shore.binds = s.shore.binds := rfl
@[simp] theorem onWeir_ledger (f : Weir → Weir) : (onWeir f s).shore.ledger = s.shore.ledger := rfl
@[simp] theorem onWeir_keys (f : Weir → Weir) : (onWeir f s).shore.keys = s.shore.keys := rfl
@[simp] theorem onWeir_alarms (f : Weir → Weir) : (onWeir f s).shore.alarms = s.shore.alarms := rfl
@[simp] theorem onWeir_sfl (f : Weir → Weir) : (onWeir f s).shore.sfl = s.shore.sfl := rfl
@[simp] theorem onWeir_otp (f : Weir → Weir) : (onWeir f s).shore.otp = s.shore.otp := rfl
@[simp] theorem onWeir_scvu (f : Weir → Weir) : (onWeir f s).shore.scvu = s.shore.scvu := rfl
@[simp] theorem onWeir_scvuHeld (f : Weir → Weir) : (onWeir f s).shore.scvuHeld = s.shore.scvuHeld := rfl
@[simp] theorem onWeir_pairs (f : Weir → Weir) : (onWeir f s).shore.pairs = s.shore.pairs := rfl
@[simp] theorem onWeir_fresh (f : Weir → Weir) : (onWeir f s).shore.fresh = s.shore.fresh := rfl
@[simp] theorem onWeir_taken (f : Weir → Weir) : (onWeir f s).shore.taken = s.shore.taken := rfl
@[simp] theorem onWeir_judged (f : Weir → Weir) : (onWeir f s).shore.judged = s.shore.judged := rfl
@[simp] theorem onWeir_groupPorts (f : Weir → Weir) : (onWeir f s).shore.groupPorts = s.shore.groupPorts := rfl
@[simp] theorem onWeir_hi (f : Weir → Weir) : (onWeir f s).shore.hi = s.shore.hi := rfl

@[simp] theorem onLedger_ponds (f : Ledger → Ledger) : (onLedger f s).ponds = s.ponds := rfl
@[simp] theorem onLedger_pending (f : Ledger → Ledger) : (onLedger f s).pending = s.pending := rfl
@[simp] theorem onLedger_regs (f : Ledger → Ledger) : (onLedger f s).shore.regs = s.shore.regs := rfl
@[simp] theorem onLedger_tbs (f : Ledger → Ledger) : (onLedger f s).shore.tbs = s.shore.tbs := rfl
@[simp] theorem onLedger_boot (f : Ledger → Ledger) : (onLedger f s).shore.boot = s.shore.boot := rfl
@[simp] theorem onLedger_weir (f : Ledger → Ledger) : (onLedger f s).shore.weir = s.shore.weir := rfl
@[simp] theorem onLedger_ports (f : Ledger → Ledger) : (onLedger f s).shore.ports = s.shore.ports := rfl
@[simp] theorem onLedger_token (f : Ledger → Ledger) : (onLedger f s).shore.token = s.shore.token := rfl
@[simp] theorem onLedger_leases (f : Ledger → Ledger) : (onLedger f s).shore.leases = s.shore.leases := rfl
@[simp] theorem onLedger_cmds (f : Ledger → Ledger) : (onLedger f s).shore.cmds = s.shore.cmds := rfl
@[simp] theorem onLedger_order (f : Ledger → Ledger) : (onLedger f s).shore.order = s.shore.order := rfl
@[simp] theorem onLedger_streams (f : Ledger → Ledger) : (onLedger f s).shore.streams = s.shore.streams := rfl
@[simp] theorem onLedger_mreqs (f : Ledger → Ledger) : (onLedger f s).shore.mreqs = s.shore.mreqs := rfl
@[simp] theorem onLedger_mwait (f : Ledger → Ledger) : (onLedger f s).shore.mwait = s.shore.mwait := rfl
@[simp] theorem onLedger_notices (f : Ledger → Ledger) : (onLedger f s).shore.notices = s.shore.notices := rfl
@[simp] theorem onLedger_binds (f : Ledger → Ledger) : (onLedger f s).shore.binds = s.shore.binds := rfl
@[simp] theorem onLedger_ledger (f : Ledger → Ledger) : (onLedger f s).shore.ledger = f s.shore.ledger := rfl
@[simp] theorem onLedger_keys (f : Ledger → Ledger) : (onLedger f s).shore.keys = s.shore.keys := rfl
@[simp] theorem onLedger_alarms (f : Ledger → Ledger) : (onLedger f s).shore.alarms = s.shore.alarms := rfl
@[simp] theorem onLedger_sfl (f : Ledger → Ledger) : (onLedger f s).shore.sfl = s.shore.sfl := rfl
@[simp] theorem onLedger_otp (f : Ledger → Ledger) : (onLedger f s).shore.otp = s.shore.otp := rfl
@[simp] theorem onLedger_scvu (f : Ledger → Ledger) : (onLedger f s).shore.scvu = s.shore.scvu := rfl
@[simp] theorem onLedger_scvuHeld (f : Ledger → Ledger) : (onLedger f s).shore.scvuHeld = s.shore.scvuHeld := rfl
@[simp] theorem onLedger_pairs (f : Ledger → Ledger) : (onLedger f s).shore.pairs = s.shore.pairs := rfl
@[simp] theorem onLedger_fresh (f : Ledger → Ledger) : (onLedger f s).shore.fresh = s.shore.fresh := rfl
@[simp] theorem onLedger_taken (f : Ledger → Ledger) : (onLedger f s).shore.taken = s.shore.taken := rfl
@[simp] theorem onLedger_judged (f : Ledger → Ledger) : (onLedger f s).shore.judged = s.shore.judged := rfl
@[simp] theorem onLedger_groupPorts (f : Ledger → Ledger) : (onLedger f s).shore.groupPorts = s.shore.groupPorts := rfl
@[simp] theorem onLedger_hi (f : Ledger → Ledger) : (onLedger f s).shore.hi = s.shore.hi := rfl

@[simp] theorem onKeys_ponds (f : Keys → Keys) : (onKeys f s).ponds = s.ponds := rfl
@[simp] theorem onKeys_pending (f : Keys → Keys) : (onKeys f s).pending = s.pending := rfl
@[simp] theorem onKeys_regs (f : Keys → Keys) : (onKeys f s).shore.regs = s.shore.regs := rfl
@[simp] theorem onKeys_tbs (f : Keys → Keys) : (onKeys f s).shore.tbs = s.shore.tbs := rfl
@[simp] theorem onKeys_boot (f : Keys → Keys) : (onKeys f s).shore.boot = s.shore.boot := rfl
@[simp] theorem onKeys_weir (f : Keys → Keys) : (onKeys f s).shore.weir = s.shore.weir := rfl
@[simp] theorem onKeys_ports (f : Keys → Keys) : (onKeys f s).shore.ports = s.shore.ports := rfl
@[simp] theorem onKeys_token (f : Keys → Keys) : (onKeys f s).shore.token = s.shore.token := rfl
@[simp] theorem onKeys_leases (f : Keys → Keys) : (onKeys f s).shore.leases = s.shore.leases := rfl
@[simp] theorem onKeys_cmds (f : Keys → Keys) : (onKeys f s).shore.cmds = s.shore.cmds := rfl
@[simp] theorem onKeys_order (f : Keys → Keys) : (onKeys f s).shore.order = s.shore.order := rfl
@[simp] theorem onKeys_streams (f : Keys → Keys) : (onKeys f s).shore.streams = s.shore.streams := rfl
@[simp] theorem onKeys_mreqs (f : Keys → Keys) : (onKeys f s).shore.mreqs = s.shore.mreqs := rfl
@[simp] theorem onKeys_mwait (f : Keys → Keys) : (onKeys f s).shore.mwait = s.shore.mwait := rfl
@[simp] theorem onKeys_notices (f : Keys → Keys) : (onKeys f s).shore.notices = s.shore.notices := rfl
@[simp] theorem onKeys_binds (f : Keys → Keys) : (onKeys f s).shore.binds = s.shore.binds := rfl
@[simp] theorem onKeys_ledger (f : Keys → Keys) : (onKeys f s).shore.ledger = s.shore.ledger := rfl
@[simp] theorem onKeys_keys (f : Keys → Keys) : (onKeys f s).shore.keys = f s.shore.keys := rfl
@[simp] theorem onKeys_alarms (f : Keys → Keys) : (onKeys f s).shore.alarms = s.shore.alarms := rfl
@[simp] theorem onKeys_sfl (f : Keys → Keys) : (onKeys f s).shore.sfl = s.shore.sfl := rfl
@[simp] theorem onKeys_otp (f : Keys → Keys) : (onKeys f s).shore.otp = s.shore.otp := rfl
@[simp] theorem onKeys_scvu (f : Keys → Keys) : (onKeys f s).shore.scvu = s.shore.scvu := rfl
@[simp] theorem onKeys_scvuHeld (f : Keys → Keys) : (onKeys f s).shore.scvuHeld = s.shore.scvuHeld := rfl
@[simp] theorem onKeys_pairs (f : Keys → Keys) : (onKeys f s).shore.pairs = s.shore.pairs := rfl
@[simp] theorem onKeys_fresh (f : Keys → Keys) : (onKeys f s).shore.fresh = s.shore.fresh := rfl
@[simp] theorem onKeys_taken (f : Keys → Keys) : (onKeys f s).shore.taken = s.shore.taken := rfl
@[simp] theorem onKeys_judged (f : Keys → Keys) : (onKeys f s).shore.judged = s.shore.judged := rfl
@[simp] theorem onKeys_groupPorts (f : Keys → Keys) : (onKeys f s).shore.groupPorts = s.shore.groupPorts := rfl
@[simp] theorem onKeys_hi (f : Keys → Keys) : (onKeys f s).shore.hi = s.shore.hi := rfl

@[simp] theorem onAlarms_ponds (f : Alarms → Alarms) : (onAlarms f s).ponds = s.ponds := rfl
@[simp] theorem onAlarms_pending (f : Alarms → Alarms) : (onAlarms f s).pending = s.pending := rfl
@[simp] theorem onAlarms_regs (f : Alarms → Alarms) : (onAlarms f s).shore.regs = s.shore.regs := rfl
@[simp] theorem onAlarms_tbs (f : Alarms → Alarms) : (onAlarms f s).shore.tbs = s.shore.tbs := rfl
@[simp] theorem onAlarms_boot (f : Alarms → Alarms) : (onAlarms f s).shore.boot = s.shore.boot := rfl
@[simp] theorem onAlarms_weir (f : Alarms → Alarms) : (onAlarms f s).shore.weir = s.shore.weir := rfl
@[simp] theorem onAlarms_ports (f : Alarms → Alarms) : (onAlarms f s).shore.ports = s.shore.ports := rfl
@[simp] theorem onAlarms_token (f : Alarms → Alarms) : (onAlarms f s).shore.token = s.shore.token := rfl
@[simp] theorem onAlarms_leases (f : Alarms → Alarms) : (onAlarms f s).shore.leases = s.shore.leases := rfl
@[simp] theorem onAlarms_cmds (f : Alarms → Alarms) : (onAlarms f s).shore.cmds = s.shore.cmds := rfl
@[simp] theorem onAlarms_order (f : Alarms → Alarms) : (onAlarms f s).shore.order = s.shore.order := rfl
@[simp] theorem onAlarms_streams (f : Alarms → Alarms) : (onAlarms f s).shore.streams = s.shore.streams := rfl
@[simp] theorem onAlarms_mreqs (f : Alarms → Alarms) : (onAlarms f s).shore.mreqs = s.shore.mreqs := rfl
@[simp] theorem onAlarms_mwait (f : Alarms → Alarms) : (onAlarms f s).shore.mwait = s.shore.mwait := rfl
@[simp] theorem onAlarms_notices (f : Alarms → Alarms) : (onAlarms f s).shore.notices = s.shore.notices := rfl
@[simp] theorem onAlarms_binds (f : Alarms → Alarms) : (onAlarms f s).shore.binds = s.shore.binds := rfl
@[simp] theorem onAlarms_ledger (f : Alarms → Alarms) : (onAlarms f s).shore.ledger = s.shore.ledger := rfl
@[simp] theorem onAlarms_keys (f : Alarms → Alarms) : (onAlarms f s).shore.keys = s.shore.keys := rfl
@[simp] theorem onAlarms_alarms (f : Alarms → Alarms) : (onAlarms f s).shore.alarms = f s.shore.alarms := rfl
@[simp] theorem onAlarms_sfl (f : Alarms → Alarms) : (onAlarms f s).shore.sfl = s.shore.sfl := rfl
@[simp] theorem onAlarms_otp (f : Alarms → Alarms) : (onAlarms f s).shore.otp = s.shore.otp := rfl
@[simp] theorem onAlarms_scvu (f : Alarms → Alarms) : (onAlarms f s).shore.scvu = s.shore.scvu := rfl
@[simp] theorem onAlarms_scvuHeld (f : Alarms → Alarms) : (onAlarms f s).shore.scvuHeld = s.shore.scvuHeld := rfl
@[simp] theorem onAlarms_pairs (f : Alarms → Alarms) : (onAlarms f s).shore.pairs = s.shore.pairs := rfl
@[simp] theorem onAlarms_fresh (f : Alarms → Alarms) : (onAlarms f s).shore.fresh = s.shore.fresh := rfl
@[simp] theorem onAlarms_taken (f : Alarms → Alarms) : (onAlarms f s).shore.taken = s.shore.taken := rfl
@[simp] theorem onAlarms_judged (f : Alarms → Alarms) : (onAlarms f s).shore.judged = s.shore.judged := rfl
@[simp] theorem onAlarms_groupPorts (f : Alarms → Alarms) : (onAlarms f s).shore.groupPorts = s.shore.groupPorts := rfl
@[simp] theorem onAlarms_hi (f : Alarms → Alarms) : (onAlarms f s).shore.hi = s.shore.hi := rfl

@[simp] theorem onSfl_ponds (f : Sfl → Sfl) : (onSfl f s).ponds = s.ponds := rfl
@[simp] theorem onSfl_pending (f : Sfl → Sfl) : (onSfl f s).pending = s.pending := rfl
@[simp] theorem onSfl_regs (f : Sfl → Sfl) : (onSfl f s).shore.regs = s.shore.regs := rfl
@[simp] theorem onSfl_tbs (f : Sfl → Sfl) : (onSfl f s).shore.tbs = s.shore.tbs := rfl
@[simp] theorem onSfl_boot (f : Sfl → Sfl) : (onSfl f s).shore.boot = s.shore.boot := rfl
@[simp] theorem onSfl_weir (f : Sfl → Sfl) : (onSfl f s).shore.weir = s.shore.weir := rfl
@[simp] theorem onSfl_ports (f : Sfl → Sfl) : (onSfl f s).shore.ports = s.shore.ports := rfl
@[simp] theorem onSfl_token (f : Sfl → Sfl) : (onSfl f s).shore.token = s.shore.token := rfl
@[simp] theorem onSfl_leases (f : Sfl → Sfl) : (onSfl f s).shore.leases = s.shore.leases := rfl
@[simp] theorem onSfl_cmds (f : Sfl → Sfl) : (onSfl f s).shore.cmds = s.shore.cmds := rfl
@[simp] theorem onSfl_order (f : Sfl → Sfl) : (onSfl f s).shore.order = s.shore.order := rfl
@[simp] theorem onSfl_streams (f : Sfl → Sfl) : (onSfl f s).shore.streams = s.shore.streams := rfl
@[simp] theorem onSfl_mreqs (f : Sfl → Sfl) : (onSfl f s).shore.mreqs = s.shore.mreqs := rfl
@[simp] theorem onSfl_mwait (f : Sfl → Sfl) : (onSfl f s).shore.mwait = s.shore.mwait := rfl
@[simp] theorem onSfl_notices (f : Sfl → Sfl) : (onSfl f s).shore.notices = s.shore.notices := rfl
@[simp] theorem onSfl_binds (f : Sfl → Sfl) : (onSfl f s).shore.binds = s.shore.binds := rfl
@[simp] theorem onSfl_ledger (f : Sfl → Sfl) : (onSfl f s).shore.ledger = s.shore.ledger := rfl
@[simp] theorem onSfl_keys (f : Sfl → Sfl) : (onSfl f s).shore.keys = s.shore.keys := rfl
@[simp] theorem onSfl_alarms (f : Sfl → Sfl) : (onSfl f s).shore.alarms = s.shore.alarms := rfl
@[simp] theorem onSfl_sfl (f : Sfl → Sfl) : (onSfl f s).shore.sfl = f s.shore.sfl := rfl
@[simp] theorem onSfl_otp (f : Sfl → Sfl) : (onSfl f s).shore.otp = s.shore.otp := rfl
@[simp] theorem onSfl_scvu (f : Sfl → Sfl) : (onSfl f s).shore.scvu = s.shore.scvu := rfl
@[simp] theorem onSfl_scvuHeld (f : Sfl → Sfl) : (onSfl f s).shore.scvuHeld = s.shore.scvuHeld := rfl
@[simp] theorem onSfl_pairs (f : Sfl → Sfl) : (onSfl f s).shore.pairs = s.shore.pairs := rfl
@[simp] theorem onSfl_fresh (f : Sfl → Sfl) : (onSfl f s).shore.fresh = s.shore.fresh := rfl
@[simp] theorem onSfl_taken (f : Sfl → Sfl) : (onSfl f s).shore.taken = s.shore.taken := rfl
@[simp] theorem onSfl_judged (f : Sfl → Sfl) : (onSfl f s).shore.judged = s.shore.judged := rfl
@[simp] theorem onSfl_groupPorts (f : Sfl → Sfl) : (onSfl f s).shore.groupPorts = s.shore.groupPorts := rfl
@[simp] theorem onSfl_hi (f : Sfl → Sfl) : (onSfl f s).shore.hi = s.shore.hi := rfl

@[simp] theorem onOtp_ponds (f : Otp → Otp) : (onOtp f s).ponds = s.ponds := rfl
@[simp] theorem onOtp_pending (f : Otp → Otp) : (onOtp f s).pending = s.pending := rfl
@[simp] theorem onOtp_regs (f : Otp → Otp) : (onOtp f s).shore.regs = s.shore.regs := rfl
@[simp] theorem onOtp_tbs (f : Otp → Otp) : (onOtp f s).shore.tbs = s.shore.tbs := rfl
@[simp] theorem onOtp_boot (f : Otp → Otp) : (onOtp f s).shore.boot = s.shore.boot := rfl
@[simp] theorem onOtp_weir (f : Otp → Otp) : (onOtp f s).shore.weir = s.shore.weir := rfl
@[simp] theorem onOtp_ports (f : Otp → Otp) : (onOtp f s).shore.ports = s.shore.ports := rfl
@[simp] theorem onOtp_token (f : Otp → Otp) : (onOtp f s).shore.token = s.shore.token := rfl
@[simp] theorem onOtp_leases (f : Otp → Otp) : (onOtp f s).shore.leases = s.shore.leases := rfl
@[simp] theorem onOtp_cmds (f : Otp → Otp) : (onOtp f s).shore.cmds = s.shore.cmds := rfl
@[simp] theorem onOtp_order (f : Otp → Otp) : (onOtp f s).shore.order = s.shore.order := rfl
@[simp] theorem onOtp_streams (f : Otp → Otp) : (onOtp f s).shore.streams = s.shore.streams := rfl
@[simp] theorem onOtp_mreqs (f : Otp → Otp) : (onOtp f s).shore.mreqs = s.shore.mreqs := rfl
@[simp] theorem onOtp_mwait (f : Otp → Otp) : (onOtp f s).shore.mwait = s.shore.mwait := rfl
@[simp] theorem onOtp_notices (f : Otp → Otp) : (onOtp f s).shore.notices = s.shore.notices := rfl
@[simp] theorem onOtp_binds (f : Otp → Otp) : (onOtp f s).shore.binds = s.shore.binds := rfl
@[simp] theorem onOtp_ledger (f : Otp → Otp) : (onOtp f s).shore.ledger = s.shore.ledger := rfl
@[simp] theorem onOtp_keys (f : Otp → Otp) : (onOtp f s).shore.keys = s.shore.keys := rfl
@[simp] theorem onOtp_alarms (f : Otp → Otp) : (onOtp f s).shore.alarms = s.shore.alarms := rfl
@[simp] theorem onOtp_sfl (f : Otp → Otp) : (onOtp f s).shore.sfl = s.shore.sfl := rfl
@[simp] theorem onOtp_otp (f : Otp → Otp) : (onOtp f s).shore.otp = f s.shore.otp := rfl
@[simp] theorem onOtp_scvu (f : Otp → Otp) : (onOtp f s).shore.scvu = s.shore.scvu := rfl
@[simp] theorem onOtp_scvuHeld (f : Otp → Otp) : (onOtp f s).shore.scvuHeld = s.shore.scvuHeld := rfl
@[simp] theorem onOtp_pairs (f : Otp → Otp) : (onOtp f s).shore.pairs = s.shore.pairs := rfl
@[simp] theorem onOtp_fresh (f : Otp → Otp) : (onOtp f s).shore.fresh = s.shore.fresh := rfl
@[simp] theorem onOtp_taken (f : Otp → Otp) : (onOtp f s).shore.taken = s.shore.taken := rfl
@[simp] theorem onOtp_judged (f : Otp → Otp) : (onOtp f s).shore.judged = s.shore.judged := rfl
@[simp] theorem onOtp_groupPorts (f : Otp → Otp) : (onOtp f s).shore.groupPorts = s.shore.groupPorts := rfl
@[simp] theorem onOtp_hi (f : Otp → Otp) : (onOtp f s).shore.hi = s.shore.hi := rfl

@[simp] theorem smod_tbs (off : Nat) (f : Word → Word) : (smod off f s).shore.tbs = s.shore.tbs := rfl
@[simp] theorem smod_boot (off : Nat) (f : Word → Word) : (smod off f s).shore.boot = s.shore.boot := rfl
@[simp] theorem smod_weir (off : Nat) (f : Word → Word) : (smod off f s).shore.weir = s.shore.weir := rfl
@[simp] theorem smod_ports (off : Nat) (f : Word → Word) : (smod off f s).shore.ports = s.shore.ports := rfl
@[simp] theorem smod_token (off : Nat) (f : Word → Word) : (smod off f s).shore.token = s.shore.token := rfl
@[simp] theorem smod_leases (off : Nat) (f : Word → Word) : (smod off f s).shore.leases = s.shore.leases := rfl
@[simp] theorem smod_cmds (off : Nat) (f : Word → Word) : (smod off f s).shore.cmds = s.shore.cmds := rfl
@[simp] theorem smod_order (off : Nat) (f : Word → Word) : (smod off f s).shore.order = s.shore.order := rfl
@[simp] theorem smod_streams (off : Nat) (f : Word → Word) : (smod off f s).shore.streams = s.shore.streams := rfl
@[simp] theorem smod_mreqs (off : Nat) (f : Word → Word) : (smod off f s).shore.mreqs = s.shore.mreqs := rfl
@[simp] theorem smod_mwait (off : Nat) (f : Word → Word) : (smod off f s).shore.mwait = s.shore.mwait := rfl
@[simp] theorem smod_notices (off : Nat) (f : Word → Word) : (smod off f s).shore.notices = s.shore.notices := rfl
@[simp] theorem smod_binds (off : Nat) (f : Word → Word) : (smod off f s).shore.binds = s.shore.binds := rfl
@[simp] theorem smod_ledger (off : Nat) (f : Word → Word) : (smod off f s).shore.ledger = s.shore.ledger := rfl
@[simp] theorem smod_keys (off : Nat) (f : Word → Word) : (smod off f s).shore.keys = s.shore.keys := rfl
@[simp] theorem smod_alarms (off : Nat) (f : Word → Word) : (smod off f s).shore.alarms = s.shore.alarms := rfl
@[simp] theorem smod_sfl (off : Nat) (f : Word → Word) : (smod off f s).shore.sfl = s.shore.sfl := rfl
@[simp] theorem smod_otp (off : Nat) (f : Word → Word) : (smod off f s).shore.otp = s.shore.otp := rfl
@[simp] theorem smod_scvu (off : Nat) (f : Word → Word) : (smod off f s).shore.scvu = s.shore.scvu := rfl
@[simp] theorem smod_scvuHeld (off : Nat) (f : Word → Word) : (smod off f s).shore.scvuHeld = s.shore.scvuHeld := rfl
@[simp] theorem smod_pairs (off : Nat) (f : Word → Word) : (smod off f s).shore.pairs = s.shore.pairs := rfl
@[simp] theorem smod_fresh (off : Nat) (f : Word → Word) : (smod off f s).shore.fresh = s.shore.fresh := rfl
@[simp] theorem smod_taken (off : Nat) (f : Word → Word) : (smod off f s).shore.taken = s.shore.taken := rfl
@[simp] theorem smod_judged (off : Nat) (f : Word → Word) : (smod off f s).shore.judged = s.shore.judged := rfl
@[simp] theorem smod_groupPorts (off : Nat) (f : Word → Word) : (smod off f s).shore.groupPorts = s.shore.groupPorts := rfl
@[simp] theorem smod_hi (off : Nat) (f : Word → Word) : (smod off f s).shore.hi = s.shore.hi := rfl
@[simp] theorem smod_ponds (off : Nat) (f : Word → Word) : (smod off f s).ponds = s.ponds := rfl
@[simp] theorem smod_pending (off : Nat) (f : Word → Word) : (smod off f s).pending = s.pending := rfl

theorem sreg_sset (off : Nat) (v : Word) (o : Nat) : sreg (sset off v s) o = if o = off then v else sreg s o :=
  SMap.get_set _ _ _ _

@[simp] theorem pondOf_withPond_self (p : PondId) : pondOf (withPond s p P) p = P := by
  unfold pondOf withPond
  simp

theorem pondOf_withPond_ne {p q : PondId} (h : q ≠ p) : pondOf (withPond s p P) q = pondOf s q := by
  unfold pondOf withPond
  have : p.val ≠ q.val := fun e => h (Fin.ext e.symm)
  simp [this]

theorem onPond_eq (p : PondId) (f : Pond → Pond) : onPond p f s = withPond s p (f (pondOf s p)) := rfl

@[simp] theorem pondOf_onPond_self (p : PondId) (f : Pond → Pond) : pondOf (onPond p f s) p = f (pondOf s p) := by
  rw [onPond_eq, pondOf_withPond_self]

theorem pondOf_onPond_ne {p q : PondId} (f : Pond → Pond) (h : q ≠ p) : pondOf (onPond p f s) q = pondOf s q := by
  rw [onPond_eq, pondOf_withPond_ne _ _ h]

@[simp] theorem pondOf_onShore (f : Shore → Shore) (p : PondId) : pondOf (onShore f s) p = pondOf s p := rfl

/-- An instruction gives a next state in which nothing but its pond may differ. -/
theorem issue_next (p : PondId) (f : PCtx → Pond → Pond) : ∃ Q, issue p f s = .next (withPond s p Q) :=
  ⟨_, rfl⟩

end Sys2Proof.Machine
end

