-- ==== Sys2Proof/Laws/Ops.lean ====
section
/-! SUPPORT. What the shared operations of a pond and of a port can do, said once: events, the store buffer
and the bytes that a load sees, a port or a context replaced. -/

namespace Sys2Proof.Machine

/-! ### Events -/

/-- An event (R149) either leaves the source pending for the first time, or marks it lost and counts it; all
else that may change is event latch 5. -/
theorem picEvent_cases (n : Nat) (P : Pond) :
    (bit P.pic.pend n = true ∧
      picEvent n P = rinc 0x118 0 16 { P with pic := { P.pic with lost := setBit P.pic.lost n true } }) ∨
    (bit P.pic.pend n = false ∧ ∃ e,
      picEvent n P = { P with
        pic := { P.pic with pend := setBit P.pic.pend n true }, core := { P.core with evt := e } }) := by
  unfold picEvent
  split
  · rename_i h
    exact .inl ⟨h, rfl⟩
  · rename_i h
    refine .inr ⟨by simpa using h, ?_⟩
    unfold picLatch
    split
    · exact ⟨_, rfl⟩
    · exact ⟨_, rfl⟩

/-- The interrupt controller's latch touches no more than event latch 5. -/
theorem picLatch_cases (P : Pond) : picLatch P = P ∨ picLatch P = latch 5 P := by
  unfold picLatch
  split
  · exact .inr rfl
  · exact .inl rfl

theorem picEvent_regs (n : Nat) (P : Pond) {off : Nat} (h : off ≠ 0x118) : rg (picEvent n P) off = rg P off := by
  rcases picEvent_cases n P with ⟨-, e⟩ | ⟨-, x, e⟩
  · rw [e, rinc, rmod, rg_rset_ne _ _ h]
    rfl
  · rw [e]
    rfl

theorem picEvent_sram (n : Nat) (P : Pond) : (picEvent n P).sram = P.sram ∧ (picEvent n P).core.sb = P.core.sb ∧
    (picEvent n P).core.g = P.core.g ∧ (picEvent n P).core.flags = P.core.flags := by
  rcases picEvent_cases n P with ⟨-, e⟩ | ⟨-, x, e⟩ <;> rw [e] <;> exact ⟨rfl, rfl, rfl, rfl⟩

/-! ### The store buffer (R122) -/

theorem leBytes_length (v n : Nat) : (leBytes v n).length = n := by
  induction n generalizing v with
  | zero => rfl
  | succ n ih => rw [leBytes, List.length_cons, ih]

theorem leBytes_getD (v n i : Nat) (h : i < n) : (leBytes v n).getD i 0 = BitVec.ofNat 8 (v >>> (8 * i)) := by
  induction n generalizing v i with
  | zero => omega
  | succ n ih =>
    cases i with
    | zero => simp [leBytes]
    | succ i =>
      rw [leBytes, List.getD_cons_succ, ih (v / 256) i (by omega)]
      congr 1
      rw [show 8 * (i + 1) = 8 + 8 * i by omega, Nat.shiftRight_add, Nat.shiftRight_eq_div_pow v 8]

/-- An entry retired (R122): its bytes are in SRAM, and no other byte changes. -/
theorem retireEntry_get (P : Pond) (e : SbEntry) (a : Nat) :
    SMap.get (retireEntry P e).sram (sramOff a) = if e.covers a then e.byte a else SMap.get P.sram (sramOff a) := by
  unfold retireEntry SbEntry.covers SbEntry.byte
  generalize sramOff a = o
  generalize sramOff e.addr = b
  simp only [SMap.get_setBytes, leBytes_length, Bool.and_eq_true, decide_eq_true_eq]
  by_cases h : b ≤ o ∧ o < b + if e.dbl = true then 8 else 4
  · rw [if_pos h, if_pos h, leBytes_getD _ _ _ (by omega)]
  · rw [if_neg h, if_neg h]

theorem retireEntry_core (P : Pond) (e : SbEntry) : (retireEntry P e).core = P.core := rfl

/-- The byte a load takes: of the newest entry that covers it, else of SRAM. -/
theorem sramByte_eq (P : Pond) (a : Nat) : sramByte P a =
    (P.core.sb.reverse.find? (fun e => e.covers a)).elim (SMap.get P.sram (sramOff a)) (fun e => e.byte a) := by
  unfold sramByte
  cases P.core.sb.reverse.find? (fun e => e.covers a) <;> simp only [Option.elim]

theorem retire_list_at (o : Nat) (c : SbEntry → Bool) (g : SbEntry → Byte)
    (h : ∀ P e, SMap.get (retireEntry P e).sram o = if c e then g e else SMap.get P.sram o)
    (l : List SbEntry) (P : Pond) :
    SMap.get (l.foldl retireEntry P).sram o = (l.reverse.find? c).elim (SMap.get P.sram o) g := by
  induction l generalizing P with
  | nil => rfl
  | cons x r ih =>
    rw [List.foldl_cons, ih, List.reverse_cons, List.find?_append, h]
    cases r.reverse.find? c with
    | some e => rfl
    | none =>
      rw [Option.none_or, List.find?_cons]
      cases c x <;> rfl

theorem retire_list_get (l : List SbEntry) (P : Pond) (a : Nat) :
    SMap.get (l.foldl retireEntry P).sram (sramOff a) =
      (l.reverse.find? (fun e => e.covers a)).elim (SMap.get P.sram (sramOff a)) (fun e => e.byte a) :=
  retire_list_at (sramOff a) (fun e => e.covers a) (fun e => e.byte a) (fun P e => retireEntry_get P e a) l P

theorem retire_list_core (l : List SbEntry) (P : Pond) : (l.foldl retireEntry P).core = P.core := by
  induction l generalizing P with
  | nil => rfl
  | cons x r ih => rw [List.foldl_cons, ih, retireEntry_core]

theorem retireN_core (n : Nat) (P : Pond) : (retireN n P).core = { P.core with sb := P.core.sb.drop n } := by
  unfold retireN
  simp only [retire_list_core]

theorem retireN_sram (n : Nat) (P : Pond) : (retireN n P).sram = ((P.core.sb.take n).foldl retireEntry P).sram := by
  unfold retireN
  rfl

/-- A load sees the same byte before and after entries retire (R122). -/
theorem sramByte_retireN (n : Nat) (P : Pond) (a : Nat) : sramByte (retireN n P) a = sramByte P a := by
  have split_at := List.take_append_drop n P.core.sb
  rw [sramByte_eq, sramByte_eq, retireN_core, retireN_sram, retire_list_get]
  conv => rhs; rw [← split_at, List.reverse_append, List.find?_append]
  cases (P.core.sb.drop n).reverse.find? (fun e => e.covers a) <;>
    simp only [Option.none_or, Option.some_or, Option.elim]

theorem sramByte_drainSb (P : Pond) (a : Nat) : sramByte (drainSb P) a = sramByte P a := sramByte_retireN _ _ _

theorem find_last (c : SbEntry → Bool) (g : SbEntry → Byte) (l : List SbEntry) (e : SbEntry) (b : Byte) :
    ((l ++ [e]).reverse.find? c).elim b g = if c e then g e else (l.reverse.find? c).elim b g := by
  rw [List.reverse_append, List.reverse_singleton, List.singleton_append, List.find?_cons]
  cases c e <;> rfl

/-- The newest entry gives its bytes; every other byte is as before. -/
theorem sramByte_pushSb (e : SbEntry) (P : Pond) (a : Nat) :
    sramByte (pushSb e P) a = if e.covers a then e.byte a else sramByte P a := by
  have go : ∀ Q : Pond, sramByte { Q with core := { Q.core with sb := Q.core.sb ++ [e] } } a =
      if e.covers a then e.byte a else sramByte Q a := by
    intro Q
    rw [sramByte_eq, sramByte_eq]
    exact find_last (fun e => e.covers a) (fun e => e.byte a) Q.core.sb e _
  unfold pushSb
  rw [go]
  split
  · rfl
  · split
    · exact sramByte_retireN 1 P a
    · rfl

theorem retireN_sb (n : Nat) (P : Pond) : (retireN n P).core.sb = P.core.sb.drop n := by rw [retireN_core]

/-- The buffer never holds more than four entries after a store. -/
theorem pushSb_fits (e : SbEntry) (P : Pond) (h : P.core.sb.length ≤ 4) : (pushSb e P).core.sb.length ≤ 4 := by
  unfold pushSb
  split
  · simp only [List.length_append, List.length_singleton, retireN_sb, List.length_drop]
    omega
  · simp only [List.length_append, List.length_singleton]
    omega

/-! ### Memory keeps its canonical form -/

theorem retireEntry_wf (P : Pond) (e : SbEntry) (h : P.sram.wf = true) : (retireEntry P e).sram.wf = true :=
  SMap.wf_setBytes h _ _

theorem retireN_wf (n : Nat) (P : Pond) (h : P.sram.wf = true) : (retireN n P).sram.wf = true := by
  have : ∀ (l : List SbEntry) (Q : Pond), Q.sram.wf = true → (l.foldl retireEntry Q).sram.wf = true := by
    intro l
    induction l with
    | nil => intro _ hQ; exact hQ
    | cons x r ih => intro Q hQ; exact ih _ (retireEntry_wf Q x hQ)
  exact this _ _ h

theorem pushSb_wf (e : SbEntry) (P : Pond) (h : P.sram.wf = true) : (pushSb e P).sram.wf = true := by
  unfold pushSb
  split
  · exact retireN_wf 1 P h
  · exact h

/-! ### Ports and contexts -/

theorem portOf_onPort (h k : Nat) (f : Port → Port) (s : State) (hh : h < 4) :
    portOf (onPort h f s) k = if k = h then f (portOf s h) else portOf s k := by
  show vget (vset s.shore.ports h _) k Port.reset = _
  rw [vget_vset _ _ _ _ _ hh]
  rfl

theorem onPort_ponds (h : Nat) (f : Port → Port) (s : State) : (onPort h f s).ponds = s.ponds := rfl

theorem onPort_cmds (h : Nat) (f : Port → Port) (s : State) : (onPort h f s).shore.cmds = s.shore.cmds := rfl

theorem ctxOf_onCtx (h n k m : Nat) (f : Ctx → Ctx) (s : State) (hh : h < 4) (hn : n < 32) :
    ctxOf (onCtx h n f s) k m = if k = h ∧ m = n then f (ctxOf s h n) else ctxOf s k m := by
  unfold ctxOf onCtx
  rw [portOf_onPort h k _ s hh]
  by_cases e : k = h
  · subst e
    rw [if_pos rfl]
    show vget (vset (portOf s k).ctx n _) m Ctx.reset = _
    rw [vget_vset _ _ _ _ _ hn]
    simp only [true_and]
    try rfl
  · simp only [e, if_false, false_and]

/-! Digests -/

theorem shaRound_length (s : List (BitVec 64)) (kw : BitVec 64 × BitVec 64) : (shaRound s kw).length = s.length := by
  unfold shaRound
  split <;> rfl

theorem shaBlocks_length (n : Nat) (h : List (BitVec 64)) (l : List Byte) : (shaBlocks n h l).length = h.length := by
  have hf : ∀ (k : List (BitVec 64 × BitVec 64)) s, (k.foldl shaRound s).length = s.length := by
    intro k
    induction k with
    | nil => intro s; rfl
    | cons x k ih => intro s; rw [List.foldl_cons, ih, shaRound_length]
  induction n generalizing h l with
  | zero => rfl
  | succ n ih => rw [shaBlocks, ih, shaBlock]; simp [hf]

/-- A digest has 48 bytes. -/
theorem sha384_length (l : List Byte) : (sha384 l).length = 48 := by
  simp [sha384, beBytes, leBytes_length, shaBlocks_length]
  simp [shaInit]

theorem padTo_length (n : Nat) (l : List Byte) : (padTo n l).length = n := by
  simp [padTo]; omega

end Sys2Proof.Machine
end

