-- ==== Sys2Proof/Laws/Commands.lean ====
section
/-! SUPPORT. What the shared operations of the host commands can do, said once: the completion writes of a port,
a completion, the end of a command, and the consumption of a descriptor. -/

namespace Sys2Proof.Machine

/-! ### Writes of completions -/

/-- Nothing but the ports differs. -/
def PortsOnly (s t : State) : Prop := ∃ ps, t = { s with shore := { s.shore with ports := ps } }

theorem PortsOnly.refl (s : State) : PortsOnly s s := ⟨s.shore.ports, rfl⟩

theorem PortsOnly.trans {s t u : State} (h : PortsOnly s t) (k : PortsOnly t u) : PortsOnly s u := by
  obtain ⟨a, rfl⟩ := h
  obtain ⟨b, rfl⟩ := k
  exact ⟨b, rfl⟩

theorem onPort_only (h : Nat) (f : Port → Port) (s : State) : PortsOnly s (onPort h f s) := ⟨_, rfl⟩

/-- A context but for the losses that it still has to report. -/
def Ctx.core (c : Ctx) : Ctx := { c with report := false, loss := 0 }

/-- A completion of the reserve but for whether it has been written. -/
def Cpl.unsent (e : Cpl) : Cpl := { e with sent := false }

/-- What the writes of completions of port `h` leave: more posted writes, completions marked as sent, losses
reported. -/
structure Flushed (h : Nat) (s t : State) : Prop where
  only : PortsOnly s t
  other : ∀ k, k ≠ h → portOf t k = portOf s k
  port : ∃ po re cx, portOf t h = { portOf s h with posted := po, reserve := re, ctx := cx }
  posted : ∃ ws, (portOf t h).posted = (portOf s h).posted ++ ws
  reserve : (portOf t h).reserve.map Cpl.unsent = (portOf s h).reserve.map Cpl.unsent
  ctx : ∀ n, (ctxOf t h n).core = (ctxOf s h n).core

theorem Flushed.refl (h : Nat) (s : State) : Flushed h s s :=
  ⟨.refl s, fun _ _ => rfl, ⟨_, _, _, rfl⟩, ⟨[], by simp⟩, rfl, fun _ => rfl⟩

theorem Flushed.trans {h : Nat} {s t u : State} (a : Flushed h s t) (b : Flushed h t u) : Flushed h s u := by
  refine ⟨a.only.trans b.only, fun k hk => (b.other k hk).trans (a.other k hk), ?_, ?_, b.reserve.trans a.reserve,
    fun n => (b.ctx n).trans (a.ctx n)⟩
  · obtain ⟨x, y, z, e⟩ := a.port
    obtain ⟨x', y', z', e'⟩ := b.port
    exact ⟨x', y', z', by rw [e', e]⟩
  · obtain ⟨x, e⟩ := a.posted
    obtain ⟨y, e'⟩ := b.posted
    exact ⟨x ++ y, by rw [e', e, List.append_assoc]⟩

theorem map_modFirst {α β : Type} (g : α → β) (p : α → Bool) (f : α → α) (hf : ∀ x, g (f x) = g x) (l : List α) :
    (modFirst p f l).map g = l.map g := by
  induction l with
  | nil => rfl
  | cons x r ih =>
    simp only [modFirst]
    split
    · simp [hf]
    · simp [ih]

theorem onPort_flushed (h : Nat) (hh : h < 4) (f : Port → Port) (s : State)
    (hf : ∃ po re cx, f (portOf s h) = { portOf s h with posted := po, reserve := re, ctx := cx })
    (hp : ∃ ws, (f (portOf s h)).posted = (portOf s h).posted ++ ws)
    (hr : (f (portOf s h)).reserve.map Cpl.unsent = (portOf s h).reserve.map Cpl.unsent)
    (hc : ∀ n, (vget (f (portOf s h)).ctx n Ctx.reset).core = (ctxOf s h n).core) : Flushed h s (onPort h f s) := by
  have e : portOf (onPort h f s) h = f (portOf s h) := by rw [portOf_onPort _ _ _ _ hh, if_pos rfl]
  refine ⟨onPort_only _ _ _, fun k hk => ?_, ?_, ?_, ?_, fun n => ?_⟩
  · rw [portOf_onPort _ _ _ _ hh, if_neg hk]
  · rw [e]; exact hf
  · rw [e]; exact hp
  · rw [e]; exact hr
  · unfold ctxOf; rw [e]; exact hc n

theorem sendCpl_only (h : Nat) (e : Cpl) (s : State) : PortsOnly s (sendCpl h e s) := by
  unfold sendCpl
  dsimp only
  split
  · exact .refl s
  · split
    · exact (onPort_only _ _ _).trans (onPort_only _ _ _)
    · exact onPort_only _ _ _

theorem sendCpl_flushed (h : Nat) (hh : h < 4) (e : Cpl) (s : State) : Flushed h s (sendCpl h e s) := by
  unfold sendCpl
  dsimp only
  split
  · exact .refl h s
  · have h1 : ∀ (ws : List HostWrite), Flushed h s (onPort h (fun p => { p with
        posted := p.posted ++ ws,
        reserve := modFirst (fun x => x.ctx == e.ctx && x.seq == e.seq) (fun x => { x with sent := true }) p.reserve }) s) :=
      fun ws => onPort_flushed h hh _ s ⟨_, _, _, rfl⟩ ⟨ws, rfl⟩
        (map_modFirst Cpl.unsent _ (fun x => { x with sent := true }) (fun _ => rfl) _) (fun _ => rfl)
    split
    · refine (h1 _).trans (onPort_flushed h hh _ _ ⟨_, _, _, rfl⟩ ⟨[], by simp⟩ rfl fun n => ?_)
      by_cases hn : e.ctx < 32
      · dsimp only
        rw [vget_vset _ _ _ _ _ hn]
        split
        · rename_i hx; rw [hx]; rfl
        · rfl
      · dsimp only
        rw [vset_ge _ _ (Nat.le_of_not_lt hn)]
        rfl
    · exact h1 _

/-- A fold keeps what each of its steps keeps. -/
theorem foldl_keep {α β : Type} (R : β → β → Prop) (refl : ∀ b, R b b) (trans : ∀ a b c, R a b → R b c → R a c)
    (f : β → α → β) (hf : ∀ b a, R b (f b a)) (l : List α) (b : β) : R b (l.foldl f b) := by
  induction l generalizing b with
  | nil => exact refl b
  | cons x r ih => exact trans _ _ _ (hf b x) (ih _)

theorem portFlush_only (h : Nat) (s : State) : PortsOnly s (portFlush h s) := by
  unfold portFlush
  split
  · exact .refl s
  · refine foldl_keep _ .refl (fun _ _ _ => .trans) _ (fun t e => ?_) _ s
    split
    · exact sendCpl_only h e t
    · exact .refl t

/-- Writing the completions that can be written leaves all but the port's posted writes, the marks of its
reserve and the losses that its contexts have to report. -/
theorem portFlush_flushed (h : Nat) (hh : h < 4) (s : State) : Flushed h s (portFlush h s) := by
  unfold portFlush
  split
  · exact .refl h s
  · refine foldl_keep _ (.refl h) (fun _ _ _ => .trans) _ (fun t e => ?_) _ s
    split
    · exact sendCpl_flushed h hh e t
    · exact .refl h t

/-! ### Bytes -/

theorem padTo_self (l : List Byte) : padTo l.length l = l := by simp [padTo]

theorem slice_length (l : List Byte) (off len : Nat) : (slice l off len).length = len := padTo_length _ _

/-- A part of a list of bytes that stands whole in it. -/
theorem slice_mid (a m z : List Byte) : slice (a ++ (m ++ z)) a.length m.length = m := by
  simp [slice, padTo]

theorem ofLe_leBytes (v n : Nat) : ofLe (leBytes v n) = v % 256 ^ n := by
  induction n generalizing v with
  | zero => simp [leBytes, ofLe, Nat.mod_one]
  | succ n ih =>
    have e : (256 : Nat) ^ (n + 1) = 256 * 256 ^ n := Nat.pow_succ'
    rw [e, Nat.mod_mul]
    simp only [leBytes, ofLe, ih, BitVec.toNat_ofNat]

/-- What a completion's head says of the command (Table 11.3). -/
theorem cplHead_says (c : Cmd) (st det com app : Nat) (r : Word) (lost : Bool) :
    (cplHead c st det com app r lost).length = 20 ∧
    leAt (cplHead c st det com app r lost) 0 1 = st % 256 ∧
    leAt (cplHead c st det com app r lost) 1 1 = c.op % 256 ∧
    leAt (cplHead c st det com app r lost) 3 1 = det % 256 ∧
    leAt (cplHead c st det com app r lost) 4 2 = leAt c.desc 2 2 ∧
    leAt (cplHead c st det com app r lost) 6 2 = com % 2 ^ 16 ∧
    leAt (cplHead c st det com app r lost) 8 8 = app % 2 ^ 64 ∧
    leAt (cplHead c st det com app r lost) 16 4 = r.toNat := by
  have hu := slice_length c.desc 2 2
  have hc := leBytes_length com 2
  have ha := leBytes_length app 8
  have hr := leBytes_length r.toNat 4
  have e (a m z : List Byte) (k n : Nat) (hk : a.length = k) (hn : m.length = n) :
      leAt (a ++ (m ++ z)) k n = ofLe m := by
    subst hk hn
    rw [leAt, slice_mid]
  unfold cplHead
  refine ⟨by simp [hu, hc, ha, hr], ?_, ?_, ?_, ?_, ?_, ?_, ?_⟩
  · simp [leAt, slice, padTo, ofLe]
  · simp [leAt, slice, padTo, ofLe]
  · simp [leAt, slice, padTo, ofLe]
  · simp only [List.append_assoc]
    rw [e _ _ _ 4 2 (by simp) hu]; rfl
  · rw [List.append_assoc, List.append_assoc]
    rw [e _ _ _ 6 2 (by simp [hu]) hc, ofLe_leBytes]; norm_num
  · rw [List.append_assoc]
    rw [e _ _ _ 8 8 (by simp [hu, hc]) ha, ofLe_leBytes]; norm_num
  · rw [← List.append_nil (leBytes r.toNat 4)]
    rw [e _ _ _ 16 4 (by simp [hu, hc, ha]) hr, ofLe_leBytes]
    exact Nat.mod_eq_of_lt r.isLt

/-! ### A completion -/

theorem portOf_smod (off : Nat) (f : Word → Word) (s : State) (k : Nat) : portOf (smod off f s) k = portOf s k := rfl

/-- What a completion of a context in the same life does where the reserve has a place (R273, R276): the next
sequence number, a place in the reserve, and the writes that are possible. -/
structure Produced (h n : Nat) (e : Cpl) (s t : State) : Prop where
  only : ∃ ps rg, t = { s with shore := { s.shore with ports := ps, regs := rg } }
  regs : ∀ off, off ≠ hpBase h + 0x028 → sreg t off = sreg s off
  other : ∀ k, k ≠ h → portOf t k = portOf s k
  port : ∃ po re cx, portOf t h = { portOf s h with posted := po, reserve := re, ctx := cx }
  posted : ∃ ws, (portOf t h).posted = (portOf s h).posted ++ ws
  reserve : (portOf t h).reserve.map Cpl.unsent = (portOf s h).reserve.map Cpl.unsent ++ [e]
  here : (ctxOf t h n).core = { (ctxOf s h n).core with owed := (ctxOf s h n).owed - 1, seq := (ctxOf s h n).seq + 1 }
  ctx : ∀ m, m ≠ n → (ctxOf t h m).core = (ctxOf s h m).core

theorem produceCpl_produced {h n : Nat} (hh : h < 4) (hn : n < 32) {life : Nat} (index : Word) (order : Nat)
    (head : List Byte) {s : State} (hl : (ctxOf s h n).life = life) (hr : (portOf s h).reserve.length < 256) :
    Produced h n ⟨n, (ctxOf s h n).seq, head, index, order, false, (ctxOf s h n).replaying⟩ s
      (produceCpl h n life index order head s) := by
  unfold produceCpl
  dsimp only
  rw [if_neg (not_not.mpr hl), if_neg (by omega)]
  generalize hu : (smod (hpBase h + 0x028) _ (onPort h _ (onCtx h n _ s))) = u
  have hF := portFlush_flushed h hh u
  generalize portFlush h u = t at hF
  have hp : portOf u h = { portOf s h with
      reserve := (portOf s h).reserve ++ [⟨n, (ctxOf s h n).seq, head, index, order, false, (ctxOf s h n).replaying⟩],
      ctx := vset (portOf s h).ctx n { ctxOf s h n with owed := (ctxOf s h n).owed - 1, seq := (ctxOf s h n).seq + 1 } } := by
    rw [← hu, portOf_smod, portOf_onPort _ _ _ _ hh, if_pos rfl]
    unfold onCtx
    rw [portOf_onPort _ _ _ _ hh, if_pos rfl]
    rfl
  have hk : ∀ k, k ≠ h → portOf u k = portOf s k := fun k hk => by
    rw [← hu, portOf_smod, portOf_onPort _ _ _ _ hh, if_neg hk]
    unfold onCtx
    rw [portOf_onPort _ _ _ _ hh, if_neg hk]
  have hx : ∀ m, ctxOf u h m = if m = n then { ctxOf s h n with owed := (ctxOf s h n).owed - 1, seq := (ctxOf s h n).seq + 1 }
      else ctxOf s h m := fun m => by
    show vget (portOf u h).ctx m Ctx.reset = _
    rw [hp]
    exact vget_vset _ _ _ _ _ hn
  obtain ⟨ps, rfl⟩ := hF.only
  refine ⟨?_, ?_, fun k h' => (hF.other k h').trans (hk k h'), ?_, ?_, ?_, ?_, ?_⟩
  · exact ⟨ps, u.shore.regs, by rw [← hu]; rfl⟩
  · intro off ho
    show u.shore.regs.get off = _
    rw [← hu]
    exact SMap.get_set_ne _ _ ho
  · obtain ⟨a, b, c, e⟩ := hF.port
    exact ⟨a, b, c, by rw [e, hp]⟩
  · obtain ⟨ws, e⟩ := hF.posted
    exact ⟨ws, by rw [e, hp]⟩
  · rw [hF.reserve, hp]; simp [Cpl.unsent]
  · rw [hF.ctx, hx, if_pos rfl]; rfl
  · intro m hm
    rw [hF.ctx, hx, if_neg hm]

/-! ### The end of a command -/

theorem eraseFirst_last {α : Type} (p : α → Bool) (l : List α) (x : α) (hl : ∀ y ∈ l, p y = false) (hx : p x = true) :
    eraseFirst p (l ++ [x]) = l := by
  induction l with
  | nil => simp [eraseFirst, hx]
  | cons y r ih =>
    simp only [List.cons_append, eraseFirst, hl y (by simp), Bool.false_eq_true, if_false]
    rw [ih (fun z hz => hl z (by simp [hz]))]

/-- The command has left the list. -/
def gone (c : Cmd) (s : State) : State :=
  onShore (fun h => { h with cmds := eraseFirst (fun x => x.order == c.order) h.cmds }) s

theorem finish_eq (c : Cmd) (st det com app : Nat) (r : Word) (lost : Bool) (s : State) :
    finish c st det com app r lost s =
      produceCpl c.port c.ctx c.life c.index c.order (cplHead c st det com app r lost) (gone c s) := rfl

/-- A loss or a completion changes nothing but ports and their registers (R276). -/
theorem produceCpl_only (h n life : Nat) (index : Word) (order : Nat) (head : List Byte) (s : State) :
    ∃ ps rg, produceCpl h n life index order head s = { s with shore := { s.shore with ports := ps, regs := rg } } := by
  unfold produceCpl
  dsimp only
  split
  · exact ⟨_, _, rfl⟩
  · split
    · unfold ctxSettle
      dsimp only
      repeat' split
      all_goals exact ⟨_, _, rfl⟩
    · obtain ⟨ps, e⟩ := portFlush_only h (smod (hpBase h + 0x028) (fun w => peakFld w 16 9
        (portOf (onPort h (fun p => { p with reserve := p.reserve ++
          [⟨n, (ctxOf s h n).seq, head, index, order, false, (ctxOf s h n).replaying⟩] })
          (onCtx h n (fun c => { c with owed := c.owed - 1, seq := c.seq + 1 }) s)) h).reserve.length)
        (onPort h (fun p => { p with reserve := p.reserve ++
          [⟨n, (ctxOf s h n).seq, head, index, order, false, (ctxOf s h n).replaying⟩] })
          (onCtx h n (fun c => { c with owed := c.owed - 1, seq := c.seq + 1 }) s)))
      exact ⟨_, _, e⟩

/-- The end of a command changes nothing but the list of commands, the ports and their registers. -/
theorem finish_only (c : Cmd) (st det com app : Nat) (r : Word) (lost : Bool) (s : State) :
    ∃ ps rg, finish c st det com app r lost s = { s with shore := { s.shore with
      ports := ps, regs := rg, cmds := eraseFirst (fun x => x.order == c.order) s.shore.cmds } } := by
  obtain ⟨ps, rg, e⟩ := produceCpl_only c.port c.ctx c.life c.index c.order (cplHead c st det com app r lost) (gone c s)
  exact ⟨ps, rg, by rw [finish_eq, e]; rfl⟩

theorem exists_unsent {l m : List Cpl} {e : Cpl} (h : l.map Cpl.unsent = m ++ [e]) : ∃ x ∈ l, x.unsent = e := by
  have : e ∈ l.map Cpl.unsent := by rw [h]; simp
  obtain ⟨x, hx, hxe⟩ := List.mem_map.mp this
  exact ⟨x, hx, hxe⟩

/-- A command that ends without a COMMIT completes (R273, R287). -/
theorem finish_completed {s u : State} (c : Cmd) {st det : Nat} (app : Nat) (r : Word) (lost : Bool)
    (hst : st < 256) (hdet : det < 256) (hop : c.op < 256) (hc : u.shore.cmds = s.shore.cmds)
    (hp : u.shore.ports = s.shore.ports) : Completed s (finish c st det 0 app r lost u) c st det r.toNat := by
  have hport : ∀ k, portOf u k = portOf s k := fun k => by unfold portOf; rw [hp]
  have hctx : ∀ k m, ctxOf u k m = ctxOf s k m := fun k m => by unfold ctxOf; rw [hport]
  refine ⟨?_, fun h4 h32 hl hr => ?_⟩
  · obtain ⟨ps, rg, e⟩ := finish_only c st det 0 app r lost u
    rw [e, ← hc]
  · rw [finish_eq]
    have P := produceCpl_produced h4 h32 (life := c.life) c.index c.order (cplHead c st det 0 app r lost) (s := gone c u)
      (by rw [hl]; exact congrArg Ctx.life (hctx _ _)) (by
        show (portOf u c.port).reserve.length < 256
        rw [hport]; exact hr)
    obtain ⟨x, hx, e⟩ := exists_unsent P.reserve
    have hh := cplHead_says c st det 0 app r lost
    simp only [Cpl.unsent, Cpl.mk.injEq] at e
    obtain ⟨e1, e2, e3, e4, e5, -, -⟩ := e
    refine ⟨x, hx, e1, ?_, e4, e5, ?_⟩
    · rw [e2]; exact congrArg Ctx.seq (hctx _ _)
    · rw [e3]
      refine ⟨hh.1, by rw [hh.2.1, Nat.mod_eq_of_lt hst], ?_, by rw [hh.2.2.2.1, Nat.mod_eq_of_lt hdet],
        hh.2.2.2.2.1, hh.2.2.2.2.2.1, hh.2.2.2.2.2.2.2⟩
      rw [hh.2.2.1, Nat.mod_eq_of_lt hop]; rfl

/-! ### Consumption -/

/-- The command that a consumption takes from the descriptor `d` (R272, R57). -/
def cmdAt (s : State) (h n : Nat) (d : List Byte) : Cmd :=
  { port := h, ctx := n, life := (ctxOf s h n).life, index := (ctxOf s h n).consumed, desc := d,
    order := s.shore.order, epoch := shoreEpoch s,
    apply := if leAt d 8 8 == asapValue then shoreEpoch s + latOf s else leAt d 8 8, asap := leAt d 8 8 == asapValue,
    phase := .queued, data := [], mark := 0, collide := false, timing := false }

/-- The state after the counts of a consumption, with its command at the end of the list (R272). -/
def taken (s : State) (h n : Nat) (d : List Byte) : State :=
  onShore (fun y => { y with cmds := y.cmds ++ [cmdAt s h n d] }) (consumeCounts h n s)

theorem padTo_64 {d : List Byte} (h : d.length = 64) : padTo 64 d = d := by rw [← h, padTo_self]

/-- A command row consumes the descriptor at the head of its context where that carries its opcode. -/
theorem consumeOp_eq {s : State} {h : PortId} {n : CtxId} {d : List Byte} (H : Consumes s h n d) {op : Nat}
    (ho : leAt d 0 1 = op) (f : Cmd → State → State) :
    consumeOp op h n f s = .next (match consumeChecks s h.val d with
      | some (st, det) => finishNow (cmdAt s h.val n.val d) st det 0 (taken s h.val n.val d)
      | none => f (cmdAt s h.val n.val d) (taken s h.val n.val d)) := by
  obtain ⟨h64, ⟨r, hr⟩, hc, -⟩ := H
  unfold consumeOp headIs
  rw [hc, hr]
  simp only [ho, beq_self_eq_true, Bool.and_self, if_true]
  unfold consumeWith
  dsimp only
  rw [hr]
  simp only [List.headD_cons, padTo_64 h64]
  rfl

theorem canConsume_room {s : State} {h n : Nat} (H : canConsume s h n = true) : (portOf s h).reserve.length < 256 := by
  unfold canConsume at H
  dsimp only at H
  split at H
  · exact absurd H (by simp)
  · simp only [Bool.and_eq_true, decide_eq_true_eq] at H
    exact H.2

/-- What a state has in common with the one right after a consumption: all that the counts of R272 change, and
the list of commands. Registers, free values and the ponds may differ. -/
structure Took (s : State) (h n : Nat) (c : Cmd) (t : State) : Prop where
  ns : t.ns = s.ns
  pending : t.pending = s.pending
  order : t.shore.order = s.shore.order + 1
  cmds : t.shore.cmds = s.shore.cmds ++ [c]
  tbs : t.shore.tbs = s.shore.tbs
  other : ∀ k, k ≠ h → portOf t k = portOf s k
  port : ∃ cx, portOf t h = { portOf s h with lastUse := some s.ns, ctx := cx }
  here : ctxOf t h n = { ctxOf s h n with
    fetched := (ctxOf s h n).fetched.drop 1, consumed := (ctxOf s h n).consumed + 1, owed := (ctxOf s h n).owed + 1 }
  ctx : ∀ m, m ≠ n → ctxOf t h m = ctxOf s h m

theorem portOf_onShore {f : Shore → Shore} (hf : ∀ y, (f y).ports = y.ports) (s : State) (k : Nat) :
    portOf (onShore f s) k = portOf s k := by
  unfold portOf
  rw [show (onShore f s).shore.ports = s.shore.ports from hf _]

theorem portOf_taken (s : State) {h : Nat} (n : Nat) (hh : h < 4) (d : List Byte) (k : Nat) :
    portOf (taken s h n d) k = if k = h then
      { portOf s h with lastUse := some s.ns, ctx := vset (portOf s h).ctx n { ctxOf s h n with
        fetched := (ctxOf s h n).fetched.drop 1, consumed := (ctxOf s h n).consumed + 1, owed := (ctxOf s h n).owed + 1 } }
      else portOf s k := by
  unfold taken consumeCounts
  rw [portOf_onShore ?_]
  · dsimp only
    rw [portOf_onShore ?_]
    · rw [portOf_onPort _ _ _ _ hh]
      unfold onCtx
      rw [portOf_onPort _ _ _ _ hh, portOf_onPort _ _ _ _ hh, if_pos rfl]
      split <;> rfl
    · intro y; rfl
  · intro y; rfl

theorem taken_took (s : State) {h n : Nat} (hh : h < 4) (hn : n < 32) (d : List Byte) :
    Took s h n (cmdAt s h n d) (taken s h n d) := by
  have hp := portOf_taken s n hh d
  refine ⟨rfl, rfl, rfl, rfl, rfl, fun k hk => by rw [hp, if_neg hk], ⟨_, by rw [hp, if_pos rfl]⟩, ?_, fun m hm => ?_⟩
  · unfold ctxOf
    rw [hp, if_pos rfl]
    exact (vget_vset _ _ _ _ _ hn).trans (if_pos rfl)
  · unfold ctxOf
    rw [hp, if_pos rfl]
    exact (vget_vset _ _ _ _ _ hn).trans (if_neg hm)

theorem taken_ponds (s : State) (h n : Nat) (d : List Byte) : (taken s h n d).ponds = s.ponds := rfl

theorem taken_regs (s : State) (h n : Nat) (d : List Byte) : (taken s h n d).shore.regs = s.shore.regs := rfl

theorem Took.counted {s t : State} {h : PortId} {n : CtxId} {c : Cmd} (H : Took s h.val n.val c t) :
    Counted s t h n := by
  refine ⟨H.ns, H.pending, H.order, by rw [H.here], by rw [H.here], ?_⟩
  obtain ⟨cx, e⟩ := H.port
  rw [e]

/-- A consumed command ends at once (R273, R287): the completion enters the reserve. -/
theorem Took.answered {s t : State} {h : PortId} {n : CtxId} {d : List Byte} (C : Consumes s h n d) {c : Cmd}
    (hc : c.port = h.val ∧ c.ctx = n.val ∧ c.life = (ctxOf s h.val n.val).life ∧
      c.index = (ctxOf s h.val n.val).consumed ∧ c.order = s.shore.order ∧ c.desc = d)
    (H : Took s h.val n.val c t) (hp : t.ponds = s.ponds) {st det : Nat} (app : Nat) (r : Word) (lost : Bool)
    (hst : st < 256) (hdet : det < 256) (happ : app % 2 ^ 64 = s.shore.tbs.epoch.getD 0 % 2 ^ 64) :
    Answered s (finish c st det 0 app r lost t) h n d st det r.toNat ∧
    (∀ off, off ≠ 0x400 * h.val + 0x028 → sreg (finish c st det 0 app r lost t) off = sreg t off) ∧
    (∃ ws, (portOf (finish c st det 0 app r lost t) h.val).posted = (portOf t h.val).posted ++ ws) ∧
    (portOf (finish c st det 0 app r lost t) h.val).cfg = (portOf s h.val).cfg := by
  obtain ⟨e1, e2, e3, e4, e5, e6⟩ := hc
  rw [finish_eq, e1, e2, e3, e4, e5]
  have hg : ∀ k, portOf (gone c t) k = portOf t k := fun _ => rfl
  have hgc : ∀ k m, ctxOf (gone c t) k m = ctxOf t k m := fun _ _ => rfl
  obtain ⟨cx, hcx⟩ := H.port
  have P := produceCpl_produced h.isLt n.isLt (life := (ctxOf s h.val n.val).life) (ctxOf s h.val n.val).consumed
    s.shore.order (cplHead c st det 0 app r lost) (s := gone c t) (by rw [hgc, H.here])
    (by rw [hg, hcx]; exact canConsume_room C.2.2.1)
  generalize produceCpl _ _ _ _ _ _ (gone c t) = u at P
  have hhere := P.here
  rw [hgc, H.here] at hhere
  have hf (f : Ctx → Nat) (hf : ∀ x, f x = f x.core) : f (ctxOf u h.val n.val) =
      f ((ctxOf u h.val n.val).core) := hf _
  have hh := cplHead_says c st det 0 app r lost
  obtain ⟨x, hx, e⟩ := exists_unsent P.reserve
  simp only [Cpl.unsent, Cpl.mk.injEq] at e
  obtain ⟨x1, x2, x3, x4, x5, -, -⟩ := e
  have hone := P.only
  obtain ⟨ps, rg, hu⟩ := P.only
  obtain ⟨po, re, cy, hport⟩ := P.port
  have ho : ∀ y ∈ s.shore.cmds, (y.order == c.order) = false := fun y hy => by
    have := C.2.2.2 y hy
    rw [e5]; simp; omega
  refine ⟨⟨⟨?_, ?_, ?_, ?_, ?_, ?_⟩, ?_, ?_, ?_, ?_, x, hx, x1, ?_, x4, x5, ?_, ?_⟩, ?_, ?_, ?_⟩
  · rw [hu]; exact H.ns
  · rw [hu]; exact H.pending
  · rw [hu]; exact H.order
  · exact (congrArg Ctx.consumed hhere : _)
  · exact (congrArg Ctx.fetched hhere : _)
  · rw [hport, hg, hcx]
  · rw [hu]; exact hp
  · rw [hu]
    show eraseFirst _ t.shore.cmds = _
    rw [H.cmds]
    exact eraseFirst_last _ _ _ ho (by simp)
  · have := congrArg Ctx.owed hhere
    exact this
  · exact (congrArg Ctx.seq hhere : _)
  · rw [x2, hgc, H.here]
  · rw [x3, hh.2.2.2.2.2.2.1]; exact happ
  · rw [x3]
    refine ⟨hh.1, by rw [hh.2.1, Nat.mod_eq_of_lt hst], ?_, by rw [hh.2.2.2.1, Nat.mod_eq_of_lt hdet], ?_,
      hh.2.2.2.2.2.1, hh.2.2.2.2.2.2.2⟩
    · rw [hh.2.2.1]
      unfold Cmd.op
      rw [e6]
      have : leAt d 0 1 < 256 := by
        rw [leAt, show slice d 0 1 = [(slice d 0 1).getD 0 0] from by
          have := slice_length d 0 1
          match hs : slice d 0 1, this with | [a], _ => rfl]
        simp only [ofLe]
        have := ((slice d 0 1).getD 0 0).isLt
        omega
      exact Nat.mod_eq_of_lt this
    · rw [hh.2.2.2.2.1, e6]
  · intro off hoff
    exact P.regs off hoff
  · obtain ⟨ws, e⟩ := P.posted
    exact ⟨ws, e⟩
  · rw [hport, hg, hcx]

end Sys2Proof.Machine
end

