-- ==== Sys2Proof/Laws/Core.lean ====
section
/-! SUPPORT. The pond core's operations over `CoreStep`: what issuing, charging cycles, writing registers
and flags, and retiring each do to a pond. -/

namespace Sys2Proof.Machine

variable {Q P : Pond} {g : Vector Word 16} {acc : BitVec 72} {fl : Flags} {pc : Word}

theorem CoreStep.refl (Q : Pond) : CoreStep Q Q Q.core.g Q.core.acc Q.core.flags Q.core.pc :=
  ⟨Q.core.hazard, Q.core.accAge, Q.core.perStore, Q.core.ca, Q.fresh, rfl⟩

theorem CoreStep.charge (c i : Nat) (h : CoreStep Q P g acc fl pc) :
    CoreStep Q (charge c i P) g acc fl pc := by
  obtain ⟨hz, age, per, ca, n, rfl⟩ := h
  unfold Machine.charge
  split
  · exact ⟨_, _, _, _, _, rfl⟩
  · split
    · exact ⟨_, _, _, _, _, rfl⟩
    · exact ⟨_, _, _, _, _, rfl⟩

theorem CoreStep.stallFor (u : BitVec 16) (a b : Bool) (h : CoreStep Q P g acc fl pc) :
    CoreStep Q (stallFor u a b P) g acc fl pc := h.charge _ _

theorem CoreStep.gset (d : RegIx) (v : Word) (h : CoreStep Q P g acc fl pc) :
    CoreStep Q (gset d v P) (vset g d.toNat v) acc fl pc := by
  obtain ⟨hz, age, per, ca, n, rfl⟩ := h
  exact ⟨_, _, _, _, _, rfl⟩

theorem CoreStep.setFlags (fl' : Flags) (h : CoreStep Q P g acc fl pc) :
    CoreStep Q (setFlags fl' P) g acc fl' pc := by
  obtain ⟨hz, age, per, ca, n, rfl⟩ := h
  exact ⟨_, _, _, _, _, rfl⟩

theorem CoreStep.setQ (q : Bool) (h : CoreStep Q P g acc fl pc) :
    CoreStep Q (setQ q P) g acc { fl with q := fl.q || q } pc := by
  obtain ⟨hz, age, per, ca, n, rfl⟩ := h
  exact ⟨_, _, _, _, _, rfl⟩

theorem CoreStep.setAcc (r : BitVec 72 × Bool) (h : CoreStep Q P g acc fl pc) :
    CoreStep Q (setAcc r P) g r.1 { fl with q := fl.q || r.2 } pc := by
  obtain ⟨hz, age, per, ca, n, rfl⟩ := h
  exact ⟨_, _, _, _, _, rfl⟩

theorem CoreStep.finishAt (t : Word) (c : Nat) (hz : BitVec 16) (a b : Bool) (h : CoreStep Q P g acc fl pc) :
    CoreStep Q (finishAt t c hz a b P) g acc fl t := by
  obtain ⟨hz', age, per, ca, n, h'⟩ := h.charge c 1
  unfold Machine.finishAt pipe
  rw [h']
  exact ⟨_, _, _, _, _, rfl⟩

theorem CoreStep.pcEq (h : CoreStep Q P g acc fl pc) : P.core.pc = pc := by
  obtain ⟨hz, age, per, ca, n, rfl⟩ := h
  rfl

theorem CoreStep.retire (c : Nat) (h : CoreStep Q P g acc fl pc) :
    CoreStep Q (retire c P) g acc fl (pc + 4) := by
  have := h.pcEq
  unfold Machine.retire
  rw [this]
  exact h.finishAt _ _ _ _ _

/-- An instruction that issues does its effect on the pond as the fetch leaves it. -/
theorem issue_eq {s : State} {p : PondId} (h : Issues s p Q) (f : PCtx → Pond → Pond) :
    issue p f s = .next (withPond s p (f (pctx s p) Q)) := by
  unfold Issues pondOf at h
  unfold issue onPond issueP withPond
  simp only [h.1, h.2, if_true]

@[simp] theorem legal_true (f : Pond → Pond) (P : Pond) : legal true f P = f P := rfl

@[simp] theorem legal_false (f : Pond → Pond) (P : Pond) : legal false f P = raiseIllegal P := rfl

end Sys2Proof.Machine
end

