-- ==== Sys2Proof/Laws/Start.lean ====
section
/-! SUPPORT. What the operations of a device start can do, said once: a raised alarm, the select log as it is
read, the latched OTP row, and the beginning of steps 4 and 5. -/

namespace Sys2Proof.Machine

/-- Nothing of the timebase, the ports, the commands, the ledger, the OTP row, the ponds outside their flash, or the
start-up but for LC_PENDING differs. -/
structure StartKept (s t : State) : Prop where
  pending : t.pending = s.pending
  ns : t.ns = s.ns
  ports : t.shore.ports = s.shore.ports
  token : t.shore.token = s.shore.token
  tbs : t.shore.tbs = s.shore.tbs
  cmds : t.shore.cmds = s.shore.cmds
  leases : t.shore.leases = s.shore.leases
  streams : t.shore.streams = s.shore.streams
  otp : t.shore.otp = s.shore.otp
  ledger : t.shore.ledger = s.shore.ledger
  taken : t.shore.taken = s.shore.taken
  boot : ∃ n, t.shore.boot = { s.shore.boot with lcPending := n }
  pond : ∀ n, ∃ f, pondAt t n = { pondAt s n with pfl := f }

theorem StartKept.refl (s : State) : StartKept s s :=
  ⟨rfl, rfl, rfl, rfl, rfl, rfl, rfl, rfl, rfl, rfl, rfl, ⟨_, rfl⟩, fun _ => ⟨_, rfl⟩⟩

theorem StartKept.trans {s t u : State} (a : StartKept s t) (b : StartKept t u) : StartKept s u := by
  refine ⟨b.pending.trans a.pending, b.ns.trans a.ns, b.ports.trans a.ports, b.token.trans a.token,
    b.tbs.trans a.tbs, b.cmds.trans a.cmds, b.leases.trans a.leases, b.streams.trans a.streams, b.otp.trans a.otp,
    b.ledger.trans a.ledger, b.taken.trans a.taken, ?_, fun n => ?_⟩
  · obtain ⟨x, hx⟩ := a.boot
    obtain ⟨y, hy⟩ := b.boot
    exact ⟨y, by rw [hy, hx]⟩
  · obtain ⟨x, hx⟩ := a.pond n
    obtain ⟨y, hy⟩ := b.pond n
    exact ⟨y, by rw [hy, hx]⟩

/-- A change of the Shore alone. -/
theorem StartKept.shore {s : State} {f : Shore → Shore} (h1 : (f s.shore).ports = s.shore.ports)
    (h2 : (f s.shore).token = s.shore.token) (h3 : (f s.shore).tbs = s.shore.tbs)
    (h4 : (f s.shore).cmds = s.shore.cmds) (h5 : (f s.shore).leases = s.shore.leases)
    (h6 : (f s.shore).streams = s.shore.streams) (h7 : (f s.shore).otp = s.shore.otp)
    (h9 : (f s.shore).ledger = s.shore.ledger) (h10 : (f s.shore).taken = s.shore.taken)
    (h8 : ∃ n, (f s.shore).boot = { s.shore.boot with lcPending := n }) : StartKept s (onShore f s) :=
  ⟨rfl, rfl, h1, h2, h3, h4, h5, h6, h7, h9, h10, h8, fun _ => ⟨_, rfl⟩⟩

theorem StartKept.foldl {α : Type} {f : State → α → State} (h : ∀ t a, StartKept t (f t a)) (l : List α) (s : State) :
    StartKept s (l.foldl f s) := by
  induction l generalizing s with
  | nil => exact .refl s
  | cons a l ih => exact (h s a).trans (ih _)

theorem smod_kept (off : Nat) (f : Word → Word) (s : State) : StartKept s (smod off f s) :=
  .shore rfl rfl rfl rfl rfl rfl rfl rfl rfl ⟨_, rfl⟩

theorem alarmNotice_kept (n : Nat) (s : State) : StartKept s (alarmNotice n s) := by
  unfold alarmNotice
  refine .foldl (fun t a => ?_) _ _
  split
  · exact .shore rfl rfl rfl rfl rfl rfl rfl rfl rfl ⟨_, rfl⟩
  · exact .refl t

theorem alarmLog_kept (n : Nat) (s : State) : StartKept s (alarmLog n s) := by
  unfold alarmLog
  dsimp only
  refine .trans ?_ (smod_kept _ _ _)
  refine .trans ?_ (.shore rfl rfl rfl rfl rfl rfl rfl rfl rfl ⟨_, rfl⟩)
  refine .trans (.trans (.trans ?_ (smod_kept _ _ _)) (smod_kept _ _ _)) (smod_kept _ _ _)
  split
  · exact .trans (smod_kept _ _ _) (smod_kept _ _ _)
  · exact .refl s

theorem StartKept.ite {s t u : State} {c : Prop} [Decidable c] (a : StartKept s t) (b : StartKept s u) :
    StartKept s (if c then t else u) := by
  split
  · exact a
  · exact b

theorem eraseKeys_kept (s : State) : StartKept s (eraseKeys s) := by
  unfold eraseKeys
  exact .shore rfl rfl rfl rfl rfl rfl rfl rfl rfl ⟨_, rfl⟩

theorem shoreAlarms_kept (f : Alarms → Alarms) (s : State) :
    StartKept s (onShore (fun h => { h with alarms := f h.alarms }) s) :=
  .shore rfl rfl rfl rfl rfl rfl rfl rfl rfl ⟨_, rfl⟩

/-- A raised alarm acts on the registers, the alarm state, the keys, the Weir's output and LC_PENDING only (R365 to
R368). -/
theorem alarmRaise_kept (n : Nat) (s : State) : StartKept s (alarmRaise n s) := by
  unfold alarmRaise
  extract_lets before act s0 s1 s2 s3 s4
  have h0 : StartKept s s0 := .ite (smod_kept _ _ _) (.refl s)
  have h1 : StartKept s s1 := h0.trans (alarmLog_kept _ _)
  have h2 : StartKept s s2 := h1.trans (.shore rfl rfl rfl rfl rfl rfl rfl rfl rfl ⟨_, rfl⟩)
  have h3 : StartKept s s3 := .ite (h2.trans (smod_kept _ _ _)) h2
  have h4 : StartKept s s4 := h3.trans (alarmNotice_kept _ _)
  refine .ite ?_ h4
  dsimp only
  have h5 : StartKept s (if s4.shore.alarms.erase.isSome then s4 else
      onShore (fun h => { h with alarms := { h.alarms with erase := some s.ns } }) (eraseKeys s4)) :=
    .ite h4 ((h4.trans (eraseKeys_kept s4)).trans (shoreAlarms_kept (fun a => { a with erase := some s.ns }) _))
  have last : ∀ x, StartKept s x → StartKept s (if act = 3 ∧ x.shore.boot.lc ≠ 3 then
      onShore (fun h => { h with
        alarms := { h.alarms with huskWait := true }, boot := { h.boot with lcPending := 3 } }) x
      else x) := fun x hx => by
    refine .ite (hx.trans ?_) hx
    exact .shore rfl rfl rfl rfl rfl rfl rfl rfl rfl ⟨_, rfl⟩
  exact last _ h5

theorem sflWordRead_kept (i : Nat) (s : State) : StartKept s (sflWordRead i s) := by
  unfold sflWordRead
  dsimp only
  repeat' split
  all_goals first
    | exact .refl s
    | exact .trans (smod_kept _ _ _) (smod_kept _ _ _)

theorem pondAt_onPondN (n m : Nat) (f : Pond → Pond) (s : State) (hn : n < 64) :
    pondAt (onPondN n f s) m = if m = n then f (pondAt s n) else pondAt s m := vget_vset _ _ _ _ _ hn

/-- The select log as it is read (R390) leaves marks, counts and the banks. -/
theorem selLoad_kept (s : State) : StartKept s (selLoad s) := by
  unfold selLoad
  extract_lets keys s0 l half used s1
  have h0 : StartKept s s0 := .foldl (fun t i => sflWordRead_kept i t) _ _
  have h1 : StartKept s s1 := h0.trans (.shore rfl rfl rfl rfl rfl rfl rfl rfl rfl ⟨_, rfl⟩)
  refine h1.trans (.foldl (fun t n => ?_) _ _)
  refine ⟨rfl, rfl, rfl, rfl, rfl, rfl, rfl, rfl, rfl, rfl, rfl, ⟨_, rfl⟩, fun m => ?_⟩
  by_cases hn : n < 64
  · rw [pondAt_onPondN _ _ _ _ hn]
    split
    · rename_i e
      exact ⟨_, by rw [e]⟩
    · exact ⟨_, rfl⟩
  · refine ⟨_, congrArg (fun x => { x with pfl := x.pfl }) (?_ : pondAt _ m = pondAt t m)⟩
    unfold pondAt onPondN
    rw [vset_ge _ _ (by omega)]

/-! ### Steps 2 to 5 -/

theorem byte_bits (l : List Byte) (i : Nat) (h : i < 8 * l.length) :
    (ofLe l).testBit i = (l.getD (i / 8) 0).getLsbD (i % 8) := by
  induction l generalizing i with
  | nil => simp at h
  | cons x l ih =>
    have e : ofLe (x :: l) = 2 ^ 8 * ofLe l + x.toNat := by simp only [ofLe]; omega
    rw [e, Nat.testBit_two_pow_mul_add _ x.isLt]
    split
    · rename_i hi
      rw [show i / 8 = 0 by omega, show i % 8 = i by omega]
      rfl
    · rename_i hi
      rw [ih _ (by simp at h; omega), show i / 8 = (i - 8) / 8 + 1 by omega, show i % 8 = (i - 8) % 8 by omega]
      rfl

/-- A bit of the fused field as the latched row gives it (Table 14.10, R394). -/
theorem fusedBits (s : State) (p : Nat) (hp : p < 64) :
    (BitVec.ofNat 64 (leAt (otpBytes s 0x20 8) 0 8)).getLsbD p =
      (!otpBad s (8 + p / 32) && (otpWord s (8 + p / 32)).getLsbD (p % 32)) := by
  have hlen : (otpBytes s 0x20 8).length = 8 := by simp [otpBytes]
  have hs : leAt (otpBytes s 0x20 8) 0 8 = ofLe (otpBytes s 0x20 8) := by
    unfold leAt
    congr 1
  rw [hs, BitVec.getLsbD_ofNat, decide_eq_true hp, Bool.true_and, byte_bits _ _ (by omega)]
  have hb : (otpBytes s 0x20 8).getD (p / 8) 0 = if otpBad s (8 + p / 32) then 0 else
      BitVec.ofNat 8 ((otpWord s (8 + p / 32)).toNat >>> (8 * (p / 8 % 4))) := by
    unfold otpBytes
    rw [List.getD_eq_getElem?_getD, List.getElem?_map, List.getElem?_range (by omega)]
    simp only [Option.map_some, Option.getD_some]
    rw [show (32 + p / 8) / 4 = 8 + p / 32 by omega, show (32 + p / 8) % 4 = p / 8 % 4 by omega]
  rw [hb]
  cases otpBad s (8 + p / 32)
  · simp only [Bool.false_eq_true, if_false, Bool.not_false, Bool.true_and, BitVec.getLsbD_ofNat]
    rw [decide_eq_true (by omega), Bool.true_and, Nat.testBit_shiftRight,
      show 8 * (p / 8 % 4) + p % 8 = p % 32 by omega]
    rfl
  · simp

/-- Step 3 (R90, R394): the row is latched, and with it the life-cycle state and the ponds that are fused out. -/
structure RowLatched (s t : State) : Prop where
  pending : t.pending = s.pending
  ns : t.ns = s.ns
  ports : t.shore.ports = s.shore.ports
  token : t.shore.token = s.shore.token
  tbs : t.shore.tbs = s.shore.tbs
  cmds : t.shore.cmds = s.shore.cmds
  leases : t.shore.leases = s.shore.leases
  streams : t.shore.streams = s.shore.streams
  boot : ∃ a b c f, t.shore.boot = { s.shore.boot with otpTorn := a, lc := b, lcPending := c, fused := f }
  fused : ∀ p < 64, t.shore.boot.fused.getLsbD p = fusedOut s p
  pond : ∀ n, ∃ f, pondAt t n = { pondAt s n with pfl := f }

theorem RowLatched.then {s t u : State} (a : RowLatched s t) (b : StartKept t u) : RowLatched s u := by
  obtain ⟨x, hx⟩ := b.boot
  refine ⟨b.pending.trans a.pending, b.ns.trans a.ns, b.ports.trans a.ports, b.token.trans a.token,
    b.tbs.trans a.tbs, b.cmds.trans a.cmds, b.leases.trans a.leases, b.streams.trans a.streams, ?_,
    fun p hp => ?_, fun n => ?_⟩
  · obtain ⟨p, q, r, f, e⟩ := a.boot
    exact ⟨p, q, x, f, by rw [hx, e]⟩
  · rw [hx]; exact a.fused p hp
  · obtain ⟨y, hy⟩ := b.pond n
    obtain ⟨z, hz⟩ := a.pond n
    exact ⟨y, by rw [hy, hz]⟩

theorem torn_get (l : List Nat) (m : SMap 32) (k : Nat) (h : ∀ x ∈ l, 16 + x ≠ k) :
    (l.foldl (fun m k => m.set (16 + k) 0xFFFFFFFF) m).get k = m.get k := by
  induction l generalizing m with
  | nil => rfl
  | cons x l ih =>
    rw [List.foldl_cons, ih _ (fun y hy => h y (by simp [hy])), SMap.get_set_ne _ _ (h x (by simp)).symm]

/-- The words that step 3 latches: the row, with torn marks whole. -/
theorem rowRead_otp (s : State) : (rowRead s).shore.otp.latchedBad = s.shore.otp.bad ∧
    (rowRead s).shore.otp.latched =
      (tornMarks s).foldl (fun m k => m.set (16 + k) 0xFFFFFFFF) s.shore.otp.words := ⟨rfl, rfl⟩

theorem rowRead_fused (s : State) (p : Nat) (hp : p < 64) :
    (BitVec.ofNat 64 (leAt (otpBytes (rowRead s) 0x20 8) 0 8)).getLsbD p = fusedOut s p := by
  rw [fusedBits _ _ hp]
  unfold fusedOut otpBad otpWord
  rw [(rowRead_otp s).1, (rowRead_otp s).2, torn_get _ _ _ (fun x _ => by omega), bne]

theorem rowRead_boot (s : State) : (rowRead s).shore.boot = s.shore.boot := rfl

theorem rowRead_row (s : State) (a b : Bool) (c d : Nat) (F : BitVec 64) (hF : ∀ p < 64, F.getLsbD p = fusedOut s p) :
    RowLatched s (onBoot (fun x => { x with otpTorn := b, lc := c, lcPending := d, fused := F })
      (onAlarms (fun x => { x with huskProg := a }) (rowRead s))) := by
  have hp : (rowRead s).ponds = s.ponds := by simp only [rowRead, sset, smod, onOtp, onShore_ponds]
  constructor
  case boot => exact ⟨b, c, d, F, by simp only [onBoot, onAlarms, onShore_shore, rowRead_boot]⟩
  case fused => exact hF
  case pond =>
    intro n
    refine ⟨(pondAt s n).pfl, ?_⟩
    simp only [pondAt, onBoot, onAlarms, onShore_ponds, hp]
  all_goals simp only [onBoot, onAlarms, rowRead, sset, smod, onOtp, onShore_pending, onShore_ns, onShore_shore]

theorem latchOtp_latched (s : State) : RowLatched s (latchOtp s) := by
  unfold latchOtp
  extract_lets torn s1 ms husk s2
  have h : RowLatched s s2 := rowRead_row s _ _ _ _ _ (rowRead_fused s)
  split
  · exact h.then (alarmRaise_kept _ _)
  · exact h

theorem bootAdvance_bist {s : State} (h : s.shore.boot.bistWait ≠ 0) : bootAdvance s = s := by
  unfold bootAdvance
  exact if_neg (fun x => h x.2.2.1)

theorem bootAdvance_well {s : State} (h : s.shore.boot.wellWait = true) : bootAdvance s = s := by
  unfold bootAdvance
  exact if_neg (fun x => by have := x.2.2.2.1; simp [h] at this)

/-- Where nothing is waited for, start-up runs to the boundary of step 11 (R68). -/
theorem bootAdvance_runs {s : State} (h3 : 3 ≤ s.shore.boot.phase) (ha : s.shore.boot.applied = false)
    (hb : s.shore.boot.bistWait = 0) (hw : s.shore.boot.wellWait = false) (hc : calWaits s = false) :
    (bootAdvance s).shore.boot.applied = true ∧ (bootAdvance s).shore.boot.phase = 10 := by
  have h : bootAdvance s = bootSteps s := if_pos (by simp [h3, ha, hb, hw, hc])
  rw [h]
  unfold bootSteps
  exact ⟨rfl, rfl⟩

/-- Nothing of the time, the queue, the timebase, the commands, the leases or the streams differs. -/
structure RestKept (s t : State) : Prop where
  pending : t.pending = s.pending
  ns : t.ns = s.ns
  tbs : t.shore.tbs = s.shore.tbs
  cmds : t.shore.cmds = s.shore.cmds
  leases : t.shore.leases = s.shore.leases
  streams : t.shore.streams = s.shore.streams

theorem RestKept.trans {s t u : State} (a : RestKept s t) (b : RestKept t u) : RestKept s u :=
  ⟨b.pending.trans a.pending, b.ns.trans a.ns, b.tbs.trans a.tbs, b.cmds.trans a.cmds, b.leases.trans a.leases,
    b.streams.trans a.streams⟩

theorem StartKept.rest {s t : State} (a : StartKept s t) : RestKept s t :=
  ⟨a.pending, a.ns, a.tbs, a.cmds, a.leases, a.streams⟩

theorem RowLatched.rest {s t : State} (a : RowLatched s t) : RestKept s t :=
  ⟨a.pending, a.ns, a.tbs, a.cmds, a.leases, a.streams⟩

/-- The token lies with the first steward, and a part in Larva has observers only (R21, R22, R24). -/
def RolesPlaced (t : State) : Prop :=
  t.shore.token = (List.range 4).find? (fun q => (portOf t q).role == 0) ∧
  (t.shore.boot.lc = 0 → ∀ q < 4, (portOf t q).role = 2)

theorem RolesPlaced.keep {s t : State} (h : RolesPlaced s) (hp : t.shore.ports = s.shore.ports)
    (ht : t.shore.token = s.shore.token) (hl : t.shore.boot.lc = s.shore.boot.lc) : RolesPlaced t := by
  unfold RolesPlaced portOf at *
  rwa [hp, ht, hl]

/-- The roles and the token placed (R21, R24): the ports' roles and the token alone. -/
theorem placeRoles_says (s : State) : RestKept s (placeRoles s) ∧ (placeRoles s).ponds = s.ponds ∧
    (placeRoles s).shore.boot = s.shore.boot ∧ RolesPlaced (placeRoles s) := by
  have key : ∀ n, n ≤ 4 → ∃ ps, (List.range n).foldl (fun t p =>
      let r := latchRole t p
      onPort p (fun x => { x with role := r.1, forced := r.2 }) t) s = { s with shore := { s.shore with ports := ps } } ∧
      (s.shore.boot.lc = 0 → ∀ q < n, (vget ps q Port.reset).role = 2) := by
    intro n hn
    induction n with
    | zero => exact ⟨_, rfl, fun _ q hq => absurd hq (by omega)⟩
    | succ n ih =>
      obtain ⟨ps, e, h⟩ := ih (by omega)
      rw [List.range_succ, List.foldl_append, e]
      refine ⟨_, rfl, fun hl q hq => ?_⟩
      dsimp only [List.foldl]
      rw [vget_vset _ _ _ _ _ (by omega)]
      split
      · unfold latchRole
        dsimp only
        rw [if_pos hl]
      · exact h hl q (by omega)
  obtain ⟨ps, e, h⟩ := key 4 (by omega)
  unfold placeRoles
  rw [e]
  exact ⟨⟨rfl, rfl, rfl, rfl, rfl, rfl⟩, rfl, rfl, rfl, h⟩

/-- Steps 1 to 3 are done, and steps 4 and 5 run (R68): BIST runs in every pond that is not fused out. -/
structure StepsBegun (s t : State) : Prop where
  pending : t.pending = s.pending
  ns : t.ns = s.ns
  tbs : t.shore.tbs = s.shore.tbs
  cmds : t.shore.cmds = s.shore.cmds
  leases : t.shore.leases = s.shore.leases
  streams : t.shore.streams = s.shore.streams
  por : t.shore.boot.por = s.shore.boot.por
  cause : t.shore.boot.cause = s.shore.boot.cause
  startNs : t.shore.boot.startNs = s.shore.boot.startNs
  applied : t.shore.boot.applied = s.shore.boot.applied
  phase : t.shore.boot.phase = 3
  token : t.shore.token = (List.range 4).find? (fun q => (portOf t q).role == 0)
  larva : t.shore.boot.lc = 0 → ∀ q < 4, (portOf t q).role = 2
  bist : ∀ p < 64, t.shore.boot.bistWait.getLsbD p = !fusedOut s p
  service : ∀ p < 64, (pondAt t p).life.inService = !fusedOut s p
  core : ∀ p < 64, (pondAt t p).core = (pondAt s p).core
  sram : ∀ p < 64, (pondAt t p).sram = (pondAt s p).sram

theorem onPondN_row (n : Nat) (f : Pond → Pond) (s : State) (p : Nat) (hp : p < 64) :
    pondAt (onPondN n f s) p = if p = n then f (pondAt s n) else pondAt s p := by
  by_cases hn : n < 64
  · exact pondAt_onPondN _ _ _ _ hn
  · rw [if_neg (by omega)]
    unfold pondAt onPondN
    rw [vset_ge _ _ (by omega)]

/-- One function of the number for every pond in turn. -/
theorem foldl_ponds (f : Nat → Pond → Pond) (n : Nat) (hn : n ≤ 64) (s : State) :
    ∃ ps, (List.range n).foldl (fun t k => onPondN k (f k) t) s = { s with ponds := ps } ∧
      ∀ p < 64, vget ps p Pond.reset = if p < n then f p (pondAt s p) else pondAt s p := by
  induction n with
  | zero => exact ⟨_, rfl, fun p _ => by rw [if_neg (by omega)]; rfl⟩
  | succ n ih =>
    obtain ⟨ps, e, h⟩ := ih (by omega)
    rw [List.range_succ, List.foldl_append, e]
    refine ⟨_, rfl, fun p hp => ?_⟩
    show pondAt (onPondN n (f n) { s with ponds := ps }) p = _
    rw [onPondN_row _ _ _ _ hp]
    have hpn : ∀ k, pondAt { s with ponds := ps } k = vget ps k Pond.reset := fun _ => rfl
    rw [hpn, hpn]
    split
    · rename_i e
      rw [h n (by omega), if_neg (by omega), if_pos (by omega), e]
    · rw [h p hp]
      split
      · rw [if_pos (by omega)]
      · rw [if_neg (by omega)]

/-- The beginnings of steps 4 and 5. -/
theorem bistBegin_says (s : State) : RestKept s (bistBegin s) ∧ (bistBegin s).shore.ports = s.shore.ports ∧
    (bistBegin s).shore.token = s.shore.token ∧
    (bistBegin s).shore.boot = { s.shore.boot with
      phase := 3, bistWait := ~~~s.shore.boot.fused, wellWait := wellRuns s,
      pll := BitVec.ofNat 65 ((~~~s.shore.boot.fused).toNat + 2 ^ 64) } ∧
    ∀ p < 64, pondAt (bistBegin s) p = { pondAt s p with
      life := { (pondAt s p).life with inService := !s.shore.boot.fused.getLsbD p } } := by
  unfold bistBegin
  obtain ⟨ps, e, h⟩ := foldl_ponds
    (fun n P => { P with life := { P.life with inService := bit (~~~s.shore.boot.fused) n } }) 64 (by omega)
    (onBoot (fun b => { b with
      phase := 3, bistWait := ~~~s.shore.boot.fused, wellWait := wellRuns s,
      pll := BitVec.ofNat 65 ((~~~s.shore.boot.fused).toNat + 2 ^ 64) }) s)
  dsimp only
  rw [e]
  refine ⟨⟨rfl, rfl, rfl, rfl, rfl, rfl⟩, rfl, rfl, rfl, fun p hp => (h p hp).trans ?_⟩
  rw [if_pos hp]
  have : bit (~~~s.shore.boot.fused) p = !s.shore.boot.fused.getLsbD p := by
    unfold bit
    rw [BitVec.getLsbD_not, decide_eq_true hp, Bool.true_and]
  rw [this]
  rfl

theorem blankW_says (s : State) : ∃ k, blankW s = { s with shore := { s.shore with keys := k } } := by
  unfold blankW
  split
  · exact ⟨_, rfl⟩
  · exact ⟨_, rfl⟩

/-- A device start waits for BIST where a pond is in service (R68, Table 3.2). -/
theorem startSteps_begun (s : State) {q : Nat} (hq : q < 64) (hf : fusedOut s q = false) :
    StepsBegun s (startSteps s) := by
  have L := latchOtp_latched (selLoad s)
  have K := selLoad_kept s
  have hfu : ∀ p, fusedOut (selLoad s) p = fusedOut s p := fun p => by unfold fusedOut; rw [K.otp]
  unfold startSteps
  have R := K.rest.trans L.rest
  obtain ⟨a, ea⟩ := K.boot
  obtain ⟨b, c, d, f, eb⟩ := L.boot
  rw [ea] at eb
  have hfused := L.fused
  have hpond : ∀ n, ∃ f, pondAt (latchOtp (selLoad s)) n = { pondAt s n with pfl := f } := fun n => by
    obtain ⟨x, hx⟩ := K.pond n
    obtain ⟨y, hy⟩ := L.pond n
    exact ⟨y, by rw [hy, hx]⟩
  clear K L ea
  generalize latchOtp (selLoad s) = r at *
  obtain ⟨R1, hp1, hb1, hr1⟩ := placeRoles_says r
  generalize placeRoles r = t at *
  obtain ⟨R2, hp2, ht2, hb2, hq2⟩ := bistBegin_says t
  have hr2 := hr1.keep hp2 ht2 (by rw [hb2])
  generalize bistBegin t = u at *
  obtain ⟨k, e3⟩ := blankW_says u
  have hlive : ∀ p < 64, (~~~t.shore.boot.fused).getLsbD p = !fusedOut s p := fun p hp => by
    rw [BitVec.getLsbD_not, decide_eq_true hp, Bool.true_and, hb1, hfused p hp, hfu]
  have hat : ∀ p < 64, ∃ f, pondAt u p =
      { pondAt s p with pfl := f, life := { (pondAt s p).life with inService := !fusedOut s p } } := fun p hp => by
    obtain ⟨x, hx⟩ := hpond p
    refine ⟨x, ?_⟩
    rw [hq2 p hp, show pondAt t p = pondAt r p by unfold pondAt; rw [hp1], hx, hb1, hfused p hp, hfu]
  have hw : u.shore.boot.bistWait ≠ 0 := fun h => by
    rw [hb2] at h
    have := hlive q hq
    rw [show ~~~t.shore.boot.fused = 0 from h, hf] at this
    simp at this
  rw [bootAdvance_bist (by rw [e3]; exact hw), e3]
  have R3 := (R.trans R1).trans R2
  have hB : u.shore.boot.por = s.shore.boot.por ∧ u.shore.boot.cause = s.shore.boot.cause ∧
      u.shore.boot.startNs = s.shore.boot.startNs ∧ u.shore.boot.applied = s.shore.boot.applied ∧
      u.shore.boot.phase = 3 ∧ u.shore.boot.bistWait = ~~~t.shore.boot.fused := by
    rw [hb2, hb1, eb]
    exact ⟨rfl, rfl, rfl, rfl, rfl, rfl⟩
  obtain ⟨B1, B2, B3, B4, B5, B6⟩ := hB
  constructor
  case pending => exact R3.pending
  case ns => exact R3.ns
  case tbs => exact R3.tbs
  case cmds => exact R3.cmds
  case leases => exact R3.leases
  case streams => exact R3.streams
  case por => exact B1
  case cause => exact B2
  case startNs => exact B3
  case applied => exact B4
  case phase => exact B5
  case token => exact hr2.1
  case larva => exact hr2.2
  case bist => intro p hp; exact (congrArg (fun x => BitVec.getLsbD x p) B6).trans (hlive p hp)
  case service => intro p hp; obtain ⟨f, e⟩ := hat p hp; exact congrArg (fun P => P.life.inService) e
  case core => intro p hp; obtain ⟨f, e⟩ := hat p hp; exact congrArg (fun P => P.core) e
  case sram => intro p hp; obtain ⟨f, e⟩ := hat p hp; exact congrArg (fun P => P.sram) e

end Sys2Proof.Machine
end

