-- ==== Sys2Proof/Laws/Hub.lean ====
section
/-! SUPPORT. What the parts of the Shore's boundary can do, said once: all but the decided commands leave the token,
the commands and the anchor, and all but the orphan policies the leases. -/

namespace Sys2Proof.Machine

/-- Nothing of the token, the commands, the anchor or the time differs. -/
structure HubKept (s t : State) : Prop where
  ns : t.ns = s.ns
  token : t.shore.token = s.shore.token
  cmds : t.shore.cmds = s.shore.cmds
  taken : t.shore.taken = s.shore.taken
  anchor : t.shore.ledger.anchor = s.shore.ledger.anchor
  lastNs : t.shore.tbs.lastNs = s.shore.tbs.lastNs
  epoch : t.shore.tbs.epoch = s.shore.tbs.epoch

/-- The leases are kept too. -/
structure LeaseKept (s t : State) : Prop extends HubKept s t where
  leases : t.shore.leases = s.shore.leases

theorem HubKept.refl (s : State) : HubKept s s := ⟨rfl, rfl, rfl, rfl, rfl, rfl, rfl⟩

theorem HubKept.trans {s t u : State} (a : HubKept s t) (b : HubKept t u) : HubKept s u :=
  ⟨b.ns.trans a.ns, b.token.trans a.token, b.cmds.trans a.cmds, b.taken.trans a.taken, b.anchor.trans a.anchor,
    b.lastNs.trans a.lastNs, b.epoch.trans a.epoch⟩

theorem LeaseKept.refl (s : State) : LeaseKept s s := ⟨.refl s, rfl⟩

theorem LeaseKept.trans {s t u : State} (a : LeaseKept s t) (b : LeaseKept t u) : LeaseKept s u :=
  ⟨a.toHubKept.trans b.toHubKept, b.leases.trans a.leases⟩

theorem LeaseKept.ite {s t u : State} {c : Prop} [Decidable c] (a : LeaseKept s t) (b : LeaseKept s u) :
    LeaseKept s (if c then t else u) := by
  split
  · exact a
  · exact b

theorem LeaseKept.foldl {α : Type} {f : State → α → State} (h : ∀ t a, LeaseKept t (f t a)) (l : List α) (s : State) :
    LeaseKept s (l.foldl f s) := by
  induction l generalizing s with
  | nil => exact .refl s
  | cons a l ih => exact (h s a).trans (ih _)

theorem StartKept.lease {s t : State} (a : StartKept s t) : LeaseKept s t :=
  ⟨⟨a.ns, a.token, a.cmds, a.taken, congrArg Ledger.anchor a.ledger, congrArg Tbs.lastNs a.tbs,
    congrArg Tbs.epoch a.tbs⟩, a.leases⟩

theorem smod_lease (off : Nat) (f : Word → Word) (s : State) : LeaseKept s (smod off f s) := (smod_kept off f s).lease

theorem sset_lease (off : Nat) (v : Word) (s : State) : LeaseKept s (sset off v s) := smod_lease _ _ _

theorem sinc_lease (off lo len k : Nat) (s : State) : LeaseKept s (sinc off lo len k s) := smod_lease _ _ _

theorem inc64_lease (off : Nat) (s : State) : LeaseKept s (inc64 off s) := (sset_lease _ _ _).trans (sset_lease _ _ _)

/-- A change of the ledger that leaves the anchor. -/
theorem onLedger_lease {f : Ledger → Ledger} {s : State} (h : (f s.shore.ledger).anchor = s.shore.ledger.anchor) :
    LeaseKept s (onLedger f s) := ⟨⟨rfl, rfl, rfl, rfl, h, rfl, rfl⟩, rfl⟩

theorem onCount_lease (f : IvCount → IvCount) (s : State) : LeaseKept s (onCount f s) := onLedger_lease rfl

theorem markFlag_lease (i : Nat) (s : State) : LeaseKept s (markFlag i s) := onCount_lease _ _

theorem onWeir_lease (f : Weir → Weir) (s : State) : LeaseKept s (onWeir f s) :=
  ⟨⟨rfl, rfl, rfl, rfl, rfl, rfl, rfl⟩, rfl⟩

theorem onPort_lease (h : Nat) (f : Port → Port) (s : State) : LeaseKept s (onPort h f s) :=
  ⟨⟨rfl, rfl, rfl, rfl, rfl, rfl, rfl⟩, rfl⟩

theorem credit_lease (n : Nat) (q : Int) (s : State) : LeaseKept s (credit n q s) := onLedger_lease rfl

theorem checkFail_lease (kind pond e : Nat) (d : Int) (s : State) : LeaseKept s (checkFail kind pond e d s) := by
  unfold checkFail
  refine .trans ?_ (alarmRaise_kept _ _).lease
  refine .trans (.trans ?_ (smod_lease _ _ _)) (onCount_lease _ _)
  refine .ite (.refl s) ?_
  exact (((smod_lease _ _ _).trans (smod_lease _ _ _)).trans (smod_lease _ _ _)).trans (smod_lease _ _ _)

theorem continuity_lease (h : HeldPost) (s : State) : LeaseKept s (continuity h s) := by
  unfold continuity
  extract_lets l want d s1
  have h1 : LeaseKept s s1 := onLedger_lease rfl
  exact .ite h1 (((h1.trans (credit_lease _ _ _)).trans (smod_lease _ _ _)).trans (checkFail_lease _ _ _ _ _))

theorem bookPost_lease (h : HeldPost) (s : State) : LeaseKept s (bookPost h s) := by
  unfold bookPost
  extract_lets s1 s2 s3 s4
  have h1 : LeaseKept s s1 := by
    simp only [s1]
    split
    · exact credit_lease _ _ _
    · exact (((credit_lease _ _ _).trans (smod_lease _ _ _)).trans (onLedger_lease rfl)).trans (onCount_lease _ _)
  have h2 : LeaseKept s s2 :=
    ((h1.trans (inc64_lease _ _)).trans (sinc_lease _ _ _ _ _)).trans (onCount_lease _ _)
  have h3 : LeaseKept s s3 := h2.trans (onLedger_lease rfl)
  have h4 : LeaseKept s s4 := h3.trans (continuity_lease _ _)
  exact .ite (h4.trans (markFlag_lease _ _)) h4

theorem countLateTotal_lease (k : Nat) (s : State) : LeaseKept s (countLateTotal k s) :=
  .trans (t := onShore (fun h => { h with tbs := { h.tbs with late := h.tbs.late + BitVec.ofNat 64 k } }) s)
    ⟨⟨rfl, rfl, rfl, rfl, rfl, rfl, rfl⟩, rfl⟩ (onCount_lease _ _)

theorem latePost_lease (h : HeldPost) (s : State) : LeaseKept s (latePost h s) := by
  unfold latePost
  exact ((((countLateTotal_lease _ _).trans (smod_lease _ _ _)).trans (smod_lease _ _ _)).trans
    ((smod_lease _ _ _).trans (onCount_lease _ _))).trans (bookPost_lease _ _)

theorem bookDue_lease (e : Nat) (s : State) : LeaseKept s (bookDue e s) := by
  unfold bookDue
  refine .trans (onLedger_lease rfl) (.foldl (fun t h => ?_) _ _)
  exact .ite (latePost_lease _ _) (bookPost_lease _ _)

theorem conserve_lease (s : State) : LeaseKept s (conserve s) := by
  unfold conserve
  exact .ite (onLedger_lease rfl) ((onLedger_lease rfl).trans (checkFail_lease _ _ _ _ _))

theorem ivClose_lease (stop next : Nat) (add : Word) (s : State) : LeaseKept s (ivClose stop next add s) := by
  unfold ivClose ivEnqueue
  refine .trans ?_ (onLedger_lease rfl)
  exact .ite (onLedger_lease rfl) ((onLedger_lease rfl).trans (smod_lease _ _ _))

theorem shoreTime_lease (e : Nat) (s : State) : LeaseKept s (shoreTime e s) := by
  unfold shoreTime
  extract_lets t d s1
  have h1 : LeaseKept s s1 := .ite (smod_lease _ _ _) (.refl s)
  have ht : ∀ (f : Tbs → Tbs) (u : State), (f u.shore.tbs).lastNs = u.shore.tbs.lastNs →
      (f u.shore.tbs).epoch = u.shore.tbs.epoch → LeaseKept u (onTbs f u) := fun f u a b =>
    ⟨⟨rfl, rfl, rfl, rfl, rfl, a, b⟩, rfl⟩
  exact .ite (((h1.trans (ht _ _ rfl rfl)).trans (smod_lease _ _ _)).trans (smod_lease _ _ _))
    (h1.trans (ht _ _ rfl rfl))

theorem streamsLate_lease (e : Nat) (s : State) : LeaseKept s (streamsLate e s) := by
  unfold streamsLate
  extract_lets late gone
  refine .trans (onWeir_lease _ _) (.foldl (fun t _ => ?_) _ _)
  exact (countLateTotal_lease _ _).trans (sinc_lease _ _ _ _ _)

theorem unlockAt_lease (e : Nat) (s : State) : LeaseKept s (unlockAt e s) := by
  unfold unlockAt
  split
  · exact .refl s
  · refine .trans (.trans ?_ (markFlag_lease _ _)) (sset_lease _ _ _)
    exact ⟨⟨rfl, rfl, rfl, rfl, rfl, rfl, rfl⟩, rfl⟩

theorem mirDue_lease (e : Nat) (s : State) : LeaseKept s (mirDue e s) := by
  unfold mirDue
  refine .foldl (fun t h => ?_) _ _
  exact .ite (.refl t) (.ite (((smod_lease _ _ _).trans (smod_lease _ _ _)).trans (onPort_lease _ _ _))
    (onPort_lease _ _ _))

theorem sluicesFree_lease (s : State) : LeaseKept s (sluicesFree s) := by
  unfold sluicesFree
  refine .foldl (fun t r => ?_) _ _
  unfold sluiceFree
  exact .trans (.foldl (fun t l => onWeir_lease _ _) _ _) (onWeir_lease _ _)

/-- An orphan policy that acts leaves the leases of the other ponds. -/
theorem orphanAt_hub (p e : Nat) (l : Lease) (s : State) : HubKept s (orphanAt p e l s) ∧
    ∀ n, n ≠ p → leaseOf (orphanAt p e l s) n = leaseOf s n := by
  have h1 : ∀ x, HubKept s (onShore (fun h => { h with leases := KMap.set none h.leases p x }) (markTiming s)) ∧
      ∀ n, n ≠ p → leaseOf (onShore (fun h => { h with leases := KMap.set none h.leases p x }) (markTiming s)) n =
        leaseOf s n := fun x =>
    ⟨⟨rfl, rfl, rfl, rfl, rfl, rfl, rfl⟩, fun n hn => KMap.get_set_ne none _ x hn⟩
  unfold orphanAt
  extract_lets s1
  have h2 := h1 (some { l with acted := leaseSilent s l, due := none, done := false })
  split
  · exact h2
  · unfold placeAct
    split
    · exact h2
    · exact ⟨h2.1.trans ⟨rfl, rfl, rfl, rfl, rfl, rfl, rfl⟩, h2.2⟩

theorem orphanAt_use (p e : Nat) (l : Lease) (s : State) (k : Nat) :
    (portOf (orphanAt p e l s) k).lastUse = (portOf s k).lastUse := by
  unfold orphanAt placeAct
  dsimp only
  repeat' split
  all_goals rfl

/-- The orphan policies leave the token, the commands and the anchor. -/
theorem orphans_kept (e : Nat) (s : State) : HubKept s (orphans e s) := by
  unfold orphans
  generalize s.shore.leases = m
  induction m generalizing s with
  | nil => exact .refl s
  | cons x m ih =>
    refine .trans ?_ (ih _)
    dsimp only
    split
    · exact .refl s
    · split
      · exact (orphanAt_hub _ _ _ _).1
      · exact .refl s

/-- The orphan policies leave the lease of a pond whose entries are not due. -/
theorem orphans_hub (e : Nat) (s : State) (p : Nat)
    (hp : ∀ l, (p, some l) ∈ s.shore.leases → ∀ t : State, t.shore.tbs.lastNs = s.shore.tbs.lastNs →
      (∀ k, (portOf t k).lastUse = (portOf s k).lastUse) → (l.done || orphanDue e t l) = false) :
    HubKept s (orphans e s) ∧ leaseOf (orphans e s) p = leaseOf s p := by
  have key : ∀ (m : KMap (Option Lease)) (t : State), (∀ x ∈ m, x ∈ s.shore.leases) → HubKept s t →
      (∀ k, (portOf t k).lastUse = (portOf s k).lastUse) → leaseOf t p = leaseOf s p →
      let u := m.foldl (fun t x => match x.2 with
        | none => t
        | some l => if l.done || orphanDue e t l then orphanAt x.1 e l t else t) t
      HubKept s u ∧ leaseOf u p = leaseOf s p := by
    intro m
    induction m with
    | nil => exact fun t _ h _ hl => ⟨h, hl⟩
    | cons x m ih =>
      intro t hm h hu hl
      refine ih _ (fun y hy => hm y (by simp [hy])) ?_ ?_ ?_ <;> obtain ⟨n, o⟩ := x <;> cases o with
      | none => assumption
      | some l =>
        dsimp only
        split
        · rename_i hd
          have hne : p ≠ n := fun e => by
            subst e
            rw [hp l (hm _ (by simp)) t h.lastNs hu] at hd
            simp at hd
          have H := orphanAt_hub n e l t
          first
            | exact h.trans H.1
            | exact (H.2 p hne).trans hl
            | exact fun k => (orphanAt_use n e l t k).trans (hu k)
        · assumption
  exact key _ s (fun _ h => h) (.refl s) (fun _ => rfl) rfl

theorem postActions_nil {s : State} (e : Nat) (h : s.shore.cmds = []) : postActions e s = s := by
  unfold postActions
  rw [h]
  rfl

/-- What the Shore's boundary does before it decides the commands. -/
theorem boundaryOpen_lease (s : State) (e : Nat) :
    let s1 := shoreTime e (onTbs (fun t => { t with edges := t.edges - 1, epoch := some e }) s)
    let s2 := conserve s1
    let s3 := if intervalEnds s2 e then ivClose e e 0 s2 else s2
    LeaseKept (onTbs (fun t => { t with edges := t.edges - 1, epoch := some e }) s) (sluicesFree s3) := by
  intro s1 s2 s3
  have h2 : LeaseKept _ s2 := (shoreTime_lease _ _).trans (conserve_lease _)
  exact (LeaseKept.ite (h2.trans (ivClose_lease _ _ _ _)) h2).trans (sluicesFree_lease _)

/-- What it does after that, where no command is left. -/
theorem boundaryRest_hub (s : State) (e : Nat) (h : s.shore.cmds = []) :
    HubKept s (mirDue e (postActions e (unlockAt e (orphans e (bookDue e (streamsLate e s)))))) := by
  have h1 := ((streamsLate_lease e s).trans (bookDue_lease e _)).toHubKept
  have h2 := (h1.trans (orphans_kept e _)).trans (unlockAt_lease e _).toHubKept
  rw [postActions_nil e (h2.cmds.trans h)]
  exact h2.trans (mirDue_lease e _).toHubKept

/-! ### One command held for the boundary -/

/-- The end of a command leaves the token, the leases, the ledger and the time. -/
theorem finish_hub (c : Cmd) (st det com app : Nat) (r : Word) (lost : Bool) (s : State) :
    (finish c st det com app r lost s).shore.cmds = eraseFirst (fun x => x.order == c.order) s.shore.cmds ∧
    (finish c st det com app r lost s).shore.token = s.shore.token ∧
    (finish c st det com app r lost s).shore.leases = s.shore.leases ∧
    (finish c st det com app r lost s).shore.ledger = s.shore.ledger ∧
    (finish c st det com app r lost s).shore.tbs = s.shore.tbs ∧
    (finish c st det com app r lost s).ns = s.ns := by
  obtain ⟨ps, rg, e⟩ := finish_only c st det com app r lost s
  rw [e]
  exact ⟨rfl, rfl, rfl, rfl, rfl, rfl⟩

theorem countCollide_lease (s : State) : LeaseKept s (countCollide s) :=
  ((sinc_lease _ _ _ _ _).trans (onCount_lease _ _)).trans (markFlag_lease _ _)

theorem countAsap_lease (s : State) : LeaseKept s (countAsap s) :=
  ((sinc_lease _ _ _ _ _).trans (onCount_lease _ _)).trans (markFlag_lease _ _)

theorem settleCmd_over {s : State} {c : Cmd} {r : Word} (hp : c.phase = .over r) (hs : settled s c = true) :
    ∃ col tim com, settleCmd s c = finish { c with collide := col, timing := tim } 0 0 com c.apply r false s := by
  unfold settleCmd
  rw [hp]
  dsimp only
  rw [hs]
  exact ⟨_, _, _, rfl⟩

/-- What remains where one command has had its effect: nothing but the list differs from the effect (R60). -/
theorem effect_one (c : Cmd) (r : Word) (s : State) {x : Cmd} (hs : s.shore.cmds = [x]) (hx : x.order = c.order)
    (ha : x.apply = c.apply) :
    (effect c r s).shore.cmds = [] ∧ (effect c r s).shore.token = s.shore.token ∧
    (effect c r s).shore.leases = s.shore.leases ∧
    (effect c r s).shore.ledger.anchor = s.shore.ledger.anchor ∧
    (effect c r s).shore.tbs.lastNs = s.shore.tbs.lastNs ∧
    (effect c r s).shore.tbs.epoch = s.shore.tbs.epoch ∧ (effect c r s).ns = s.ns := by
  unfold effect
  generalize hu : setPhase c (.over r) (takeEffect c s) = u
  have h1 : ∃ t, LeaseKept s t ∧ u = { t with shore := { t.shore with
      taken := s.shore.taken ++ [⟨c.apply, c.order, c.port, collideKeys c⟩], cmds := [{ x with phase := .over r }] } } := by
    subst hu
    unfold takeEffect setPhase onCmd
    extract_lets ks old two hit
    refine ⟨_, LeaseKept.foldl (f := fun t (_ : Nat) => countCollide t) (fun t _ => countCollide_lease t) hit s, ?_⟩
    have hk := LeaseKept.foldl (f := fun t (_ : Nat) => countCollide t) (fun t _ => countCollide_lease t) hit s
    generalize List.foldl (fun t (_ : Nat) => countCollide t) s hit = w at hk ⊢
    unfold onShore
    dsimp only
    rw [hk.cmds, hk.taken, hs]
    simp [modFirst, hx, ks]
  obtain ⟨t, ht, e⟩ := h1
  have hc : u.shore.cmds = [{ x with phase := .over r }] := by rw [e]
  have hk : u.shore.token = s.shore.token ∧ u.shore.leases = s.shore.leases ∧
      u.shore.ledger.anchor = s.shore.ledger.anchor ∧ u.shore.tbs.lastNs = s.shore.tbs.lastNs ∧
      u.shore.tbs.epoch = s.shore.tbs.epoch ∧ u.ns = s.ns := by
    rw [e]; exact ⟨ht.token, ht.leases, ht.anchor, ht.lastNs, ht.epoch, ht.ns⟩
  obtain ⟨k1, k2, k3, k4, k5, k6⟩ := hk
  clear hu e
  unfold settle
  rw [hc]
  have hset : settled u { x with phase := .over r } = true := by
    unfold settled Cmd.openAt
    rw [hc]
    simp
  have hone : ∃ col tim com, (List.filter (fun c' => c'.apply == c.apply) [{ x with phase := .over r }]).foldl settleCmd u =
      finish { x with phase := .over r, collide := col, timing := tim } 0 0 com x.apply r false u := by
    rw [List.filter_cons_of_pos (by simp [ha])]
    simp only [List.filter_nil, List.foldl_cons, List.foldl_nil]
    exact settleCmd_over (c := { x with phase := .over r }) rfl hset
  obtain ⟨col, tim, com, e1⟩ := hone
  rw [e1]
  obtain ⟨f1, f2, f3, f4, f5, f6⟩ := finish_hub { x with phase := .over r, collide := col, timing := tim } 0 0 com x.apply r false u
  generalize finish { x with phase := .over r, collide := col, timing := tim } 0 0 com x.apply r false u = v at *
  refine ⟨?_, f2.trans k1, f3.trans k2, (congrArg Ledger.anchor f4).trans k3, (congrArg Tbs.lastNs f5).trans k4,
    (congrArg Tbs.epoch f5).trans k5, f6.trans k6⟩
  show v.shore.cmds = []
  rw [f1, hc]
  simp [eraseFirst]

/-- One command held for an epoch that passes its checks, and whose effect lies in the Shore: the boundary gives it
that effect (R59, R289). -/
theorem decideEpoch_one {s : State} {c : Cmd} {b : Bool} (hs : s.shore.cmds = [c]) (hw : c.phase = .held b)
    (hop : c.op ≠ 0x34) (hp : pondCmd c = false) (ha : authorityNow s c = none) (ho : operatorCmd s c = false) :
    ∃ t, LeaseKept { s with shore := { s.shore with cmds := [{ c with timing := c.timing || c.asap }] } } t ∧
      decideEpoch c.apply s =
        settle c.apply (shoreEffect { c with timing := c.timing || c.asap } false t) := by
  have hheld : ∀ t : State, t.shore.cmds = [c] → heldFor t c.apply = [c] := fun t h => by
    unfold heldFor Cmd.waits
    rw [h]
    simp [hw]
  have hj : judgeGroups c.apply 64 s = s := by
    unfold judgeGroups
    rw [hheld s hs]
    simp only [List.foldl_cons, List.foldl_nil]
    rw [if_neg (by simp [hop])]
  have hd : decisions s c.apply = [(c.order, none)] := by
    unfold decisions
    rw [hheld s hs]
    have : decideAll s s.shore.token s.shore.leases [c] = [(c.order, none)] := by
      unfold decideAll
      have e : authority s s.shore.token (if c.target < 64 then KMap.get none s.shore.leases c.target else none) c = none := ha
      rw [e]
      rfl
    dsimp only
    rw [this]
    simp [ho]
  unfold decideEpoch
  rw [hj]
  dsimp only
  rw [hd, hheld s hs]
  have hA : LeaseKept s (([c].filter (·.asap)).foldl (fun t _ => countAsap t) s) :=
    .foldl (fun t _ => countAsap_lease t) _ _
  generalize ([c].filter (·.asap)).foldl (fun t _ => countAsap t) s = w at hA
  have hwc : w.shore.cmds = [c] := hA.cmds.trans hs
  refine ⟨onCmd c.order (fun x => { x with timing := x.timing || x.asap }) w, ?_, ?_⟩
  · refine ⟨⟨hA.ns, hA.token, ?_, hA.taken, hA.anchor, hA.lastNs, hA.epoch⟩, hA.leases⟩
    unfold onCmd onShore
    dsimp only
    rw [hwc]
    simp [modFirst]
  · simp only [List.foldl_cons, List.foldl_nil]
    unfold decideOne
    have hc1 : cmdOf (onCmd c.order (fun x => { x with timing := x.timing || x.asap }) w) c.order =
        some { c with timing := c.timing || c.asap } := by
      unfold cmdOf onCmd onShore
      dsimp only
      rw [hwc]
      simp [modFirst]
    dsimp only
    rw [hc1]
    dsimp only
    rw [show pondCmd { c with timing := c.timing || c.asap } = pondCmd c from rfl, hp, if_neg (by simp)]
    congr 2
    simp

/-- Settling an epoch of which no command is left forgets it, and no more. -/
theorem settle_nil {s : State} (a : Nat) (h : s.shore.cmds = []) :
    (settle a s).shore.cmds = [] ∧ (settle a s).shore.token = s.shore.token ∧
    (settle a s).shore.leases = s.shore.leases ∧ (settle a s).shore.ledger = s.shore.ledger ∧
    (settle a s).shore.tbs = s.shore.tbs ∧ (settle a s).ns = s.ns := by
  unfold settle
  rw [h]
  exact ⟨h, rfl, rfl, rfl, rfl, rfl⟩

end Sys2Proof.Machine
end

