-- ==== Sys2Proof/Machine/Balls.lean ====
section
/-! DEFINITION. The package (chapter 18, sections 1 to 4): the ball grid with the signal or supply of each ball, and
the limits of the supply rails with the thresholds at which POR holds the part and VGLITCH trips. -/

namespace Sys2Proof.Machine

/-! ### The ball grid -/

/-- A pin of a pond (Table 18.2). -/
inductive PondPin where
  | ain (k : Nat) (neg : Bool)
  | pwm (k : Nat)
  | flt (k : Nat)
  | gpio (k : Nat)
  | sbScl
  | sbSda
  | sbAlertN
  | sbResetN
  deriving DecidableEq, Repr

/-- A signal pin of the Shore region (Table 18.3); p is the port and l the lane. -/
inductive ShorePin where
  | pet (p l : Nat) (neg : Bool)
  | per (p l : Nat) (neg : Bool)
  | perstN (p : Nat)
  | refclk (neg : Bool)
  | gssIn
  | gssOut
  | resetN
  | supplyWarnN
  | dbgCk
  | dbgDi
  | dbgDo
  | dbgSelN
  | testEn
  | thermA
  | thermC
  deriving DecidableEq, Repr

/-- What a ball is (R443, R444). -/
inductive Ball where
  | pond (n : Nat) (pin : PondPin)
  | shore (pin : ShorePin)
  | vdd
  | vdds
  | vddh
  | vdda
  | vddio
  | vddf
  | vssa
  | vss
  deriving DecidableEq, Repr

/-- The letters of the rows (R442). -/
def rowLetters : List Char := "ABCDEFGHJKLMNPTUVWY".toList

/-- The letters of row r, counted from 1 (R442). -/
def rowName (r : Nat) : String :=
  let c := rowLetters.getD ((r - 1) % 19) 'A'
  match (r - 1) / 19 with
  | 0 => String.ofList [c]
  | k => String.ofList [rowLetters.getD (k - 1) 'A', c]

/-- The name of the ball in row r and column c (R442). -/
def ballName (r c : Nat) : String := rowName r ++ toString c

/-- Table 18.2: the tile of pond n, by row and column offset. -/
def pondTile (n : Nat) : List (List Ball) :=
  let a (k : Nat) : List Ball := [.pond n (.ain k false), .pond n (.ain k true)]
  [a 0 ++ [.vssa] ++ a 1 ++ [.vssa, .vdda],
   a 2 ++ a 3 ++ a 4 ++ [.vssa],
   a 5 ++ a 6 ++ a 7 ++ [.vssa],
   [.vdda, .vdda, .vss, .vdd, .vdd, .vss, .vddf],
   [.pond n (.pwm 0), .vss, .pond n (.pwm 1), .pond n (.pwm 2), .vss, .pond n (.pwm 3), .vddio],
   [.pond n (.flt 0), .pond n (.flt 1), .pond n (.gpio 0), .pond n (.gpio 1), .vss, .vdd, .vdd],
   [.pond n .sbScl, .pond n .sbSda, .pond n .sbAlertN, .pond n .sbResetN, .vss, .vddio, .vss]]

/-- The single balls of the Shore region (Table 18.3): row, column and pin. -/
def shoreSingles : List (Nat × Nat × ShorePin) :=
  [(1, 60, .refclk false), (1, 61, .refclk true), (3, 60, .gssIn), (5, 60, .gssOut), (7, 58, .resetN),
   (7, 59, .supplyWarnN), (9, 58, .dbgCk), (9, 59, .dbgDi), (9, 60, .dbgDo), (9, 61, .dbgSelN), (11, 58, .testEn),
   (13, 58, .thermA), (13, 59, .thermC)]

/-- A ball of a row of lanes: columns 16 p + 4 l + 2 and + 3. -/
def laneBall (pin : Nat → Nat → Bool → ShorePin) (c : Nat) : Ball :=
  if c % 4 = 2 then .shore (pin (c / 16) (c % 16 / 4) false)
  else if c % 4 = 3 then .shore (pin (c / 16) (c % 16 / 4) true)
  else .vss

/-- Rows BY to CG (Table 18.3). -/
def shoreRow (r c : Nat) : Ball :=
  match r with
  | 57 => if c % 2 = 1 then .vdds else .vss
  | 58 | 61 => if c % 2 = 1 then .vddh else .vss
  | 59 => laneBall .pet c
  | 62 => laneBall .per c
  | 64 => if c % 16 = 8 then .shore (.perstN (c / 16)) else .vss
  | _ => .vss

/-- Columns 57 to 64 of rows A to BW (Table 18.3). -/
def shoreColumn (r c : Nat) : Ball :=
  match shoreSingles.find? (fun x => x.1 == r && x.2.1 == c) with
  | some x => .shore x.2.2
  | none =>
    if 15 ≤ r then (if (r + c) % 2 = 1 then .vdds else .vss)
    else if c = 64 then .vddf
    else if c = 63 then .vdda
    else if c = 62 ∧ r ≤ 8 then .vddio
    else .vss

/-- The ball in row r and column c, each from 1 to 64 (R443, R444). -/
def ballAt (r c : Nat) : Ball :=
  if 57 ≤ r then shoreRow r c
  else if 57 ≤ c then shoreColumn r c
  else ((pondTile (8 * ((r - 1) / 7) + (c - 1) / 7)).getD ((r - 1) % 7) []).getD ((c - 1) % 7) .vss

/-! ### Supplies -/

/-- The supply rails. -/
inductive Rail where
  | vdd
  | vdds
  | vddh
  | vdda
  | vddf
  | vddio
  deriving DecidableEq, Repr

/-- Nominal voltage, least and greatest in operation (Table 18.6), and the absolute maximum (Table 18.5), in units of
0.1 mV; the absolute minimum of each is −0.3 V. -/
def railLimits : Rail → Nat × Nat × Nat × Nat
  | .vdd => (7500, 7275, 7725, 9000)
  | .vdds => (8000, 7760, 8240, 9500)
  | .vddh => (12000, 11640, 12360, 14000)
  | .vdda => (18000, 17460, 18540, 21000)
  | .vddf => (25000, 23750, 26250, 29000)
  | .vddio => (33000, 31350, 34650, 39000)

/-- The POR threshold of a rail, in units of 0.1 mV (R449). -/
def porThreshold : Rail → Nat
  | .vdd => 6500
  | .vdds => 7000
  | .vddh => 10500
  | .vdda => 16000
  | .vddf => 22000
  | .vddio => 29000

/-- POR holds the part while any rail is below its threshold (R449), which is POR_ASSERT. -/
def porHolds (v : Rail → Nat) : Bool :=
  [Rail.vdd, .vdds, .vddh, .vdda, .vddf, .vddio].any (fun r => decide (v r < porThreshold r))

/-- VGLITCH trips when VDD or VDDS leaves its window for more than 5 ns (R449). -/
def vglitchTrips (v : Rail → Nat) (ns : Nat) : Bool :=
  (decide (v .vdd < 6900) || decide (8400 < v .vdd) || decide (v .vdds < 7400) || decide (9000 < v .vdds)) &&
    decide (5 < ns)

end Sys2Proof.Machine
end

