-- ==== Sys2Proof/Tests/Slice0.lean ====
section
/-! SUPPORT. Tests: ill-formed commands are refused, words written out from the spec's encodings decode to
their instructions, worked values of the spec, and a state that meets the hypotheses of each statement. -/

namespace Sys2Proof.Tests

open Sys2Proof.Machine

/-! ### Ill-formed commands -/

theorem test_wf_gateNotImplemented : Instr.wf (.gateNotImplemented 0 4 ⟨0, 0, 0⟩) = false := by decide
theorem test_wf_wellspring : Instr.wf (.wellspringRegeneration [1] ([], [])) = false := by decide
theorem test_wf_calibrationEnd : Instr.wf (.calibrationEnd 0 0 true [0]) = false := by decide
theorem test_wf_linkUp : Instr.wf (.linkUp 0 1 3 true) = false := by decide
theorem test_wf_registerWrite : Instr.wf (.registerWrite .shore 0x6001 0) = false := by decide
theorem test_wf_contextBlockRead : Instr.wf (.contextBlockRead 0 0 (some [])) = false := by decide
theorem test_wf_descriptorData_empty : Instr.wf (.descriptorData 0 0 (some [])) = false := by decide
theorem test_wf_descriptorData_cut : Instr.wf (.descriptorData 0 0 (some [0])) = false := by decide
theorem test_wf_descriptorData_long :
    Instr.wf (.descriptorData 0 0 (some (List.replicate 576 0))) = false := by decide +kernel
theorem test_wf_operandRead : Instr.wf (.operandRead 0 0 (some (List.replicate 4097 0))) = false := by
  show decide ((List.replicate 4097 (0 : Byte)).length ≤ 4096) = false
  rw [List.length_replicate]
  rfl
theorem test_wf_debugResponse : Instr.wf (.debugResponse [0]) = false := by decide
theorem test_wf_provisioning : Instr.wf (.gramondProvisioning [] [] ([], [])) = false := by decide
theorem test_wf_setupBarRead : Instr.wf (.setupBarRead 0 0 0) = false := by decide
theorem test_wf_sbTransactionEnd : Instr.wf (.sbTransactionEnd 0 none (List.replicate 257 0) 0) = false := by
  decide +kernel
theorem test_wf_illegal : Instr.wf (.illegalInstruction 0 0xC0000000) = false := by decide
theorem test_wf_plain : Instr.wf (.hostNop 0 0) = true := by decide

/-! ### Words of the pond core, bit by bit from Tables 4.8 to 4.17 -/

/-- ADD g3, g1, g2 with S 1: op 0, d 3, a 1, b 2, S 1, func 1. -/
theorem test_word_add : PondWord.decode 0 0 0x00C4A001 = some (.add 0 ⟨3, 1, 2, 1, 0⟩) := by decide
/-- MUL g3, g1, g2: op 1, func 1. -/
theorem test_word_mul : PondWord.decode 0 0 0x04C48001 = some (.mul 0 ⟨3, 1, 2, 0, 0⟩) := by decide
/-- ACCX g5 with sh 15: op 2, ext 15, func 4. -/
theorem test_word_accx : PondWord.decode 0 0 0x094003C4 = some (.accx 0 ⟨5, 0, 0, 0, 15⟩) := by decide
/-- EXTU g4, g2, pos 8, w 16: op 3, wm1 15, func 1. -/
theorem test_word_extu : PondWord.decode 0 0 0x0D090F01 = some (.extu 0 ⟨4, 2, 8, 15, 0⟩) := by decide
/-- ADDI g1, g2, −1: op 4. -/
theorem test_word_addi : PondWord.decode 0 0 0x104BFFFF = some (.addi 0 ⟨1, 2, 0x3FFFF⟩) := by decide
/-- LUI g7, 0x200000: op 0x0F. -/
theorem test_word_lui : PondWord.decode 0 0 0x3DE00000 = some (.lui 0 ⟨7, 0x200000⟩) := by decide
/-- LW g1, g2 + 8: op 0x14. -/
theorem test_word_lw : PondWord.decode 0 0 0x50480008 = some (.lw 0 ⟨1, 2, 8⟩) := by decide
/-- SD g4, g15 − 16: op 0x1B. -/
theorem test_word_sd : PondWord.decode 0 0 0x6D3FFFF0 = some (.sd 0 ⟨4, 15, 0x3FFF0⟩) := by decide
/-- Bcc EQ, −2 words: op 0x20. -/
theorem test_word_bcc : PondWord.decode 0 0 0x803FFFFE = some (.bcc 0 ⟨0, 0x3FFFFE⟩) := by decide
/-- CALL +4 words: op 0x21. -/
theorem test_word_call : PondWord.decode 0 0 0x84000004 = some (.call 0 ⟨4⟩) := by decide
/-- DBNZ g6, −1 word: op 0x24. -/
theorem test_word_dbnz : PondWord.decode 0 0 0x9183FFFF = some (.dbnz 0 ⟨6, 0, 0x3FFFF⟩) := by decide
/-- JR g14: op 0x25, func 1. -/
theorem test_word_jr : PondWord.decode 0 0 0x94380001 = some (.jr 0 ⟨0, 14, 0, 0, 0⟩) := by decide
/-- NOP is 0xC000_0000 (Table 4.17). -/
theorem test_word_nop : PondWord.decode 0 0 0xC0000000 = some (.nop 0 ⟨0, 0, 0⟩) := by decide
/-- WAITE 0x0F: sub 5. -/
theorem test_word_waite : PondWord.decode 0 0 0xC000500F = some (.waite 0 ⟨0, 0, 0x0F⟩) := by decide
/-- TBRD g2: sub 6. -/
theorem test_word_tbrd : PondWord.decode 0 0 0xC0806000 = some (.tbrd 0 ⟨2, 0, 0⟩) := by decide
/-- GATE 4: sub 2. -/
theorem test_word_gate : PondWord.decode 0 0 0xC0002004 = some (.idRead 0 ⟨0, 0, 0⟩) := by decide
/-- TRAP 0x123: sub 1. -/
theorem test_word_trap : PondWord.decode 0 0 0xC0001123 = some (.trap 0 ⟨0, 0, 0x123⟩) := by decide
/-- BMOV g3: op 0x38. -/
theorem test_word_bmov : PondWord.decode 0 7 0xE00C0000 = some (.bmov 0 ⟨0, 3, 0, 0, 0, 0⟩ 7) := by decide
/-- The erased and the zeroed word are unassigned (R101). -/
theorem test_word_erased :
    PondWord.unassigned 0 = true ∧ PondWord.unassigned 0xFFFFFFFF = true := by decide

/-! ### Values of the spec -/

/-- The check value of CRC-32C of "123456789" (Table 15.2). -/
theorem test_crc32c : crc32c [0x31, 0x32, 0x33, 0x34, 0x35, 0x36, 0x37, 0x38, 0x39] = 0xE3069283 := by
  decide +kernel
/-- SHL by 33 gives 0, and C receives the last bit shifted out, a 0 (R103). -/
theorem test_shl_past : (shlFlags 0xFFFFFFFF 33 ⟨false, false, true, false, false⟩) =
    (0, ⟨false, true, false, false, false⟩) := by decide
/-- A shift by 0 leaves C (R103). -/
theorem test_shr_zero : (shrFlags 1 0 ⟨false, false, true, false, false⟩).2.c = true := by decide
/-- 0x8000_0000 divided by −1 (Table 4.13). -/
theorem test_div_corner : divS 0x80000000 0xFFFFFFFF = (0x7FFFFFFF, 0, true) := by decide
/-- ADDS saturates and keeps the overflow (Table 4.10). -/
theorem test_adds : satFlags (0x7FFFFFFF + 1) ⟨false, false, false, false, false⟩ =
    (0x7FFFFFFF, ⟨false, false, false, true, true⟩) := by decide
/-- 0 V is code 0, 2.5 V clamps to 32,767, the most negative code is −32,767 (R158). -/
theorem test_codes : codeOf 0 = 0 ∧ codeOf 2500000000 = 32767 ∧ codeOf (-2500000000) = -32767 := by decide

/-! ### States for the hypotheses -/

/-- State.reset with pond 0 replaced. -/
def at0 (P : Pond) : State := withPond State.reset 0 P

@[simp] theorem at0_pond (P : Pond) : pondOf (at0 P) 0 = P := pondOf_withPond_self _ _ _

/-- A core that runs code in SRAM, its vector table at 0x2000_1000. -/
def tPond : Pond :=
  { Pond.reset with
    core := { Core.reset with run := .running, pc := 0x20000000 },
    regs := pondRegs0.set 0x00C 0x20001000,
    sram := [0x08, 0x0C, 0x10, 0x18, 0x1C, 0x20, 0x24].flatMap (fun o =>
      [(0x1001 + o, 1), (0x1003 + o, 0x20)]),
    life := { Life.reset with inService := true, started := true } }

/-- `tPond` with a general register. -/
def tReg (r : RegIx) (v : Word) : Pond := gset r v tPond

theorem at0_issues {P Q : Pond} (h : canIssue P = true) (f : fetchAt (stepUsed P) P.core.pc = (none, Q)) :
    Issues (at0 P) 0 Q := by
  unfold Issues
  rw [at0_pond]
  exact ⟨h, f⟩

theorem tPond_issues : Issues (at0 tPond) 0 tPond := at0_issues rfl rfl

/-- A clean word of a pond whose ECC record is clean. -/
theorem clean_of {P : Pond} {a : Nat} (h1 : a % 4 = 0) (h2 : 0x20000000 ≤ a ∧ a < 0x2001FFC0)
    (he : ∀ i, P.ecc.get i = 0) : CleanWord P a := ⟨h1, .inr (.inl ⟨h2, fun i _ _ => he i⟩)⟩

/-- An exception through the vector at `off` of `tReg r v` is taken, where the SRAM holds the vector. -/
theorem takes_of {P : Pond} {off : Nat} (h0 : P.core.gate = none ∧ P.core.df = false ∧ P.core.nest < 4)
    (h1 : (gr P 15).toNat = 0x2001FF00) (h2 : vectorAt P off % 4 = 0)
    (h3 : 0x20000000 ≤ vectorAt P off ∧ vectorAt P off < 0x2001FFC0) (he : ∀ i, P.ecc.get i = 0)
    (h4 : (loadPlain P (vectorAt P off) 4).1 = some 0x20000100) : CanTake P off 0x20000100 :=
  ⟨h0.1, h0.2.1, h0.2.2, by rw [h1], by rw [h1]; decide, by rw [h1]; decide, clean_of h2 h3 he, h4,
    clean_of (by decide) (by decide) he⟩

/-! ### The pond core's statements -/

theorem test_witness_AluRegisterGroup : ∃ c out s p Q, ∃ f : FmtA, AluRow c out ∧ Issues s p Q ∧ f.ext = 0 :=
  ⟨_, _, _, _, _, ⟨3, 1, 2, 1, 0⟩, .adds, tPond_issues, rfl⟩

theorem test_witness_ComparesSetFlagsOnly : ∃ s p Q, Issues s p Q ∧
    (∃ c out, TestRow c out ∧ ∃ f : FmtA, f.ext = 0 ∧ f.s = 0 ∧ f.d = 0) ∧
    (∃ c out, ImmTestRow c out ∧ ∃ f : FmtI, f.d = 0) :=
  ⟨_, _, _, tPond_issues, ⟨_, _, .cmp, ⟨0, 1, 2, 0, 0⟩, rfl, rfl, rfl⟩, _, _, .tsti, ⟨0, 1, 0x3FFFF⟩, rfl⟩

theorem test_witness_ImmediateGroup : ∃ s p Q, Issues s p Q ∧ ∃ c ok val, ImmRow c ok val ∧
    ∃ f : FmtI, ok f.imm = true :=
  ⟨_, _, _, tPond_issues, _, _, _, .sari, ⟨1, 2, 31⟩, rfl⟩

theorem test_witness_MultiplyAndDivide : ∃ s p Q, Issues s p Q ∧ (∃ c val, MulRow c val) ∧
    (∃ c val, DivRow c val) ∧ ∃ f : FmtA, f.ext = 0 ∧ f.s = 0 :=
  ⟨_, _, _, tPond_issues, ⟨_, _, .mulh⟩, ⟨_, _, .div⟩, ⟨3, 1, 2, 0, 0⟩, rfl, rfl⟩

theorem test_witness_AccGroup : ∃ s p Q, Issues s p Q ∧
    (∃ c op, AccRow c op ∧ ∃ f : FmtA, f.s = 0 ∧ f.ext = 0 ∧ f.d = 0) ∧
    (∃ f : FmtA, f.s = 0 ∧ f.a = 0 ∧ f.b = 0 ∧ f.ext.toNat = 63) ∧
    (∃ f : FmtA, f.s = 0 ∧ f.a = 0 ∧ f.b = 0 ∧ f.ext.toNat = 2) ∧
    (∃ f : FmtA, f.s = 0 ∧ f.d = 0 ∧ f.b = 0 ∧ f.ext.toNat = 2) ∧
    (∃ f : FmtA, f.s = 0 ∧ f.d = 0 ∧ f.a = 0 ∧ f.b = 0 ∧ f.ext = 0) :=
  ⟨_, _, _, tPond_issues, ⟨_, _, .mac, ⟨0, 1, 2, 0, 0⟩, rfl, rfl, rfl⟩, ⟨⟨5, 0, 0, 0, 63⟩, rfl, rfl, rfl, rfl⟩,
    ⟨⟨5, 0, 0, 0, 2⟩, rfl, rfl, rfl, rfl⟩, ⟨⟨0, 5, 0, 0, 2⟩, rfl, rfl, rfl, rfl⟩,
    ⟨0, 0, 0, 0, 0⟩, rfl, rfl, rfl, rfl, rfl⟩

theorem test_witness_BitFieldGroup : ∃ s p Q, Issues s p Q ∧
    (∃ c ok val, FieldRow c ok val ∧ ∃ f : FmtF, f.z = 0 ∧ ok f.pos.toNat f.wm1.toNat = true) ∧
    ∃ f : FmtF, f.z = 0 ∧ f.pos = 0 ∧ f.wm1 = 30 :=
  ⟨_, _, _, tPond_issues, ⟨_, _, _, .ins, ⟨4, 2, 31, 0, 0⟩, rfl, rfl⟩, ⟨4, 2, 0, 30, 0⟩, rfl, rfl, rfl⟩

theorem test_witness_Branches : ∃ s p Q, Issues s p Q ∧ (∃ f : FmtB, f.cond ≠ 15) ∧ (∃ f : FmtI, f.a = 0) ∧
    ∃ f : FmtA, f.d = 0 ∧ f.b = 0 ∧ f.s = 0 ∧ f.ext = 0 ∧ (gr Q f.a).toNat % 4 = 0 :=
  ⟨_, _, _, tPond_issues, ⟨⟨14, 1⟩, by decide⟩, ⟨⟨1, 0, 1⟩, rfl⟩, ⟨0, 14, 0, 0, 0⟩, rfl, rfl, rfl, rfl, rfl⟩

theorem test_witness_SystemGroup : ∃ s p Q, Issues s p Q ∧
    (∃ f : FmtS, f.a = 0 ∧ f.imm = 0 ∧ f.d = 0) ∧ ∃ f : FmtS, f.a = 0 ∧ f.imm = 0 ∧ f.d.toNat % 2 = 0 :=
  ⟨_, _, _, tPond_issues, ⟨⟨0, 0, 0⟩, rfl, rfl, rfl⟩, ⟨14, 0, 0⟩, rfl, rfl, rfl⟩

/-- The last words of SRAM that a load of each size reaches. -/
theorem test_witness_LoadsFromSram : ∃ s p Q, Issues s p Q ∧
    (∃ f : FmtI, inSram (effAddr Q f) ∧ ∃ c len ext, LoadRow c len ext ∧ effAddr Q f % len = 0 ∧
      eccClean Q (effAddr Q f) len) ∧
    ∃ f : FmtI, inSram (effAddr Q f) ∧ f.d.toNat % 2 = 0 ∧ effAddr Q f % 8 = 0 ∧ eccClean Q (effAddr Q f) 8 :=
  ⟨_, _, _, at0_issues (P := tReg 1 0x2001FFB8) rfl rfl,
    ⟨⟨2, 1, 6⟩, ⟨by decide, by decide⟩, _, _, _, .lh, by decide, fun _ _ _ => rfl⟩,
    ⟨4, 1, 0⟩, ⟨by decide, by decide⟩, rfl, by decide, fun _ _ _ => rfl⟩

theorem test_witness_StoresThroughTheStoreBuffer : ∃ s p Q, Issues s p Q ∧
    (∃ f : FmtI, inSram (effAddr Q f) ∧ ∃ c len, StoreRow c len ∧ effAddr Q f % len = 0 ∧
      (len < 4 → eccClean Q (effAddr Q f / 4 * 4) 4)) ∧
    ∃ f : FmtI, inSram (effAddr Q f) ∧ f.d.toNat % 2 = 0 ∧ effAddr Q f % 8 = 0 :=
  ⟨_, _, _, at0_issues (P := tReg 1 0x2001FFB8) rfl rfl,
    ⟨⟨2, 1, 7⟩, ⟨by decide, by decide⟩, _, _, .sb, by decide, fun _ _ _ _ => rfl⟩,
    ⟨4, 1, 0⟩, ⟨by decide, by decide⟩, rfl, by decide⟩

/-- `tReg` with send port 31 defined, and a post through a sluice that is not open and one through none. -/
def postPond (port : Nat) : Pond :=
  { tReg 1 0x500000F8 with
    sendRec := [(60, 0xC0000000), (62, 0x80000000)],
    core := { (tReg 1 0x500000F8).core with pb := [⟨0, port, false, 5, 0, 0, 0⟩] } }

theorem test_witness_PostsGoThroughThePostBuffer :
    (∃ s p Q, Issues s p Q ∧ ∃ (f : FmtI) (n : Nat), n < 32 ∧ effAddr Q f = 0x50000000 + 8 * n ∧
      bit (Q.sendRec.get (2 * n)) 31 = true ∧ f.d.toNat % 2 = 0) ∧
    (∃ s p x r, (pondOf s p).core.pb = x :: r ∧ (pondOf s p).life.incWait = false ∧
      bit (sendWord (pondOf s p) x.port) 31 = true ∧ bit (sendWord (pondOf s p) x.port) 30 = false) ∧
    (∃ s p x r, (pondOf s p).core.pb = x :: r ∧ (pondOf s p).life.incWait = false ∧
      bit (sendWord (pondOf s p) x.port) 31 = true ∧
      slOpenAt (pctx s p) (fld (sendWord (pondOf s p) x.port) 16 8) x.epoch = false ∧
      bit (sendWord (pondOf s p) x.port) 30 = true) := by
  refine ⟨⟨at0 (postPond 31), 0, postPond 31, at0_issues rfl rfl, ⟨2, 1, 0⟩, 31, ?_⟩,
    ⟨at0 (postPond 31), 0, ⟨0, 31, false, 5, 0, 0, 0⟩, [], ?_⟩, ⟨at0 (postPond 30), 0, ⟨0, 30, false, 5, 0, 0, 0⟩, [], ?_⟩⟩ <;>
    simp only [at0_pond] <;> decide

/-- `tPond` with latches, in a wait. -/
def waitPond (e : BitVec 8) (r : Run) : Pond := { tPond with core := { tPond.core with evt := e, run := r } }

/-- A wait whose latch is set, with IE 1 and source 0 pending at priority 1, or with IE 0. -/
def wakePond (b : Bool) : Pond :=
  { tPond with
    core := { tPond.core with ie := b, run := .waiting 32, evt := 32 }, pic := ⟨1, 0, 0⟩,
    regs := tPond.regs.set 0x120 1 }

theorem test_witness_WaitsComplete :
    (∃ s p Q, Issues s p Q ∧ ∃ f : FmtS, f.d = 0 ∧ f.a = 0 ∧ f.imm ≠ 0 ∧ f.imm.toNat < 256 ∧
      Q.core.evt &&& f.imm.setWidth 8 = 0) ∧
    (∃ s p Q, Issues s p Q ∧ ∃ f : FmtS, f.d = 0 ∧ f.a = 0 ∧ f.imm.toNat = 255 ∧
      Q.core.evt &&& f.imm.setWidth 8 ≠ 0) ∧
    (∀ b, ∃ s p m, (pondOf s p).core.run = .waiting m ∧ (pondOf s p).core.evt &&& m ≠ 0 ∧
      (pondOf s p).core.halted = false ∧ irqDue (pondOf s p) = b) ∧
    (∃ s p Q, Issues s p Q ∧ ∃ f : FmtS, f.d = 0 ∧ f.a = 0 ∧ f.imm.toNat = 3) ∧
    (∃ s p m, (pondOf s p).core.run = .fencing m ∧ m = 3 ∧ (pondOf s p).core.sb = [] ∧
      (pondOf s p).core.pb = [] ∧ (pondOf s p).core.halted = false) := by
  refine ⟨⟨_, _, _, tPond_issues, ⟨0, 0, 1⟩, by decide⟩,
    ⟨_, _, _, at0_issues (P := waitPond 128 .running) rfl rfl, ⟨0, 0, 255⟩, by decide⟩,
    fun b => ⟨at0 (wakePond b), 0, 32, ?_⟩, ⟨_, _, _, tPond_issues, ⟨0, 0, 3⟩, by decide⟩,
    ⟨at0 (waitPond 0 (.fencing 3)), 0, 3, ?_⟩⟩ <;> simp only [at0_pond]
  · revert b; decide
  · decide

theorem test_witness_SoftwareExceptions : ∃ s p Q h, Issues s p Q ∧ CanTake Q 0x18 h ∧ CanTake Q 0x20 h ∧
    CanTake Q 0x08 h ∧ CanTake Q 0x1C h ∧ bit s.shore.keys.unlocked p.val = false ∧
    (∃ f : FmtS, f.d = 0 ∧ f.a = 0 ∧ f.imm = 0) ∧ (∃ w, PondWord.unassigned w = true) ∧
    (∃ n : BitVec 8, n.toNat = 5) ∧ ∃ f : FmtG, f.d = 0 ∧ f.a = 0 ∧ f.hi = 0 :=
  ⟨_, _, _, 0x20000100, at0_issues (P := tReg 1 0) rfl rfl, takes_of (by decide) rfl rfl (by decide) (fun _ => rfl) rfl, takes_of (by decide) rfl rfl (by decide) (fun _ => rfl) rfl,
    takes_of (by decide) rfl rfl (by decide) (fun _ => rfl) rfl, takes_of (by decide) rfl rfl (by decide) (fun _ => rfl) rfl, by decide,
    ⟨⟨0, 0, 0⟩, rfl, rfl, rfl⟩, ⟨0, by decide⟩, ⟨5, rfl⟩, ⟨0, 0, 0⟩, rfl, rfl, rfl⟩

/-- BRK with the pond unlocked. -/
theorem test_witness_SoftwareExceptions_unlocked : ∃ s p Q, Issues s p Q ∧
    bit s.shore.keys.unlocked p.val = true :=
  ⟨{ at0 tPond with shore := { Shore.reset with keys := { Keys.reset with unlocked := 1 } } }, 0, tPond,
    tPond_issues, by decide⟩

/-- An address that is not aligned, the first byte of the boundary record, the last word of an unmapped range. -/
theorem test_witness_BadAccessesRaise :
    (∃ s p Q h, Issues s p Q ∧ CanTake Q 0x0C h ∧ (∃ f : FmtI, effAddr Q f % 4 ≠ 0) ∧
      ∃ f : FmtA, f.d = 0 ∧ f.b = 0 ∧ f.s = 0 ∧ f.ext = 0 ∧ (gr Q f.a).toNat % 4 ≠ 0) ∧
    (∃ s p Q h, Issues s p Q ∧ CanTake Q 0x10 h ∧ ∃ f : FmtI, effAddr Q f = 0x2001FFC0) ∧
    (∃ s p Q h, Issues s p Q ∧ CanTake Q 0x10 h ∧ ∃ f : FmtI, effAddr Q f = 0x2FFFFFFC) :=
  ⟨⟨_, _, _, 0x20000100, at0_issues (P := tReg 1 0x20000002) rfl rfl, takes_of (by decide) rfl rfl (by decide) (fun _ => rfl) rfl, ⟨⟨2, 1, 0⟩, by decide⟩,
      ⟨0, 1, 0, 0, 0⟩, rfl, rfl, rfl, rfl, by decide⟩,
    ⟨_, _, _, 0x20000100, at0_issues (P := tReg 1 0x2001FFC0) rfl rfl, takes_of (by decide) rfl rfl (by decide) (fun _ => rfl) rfl, ⟨2, 1, 0⟩, by decide⟩,
    ⟨_, _, _, 0x20000100, at0_issues (P := tReg 1 0x2FFFFFFC) rfl rfl, takes_of (by decide) rfl rfl (by decide) (fun _ => rfl) rfl, ⟨2, 1, 0⟩, by decide⟩⟩

/-- `tPond` in a handler, and in the body of gate 0. -/
def handlerPond : Pond := { tPond with core := { tPond.core with nest := 1 } }
def gatePond : Pond := { tPond with core := { tPond.core with gate := some 0 } }

theorem test_witness_ReteRestores :
    (∃ s p Q, Issues s p Q ∧ (∃ f : FmtS, f.d = 0 ∧ f.a = 0 ∧ f.imm = 0) ∧ Q.core.df = false ∧ 1 ≤ Q.core.nest ∧
      (gr Q 15).toNat % 8 = 0 ∧ 0x20000000 ≤ (gr Q 15).toNat ∧ (gr Q 15).toNat + 16 ≤ 0x2001FFC0 ∧
      eccClean Q (gr Q 15).toNat 16) ∧
    (∃ s p, (pondOf s p).core.gate = some 0 ∧ (pondOf s p).core.run = .running ∧ heldBack (pondOf s p) = false) :=
  ⟨⟨_, _, handlerPond, at0_issues (P := handlerPond) rfl rfl, ⟨⟨0, 0, 0⟩, rfl, rfl, rfl⟩, rfl, by decide, by decide, by decide,
      by decide, fun _ _ _ => rfl⟩, at0 gatePond, 0, by simp only [at0_pond]; decide⟩

/-- Source 0 pending at priority 1, IE 1. -/
def irqPond (r : Run) : Pond :=
  { tPond with
    core := { tPond.core with ie := true, run := r }, pic := ⟨1, 0, 0⟩, regs := tPond.regs.set 0x120 1 }

theorem test_witness_InterruptIsTaken : ∃ h, (∃ s p, irqDue (pondOf s p) = true ∧
      (pondOf s p).core.halted = false ∧ (pondOf s p).core.stalled = none ∧ (pondOf s p).core.long = none ∧
      (pondOf s p).core.run = .running ∧ CanTake (pondOf s p) 0x24 h) ∧
    ∃ s p, irqDue (pondOf s p) = true ∧
      (pondOf s p).core.halted = false ∧ (pondOf s p).core.stalled = none ∧ (pondOf s p).core.long = none ∧
      (pondOf s p).core.run = .waiting 1 ∧ CanTake (pondOf s p) 0x24 h := by
  refine ⟨0x20000100, ⟨at0 (irqPond .running), 0, ?_⟩, at0 (irqPond (.waiting 1)), 0, ?_⟩ <;>
  · simp only [at0_pond]
    exact ⟨by decide, rfl, rfl, rfl, rfl,
      takes_of (by decide) rfl rfl (by decide) (fun _ => rfl) rfl⟩

/-- Gate arguments at the ends of their ranges (Table 5.8). -/
def gateArgs (a b : Word) (op : Option FlashOp) : Pond :=
  { gset 1 b (gset 0 a tPond) with pfl := { Pfl.reset with op := op } }

theorem test_witness_GateServices : ∃ f : FmtG, f.d = 0 ∧ f.a = 0 ∧ f.hi = 0 ∧
    (∃ s p Q, Issues s p Q ∧ Q.core.gate = none ∧ (gr Q 0).toNat = 63 ∧ Q.pfl.op = none) ∧
    (∃ s p Q, Issues s p Q ∧ Q.core.gate = none ∧ (gr Q 0).toNat ≤ 63 ∧ Q.pfl.op ≠ none) ∧
    (∃ s p Q, Issues s p Q ∧ Q.core.gate = none ∧ (gr Q 0).toNat = 0x3FFE0 ∧ (gr Q 0).toNat % 32 = 0 ∧
      (gr Q 1).toNat % 4 = 0 ∧ 0x20000000 ≤ (gr Q 1).toNat ∧ (gr Q 1).toNat + 32 = 0x2001FF00 ∧
      eccClean Q (gr Q 1).toNat 32 ∧ Q.pfl.op = none) ∧
    (∃ s p Q, Issues s p Q ∧ Q.core.gate = none ∧ (gr Q 0).toNat = 1 ∧ (gr Q 1).toNat % 4 = 0 ∧
      0x20000000 ≤ (gr Q 1).toNat ∧ (gr Q 1).toNat + 48 = 0x2001FF00 ∧
      (convOf Q (gr Q 0).toNat).factors.length = 12) ∧
    (∃ s p Q, Issues s p Q ∧ Q.core.gate = none ∧ (gr Q 0).toNat % 4 = 0 ∧ 0x20000000 ≤ (gr Q 0).toNat ∧
      (gr Q 0).toNat + 32 = 0x2001FF00) :=
  ⟨⟨0, 0, 0⟩, rfl, rfl, rfl,
    ⟨_, _, _, at0_issues (P := gateArgs 63 0 none) rfl rfl, rfl, by decide, rfl⟩,
    ⟨_, _, _, at0_issues (P := gateArgs 0 0 (some ⟨1, true, 0, [], 0⟩)) rfl rfl, rfl, by decide, by decide⟩,
    ⟨_, _, _, at0_issues (P := gateArgs 0x3FFE0 0x2001FEE0 none) rfl rfl, rfl, by decide, by decide, by decide, by decide, by decide,
      fun _ _ _ => rfl, rfl⟩,
    ⟨_, _, _, at0_issues (P := gateArgs 1 0x2001FED0 none) rfl rfl, rfl, by decide, by decide, by decide, by decide, by decide⟩,
    ⟨_, _, _, at0_issues (P := gateArgs 0x2001FEE0 0 none) rfl rfl, rfl, by decide, by decide, by decide⟩⟩

/-- A record at 0x2000_2000 that copies 3 bytes from 0x2000_3000 to 0x2000_4000. -/
def bmovPond : Pond :=
  { tReg 1 0x20002000 with sram := [(0x2009, 0x30), (0x200B, 0x20), (0x200D, 0x40), (0x200F, 0x20), (0x2010, 3),
      (0x2014, 3), (0x3000, 7)] }

theorem test_witness_BmovCopies : ∃ s p Q f units base src dst n, Issues s p Q ∧ f = FmtL.mk 0 1 0 0 0 0 ∧
    base = (gr Q f.a).toNat ∧ base % 32 = 0 ∧ 0x20000000 ≤ base ∧ base + 32 ≤ 0x2001FFC0 ∧
    sramValue Q base 1 = 0 ∧ sramValue Q (base + 8) 4 = src ∧ sramValue Q (base + 12) 4 = dst ∧
    sramValue Q (base + 16) 4 = n ∧
    0x20000000 ≤ src ∧ src + n ≤ 0x2001FFC0 ∧ 0x20000000 ≤ dst ∧ dst + n ≤ 0x2001FFC0 ∧
    (dst + n ≤ base ∨ base + 32 ≤ dst) ∧ (∀ i, Q.ecc.get i = 0) ∧ n ≤ 32 * units :=
  ⟨at0 bmovPond, 0, bmovPond, _, 1, 0x20002000, 0x20003000, 0x20004000, 3, at0_issues rfl rfl, rfl,
    by decide, by decide, by decide, by decide, by decide, by decide, by decide, by decide, by decide, by decide,
    by decide, by decide, by decide, fun _ => rfl, by decide⟩

/-- The same record completes in one command. -/
theorem test_witness_LongInstructionsComplete : ∃ s p Q, ∃ f : FmtL, ∃ units base, Issues s p Q ∧ f.d = 0 ∧
    f.b = 0 ∧ f.s = 0 ∧ f.ext = 0 ∧ f.func = 0 ∧ base = (gr Q f.a).toNat ∧ base % 32 = 0 ∧ 0x20000000 ≤ base ∧
    base + 32 ≤ 0x2001FFC0 ∧ sramValue Q base 1 = 0 ∧ (∀ i, Q.ecc.get i = 0) ∧
    ∃ c o, LongRow c o (readRec (drainSb Q) base) base Q.core.pc Q.pfl.op.isSome ∧ o.fault = none ∧
      (longUnits o units 0 (charge 6 0 (drainSb Q))).1 = none ∧
      (longUnits o units 0 (charge 6 0 (drainSb Q))).2.1 = o.total :=
  ⟨at0 bmovPond, 0, bmovPond, ⟨0, 1, 0, 0, 0, 0⟩, 1, 0x20002000, at0_issues rfl rfl, rfl, rfl, rfl, rfl, rfl,
    by decide, by decide, by decide, by decide, by decide, fun _ => rfl, _, _, .bmov _ _ _ _, by decide +kernel,
    by decide +kernel, by decide +kernel⟩

/-! ### The interrupt controller, sampling and capture -/

theorem test_witness_ClaimTakesTheChosenSource :
    (∃ s p, Chosen (pondOf s p) 95) ∧ ∃ s p, ∀ n < 96, ¬ Deliverable (pondOf s p) n := by
  refine ⟨⟨at0 { tPond with pic := ⟨2 ^ 95, 0, 0⟩, regs := tPond.regs.set 0x14C 0x20000000 }, 0, ?_⟩, at0 tPond, 0, ?_⟩ <;>
    simp only [at0_pond]
  · unfold Chosen Deliverable
    decide +kernel
  · unfold Deliverable
    decide +kernel

/-- A trigger of source 95 and of number 96. -/
theorem test_witness_EventsAndCompletions : ∃ v w : Word, v.getLsbD 7 = true ∧ v.toNat % 128 = 95 ∧
    w.getLsbD 7 = true ∧ w.toNat % 128 = 96 := ⟨0xDF, 0xE0, by decide⟩

theorem test_witness_CheckValueUnits : ∀ n ∈ [1, 4], ∃ s p, fld (cvuCfg (pondOf s p) 1) 20 3 = n ∧
    bit (cvuCfg (pondOf s p) 1) 19 = true := by
  intro n hn
  refine ⟨at0 { tPond with regs := tPond.regs.set 0x54C (BitVec.ofNat 32 (0x100000 * n + 0x80000)) }, 0, ?_⟩
  simp only [at0_pond]
  revert n
  decide +kernel

/-- Converter 1 ready, with an edge that comes in the last instant of the burst before, or after its end. -/
def trigPond (t : Nat) (src : Word) : Pond :=
  { tPond with
    conv := vset tPond.conv 1 { convOf tPond 1 with ready := true, trigs := [⟨.gss, 1, t, t⟩], busyTill := 800 },
    regs := (tPond.regs.set 0x200 2).set 0x214 src }

theorem test_witness_ConverterTriggers :
    (∀ t ∈ [799, 800], ∃ s p e, NoCal (pondOf s p) ∧ bit (rg (pondOf s p) 0x200) 1 = true ∧
      (convOf (pondOf s p) 1).ready = true ∧ (convOf (pondOf s p) 1).trigs = [e] ∧ e.t = t) ∧
    ∃ s p, NoCal (pondOf s p) ∧ bit (rg (pondOf s p) 0x200) 1 = true ∧ (convOf (pondOf s p) 1).ready = true ∧
      fld (rg (pondOf s p) 0x214) 0 3 = 3 ∧ (convOf (pondOf s p) 1).busyTill ≤ 16 * s.ns := by
  unfold NoCal
  refine ⟨fun t ht => ⟨at0 (trigPond t 1), 0, ⟨.gss, 1, t, t⟩, ?_⟩, { at0 (trigPond 0 3) with ns := 50 }, 0, ?_⟩
  · simp only [at0_pond]
    revert t
    decide +kernel
  · show (∀ n < 2, _) ∧ _
    decide +kernel

theorem test_witness_SlotResults : ∃ s p b, (convOf (pondOf s p) 0).burst = some b ∧ b.next < b.slots.length ∧
    b.slots.length = 8 := by
  refine ⟨at0 { tPond with conv := vset tPond.conv 0 { convOf tPond 0 with
    burst := some ⟨⟨.sw, 0, 0, 0⟩, false, List.replicate 8 0, 7⟩ } }, 0, ⟨⟨.sw, 0, 0, 0⟩, false, List.replicate 8 0, 7⟩, ?_⟩
  simp only [at0_pond]
  decide +kernel

/-- Factors at their limits pass; the gain below its limit does not. -/
theorem test_witness_Calibration :
    (∃ s p v, NoCal (pondOf s p) ∧ ¬ ((v : Word).getLsbD 1 = true ∧ v.getLsbD 8 = true)) ∧
    (∀ e ∈ [none, some 5], ∃ s p q, (convOf (pondOf s p) 1).cal = some q ∧ q.endEp = e ∧
      s.shore.boot.phase < 3) ∧
    (∀ well, ∃ s q, ∃ p : PondId, (convOf (pondOf s p) 1).cal = some q ∧ q.endEp = none ∧
      s.shore.boot.applied = false ∧ 3 = s.shore.boot.phase ∧ s.shore.boot.bistWait = 0 ∧
      (∀ (m : PondId) (x : Fin 2), (m, x) ≠ (p, 1) → (pondOf s m).life.inService = true →
        (convOf (pondOf s m) x.val).cal = none) ∧ s.shore.boot.wellWait = well) ∧
    (∃ f : List Word, f.length = 12 ∧ FactorsPass f) ∧ ∃ f : List Word, f.length = 12 ∧ ¬ FactorsPass f := by
  refine ⟨⟨at0 tPond, 0, 1, ?_⟩, fun e he => ⟨at0 { tPond with conv := vset tPond.conv 1 { convOf tPond 1 with
    cal := some ⟨e, false, none⟩ } }, 0, ⟨e, false, none⟩, ?_⟩,
    fun well => ⟨onBoot (fun b => { b with phase := 3, wellWait := well })
      (at0 { tPond with conv := vset tPond.conv 1 { convOf tPond 1 with cal := some ⟨none, false, none⟩ } }),
      ⟨none, false, none⟩, 0, ?_⟩,
    ⟨[16384, 0x83D70A3D] ++ List.replicate 10 (BitVec.ofInt 32 (-1024)), ?_⟩, List.replicate 12 0, ?_⟩
  · unfold NoCal
    simp only [at0_pond]
    decide +kernel
  · simp only [at0_pond]
    exact ⟨rfl, trivial, by decide +revert⟩
  · revert well; decide +kernel
  · unfold FactorsPass
    decide +kernel
  · unfold FactorsPass
    decide +kernel

theorem test_witness_CaptureReads :
    (∃ s p w e r, (pondOf s p).cbuf = (w, e) :: r ∧ (rg (pondOf s p) 0x27C).getLsbD 31 = false) ∧
    (∃ s p, (pondOf s p).cbuf ≠ [] ∧ (rg (pondOf s p) 0x27C).getLsbD 31 = true) ∧
    (∃ s p w r, (pondOf s p).cap.fifo[(3 : Fin 4)] = w :: r) ∧ ∃ s p, (pondOf s p).cap.fifo[(3 : Fin 4)] = [] := by
  refine ⟨⟨at0 { tPond with cbuf := [(7, 1)] }, 0, 7, 1, [], ?_⟩,
    ⟨at0 { tPond with cbuf := [(7, 1)], regs := tPond.regs.set 0x27C 0x80000000 }, 0, ?_⟩,
    ⟨at0 { tPond with cap := { tPond.cap with fifo := tPond.cap.fifo.set 3 [9] } }, 0, 9, [], ?_⟩, at0 tPond, 0, ?_⟩ <;>
    simp only [at0_pond] <;> decide +kernel

/-- Comparator 1 enabled with a hysteresis of 20 mV and the code 256 of 0.625 V, above or (POL) below which it is
active, and FLT_1 low. -/
def cmpPond (out blank pol : Bool) : Pond :=
  { tPond with
    cmp := vset tPond.cmp 1 ⟨out, blank, 0, false⟩,
    regs := ((tPond.regs.set 0x304 (0x00800031 + cond pol 0x40 0)).set 0x30C 256).set 0x500 0x08002000 }

/-- Voltages of comparator 1 as R173 takes them. -/
def cmpBeyond (P : Pond) (nv : Int) : Prop :=
  let level := 2500000000 * ((rg P 0x30C).extractLsb' 0 10).toInt
  if bit (rg P 0x304) 6 then 1024 * nv < level else level < 1024 * nv

def cmpBack (P : Pond) (nv : Int) : Prop :=
  let level := 2500000000 * ((rg P 0x30C).extractLsb' 0 10).toInt
  let hyst : Int := 1024000000 * [0, 5, 10, 20].getD (fld (rg P 0x304) 4 2) 0
  if bit (rg P 0x304) 6 then level + hyst < 1024 * nv else 1024 * nv < level - hyst

/-- FLT_1 active high, at a level. -/
def fltPond (b : Bool) : Pond :=
  { tPond with cap := { tPond.cap with pins := cond b 2 0 }, regs := tPond.regs.set 0x500 0 }

theorem test_witness_ForcesAtTheBalls :
    (∀ b (_ : Bool), ∃ s p nv, bit (rg (pondOf s p) 0x304) 0 = true ∧ (cmpOf (pondOf s p) 1).done = false ∧
      cmpBeyond (pondOf s p) nv ∧
      (cmpOf (pondOf s p) 1).blank = b ∧ bit (rg (pondOf s p) 0x304) 23 = true) ∧
    (∀ pol, ∃ s p nv, cmpBack (pondOf s p) nv ∧ bit (rg (pondOf s p) 0x304) 6 = pol) ∧
    (∀ pol, ∃ s p nv, ¬ cmpBack (pondOf s p) nv ∧ ¬ cmpBeyond (pondOf s p) nv ∧
      bit (rg (pondOf s p) 0x304) 6 = pol) ∧
    (∃ s p, (cmpOf (pondOf s p) 1).blank = true ∧ (cmpOf (pondOf s p) 1).out = true ∧
      (cmpOf (pondOf s p) 1).done = false) ∧
    (∀ b, ∃ s p, (cmpOf (pondOf s p) 1).out = b) ∧ (∃ m : BitVec 2, m.getLsbD 1 = true) ∧
    ∀ b, ∃ s p, fltActive (pondOf s p) 1 = b := by
  refine ⟨fun b pol => ⟨at0 (cmpPond false b pol), 0, cond pol 624999999 625000001, ?_⟩,
    fun pol => ⟨at0 (cmpPond true false pol), 0, cond pol 645000001 604999999, ?_⟩,
    fun pol => ⟨at0 (cmpPond true false pol), 0, cond pol 645000000 605000000, ?_⟩,
    ⟨at0 (cmpPond true true false), 0, ?_⟩,
    fun b => ⟨at0 (cmpPond b false false), 0, ?_⟩, ⟨2, by decide⟩,
    fun b => ⟨at0 (fltPond b), 0, ?_⟩⟩ <;> simp only [at0_pond]
  · unfold cmpBeyond; revert b pol; decide +kernel
  · unfold cmpBack; revert pol; decide +kernel
  · unfold cmpBack cmpBeyond; revert pol; decide +kernel
  · decide +kernel
  · revert b; decide +kernel
  · revert b; decide +kernel
/-! ### Timers, pulses, lanes -/

/-- All edges of every FIFO selected, the pins low or high, a FIFO with `n` entries. -/
def capPond (n : Nat) (pins : BitVec 4) : Pond :=
  { tPond with cap := { tPond.cap with pins := pins, fifo := tPond.cap.fifo.set 3 (List.replicate n 0) },
               regs := tPond.regs.set 0x500 0xFF }

/-- Timer 7 armed at its largest value, and a copy that has reached it or is one short. -/
def etPond (tb : BitVec 64) : Pond :=
  { tPond with tb := tb, regs := (tPond.regs.set 0x49C 0xFFFFFFFF).set 0x4BC 0xFFFFFFFF }

theorem test_witness_CaptureUnitsAndTimers :
    (∀ n ∈ [3, 4], ∀ level, ∃ s p, bit (rg (pondOf s p) 0x500) 17 = false ∧
      bit (pondOf s p).cap.pins 3 = !level ∧ bit (rg (pondOf s p) 0x500) (6 + b2n (!level)) = true ∧
      (pondOf s p).cap.fifo[(3 : Fin 4)].length = n) ∧
    (∃ s p, (rg (pondOf s p) 0x4BC).getLsbD 31 = true ∧
      2 ^ 32 * fld (rg (pondOf s p) 0x4BC) 0 31 + (rg (pondOf s p) 0x49C).toNat = (pondOf s p).tb.toNat) ∧
    ∃ s p, (rg (pondOf s p) 0x4BC).getLsbD 31 = true ∧
      (pondOf s p).tb.toNat + 1 = 2 ^ 32 * fld (rg (pondOf s p) 0x4BC) 0 31 + (rg (pondOf s p) 0x49C).toNat := by
  refine ⟨fun n hn level => ⟨at0 (capPond n (cond level 0 15)), 0, ?_⟩,
    ⟨at0 (etPond (2 ^ 63 - 1)), 0, ?_⟩, at0 (etPond (2 ^ 63 - 2)), 0, ?_⟩ <;> simp only [at0_pond]
  · revert level n; decide +kernel
  · decide +kernel
  · decide +kernel

/-- Generator 3 with its configuration word. -/
def pgPond (cfg : Word) (g : Pg) : Pond := { tPond with regs := tPond.regs.set 0x39C cfg, pg := vset tPond.pg 3 g }

theorem test_witness_PulseArming :
    (∃ s p, fld (pgCfg (pondOf s p) 3) 3 2 = 2 ∧ (pgOf (pondOf s p) 3).endCycle ≠ some (pctx s p).cyc) ∧
    (∃ s p, ∃ m : BitVec 4, m.getLsbD 3 = true ∧ (pgOf (pondOf s p) 3).armCycle ≠ some (pctx s p).cyc) ∧
    (∃ s p, pgSlave (pondOf s p) 3 = false ∧ bit (pgCfg (pondOf s p) 3) 0 = false ∧
      (pgOf (pondOf s p) 3).grid = .stopped) ∧
    ∃ s p, pgSlave (pondOf s p) 3 = false ∧ bit (pgCfg (pondOf s p) 3) 0 = true := by
  refine ⟨⟨at0 (pgPond 0x10 (pgOf tPond 3)), 0, ?_⟩, ⟨at0 (pgPond 0 (pgOf tPond 3)), 0, 8, ?_⟩,
    ⟨at0 (pgPond 0 (pgOf tPond 3)), 0, ?_⟩, at0 (pgPond 1 (pgOf tPond 3)), 0, ?_⟩ <;>
    simp only [at0_pond] <;> decide +kernel

/-- Generator 3 in a grid, with its period and duty. -/
def gridPond (grid : PgGrid) (fresh armed : Bool) (duty : Nat) : Pond :=
  pgPond 1 { pgOf tPond 3 with grid := grid, fresh := fresh, armed := armed, duty := duty, period := 8 }

theorem test_witness_PulsePeriods :
    (∀ b, ∃ s p, pgSlave (pondOf s p) 3 = false ∧ Undisturbed (pondOf s p) 3 (pctx s p).cyc ∧
      (pgOf (pondOf s p) 3).held = none ∧ (pgOf (pondOf s p) 3).move = false ∧
      (pgOf (pondOf s p) 3).grid = .running ∧ (pgOf (pondOf s p) 3).fresh = b) ∧
    (∀ gap b, ∃ s p, pgSlave (pondOf s p) 3 = false ∧ Undisturbed (pondOf s p) 3 (pctx s p).cyc ∧
      (pgOf (pondOf s p) 3).held = none ∧ (pgOf (pondOf s p) 3).grid = .waiting gap ∧
      (pgOf (pondOf s p) 3).fresh = b) ∧
    ∃ s p, pgSlave (pondOf s p) 3 = false ∧ (pgOf (pondOf s p) 3).grid = .running ∧
      (pgOf (pondOf s p) 3).armed = true ∧ pgPaired (pondOf s p) 3 = false ∧ 0 < (pgOf (pondOf s p) 3).duty ∧
      0 < (pgOf (pondOf s p) 3).period ∧ (pgTimes (pondOf s p) 3).2 < (pgOf (pondOf s p) 3).period := by
  have u : ∀ g f a d cy, Undisturbed (gridPond g f a d) 3 cy := fun _ _ _ _ _ =>
    ⟨fun _ hx => (nomatch hx), (nomatch ·)⟩
  refine ⟨fun b => ⟨at0 (gridPond .running b false 0), 0, ?_⟩,
    fun gap b => ⟨at0 (gridPond (.waiting gap) b false 0), 0, ?_⟩,
    at0 (gridPond .running false true 7), 0, ?_⟩ <;> simp only [at0_pond]
  · exact ⟨by revert b; decide, u _ _ _ _ _, rfl, rfl, rfl, rfl⟩
  · exact ⟨by revert b gap; decide, u _ _ _ _ _, rfl, rfl, rfl⟩
  · decide +kernel

theorem test_witness_LaneOutputs :
    (∃ s p z r, (laneOf (pondOf s p) 1).runs = z :: r ∧ z.mode = 1 ∧ z.tgtEn = true ∧ z.target < 4 ∧
      (pgOf (pondOf s p) z.target).held = none ∧ fld (pgCfg (pondOf s p) z.target) 3 2 = 1 ∧
      z.duty + 1 = 2 ^ 21) ∧
    ∃ s p, fld (rg (pondOf s p) 0x408) 0 5 = 17 ∧ fld (rg (pondOf s p) 0x408) 8 1 = 1 ∧
      bit (rg (pondOf s p) 0x400) 31 = false := by
  refine ⟨⟨at0 { pgPond 8 (pgOf tPond 3) with lane := vset tPond.lane 1 { laneOf tPond 1 with
      runs := [⟨⟨.gss, 1, 0, 0⟩, 1, -5, 7, 0x1FFFFF, 0, true, 3⟩] } }, 0, ⟨⟨.gss, 1, 0, 0⟩, 1, -5, 7, 0x1FFFFF, 0, true, 3⟩,
      [], ?_⟩, at0 { tPond with regs := tPond.regs.set 0x408 0x111 }, 0, ?_⟩ <;>
    simp only [at0_pond] <;> decide +kernel

/-! ### The sideband bus -/

/-- The controller enabled, with a status word and a command. -/
def sbPond (ctrl st : Word) (c : Option Word) (started : Bool) : Pond :=
  { tPond with
    regs := ((tPond.regs.set 0x580 ctrl).set 0x584 st).set 0x58C 63,
    sb := { tPond.sb with cmd := c, started := started, roundAt := some 0, resetTill := some 0, bus := some (0, none) } }

/-- A transfer of 256 bytes each way, a group command of no byte, and a command that is none. -/
theorem test_witness_SidebandCommands : ∃ s p, bit (rg (pondOf s p) 0x580) 0 = true ∧
    (∃ s2 p2, bit (rg (pondOf s2 p2) 0x580) 0 = true ∧ bit (rg (pondOf s2 p2) 0x584) 31 = true) ∧
    bit (rg (pondOf s p) 0x584) 31 = false ∧ (pondOf s p).sb.roundAt = some 1 ∧ s.ns = 0 ∧
    bit (rg (pondOf s p) 0x584) 29 = false ∧
    (∃ w : Word, fld w 30 2 = 0 ∧ fld w 19 9 = 256 ∧ fld w 10 9 = 256 ∧ ¬ (bit w 28 = true ∧ fld w 19 9 = 0)) ∧
    (∃ w : Word, 2 ≤ fld w 30 2) ∧
    (∀ b, ∃ s2 p2, (pondOf s2 p2).sb.cmd.isSome = true ∧ (pondOf s2 p2).sb.started = false ∧
      (pondOf s2 p2).sb.bus = some (b, none) ∧ rg (pondOf s2 p2) 0x580 = rg (sbPond 1 0 none false) 0x580 ∧ s2.ns = 0) ∧
    (∃ s2 p2, bit (rg (pondOf s2 p2) 0x580) 0 = true ∧ bit (rg (pondOf s2 p2) 0x584) 31 = false ∧
      bit (rg (pondOf s2 p2) 0x584) 29 = true) ∧
    (∃ s2 p2, bit (rg (pondOf s2 p2) 0x580) 0 = true ∧ bit (rg (pondOf s2 p2) 0x584) 31 = false ∧
      (pondOf s2 p2).sb.roundAt = some 0) ∧
    fld (rg (pondOf s p) 0x58C) 0 7 = 63 ∧ bit (rg (pondOf s p) 0x58C) 31 = false := by
  refine ⟨at0 (sbMod (fun b => { b with roundAt := some 1 }) (sbPond 1 0 none false)), 0, ?_,
    ⟨at0 (sbPond 1 0x80000000 (some 0) true), 0, ?_⟩, ?_, ?_, rfl, ?_,
    ⟨0x08040000, by decide⟩, ⟨0x80000000, by decide⟩,
    fun b => ⟨at0 (sbMod (fun x => { x with bus := some (b, none) }) (sbPond 1 0 (some 0) false)), 0, ?_⟩,
    ⟨at0 (sbPond 1 0x20000000 none false), 0, ?_⟩, ⟨at0 (sbPond 1 0 none false), 0, ?_⟩, ?_, ?_⟩
  case refine_6 => simp only [at0_pond]; exact ⟨rfl, rfl, rfl, rfl, rfl⟩
  all_goals (simp only [at0_pond]; decide +kernel)

/-- A group command whose transmit bytes hold two segments of one written byte. -/
theorem test_witness_SidebandCommands_group : ∃ s p, ∃ w : Word, bit (rg (pondOf s p) 0x580) 0 = true ∧
    sbMalformed (pondOf s p) (setFld w 30 2 1) = false := by
  refine ⟨at0 { sbPond 1 0 none false with sb := { tPond.sb with tx := [(0, 0x20), (1, 1), (2, 9), (3, 0x22), (4, 1),
    (5, 8)] } }, 0, BitVec.ofNat 32 (6 * 1024), ?_⟩
  simp only [at0_pond]
  decide +kernel

theorem test_witness_SidebandEnds : ∃ s p w, (pondOf s p).sb.cmd = some w ∧ (pondOf s p).sb.started = true ∧
    fld w 30 2 = 0 ∧ bit w 29 = false ∧ bit w 28 = false ∧ fld w 19 9 ≤ ([5] : List Byte).length ∧
    bit (rg (pondOf s p) 0x580) 7 = true := by
  refine ⟨at0 (sbPond 0x81 0x80000000 (some 0x00080000) true), 0, 0x00080000, ?_⟩
  simp only [at0_pond]
  decide +kernel

/-- Example 16.1: at 400 kHz a round that pulses succeeds, and the bus is free 1.3 µs later, not before. -/
theorem test_sb_recovery_frees :
    bit (sbStatus ⟨0, 6949, 0, 0, 1000, 0, false, []⟩ (sbRound 5650 false (some 2) (sbPond 0x11 0 none false))) 27 = false ∧
    bit (sbStatus ⟨0, 6950, 0, 0, 1000, 0, false, []⟩ (sbRound 5650 false (some 2) (sbPond 0x11 0 none false))) 27 = true :=
  ⟨by decide +kernel, by decide +kernel⟩

theorem test_witness_SidebandRecovery : ∃ s p, bit (rg (pondOf s p) 0x580) 0 = false ∧
    (pondOf s p).sb.roundAt = some 0 ∧ (pondOf s p).sb.resetTill = some 0 ∧ s.ns = 0 := by
  refine ⟨at0 (sbPond 0 0 none false), 0, ?_⟩
  simp only [at0_pond]
  decide +kernel

/-! ### Epochs -/

/-- State.reset with the timebase unit replaced, in a mode of TBS_GSS_CTRL, at a time. -/
def tbsAt (mode : Word) (ns : Nat) (t : Tbs) : State :=
  { sset 0x6020 mode (onTbs (fun _ => t) State.reset) with ns := ns }

theorem test_witness_StrobeEdges :
    (∃ s : State, s.shore.boot.applied = true ∧ s.shore.tbs.runAt = none) ∧
    (∃ s : State, s.shore.tbs.runAt = some 0 ∧ s.shore.tbs.issued = 0 ∧ s.ns = 1000) ∧
    (∃ s : State, s.shore.tbs.runAt = some 0 ∧ 0 < s.shore.tbs.issued ∧ gssMode s ≠ 2 ∧
      s.shore.tbs.issued * lenOf s = s.shore.tbs.tb.toNat) ∧
    (∀ n ∈ [2992, 3007, 3008], ∃ s : State, s.shore.tbs.runAt = some 0 ∧ gssMode s = 2 ∧
      0 < s.shore.tbs.issued ∧ s.shore.tbs.lastNs + lenOf s = 3000 ∧ s.ns = n) ∧
    ∃ s : State, s.shore.tbs.runAt = some 0 ∧ gssMode s = 2 ∧ 0 < s.shore.tbs.issued ∧
      ¬ (s.shore.tbs.lastNs + lenOf s ≤ s.ns + 8) :=
  ⟨⟨onBoot (fun b => { b with applied := true }) State.reset, by decide +kernel⟩,
    ⟨tbsAt 0 1000 { Tbs.reset with runAt := some 0 }, by decide +kernel⟩,
    ⟨tbsAt 0 3000 { Tbs.reset with runAt := some 0, issued := 1, tb := 2000, lastNs := 1000 }, by decide +kernel⟩,
    fun n hn => ⟨tbsAt 2 n { Tbs.reset with runAt := some 0, issued := 1, tb := 2000, lastNs := 1000 }, by
      revert n; decide +kernel⟩,
    tbsAt 2 2991 { Tbs.reset with runAt := some 0, issued := 1, tb := 2000, lastNs := 1000 }, by decide +kernel⟩

/-- A message of receive port 31 for the next epoch. -/
theorem test_witness_BoundariesRegister :
    (∃ s p, 0 < (pondOf s p).edges ∧ (pondOf s p).life.inService = false) ∧
    (∃ s p h, 0 < (pondOf s p).edges ∧ (pondOf s p).life.inService = true ∧ (pondOf s p).life.started = true ∧
      (pondOf s p).life.resetEnd = none ∧ (pondOf s p).life.resetReq = none ∧ (pondOf s p).acts = [] ∧
      (pondOf s p).came = [] ∧ (pondOf s p).held = [h] ∧ h.apply = epochAfter (pondOf s p).epoch ∧ h.rx = 31) ∧
    ∃ s : State, 0 < s.shore.tbs.edges := by
  refine ⟨⟨at0 { Pond.reset with edges := 1 }, 0, ?_⟩,
    ⟨at0 { tPond with edges := 1, epoch := some 4, held := [⟨31, 1, 0, 5, 9⟩] }, 0, ⟨31, 1, 0, 5, 9⟩, ?_⟩,
    onTbs (fun t => { t with edges := 1 }) State.reset, by decide +kernel⟩ <;>
    simp only [at0_pond] <;> decide +kernel

/-- A lease at its timeout, a sluice at A + 9, a port with a due snapshot and one with a snapshot in progress. -/
theorem test_witness_OrphansSlotsAndSnapshots :
    (∃ s : State, ∃ p : PondId, ∃ l, leaseOf s p.val = some l ∧ l.acted = false ∧
      max l.start (((portOf s l.port).lastUse).getD l.start) + 1000 * l.timeout = s.ns) ∧
    (∃ (s : State) (h : PortId) (x : Nat) (l : List Byte) (b : Block), (portOf s h.val).mirDue = some (x, l) ∧
      (ctxOf s h.val 0).block = some b ∧ canRequest (portOf s h.val) = true ∧ mirrorRuns s h.val = true ∧
      (portOf s h.val).mirBusy = none ∧ l.length = mirSize (fld b.mirCfg 16 2)) ∧
    ∃ (s : State) (h : PortId), (portOf s h.val).mirBusy = some (1, 2, 3) := by
  refine ⟨⟨{ onShore (fun x => { x with leases := [(0, some ⟨1, 0, 5, 7, false, none, false⟩)] }) State.reset with ns := 5007 },
      0, ⟨1, 0, 5, 7, false, none, false⟩, ?_⟩,
    ⟨onPort 2 (fun p => { p with link := true, perst := false, bme := true, d3 := false, mirDue := some (1, List.replicate (mirSize 0) 0) })
      (onCtx 2 0 (fun c => { c with st := 3, block := some ⟨0, 0, 0, 4, 4, 250, 64, 1⟩ }) State.reset), 2, 1,
      List.replicate (mirSize 0) 0, ⟨0, 0, 0, 4, 4, 250, 64, 1⟩, rfl, rfl, ?_⟩, onPort 2 (fun p => { p with mirBusy := some (1, 2, 3) }) State.reset, 2, ?_⟩
  all_goals decide +kernel
/-! ### Start-up and resets -/

/-- A latched row whose bytes from 0x200 are those of `l`. -/
@[irreducible] def otpRow (l : List Byte) : SMap 32 :=
  (List.range 768).map (fun i =>
    (0x80 + i, BitVec.ofNat 32 (ofLe [l.getD (4 * i) 0, l.getD (4 * i + 1) 0, l.getD (4 * i + 2) 0, l.getD (4 * i + 3) 0])))

theorem otpRow_get (l : List Byte) (i : Nat) (h : i < 768) : (otpRow l).get (0x80 + i) =
    BitVec.ofNat 32 (ofLe [l.getD (4 * i) 0, l.getD (4 * i + 1) 0, l.getD (4 * i + 2) 0, l.getD (4 * i + 3) 0]) := by
  have key : ∀ (f : Nat → BitVec 32) (n a : Nat), a ≤ i → i < a + n →
      SMap.get ((List.range' a n).map (fun i => (0x80 + i, f i))) (0x80 + i) = f i := by
    intro f n
    induction n with
    | zero => intro a h1 h2; omega
    | succ n ih =>
      intro a h1 h2
      rw [List.range'_succ, List.map_cons, SMap.get, KMap.get]
      by_cases e : a = i
      · rw [if_pos (by omega), e]
      · rw [if_neg (by omega)]
        exact ih (a + 1) (by omega) (by omega)
  unfold otpRow
  rw [List.range_eq_range']
  exact key _ 768 0 (by omega) (by omega)

theorem otpRow_bytes (s : State) (l : List Byte) (a n : Nat) (h0 : s.shore.otp.latched = otpRow l)
    (h1 : s.shore.otp.latchedBad = []) (h : a + n ≤ 3072) :
    otpBytes s (0x200 + a) n = (List.range n).map (fun j => l.getD (a + j) 0) := by
  unfold otpBytes
  refine List.map_congr_left fun j hj => ?_
  rw [List.mem_range] at hj
  have e : (0x200 + a + j) / 4 = 0x80 + (a + j) / 4 := by omega
  have e2 : (0x200 + a + j) % 4 = (a + j) % 4 := by omega
  have hb : otpBad s (0x80 + (a + j) / 4) = false := by rw [otpBad, h1]; rfl
  simp only [e, e2, hb, Bool.false_eq_true, if_false, otpWord, h0]
  rw [otpRow_get _ _ (by omega)]
  generalize hk : (a + j) / 4 = k
  have hr : (a + j) % 4 < 4 := Nat.mod_lt _ (by decide)
  have hj' : a + j = 4 * k + (a + j) % 4 := by omega
  rw [hj']
  generalize (a + j) % 4 = r at *
  apply BitVec.eq_of_toNat_eq
  have b0 := (l.getD (4 * k) 0).isLt
  have b1 := (l.getD (4 * k + 1) 0).isLt
  have b2 := (l.getD (4 * k + 2) 0).isLt
  have b3 := (l.getD (4 * k + 3) 0).isLt
  simp only [ofLe, BitVec.toNat_ofNat, Nat.shiftRight_eq_div_pow]
  interval_cases r <;> simp <;> omega

/-- OTP bytes 0x200 to 0xDFF of an enrolled value: its check value and its helper data. -/
@[irreducible] def wellRow (v : List Byte) : List Byte :=
  (hmac384 (pufW v) (asciiBytes "K64/CHECK")).take 16 ++ padTo 3056 (Config.pufHelper v)

/-- The part with an OTP row that agrees with an enrolled value. -/
def wellAt (v : List Byte) (busy : BitVec 64) : State :=
  onOtp (fun o => { o with
      latched := otpRow (wellRow v), enrolled := v })
    (onBoot (fun b => { b with bistWait := busy, wellWait := true }) State.reset)

theorem wellAt_agrees (v : List Byte) (b : BitVec 64) : pufCheck (wellAt v b) (pufW v) = true ∧
    otpBytes (wellAt v b) 0x210 3056 = padTo 3056 (Config.pufHelper v) := by
  have hl : ((hmac384 (pufW v) (asciiBytes "K64/CHECK")).take 16).length = 16 := by
    rw [List.length_take, hmac384, sha384_length]; rfl
  have hp : ∀ x y : List Byte, (List.range x.length).map (fun j => (x ++ y).getD j 0) = x := by
    intro x y
    refine List.ext_getElem (by simp) fun i h1 h2 => ?_
    simp [List.getD, List.getElem?_append_left h2, h2]
  have hq : ∀ x y : List Byte, (List.range y.length).map (fun j => (x ++ y).getD (x.length + j) 0) = y := by
    intro x y
    refine List.ext_getElem (by simp) fun i h1 h2 => ?_
    simp [List.getD, h2]
  constructor
  · unfold pufCheck
    rw [Bool.and_eq_true]
    constructor
    · simp only [otpBad, SMap.get, Bool.not_eq_true', List.any_eq_false]
      intro i _
      simp [wellAt, onOtp, onBoot, onShore, State.reset, Shore.reset, Otp.reset]
    · have h := otpRow_bytes (wellAt v b) (wellRow v) 0 16 (by simp only [wellAt, onOtp, onBoot, onShore]) rfl (by omega)
      rw [show 0x200 + 0 = 0x200 from rfl] at h
      rw [h, beq_iff_eq]
      have h2 := hp ((hmac384 (pufW v) (asciiBytes "K64/CHECK")).take 16) (padTo 3056 (Config.pufHelper v))
      rw [hl] at h2
      simpa [wellRow] using h2
  · have h := otpRow_bytes (wellAt v b) (wellRow v) 16 3056 (by simp only [wellAt, onOtp, onBoot, onShore]) rfl (by omega)
    rw [show 0x200 + 16 = 0x210 from rfl] at h
    rw [h]
    have h2 := hq ((hmac384 (pufW v) (asciiBytes "K64/CHECK")).take 16) (padTo 3056 (Config.pufHelper v))
    rw [hl, padTo_length] at h2
    rw [wellRow]
    exact h2
theorem test_witness_DeviceStart :
    (State.reset.shore.boot.por = true ∧ (∃ q : PondId, fusedOut State.reset q.val = false) ∧
      State.reset.shore.otp.prog = none ∧ State.reset.shore.alarms.huskProg = false ∧
      State.reset.shore.ledger.queue = [] ∧ State.reset.shore.ledger.lgDraft = none ∧
      State.reset.shore.ledger.lgErase = false ∧ State.reset.shore.sfl.op0 = none ∧
      State.reset.shore.sfl.op1 = none ∧ State.reset.shore.sfl.selNew = []) ∧
    (∃ s : State, s.shore.boot.por = false) ∧
    (∃ (s : State) (p : PondId), s.shore.boot.bistWait.getLsbD p.val = true ∧ p = 63 ∧
      s.shore.boot.wellWait = true) ∧
    (∃ (s : State) (p q : PondId), s.shore.boot.bistWait.getLsbD p.val = true ∧ q ≠ p ∧
      s.shore.boot.bistWait.getLsbD q.val = true ∧ s.shore.boot.wellWait = false) ∧
    ∃ (s : State) (p : PondId), s.shore.boot.bistWait = BitVec.twoPow 64 p.val ∧ s.shore.boot.wellWait = false ∧
      s.shore.boot.applied = false ∧
      calWaits (onPond p (fun P => { P with life := { P.life with inService := false } }) s) = false :=
  ⟨⟨rfl, ⟨0, by decide +kernel⟩, rfl, rfl, rfl, rfl, rfl, rfl, rfl, rfl⟩,
    ⟨onBoot (fun b => { b with por := false }) State.reset, rfl⟩,
    ⟨onBoot (fun b => { b with bistWait := 2 ^ 63, wellWait := true }) State.reset, 63, by decide +kernel⟩,
    ⟨onBoot (fun b => { b with bistWait := 2 ^ 63 + 1 }) State.reset, 63, 0, by decide +kernel⟩,
    onBoot (fun b => { b with bistWait := 1 }) State.reset, 0, by decide +kernel⟩

/-- A blank majority of an enrolled value of 1,024 ones. -/
theorem blank_apart : bitsApart (majority [] [] []) (List.replicate 128 255) = 1024 := by
  have hm : majority [] [] [] = List.replicate 4096 0 := by simp [majority]
  have hf : ∀ i, (bitsOf 8 ((List.replicate 4096 (0 : Byte)).getD i 0 ^^^ (List.replicate 128 (255 : Byte)).getD i 0).toNat).length =
      if i < 128 then 8 else 0 := by
    intro i
    simp only [List.getD_eq_getElem?_getD, List.getElem?_replicate]
    by_cases h : i < 128 <;> by_cases h2 : i < 4096 <;> simp [h, h2] <;> first | omega | decide
  rw [hm, bitsApart]
  simp only [hf]
  decide +kernel

/-- The regeneration: a majority as far from the enrolled value as the code corrects, a check value that agrees and
one that is unreadable, and keys that an alarm inhibits. -/
theorem test_witness_DeviceStart_keys :
    (∃ (s : State) (v : List Byte), s.shore.boot.wellWait = true ∧ s.shore.boot.bistWait ≠ 0 ∧
      s.shore.keys.inhibit = false ∧ s.shore.otp.enrolled = v ∧ v ≠ [] ∧
      otpBytes s 0x210 3056 = padTo 3056 (Config.pufHelper v) ∧ bitsApart (majority [] [] []) v = 1024 ∧
      pufCorrected s (majority [] [] []) = some v ∧ pufCheck s (pufW v) = true) ∧
    (∃ (s : State) (v : List Byte), s.shore.boot.wellWait = true ∧ s.shore.boot.bistWait ≠ 0 ∧
      pufCheck s (pufW v) = false) ∧
    (∃ s : State, s.shore.boot.wellWait = true ∧ s.shore.boot.bistWait ≠ 0 ∧ s.shore.keys.inhibit = true) ∧
    ∃ s : State, s.shore.boot.wellWait = true ∧ s.shore.boot.bistWait = 0 ∧ s.shore.boot.applied = false ∧
      calWaits s = false := by
  have hw := blank_apart
  obtain ⟨h1, h2⟩ := wellAt_agrees (List.replicate 128 255) 1
  have he : (wellAt (List.replicate 128 255) 1).shore.otp.enrolled = List.replicate 128 255 := rfl
  refine ⟨⟨wellAt (List.replicate 128 255) 1, _, rfl, by decide, rfl, rfl, by decide, h2, hw, ?_, h1⟩,
    ⟨onOtp (fun o => { o with latchedBad := [(0x80, 2)] }) (wellAt [] 1), [], rfl, by decide, ?_⟩,
    ⟨onKeys (fun k => { k with inhibit := true }) (wellAt [] 1), rfl, by decide, rfl⟩,
    onBoot (fun b => { b with wellWait := true }) State.reset, rfl, rfl, rfl, by decide +kernel⟩
  · unfold pufCorrected
    rw [he, h2]
    simp only [hw]
    simp [-List.reduceReplicate]
  · have hb : otpBad (onOtp (fun o => { o with latchedBad := [(0x80, 2)] }) (wellAt [] 1)) (0x80 + 0) = true := by rfl
    unfold pufCheck
    have ha : (List.range 768).any (fun i => otpBad (onOtp (fun o => { o with latchedBad := [(0x80, 2)] }) (wellAt [] 1))
        (0x80 + i)) = true := List.any_eq_true.mpr ⟨0, List.mem_range.mpr (by omega), hb⟩
    rw [ha, Bool.not_true, Bool.false_and]

/-- A started part: the firmware runs and the watchdog has come to its end; register 0x5004 holds a first write. -/
def runAt (ns : Nat) : State :=
  { onShore (fun h => { h with pairs := [(0x5004, some (5, 0))] })
      (onBoot (fun b => { b with por := false, fwRun := true, wdog := 1000000000, pll := 2 ^ 64 }) State.reset)
    with ns := ns }

/-- The second write in the last instant of 1 ms. -/
theorem test_witness_WarmResets : ∃ s : State, s.shore.boot.por = false ∧ LivePond s 0 ∧ (sreg s 0x5014).getLsbD 31 = true ∧
    s.shore.boot.fwRun = true ∧ s.shore.keys.shoreHalted = false ∧
    1000000 * fld (sreg s 0x5014) 0 16 = s.shore.boot.wdog ∧
    KMap.get none s.shore.pairs 0x5004 = some (5, 0) ∧ s.ns = 0 + 1000000 ∧ armedReg 0 = 0x5004 ∧
    (∃ v : Word, v ≠ ~~~(5 : Word)) ∧ (∃ v : Word, v = ~~~(5 : Word)) ∧ s.shore.boot.pll.getLsbD 64 = true ∧
    KMap.get none State.reset.shore.pairs 0x5004 = none ∧ State.reset.shore.boot.por = true :=
  ⟨runAt 1000000, by decide +kernel, ⟨by decide +kernel, fun _ h => nomatch h⟩, by decide +kernel, by decide +kernel, by decide +kernel, by decide +kernel,
    by decide +kernel, by decide +kernel, by decide, ⟨0, by decide⟩, ⟨_, rfl⟩, by decide +kernel, by decide +kernel, rfl⟩

/-- The pair has expired. -/
theorem test_witness_WarmResets_expired : ∃ s : State, KMap.get none s.shore.pairs 0x5004 = some (5, 0) ∧
    0 + 1000000 < s.ns := ⟨runAt 1000001, by decide +kernel, by decide +kernel⟩

/-- The first write of a pair of CRL_LC_ADVANCE or OTP_PROG_GO, in a life cycle, with an OTP address. -/
def pairAt (reg : Nat) (w : Word) (lc : Nat) (addr : Word) (o : SMap 32) : State :=
  sset 0x4084 addr (onOtp (fun x => { x with words := o })
    (onBoot (fun b => { b with lc := lc }) (onShore (fun h => { h with pairs := [(reg, some (w, 0))] }) State.reset)))

/-- The first and the last word that firmware may program, and their neighbours. -/
theorem test_witness_LifeCycleAndOtp :
    (∃ s : State, KMap.get none s.shore.pairs 0x5010 = some (2, 0) ∧ s.ns = 0 ∧ s.shore.boot.lc = 1 ∧
      imagoReady s = true ∧ s.shore.boot.lcPending ≠ 3) ∧
    (∃ s : State, KMap.get none s.shore.pairs 0x5010 = some (3, 0) ∧ s.shore.boot.lc ≠ 3 ∧
      s.shore.alarms.huskWait = false ∧ s.shore.alarms.huskProg = false ∧ s.shore.alarms.erase = none) ∧
    (∃ s : State, KMap.get none s.shore.pairs 0x5010 = some (1, 0)) ∧
    (∀ i ∈ [0x1F, 0x20, 0x2E, 0x2F], ∃ s : State, KMap.get none s.shore.pairs 0x408C = some (9, 0) ∧
      s.shore.boot.lc = 1 ∧ (sreg s 0x4000).getLsbD 31 = false ∧ s.shore.otp.prog = none ∧
      fld (sreg s 0x4084) 2 10 = i ∧ s.shore.otp.words.get i = 0 ∧ s.shore.otp.bad.get i = 0) ∧
    (∃ s : State, s.shore.otp.prog = some (0x20, 7)) ∧ ∃ s : State, s.shore.alarms.huskProg = true := by
  refine ⟨⟨pairAt 0x5010 2 1 0 [(0x20, 1), (44, 0x80000000)], ?_⟩, ⟨pairAt 0x5010 3 2 0 [], ?_⟩,
    ⟨pairAt 0x5010 1 2 0 [], ?_⟩, fun i hi => ⟨pairAt 0x408C 9 1 (BitVec.ofNat 32 (4 * i)) [], ?_⟩,
    ⟨onOtp (fun o => { o with prog := some (0x20, 7) }) State.reset, rfl⟩,
    onShore (fun h => { h with alarms := { h.alarms with huskProg := true } }) State.reset, rfl⟩
  · decide +kernel
  · decide +kernel
  · decide +kernel
  · revert i; decide +kernel

/-- A pond program of 64 bytes whose entries are its first word, at the words of a bank from `base`. -/
def tImage (base : Nat) : KMap FWord :=
  [(base, .committed 0), (base + 1, .committed 0), (base + 8176, .committed 0x3C8EB670000000000000040000001014934364B)] ++
    (List.range 15).map (fun i => (base + 8177 + i, .committed 0))

/-- A pond at its restart boundary. -/
def restartPond : Pond :=
  { tPond with
    life := { tPond.life with started := false, bistDone := true, resetEnd := some 20, startEp := 20 },
    epoch := some 20, conv := Vector.replicate 2 { Conv.reset with ready := true },
    pfl := { Pfl.reset with words := tImage 0 } }

theorem test_witness_PondResets :
    (∃ s p, (pondOf s p).life.resetEnd = none ∧ (pondOf s p).life.resetReq = none ∧
      (pondOf s p).life.coreReq = none) ∧
    (∃ s p, (pondOf s p).life.coreReq = some 3 ∧ (pondOf s p).core.gate = none ∧ (pondOf s p).life.swapDue = none ∧
      (pondOf s p).life.resetEnd = none ∧ (pondOf s p).life.started = true ∧ (pondOf s p).core.long = none ∧
      (pondOf s p).core.pb = [] ∧ SMap.wf (pondOf s p).regs = true ∧ CleanWord (pondOf s p) 0) ∧
    ∀ b, ∃ s p, (pondOf s p).life.calLate = b ∧ (pondOf s p).life.resetEnd = some 20 ∧ 20 ≤ (pondOf s p).epoch.getD 0 ∧ (pondOf s p).life.incWait = false ∧
      (pondOf s p).setup = [] ∧
      canStart { pondOf s p with life := { (pondOf s p).life with resetEnd := none, imageValid := true } } = true ∧
      (pondOf s p).life.calFail = false ∧
      activeOk (pondOf s p) = true ∧ (pondOf s p).epoch ≠ none ∧ (pondOf s p).life.startEp ≤ (pondOf s p).epoch.getD 0 := by
  refine ⟨⟨at0 tPond, 0, ?_⟩, ⟨at0 { tPond with life := { tPond.life with coreReq := some 3 } }, 0, ?_⟩,
    fun b => ⟨at0 { restartPond with life := { restartPond.life with calLate := b } }, 0, ?_⟩⟩ <;> simp only [at0_pond]
  · decide +kernel
  · exact ⟨by decide +kernel, rfl, rfl, rfl, rfl, rfl, rfl, by decide +kernel, by decide, .inl ⟨by decide, .inl (by decide +kernel)⟩⟩
  · revert b; decide +kernel

/-! ### Host ports -/

/-- Port 1 up with context 31 replaced. -/
def ctxAt (c : Ctx) : State :=
  onPort 1 (fun p => { p with perst := false, link := true, bme := true, d3 := false, ready := true })
    (onCtx 1 31 (fun _ => c) (onBoot (fun b => { b with por := false, phase := 12 }) State.reset))

theorem test_witness_PortsAndContextStates :
    (∃ s : State, s.shore.boot.por = false ∧ 2 ≤ s.shore.boot.phase) ∧
    (∃ (speed : BitVec 4) (width : BitVec 3), speed.toNat = 6 ∧ speed = 6 ∧ width = 4) ∧
    (∀ k, ∃ s h, breaks (portOf s h) k = true) ∧ (∀ k, ∃ s h, breaks (portOf s h) k = false) ∧
    (∃ (s : State) (h : PortId) (a : Nat) (d : List Byte), (portOf s h.val).link = true ∧
      (portOf s h.val).posted = [] ++ ⟨a, d, .cplTail 3 0, 0⟩ :: []) ∧
    ∀ st ∈ [0, 1, 2, 3, 4, 5], ∃ (s : State) (h : PortId) (n : CtxId), (ctxOf s h.val n.val).st = st := by
  refine ⟨⟨ctxAt Ctx.reset, by decide +kernel⟩, ⟨6, 4, by decide⟩, fun k => ⟨ctxAt Ctx.reset, 1, ?_⟩,
    fun k => ⟨onPort 1 (fun p => { p with perst := true }) State.reset, 1, ?_⟩,
    ⟨onPort 1 (fun p => { p with link := true, posted := [⟨0, [], .cplTail 3 0, 0⟩] }) State.reset, 1, 0, [], ?_⟩,
    fun st hst => ⟨ctxAt { Ctx.reset with st := st }, 1, 31, ?_⟩⟩
  · cases k <;> decide +kernel
  · cases k <;> decide +kernel
  · decide +kernel
  · revert st; decide +kernel

/-- A context block of port 1, and one whose command ring is not aligned. -/
def tBlock (b : Byte) : List Byte := SMap.bytes [(0, b), (0x18, 4), (0x1A, 4), (0x1C, 250)] 0 64

/-- Context 31 ready, with a ring of 16 entries. -/
def readyCtx : Ctx :=
  { Ctx.reset with st := 3, block := some (blockOf (tBlock 0)), pollAt := some 100 }

theorem test_witness_ContextFetches :
    (∃ (s : State) (h : PortId) (n : CtxId), (ctxOf s h.val n.val).st = 1 ∧ canRequest (portOf s h.val) = true ∧
      s.shore.boot.phase = 12 ∧ (tBlock 0).length = 64 ∧ blockOk n.val (tBlock 0) = true ∧
      (tBlock 1).length = 64 ∧ blockOk n.val (tBlock 1) = false) ∧
    (∀ ns ∈ [349, 350], ∃ (s : State) (h : PortId) (n : CtxId) (b : Block), (ctxOf s h.val n.val).st = 3 ∧
      (ctxOf s h.val n.val).block = some b ∧ (ctxOf s h.val n.val).polling = false ∧
      canRequest (portOf s h.val) = true ∧ (ctxOf s h.val n.val).pollAt = some 100 ∧
      s.shore.tbs.tb.toNat = ns ∧ 100 + b.poll = 350 ∧ portReads s h.val < 64) ∧
    (∃ (s : State) (h : PortId) (n : CtxId) (b : Block), (ctxOf s h.val n.val).st = 3 ∧
      (ctxOf s h.val n.val).block = some b ∧ (ctxOf s h.val n.val).polling = true ∧
      2 ^ b.cmdLog < ((17 : Word) - (ctxOf s h.val n.val).consumed).toNat ∧
      ((16 : Word) - (ctxOf s h.val n.val).consumed).toNat = 2 ^ b.cmdLog ∧
      2 ^ b.cplLog < ((ctxOf s h.val n.val).seq - (1 : Word)).toNat ∧
      ((ctxOf s h.val n.val).seq - (0 : Word)).toNat ≤ 2 ^ b.cplLog ∧
      (ctxOf s h.val n.val).fetched.length + askedCount (ctxOf s h.val n.val) ≤
        ((16 : Word) - (ctxOf s h.val n.val).consumed).toNat ∧ (ctxOf s h.val n.val).asked = [(0, 8)]) ∧
    (leAt (leBytes (2 ^ 32 + 17) 8) 0 4 = 17 ∧ leAt (leBytes (2 ^ 32 + 17) 8) 4 4 = 1) ∧
    ∃ (s : State) (h : PortId), (portOf s h.val).link = true ∧ (portOf s h.val).ready = true := by
  refine ⟨⟨ctxAt { Ctx.reset with st := 1 }, 1, 31, ?_⟩,
    fun ns hn => ⟨onTbs (fun t => { t with tb := BitVec.ofNat 64 ns }) (ctxAt readyCtx), 1, 31, blockOf (tBlock 0), ?_⟩,
    ⟨ctxAt { readyCtx with polling := true, asked := [(0, 8)] }, 1, 31, blockOf (tBlock 0), ?_⟩, by decide, ctxAt readyCtx, 1, ?_⟩
  · decide +kernel
  · revert ns; decide +kernel
  · decide +kernel
  · decide +kernel

/-- TBS_EPOCH_LEN at the ends of its range and outside it, with TBS_LOCK 0 (no other hypothesis). -/
theorem test_witness_RegisterWrites : (sreg State.reset 0x6098).getLsbD 0 = false ∧
    ∃ v w : Word, fld v 0 17 = 500 ∧ fld w 0 17 = 65537 :=
  ⟨by decide +kernel, 500, 65537, by decide, by decide⟩
/-! ### Host commands -/

/-- A descriptor: opcode, target, APPLY all ones, and its operand bytes. -/
def tDesc (op target : Byte) (rest : SMap 8) : List Byte :=
  [op, 0, 0, 0, target, 0, 0, 0, 255, 255, 255, 255, 255, 255, 255, 255] ++ SMap.bytes rest 0x10 48

/-- Port 1, a steward with the token, whose context 2 holds this descriptor; port 2 is an operator. -/
def cmdAt (d : List Byte) : State :=
  onPort 2 (fun p => { p with role := 1 })
    (onPort 1 (fun p => { p with perst := false, link := true, bme := true, d3 := false, ready := true, role := 0 })
      (onCtx 1 2 (fun c => { c with st := 3, block := some ⟨0, 0, 0, 4, 4, 250, 0, 0⟩, fetched := [d] })
        (onShore (fun h => { h with token := some 1 }) (at0 tPond))))

/-- The same with the rest of the Shore changed. -/
theorem cmd_consumes {d : List Byte} {f : Shore → Shore} (hd : d.length = 64)
    (hp : (f (cmdAt d).shore).ports = (cmdAt d).shore.ports) (hc : (f (cmdAt d).shore).cmds = []) :
    Consumes (onShore f (cmdAt d)) 1 2 d := by
  have hq : portOf (onShore f (cmdAt d)) 1 = portOf (cmdAt d) 1 := congrArg (fun v => vget v 1 Port.reset) hp
  have hx : ctxOf (onShore f (cmdAt d)) 1 2 = ctxOf (cmdAt d) 1 2 := congrArg (fun p : Port => vget p.ctx 2 Ctx.reset) hq
  refine ⟨hd, ⟨[], ?_⟩, ?_, fun x h => ?_⟩
  · show (ctxOf (onShore f (cmdAt d)) 1 2).fetched = _
    rw [hx]; rfl
  · show canConsume (onShore f (cmdAt d)) 1 2 = true
    have h0 : ctxOf (cmdAt d) 1 2 =
        { Ctx.reset with st := 3, block := some ⟨0, 0, 0, 4, 4, 250, 0, 0⟩, fetched := [d] } := rfl
    have h1 : (portOf (cmdAt d) 1).reserve = [] := rfl
    unfold canConsume
    rw [hx, hq, h0, h1]
    simp [Ctx.reset]
  · have h' : x ∈ (f (cmdAt d).shore).cmds := h
    rw [hc] at h'
    cases h'

/-- A descriptor of each held command that passes its checks. -/
def heldDescs : List (List Byte) :=
  [tDesc 0x10 0 [(0x10, 2), (0x14, 0xE8), (0x15, 3)], tDesc 0x11 0 [], tDesc 0x12 255 [], tDesc 0x31 0 [(0x10, 1)],
   tDesc 0x32 0 [(0x10, 1)], tDesc 0x33 0 [(0x10, 1)], tDesc 0x34 255 [(0x18, 1)], tDesc 0x41 255 [],
   tDesc 0x42 0 [(0x10, 1), (0x20, 12)], tDesc 0x50 255 [(0x10, 5)], tDesc 0x51 255 [(0x10, 5)], tDesc 0x52 0 [],
   tDesc 0x57 255 [], tDesc 0x63 0 [], tDesc 0x71 255 [(0x10, 1)]]

theorem test_witness_HostCommandsAreHeld :
    (∀ c op, HeldRow c op → ∃ d ∈ heldDescs, leAt d 0 1 = op) ∧
    (∀ d ∈ heldDescs, d.length = 64 ∧ consumeChecks (cmdAt d) 1 d = none) ∧
    (∀ d, d.length = 64 → Consumes (onShore id (cmdAt d)) 1 2 d) ∧
    consumeChecks (cmdAt (tDesc 0x31 0 [])) 1 (tDesc 0x31 0 []) = some (0x02, 0x10) ∧
    verifiedMark (cmdAt (tDesc 0x63 0 [])) 0 = false := by
  refine ⟨fun c op h => ?_, ?_, fun d hd => cmd_consumes hd rfl rfl, ?_, ?_⟩
  · cases h <;> decide +kernel
  · decide +kernel
  · decide +kernel
  · decide +kernel

/-- A swap whose target holds a mark passes too. -/
theorem test_witness_HostCommandsAreHeld_swap : ∃ s : State, verifiedMark s 0 = true ∧
    consumeChecks s 1 (tDesc 0x63 0 []) = none :=
  ⟨setVerified 0 true (cmdAt (tDesc 0x63 0 [])), by decide +kernel, by decide +kernel⟩

/-- A command that has been consumed. -/
def tCmd (d : List Byte) (ph : Phase) (data : List Byte) : Cmd :=
  ⟨1, 2, 0, 0, d, 4, 0, 5, false, ph, data, 0, false, false⟩

theorem test_witness_HostCommandsAreHeld_boundary : ∀ d ∈ heldDescs, ∃ (s : State) (c : Cmd),
    0 < s.shore.tbs.edges ∧ s.shore.cmds = [c] ∧ c.phase = .held false ∧ c.apply = epochAfter s.shore.tbs.epoch ∧
    s.shore.token = some c.port ∧ c.op = leAt d 0 1 ∧ leaseOf s c.target = none ∧
    (c.op = 0x10 → c.target < 64 ∧ 0 < c.arg 0x14 4) :=
  fun d hd => ⟨onTbs (fun t => { t with edges := 1, epoch := some 4 })
      (onShore (fun h => { h with cmds := [tCmd d (.held false) []] }) (cmdAt d)), tCmd d (.held false) [], Nat.one_pos, rfl,
    rfl, rfl, rfl, rfl, by revert d; decide +kernel⟩

/-- A lease to release. -/
theorem test_witness_HostCommandsAreHeld_release : ∃ (s : State) (c : Cmd), 0 < s.shore.tbs.edges ∧
    s.shore.cmds = [c] ∧ c.phase = .held false ∧ c.apply = epochAfter s.shore.tbs.epoch ∧ s.shore.token = some c.port ∧
    c.op = 0x11 ∧ c.target < 64 ∧ leaseOf s c.target ≠ none :=
  ⟨onTbs (fun t => { t with edges := 1, epoch := some 4 })
      (onShore (fun h => { h with
        cmds := [tCmd (tDesc 0x11 0 []) (.held false) []], leases := [(0, some ⟨1, 0, 5, 7, false, none, false⟩)] })
        (cmdAt (tDesc 0x11 0 []))), tCmd (tDesc 0x11 0 []) (.held false) [], by decide +kernel⟩

/-- Account 3 open under tag 5, tag 5 bound to port 2, and a seal of sequence number 0 in the archive. -/
def ledgerAt (h : Shore) : Shore :=
  { h with
    binds := [(5, 2)],
    ledger := { h.ledger with
      accts := [(0, { Acct.free with st := 1 }), (3, { Acct.free with st := 1, tag := 5 }),
        (4, { Acct.free with st := 1, tag := 6 })],
      nextSeq := 1, archive := [(0, 32)] },
    sfl := { h.sfl with words := [(0xA000, .committed 0)] } }

/-- The descriptors of `HostCommandsAtOnce`, one for each clause. -/
def onceDescs : List (List Byte) :=
  [tDesc 0x01 255 [], tDesc 0x02 255 [], tDesc 0x55 255 [(0x10, 5)], tDesc 0x55 255 [(0x10, 9)],
   tDesc 0x56 255 [(0x20, 32)], tDesc 0x56 255 [(0x10, 1)], tDesc 0x53 255 [(0x10, 6), (0x14, 1)],
   tDesc 0x53 255 [(0x10, 5), (0x14, 1)], tDesc 0x54 255 [(0x10, 5)], tDesc 0x54 255 [(0x10, 6)],
   tDesc 0x20 64 [(0x10, 8), (0x11, 0x60)], tDesc 0x20 0 [(0x10, 0xFC), (0x11, 6), (0x13, 0x40)],
   tDesc 0x20 64 [(0x11, 0x14)], tDesc 0x21 64 [(0x10, 0x0C), (0x11, 0x60), (0x14, 8)],
   tDesc 0x21 64 [(0x10, 4), (0x11, 0x60)], tDesc 0x21 0 [(0x10, 0xBC), (0x11, 0xFF), (0x12, 1), (0x13, 0x20)]]

theorem test_witness_HostCommandsAtOnce :
    (∀ d ∈ onceDescs, d.length = 64 ∧ consumeChecks (onShore ledgerAt (cmdAt d)) 1 d = none) ∧
    (∀ d, d.length = 64 → Consumes (onShore ledgerAt (cmdAt d)) 1 2 d) ∧
    opInfo (leAt (tDesc 0x03 255 []) 0 1) = none ∧
    ∃ s : State, s = onShore ledgerAt (cmdAt (tDesc 1 255 [])) ∧ canRequest (portOf s 1) = true ∧ s.shore.token = some 1 ∧
      acctByTag s.shore.ledger 5 = some 3 ∧ mayRead s 1 3 = true ∧ acctByTag s.shore.ledger 9 = none ∧
      sealAt s 0 = some (List.replicate 32 0) ∧ s.shore.ledger.nextSeq = 1 ∧ boundPort s 5 = some 2 ∧
      acctByTag s.shore.ledger 6 ≠ none ∧ boundPort s 6 = none ∧ (portOf s 1).role = 0 ∧ s.shore.mreqs = [] ∧
      peekable 0x400006FC = true ∧ pokeAccepts s 0 0x2001FFBC = true ∧ (sreg s 0x6098).getLsbD 0 = false := by
  refine ⟨by decide +kernel, fun d hd => cmd_consumes hd rfl rfl, by decide +kernel, _, rfl, ?_⟩
  decide +kernel

/-- One operand entry, its check value and four zero bytes. -/
def tOperand : List Byte := List.replicate 8 0 ++ leBytes 0x8C28B28A 4 ++ [0, 0, 0, 0]

/-- An entry for the offset 0x700, with its check value. -/
def badOperand : List Byte := [0, 7, 0, 0, 0, 0, 0, 0] ++ leBytes (crc32c [0, 7, 0, 0, 0, 0, 0, 0]) 4 ++ [0, 0, 0, 0]

/-- A sluice record of one slot on one link: link 2 leaves stop 0, link 0 does not. -/
def tSluice (l : Byte) : List Byte :=
  [1, 1, 1, 0, l] ++ List.replicate 43 0xFF ++ leBytes (2 ^ linkDst 2) 10 ++ List.replicate 6 0

/-- The descriptors of the operand rows. -/
def operandDescs : List (List Byte) :=
  [tDesc 0x30 0 [(0x18, 1)], tDesc 0x40 255 [], tDesc 0x61 0 [(0x14, 32)], tDesc 0x61 0 [(0x12, 4), (0x14, 32)],
   tDesc 0x61 0 [(0x10, 0xE0), (0x11, 0xFF), (0x12, 3), (0x14, 64)], tDesc 0x70 255 [(0x18, 4), (0x1C, 4)]]

theorem test_witness_OperandsAreRead :
    (∀ c op addr len, OperandRow c op addr len → ∃ d ∈ operandDescs, leAt d 0 1 = op) ∧
    (∀ d ∈ operandDescs, d.length = 64 ∧ consumeChecks (cmdAt d) 1 d = none ∧
      canRequest (portOf (cmdAt d) 1) = true ∧ (cmdAt d).shore.token = some 1) ∧
    (∀ d, d.length = 64 → Consumes (onShore id (cmdAt d)) 1 2 d) ∧
    ([0, 0x40000, 0x3FFE0].map (fun o => decide (o < areaSize 0))) = [true, false, true] ∧
    keysHeld (cmdAt []) = false ∧
    (∃ s : State, keysHeld s = true ∧ s.shore.boot.lc = 1) ∧ (∃ s : State, canRequest (portOf s 1) = false) ∧
    ∃ (s : State) (c : Cmd), readers s 1 = [c] ∧ c.phase = .reading 0 16 ∧ cmdOf s c.order = some c ∧
      (∀ x ∈ s.shore.cmds, x.prog = false) ∧ c.op = 0x30 ∧ tOperand.length = 16 ∧ 16 = 8 * c.arg 0x18 1 + 8 ∧
      crc32c (tOperand.take (8 * c.arg 0x18 1)) = leAt tOperand (8 * c.arg 0x18 1) 4 ∧
      leAt tOperand (8 * c.arg 0x18 1 + 4) 4 = 0 ∧
      (∀ i < c.arg 0x18 1, leAt tOperand (8 * i) 4 ≤ 0x6FC ∧ leAt tOperand (8 * i) 4 % 4 = 0) ∧
      s.shore.tbs.epoch.getD 0 + latOf s < c.apply := by
  refine ⟨fun c op a l h => ?_, by decide +kernel, fun d hd => cmd_consumes hd rfl rfl, by decide, by decide +kernel,
    ⟨onShore (fun h => { h with keys := { h.keys with root := 2 }, boot := { h.boot with lc := 1 } }) State.reset,
      by decide +kernel⟩, ⟨State.reset, by decide +kernel⟩,
    onShore (fun h => { h with cmds := [tCmd (tDesc 0x30 0 [(0x18, 1)]) (.reading 0 16) []] })
      (cmdAt []), tCmd (tDesc 0x30 0 [(0x18, 1)]) (.reading 0 16) [], ?_⟩
  · cases h <;> decide +kernel
  · decide +kernel

/-- Port 1 with one command whose operand it reads. -/
def readingAt (d : List Byte) (len : Nat) : State :=
  onShore (fun h => { h with cmds := [tCmd d (.reading 0 len) []] }) (cmdAt [])

/-- An entry with a bad offset, a bad check word, a sluice record that passes and one that fails, an SPDM request, the
write of a plain image to a pond, and no command left behind one whose read fails. -/
theorem test_witness_OperandsAreRead_reads :
    (∀ d, ∀ len, (readingAt d len).shore.cmds = [tCmd d (.reading 0 len) []]) ∧
    (∀ d ∈ [tDesc 0x30 0 [(0x18, 1)], tDesc 0x40 255 [], tDesc 0x61 0 [(0x14, 32)], tDesc 0x70 255 [(0x18, 4)]],
      ∀ len ∈ [4, 16, 32, 64],
        readers (readingAt d len) 1 = [tCmd d (.reading 0 len) []] ∧
        cmdOf (readingAt d len) 4 = some (tCmd d (.reading 0 len) []) ∧
        (∀ x ∈ (readingAt d len).shore.cmds, x.prog = (leAt d 0 1 == 0x61)) ∧
        eraseFirst (fun x => x.order == 4) (readingAt d len).shore.cmds = []) ∧
    (badOperand.length = 16 ∧ crc32c (badOperand.take 8) = leAt badOperand 8 4 ∧ leAt badOperand 12 4 = 0 ∧
      leAt badOperand 0 4 = 0x700) ∧
    ¬ crc32c ((List.replicate 16 0).take 8) = leAt (List.replicate 16 0) 8 4 ∧
    ((tSluice 2).length = 64 ∧ sluiceCheck (tSluice 2) = none ∧ sluiceCheck (tSluice 0) = some 0) ∧
    leAt [0x10, 0x84, 0, 0] 1 1 ∈ spdmCodes ∧
    ∃ s : State, s = readingAt (tDesc 0x61 0 [(0x14, 32)]) 32 ∧ (pondOf s 0).life.resetEnd = none ∧
      (pondOf s 0).pfl.op = none ∧ cekOf s 0 = none ∧ encryptedHead s 0 = false ∧
      writesHead 0 (List.replicate 32 0) = false := by
  refine ⟨fun d len => rfl, ?_, by decide +kernel, by decide +kernel, by decide +kernel, by decide, _, rfl, ?_⟩
  · decide +kernel
  · decide +kernel

/-! ### Program exchange -/

/-- `cmdAt` with pond 0's flash. -/
def flashAt (d : List Byte) (f : Pfl) : State := onPondN 0 (fun P => { P with pfl := f }) (cmdAt d)

theorem flash_consumes {d : List Byte} {f : Pfl} (hd : d.length = 64) : Consumes (flashAt d f) 1 2 d :=
  cmd_consumes (f := id) hd rfl rfl

/-- The last sector of a bank, and a verify of an image and of an erased bank. -/
theorem test_witness_ProgramCommands :
    (∀ d, d.length = 64 → ∀ f, Consumes (flashAt d f) 1 2 d) ∧
    (∀ d ∈ [tDesc 0x60 0 [(0x10, 63), (0x14, 1)], tDesc 0x60 0 [(0x10, 63), (0x14, 2)],
        tDesc 0x60 0 [(0x10, 64), (0x14, 1)], tDesc 0x62 0 []], d.length = 64 ∧
      ∀ f ∈ [Pfl.reset, { Pfl.reset with op := some ⟨1, true, 0, [], 0⟩ }, { Pfl.reset with words := tImage 8192 }],
        consumeChecks (flashAt d f) 1 d = none ∧ (flashAt d f).shore.token = some 1 ∧
        (flashAt d f).shore.cmds = [] ∧ leAt d 4 1 = 0 ∧ (pondOf (flashAt d f) 0).life.resetEnd = none) ∧
    headFail (flashAt [] { Pfl.reset with words := tImage 8192 }) 0 = none ∧
    headFail (flashAt [] Pfl.reset) 0 = some 1 ∧
    (∃ (s : State) (c : Cmd), s.shore.cmds = [c] ∧ c.phase = .unit ∧ s.shore.scvuHeld = 0) ∧
    (∃ (s : State) (c : Cmd), s.shore.cmds = [c] ∧ c.phase = .check 1 ∧ c.target = 65 ∧
      s.shore.sfl.op0 = none ∧ s.shore.sfl.op1 = none ∧ s.shore.ledger.lgErase = false ∧
      s.shore.ledger.lgDraft = none ∧ (verifyRun c.target (unitFree c s)).2 = .inl 1) ∧
    (∃ (s : State) (c : Cmd), s.shore.cmds = [c] ∧ c.phase = .check 1 ∧ c.target = 0 ∧
      (pondAt s c.target).pfl.op ≠ none) ∧
    (∃ (s : State) (p : PondId) (v : BitVec 256), (pondOf s p).pfl.op = some ⟨1, false, 16383, [v], 0⟩ ∧
      pondFlashClass (pondOf s p) 16383 = 0) ∧
    (∃ (s : State) (p : PondId) (c : Cmd), (pondOf s p).pfl.op = some ⟨2, true, 8192, [], 0⟩ ∧ s.shore.cmds = [c] ∧
      c.op = 0x60 ∧ c.target = p.val ∧ c.phase = .flash 0 ∧ c.arg 0x14 2 = 0 + 1) ∧
    ∀ b, ∃ s p a, (pondOf s p).life.swapDue = some a ∧ (pondOf s p).core.gate = none ∧
      (pondOf s p).pfl.verified = b ∧ (pondOf s p).core.run ≠ .locked ∧ (pondOf s p).core.df = false := by
  refine ⟨fun d hd f => flash_consumes hd, by decide +kernel, by decide +kernel, by decide +kernel,
    ⟨onShore (fun h => { h with cmds := [tCmd (tDesc 0x62 0 []) .unit []] }) State.reset, _, rfl, rfl, rfl⟩,
    ⟨onShore (fun h => { h with cmds := [tCmd (tDesc 0x62 65 []) (.check 1) []] }) State.reset, _, rfl, rfl, ?_, rfl, rfl, rfl, rfl, ?_⟩,
    ⟨onShore (fun h => { h with cmds := [tCmd (tDesc 0x62 0 []) (.check 1) []] })
      (at0 { tPond with pfl := { Pfl.reset with op := some ⟨1, true, 0, [], 0⟩ } }), _, rfl, rfl, ?_⟩,
    ⟨at0 { tPond with pfl := { Pfl.reset with op := some ⟨1, false, 16383, [5], 0⟩ } }, 0, 5, ?_⟩,
    ⟨onShore (fun h => { h with cmds := [tCmd (tDesc 0x60 0 [(0x14, 1)]) (.flash 0) []] })
      (at0 { tPond with pfl := { Pfl.reset with op := some ⟨2, true, 8192, [], 0⟩ } }), 0, _, rfl, rfl, ?_⟩,
    fun b => ⟨at0 { tPond with life := { tPond.life with swapDue := some 9 }, pfl := { Pfl.reset with verified := b } }, 0, 9, ?_⟩⟩
  · decide +kernel
  · decide +kernel
  · decide +kernel
  · simp only [at0_pond]; decide +kernel
  · decide +kernel
  · simp only [at0_pond]; revert b; decide +kernel

/-! ### Attestation -/

/-- Port 1 with an SPDM request of this code and these bytes after it, in a state of the connection. -/
def spdmAt (st : Nat) (ver code : Byte) (rest : SMap 8) (len : Nat) : State :=
  onShore (fun h => { h with
    cmds := [tCmd (tDesc 0x70 255 [(0x1C, 0), (0x1D, 16)]) .spdm (SMap.bytes ([(0, ver), (1, code)] ++ rest) 0 len)],
    keys := { h.keys with root := 2, kAlias := some 7, spdm := vset h.keys.spdm 1 st } }) (cmdAt [])

theorem test_witness_SpdmRequests :
    (∀ v ∈ [0x10, 0x11], ∃ (s : State) (c : Cmd), SpdmReady s 1 c 0x84 ∧ leAt c.data 0 1 = v) ∧
    (∀ x ∈ [(0xE1, 1), (0xE3, 2), (0x81, 3), (0x82, 3), (0x83, 3), (0xE0, 3)], ∃ (s : State) (c : Cmd),
      SpdmReady s 1 c x.1 ∧ spdmState s 1 = 0 ∧ spdmState s 1 ≠ x.2 ∧ leAt c.data 0 1 = 0x12) ∧
    (∃ (s : State) (c : Cmd), SpdmReady s 1 c 0xE1 ∧ spdmState s 1 = 1 ∧ c.data.length = 20 ∧ leAt c.data 12 4 = 42 ∧
      leAt c.data 16 4 = 42) ∧
    (∃ (s : State) (c : Cmd), SpdmReady s 1 c 0xE3 ∧ spdmState s 1 = 2 ∧ c.data.length = 32 ∧ leAt c.data 6 1 % 2 = 1 ∧
      leAt c.data 8 4 / 0x80 % 2 = 1 ∧ leAt c.data 12 4 / 2 % 2 = 1) ∧
    (∃ (s : State) (c : Cmd), SpdmReady s 1 c 0x81 ∧ spdmState s 1 = 3) ∧
    (∃ (s : State) (c : Cmd), SpdmReady s 1 c 0x83 ∧ spdmState s 1 = 3 ∧ c.data.length = 36 ∧
      leAt c.data 2 1 % 16 = 0 ∧ leAt c.data 3 1 = 0 ∧ keyBlocked s = false ∧ s.shore.keys.kAlias = some 7) ∧
    (∃ (s : State) (c : Cmd), SpdmReady s 1 c 0xE0 ∧ spdmState s 1 = 3 ∧ c.data.length = 4 ∧ leAt c.data 2 1 % 2 = 0 ∧
      leAt c.data 3 1 = 0) := by
  unfold SpdmReady
  refine ⟨fun v hv => ⟨spdmAt 0 (BitVec.ofNat 8 v) 0x84 [] 4, _, ⟨⟨[], rfl, fun _ h => nomatch h⟩, ?_⟩, ?_⟩,
    fun x hx => ⟨spdmAt 0 0x12 (BitVec.ofNat 8 x.1) [] 4, _, ⟨⟨[], rfl, fun _ h => nomatch h⟩, ?_⟩, ?_⟩,
    ⟨spdmAt 1 0x12 0xE1 [(12, 42), (16, 42)] 20, _, ⟨⟨[], rfl, fun _ h => nomatch h⟩, ?_⟩, ?_⟩,
    ⟨spdmAt 2 0x12 0xE3 [(6, 1), (8, 0x80), (12, 2)] 32, _, ⟨⟨[], rfl, fun _ h => nomatch h⟩, ?_⟩, ?_⟩,
    ⟨spdmAt 3 0x12 0x81 [] 4, _, ⟨⟨[], rfl, fun _ h => nomatch h⟩, ?_⟩, ?_⟩, ⟨spdmAt 3 0x12 0x83 [] 36, _, ⟨⟨[], rfl, fun _ h => nomatch h⟩, ?_⟩, ?_⟩,
    ⟨spdmAt 3 0x12 0xE0 [] 4, _, ⟨⟨[], rfl, fun _ h => nomatch h⟩, ?_⟩, ?_⟩⟩
  · revert v; decide +kernel
  · revert v; decide +kernel
  · revert x; decide +kernel
  · revert x; decide +kernel
  all_goals decide +kernel

/-- The same with key use blocked by alarm source 0; a certificate request within the chain. -/
theorem test_witness_SpdmRequests_blocked :
    (∃ (s : State) (c : Cmd), SpdmReady s 1 c 0x83 ∧ spdmState s 1 = 3 ∧ keyBlocked s = true) ∧
    (∃ (s : State) (c : Cmd), SpdmReady s 1 c 0xE0 ∧ spdmState s 1 = 3 ∧ c.data.length = 37 ∧ leAt c.data 2 1 % 2 = 1 ∧
      leAt c.data 36 1 % 16 = 0 ∧ keyBlocked s = true) ∧
    ∃ (s : State) (c : Cmd), SpdmReady s 1 c 0x82 ∧ spdmState s 1 = 3 ∧ c.data.length = 8 ∧ leAt c.data 2 1 % 16 = 0 ∧
      leAt c.data 4 2 < (certChain s).length := by
  unfold SpdmReady
  refine ⟨⟨onShore (fun h => { h with keys := { h.keys with unlocked := 2 ^ 64 } }) (spdmAt 3 0x12 0x83 [] 36), _,
      ⟨⟨[], rfl, fun _ h => nomatch h⟩, ?_⟩, ?_⟩,
    ⟨onShore (fun h => { h with keys := { h.keys with unlocked := 2 ^ 64 } }) (spdmAt 3 0x12 0xE0 [(2, 1)] 37), _,
      ⟨⟨[], rfl, fun _ h => nomatch h⟩, ?_⟩, ?_⟩,
    spdmAt 3 0x12 0x82 [] 8, _, ⟨⟨[], rfl, fun _ h => nomatch h⟩, ?_⟩, rfl, by decide +kernel, by decide +kernel, ?_⟩
  · decide +kernel
  · decide +kernel
  · decide +kernel
  · decide +kernel
  · decide +kernel
  · have h0 : leAt (SMap.bytes ([(0, 0x12), (1, 0x82)] ++ []) 0 8) 4 2 = 0 := by decide +kernel
    show leAt (SMap.bytes ([(0, 0x12), (1, 0x82)] ++ []) 0 8) 4 2 < _
    rw [h0]
    unfold certChain
    simp only [List.length_append, leBytes]
    simp
/-! ### Messages and energy -/

/-- A header from its fields: position and value. -/
def tHead (l : List (Nat × Nat)) : BitVec 128 := BitVec.ofNat 128 ((l.map (fun x => x.2 * 2 ^ x.1)).sum)

/-- Packets that wait at stop `e`, pond 0 as given. -/
def weirAt (P : Pond) (e : Nat) (h : BitVec 128) (inc : SMap 8) : State :=
  onShore (fun x => { x with weir := { x.weir with ejected := [(e, [⟨h, [], none, 0⟩])], inc := inc } }) (at0 P)

/-- A pond at epoch 100 whose receive port 31 is bound to port 2 of pond 3, of incarnation 1. -/
def rxPond : Pond :=
  { tPond with epoch := some 100, recvRec := [(31, 0x80000302)], incTab := [(3, 1)] }

/-- Messages of pond 3: APPLY at C, C + 1, C + 9 and C + 10, and one of another incarnation. -/
theorem test_witness_MessagesAndStreams :
    (∀ x ∈ ([(100, 1), (101, 1), (109, 1), (110, 1), (101, 2)] : List (Nat × Nat)), ∃ (s : State) (k : Packet),
      KMap.get [] s.shore.weir.ejected 0 = [k] ∧ k.cls = 0 ∧ k.kind = 0 ∧ (pondOf s 0).out = [] ∧
      (pondOf s 0).life.inService = true ∧ (pondOf s 0).life.resetEnd = none ∧
      boundRx (pondOf s 0) k.src k.sendPort = some 31 ∧ k.src < 64 ∧ ((pondOf s 0).incTab.get k.src).toNat = 1 ∧
      k.tag = x.2 ∧ applyEpoch (epochOf (pondOf s 0)) k.apply = (x.1 : Int)) ∧
    (∀ o ∈ [100, 101], ∃ (s : State), (pondOf s 0).stream = some 5 ∧ (pondOf s 0).cbuf.length = 13 ∧
      slOpenAt (pctx s 0) 5 (epochOf (pondOf s 0)) = decide (o = 100)) ∧
    (∀ b, ∃ (s : State) (k : Packet) (x : Stream), s.shore.weir.streamIn = [k] ∧
      applyEpoch (s.shore.tbs.epoch.getD 0) k.apply = (s.shore.tbs.epoch.getD 0 : Int) ∧
      s.shore.streams = [x] ∧ x.pond = k.src ∧ x.port = 1 ∧ k.tag = (s.shore.weir.inc.get (k.src % 64)).toNat ∧
      canRequest (portOf s 1) = b) ∧
    ∀ e ∈ [0, 1, 10], ∃ (s : State) (k : Packet), KMap.get [] s.shore.weir.ejected 64 = [k] ∧ k.cls = 0 ∧
      k.kind = 5 ∧ s.shore.weir.hubOut = [] ∧ k.tag = (s.shore.weir.inc.get (k.src % 64)).toNat ∧
      applyEpoch (s.shore.tbs.epoch.getD 0) k.apply = (e : Nat) := by
  refine ⟨fun x hx => ⟨weirAt rxPond 0 (tHead [(8, 3), (24, x.2), (32, x.1), (48, 2)]) [],
      ⟨tHead [(8, 3), (24, x.2), (32, x.1), (48, 2)], [], none, 0⟩, rfl, ?_⟩,
    fun o ho => ⟨onWeir (fun w => { w with sluices := [⟨5, 0, 1, 1, [], 0, 0, o, none⟩] })
      (at0 { tPond with epoch := some 100, stream := some 5, cbuf := List.replicate 13 (7, 100) }), ?_⟩,
    fun b => ⟨onPort 1 (fun p => { p with perst := false, link := true, bme := b, d3 := false })
      (onShore (fun h => { h with
          streams := [⟨3, 1, 5, 0, 12, 1, 0⟩],
          weir := { h.weir with inc := [(3, 7)], streamIn := [⟨tHead [(0, 64), (8, 3), (24, 7), (53, 5)], [], none, 0⟩] } })
        State.reset),
      ⟨tHead [(0, 64), (8, 3), (24, 7), (53, 5)], [], none, 0⟩, ⟨3, 1, 5, 0, 12, 1, 0⟩, ?_⟩,
    fun e he => ⟨weirAt tPond 64 (tHead [(0, 64), (8, 3), (24, 7), (32, e), (53, 5)]) [(3, 7)],
      ⟨tHead [(0, 64), (8, 3), (24, 7), (32, e), (53, 5)], [], none, 0⟩, rfl, ?_⟩⟩
  · revert x; decide +kernel
  · revert o; decide +kernel
  · revert b; decide +kernel
  · revert e; decide +kernel

/-- An interval that waits for its seal. -/
def tSnap : IvSnap := ⟨0, 10, 0, 0, IvCount.zero, [], 1, 0, 2000, 0⟩

/-- The part in Chrysalis with the firmware running, an interval queued, a seal key, key use blocked or not. -/
def sealState (u : BitVec 65) : State :=
  onShore (fun h => { h with
    boot := { h.boot with fwRun := true, lc := 1 }, ledger := { h.ledger with queue := [tSnap] },
    keys := { h.keys with kSeal := some 7, unlocked := u } }) State.reset

/-- Posts of pond 3 for C, C + 1 and C + 9. -/
theorem test_witness_EnergyIsLedgered :
    (∃ s p, (pondOf s p).tap.due = true ∧ (pondOf s p).life.incWait = false ∧ (pondOf s p).life.inService = true ∧
      (pondOf s p).tap.opened = []) ∧
    (∀ a ∈ ([100, 101, 109] : List Nat), ∃ (s : State) (k : Packet), KMap.get [] s.shore.weir.ejected 64 = [k] ∧ k.cls = 0 ∧
      k.kind = 1 ∧ s.shore.tbs.epoch = some 100 ∧ applyEpoch 100 k.apply = (a : Int) ∧
      acctByTag s.shore.ledger (heldPostOf k 100 s.ns).tag = some 0 ∧
      (heldPostOf k 100 s.ns).cum = KMap.get 0 s.shore.ledger.cumL (k.src % 64) + k.data0.toInt) ∧
    ∀ b, ∃ (s : State), s.shore.ledger.queue = [tSnap] ∧ sealsOn s = true ∧ s.shore.sfl.op0 = none ∧
      s.shore.ledger.lgErase = false ∧ s.shore.ledger.lgDraft = none ∧ s.shore.keys.kSeal ≠ none ∧ keyBlocked s = b := by
  refine ⟨⟨at0 { tPond with tap := { tPond.tap with due := true } }, 0, ?_⟩,
    fun a ha => ⟨onTbs (fun t => { t with epoch := some 100 })
        (onShore (fun h => { h with weir := { h.weir with ejected :=
          [(64, [⟨tHead [(0, 64), (8, 3), (32, a), (53, 1), (64, 5)], [5], none, 0⟩])] } }) State.reset),
      ⟨tHead [(0, 64), (8, 3), (32, a), (53, 1), (64, 5)], [5], none, 0⟩, ?_⟩,
    fun b => ⟨sealState (cond b (2 ^ 64) 0), rfl, ?_⟩⟩
  · simp only [at0_pond]; decide +kernel
  · revert a; decide +kernel
  · revert b; decide +kernel

/-! ### Management packets -/

/-- A pond in service, in a reset or not. -/
def mgmtPond (r : Option Nat) : Pond := { tPond with life := { tPond.life with resetEnd := r } }

/-- Reads and writes at the ends of their ranges, a block, a notice; and the answers at the hub. -/
theorem test_witness_ManagementPackets :
    (∀ r ∈ [none, some 5], ∀ x ∈ [(1, 0x20000000), (1, 0x2001FFFC), (2, 0x20000000), (2, 0x2001FFBC), (5, 0), (0x10, 3)],
      ∃ (s : State) (k : Packet), KMap.get [] s.shore.weir.ejected 0 = [k] ∧ k.cls = 1 ∧ k.op = x.1 ∧ k.addr = x.2 ∧
        (pondOf s 0).life.inService = true ∧ (pondOf s 0).life.resetEnd = r ∧ (pondOf s 0).pfl.op = none) ∧
    (∀ x ∈ [(3, 0), (3, 2), (4, 3)], ∃ (s : State) (k : Packet) (c : Cmd), KMap.get [] s.shore.weir.ejected 64 = [k] ∧
      k.cls = 1 ∧ k.op = x.1 ∧ k.status = x.2 ∧ s.shore.mreqs = [⟨k.src, k.tag, c.order⟩] ∧ s.shore.mwait = [] ∧
      cmdOf s c.order = some c) ∧
    (∃ (s : State) (k : Packet) (o : FlashOp), KMap.get [] s.shore.weir.ejected 0 = [k] ∧ k.cls = 1 ∧ k.op = 5 ∧
      (pondOf s 0).life.inService = true ∧ (pondOf s 0).life.resetEnd = none ∧ (pondOf s 0).pfl.op = some o ∧ o.owner = 1) ∧
    (∀ x ∈ [(1, 0, 64), (0, 0x21, 64), (0, 255, 64), (0, 0, 64), (0, 0, 65)], ∃ (s : State) (k : Packet) (c : Cmd),
      KMap.get [] s.shore.weir.ejected 64 = [k] ∧ k.cls = 1 ∧ k.op = 6 ∧ k.status = x.1 ∧ k.data.toNat = x.2.1 ∧
      s.shore.cmds = [c] ∧ c.phase = .flash 0 ∧ c.op = 0x61 ∧ c.target < 64 ∧ c.arg 0x10 4 < 0x3FE00 ∧
      c.data.length = x.2.2 ∧ s.shore.mreqs = [⟨k.src, k.tag, c.order⟩] ∧ s.shore.mwait = []) ∧
    ∀ l ∈ [[3], [3, 4]], ∃ (s : State) (k : Packet), KMap.get [] s.shore.weir.ejected 64 = [k] ∧ k.cls = 1 ∧
      k.op = 0x11 ∧ k.addr % 256 = 7 ∧ k.src = 3 ∧ s.shore.notices = [(7, l)] := by
  refine ⟨fun r hr x hx => ⟨weirAt (mgmtPond r) 0 (tHead [(8, 64), (16, 1), (32, x.1), (64, x.2)]) [],
      ⟨tHead [(8, 64), (16, 1), (32, x.1), (64, x.2)], [], none, 0⟩, rfl, ?_⟩,
    fun x hx => ⟨onShore (fun h => { h with
        mreqs := [⟨3, 9, 4⟩], cmds := [tCmd (tDesc 0x20 3 []) .mgmt []] })
        (weirAt tPond 64 (tHead [(0, 64), (8, 3), (16, 1), (24, 9), (32, x.1), (40, x.2)]) []),
      ⟨tHead [(0, 64), (8, 3), (16, 1), (24, 9), (32, x.1), (40, x.2)], [], none, 0⟩,
      tCmd (tDesc 0x20 3 []) .mgmt [], rfl, ?_⟩,
    ⟨weirAt { mgmtPond none with pfl := { Pfl.reset with op := some ⟨1, true, 0, [], 0⟩ } } 0
        (tHead [(8, 64), (16, 1), (32, 5)]) [],
      ⟨tHead [(8, 64), (16, 1), (32, 5)], [], none, 0⟩, ⟨1, true, 0, [], 0⟩, rfl, ?_⟩,
    fun x hx => ⟨onShore (fun h => { h with
        mreqs := [⟨3, 9, 4⟩], cmds := [tCmd (tDesc 0x61 3 []) (.flash 0) (List.replicate x.2.2 0)] })
        (weirAt tPond 64 (tHead [(0, 64), (8, 3), (16, 1), (24, 9), (32, 6), (40, x.1), (96, x.2.1)]) []),
      ⟨tHead [(0, 64), (8, 3), (16, 1), (24, 9), (32, 6), (40, x.1), (96, x.2.1)], [], none, 0⟩,
      tCmd (tDesc 0x61 3 []) (.flash 0) (List.replicate x.2.2 0), rfl, ?_⟩,
    fun l hl => ⟨onShore (fun h => { h with notices := [(7, l)] })
        (weirAt tPond 64 (tHead [(0, 64), (8, 3), (16, 1), (32, 0x11), (64, 7)]) []),
      ⟨tHead [(0, 64), (8, 3), (16, 1), (32, 0x11), (64, 7)], [], none, 0⟩, rfl, ?_⟩⟩
  · revert x r; decide +kernel
  · revert x; decide +kernel
  · decide +kernel
  · revert x; decide +kernel
  · revert l; decide +kernel

/-! ### The Weir's links -/

/-- A flit, and it on the wires. -/
def tFlit : Flit := ⟨5, true, true, none⟩
def tWire (seq : Nat) (side : BitVec 16) (round : Nat) : WireFlit := ⟨tFlit, 0, seq, side, round, false⟩

/-- Link 0 replaced. -/
def linkAt (k : Link) : State := onLink 0 (fun _ => k) State.reset

theorem test_witness_WeirLinks :
    (∃ s : State, (linkOf s 0).st < 2 ∧ (linkOf s 0).replay = none ∧ (linkOf s 0).retry.length = 32) ∧
    (∃ s : State, (linkOf s 0).st < 2 ∧ (linkOf s 0).replay = none ∧ (linkOf s 0).retry.length = 31 ∧
      pickSluice s 0 (linkOf s 0).slot = some (0, none, ⟨5, true, true, some 0⟩)) ∧
    (∃ s : State, (linkOf s 0).st < 2 ∧ (linkOf s 0).replay = none ∧ (linkOf s 0).retry.length < 32 ∧
      pickSluice s 0 (linkOf s 0).slot = none ∧ pickLane s 0 = some (0, .rx 4) ∧ srcFlit s 0 0 (.rx 4) = some tFlit) ∧
    (∃ s : State, (linkOf s 0).st < 2 ∧ (linkOf s 0).replay = none ∧ (linkOf s 0).retry.length < 32 ∧
      pickSluice s 0 (linkOf s 0).slot = none ∧ pickLane s 0 = none ∧
      idleSlots s 0 = some (15, (0, none, ⟨5, true, true, some 0⟩))) ∧
    (∃ s : State, (linkOf s 0).st < 2 ∧ (linkOf s 0).replay = some 3 ∧
      (linkOf s 0).retry.find? (fun x => x.seq == 3) = some (tWire 3 0 0)) ∧
    (∀ rnd ∈ [0, 1], ∃ (s : State) (w : WireFlit), (linkOf s 0).wire = [w] ∧ (linkOf s 0).roundR = 1 ∧ w.round = rnd ∧
      flitCheck w.flit.data (fld w.side 12 4) (linkOf s 0).seqR = fld w.side 0 12) ∧
    (∀ n ∈ [2, 3], ∃ (s : State) (w : WireFlit), (linkOf s 0).wire = [w] ∧ w.round = (linkOf s 0).roundR ∧
      (linkOf s 0).fails = n ∧ flitCheck w.flit.data (fld w.side 12 4) (linkOf s 0).seqR ≠ fld w.side 0 12) ∧
    (∀ m ∈ [RetMsg.ack 5, .nak 5, .credit 3], ∃ s : State, (linkOf s 0).ret = [m] ∧ (linkOf s 0).st ≠ 2 ∧
      (linkOf s 0).audit = true) ∧
    ((∀ v < 4, creditsHeld Link.idle v = laneSize v) ∧ ∃ x : Word, x.toNat ≠ laneSize 3) ∧
    (∀ n ∈ [6, 7], ∃ s : State, (linkOf s 0).st = 2 ∧ (linkOf s 0).rfails = n) ∧
    ∃ s : State, (linkOf s 0).st = 3 := by
  refine ⟨⟨linkAt { Link.idle with retry := List.replicate 32 (tWire 0 0 0) }, ?_⟩,
    ⟨onShore (fun h => { h with weir := { h.weir with
        sluices := [⟨0, 0, 1, 1, [0], 0, 0, 0, none⟩],
        links := [(0, { Link.idle with wheel := [(0, 1)], retry := List.replicate 31 (tWire 0 0 0) })] } })
      (at0 { tPond with out := [⟨5, [], some 0, 0⟩] }), ?_⟩,
    ⟨onLink 1 (fun k => { k with buf := vset k.buf 0 [tFlit] })
      (linkAt { Link.idle with rr := 2, own := vset Link.idle.own 0 (some (.rx 4)) }), ?_⟩,
    ⟨onShore (fun h => { h with weir := { h.weir with
        sluices := [⟨0, 0, 1, 1, [0], 0, 0, 0, none⟩], links := [(0, { Link.idle with wheel := [(15, 1)] })] } })
      (at0 { tPond with out := [⟨5, [], some 0, 0⟩] }), ?_⟩,
    ⟨linkAt { Link.idle with replay := some 3, retry := [tWire 2 0 0, tWire 3 0 0] }, ?_⟩,
    fun rnd hr => ⟨linkAt { Link.idle with wire := [tWire 0 (sideOf tFlit 0 0) rnd], roundR := 1 },
      tWire 0 (sideOf tFlit 0 0) rnd, ?_⟩,
    fun n hn => ⟨linkAt { Link.idle with wire := [tWire 0 (sideOf tFlit 0 0 + 1) 0], fails := n },
      tWire 0 (sideOf tFlit 0 0 + 1) 0, ?_⟩,
    fun m hm => ⟨linkAt { Link.idle with ret := [m], audit := true }, ?_⟩, ⟨by decide, 17, by decide⟩,
    fun n hn => ⟨linkAt { Link.idle with st := 2, rfails := n }, ?_⟩, linkAt { Link.idle with st := 3 }, ?_⟩
  · decide +kernel
  · decide +kernel
  · decide +kernel
  · decide +kernel
  · decide +kernel
  · revert rnd; decide +kernel
  · revert n; decide +kernel
  · revert m; decide +kernel
  · revert n; decide +kernel
  · decide +kernel

/-! ### Alarms, the supply warning, the debug port -/

/-- An erase, an open record, the warning, at a time and in a life cycle. -/
def almAt (e : Option Nat) (warn rdy draft : Bool) (ns lc : Nat) : State :=
  { sset 0x3000 2 (onShore (fun h => { h with
      boot := { h.boot with por := false, lc := lc }, alarms := { h.alarms with erase := e },
      ledger := { h.ledger with warn := warn, lgReady := rdy, warnRise := some 0, lgErase := true,
                                lgDraft := cond draft (some ⟨0, tSnap⟩) none } }) State.reset) with ns := ns }

theorem test_witness_AlarmsAndSupply :
    (∀ l ∈ [0, 1, 2], ∃ (s : State) (n : Fin 8), s.shore.boot.por = false ∧ alarmActs s n.val = l ∧
      s.shore.alarms.erase = none ∧ s.shore.boot.lc = 0) ∧
    (∃ s : State, s.shore.boot.lc ≠ 0) ∧ (∃ s : State, s.shore.alarms.erase = some 3) ∧
    (∀ b, ∃ s : State, s.shore.ledger.warn = true ∧ s.shore.boot.por = false ∧ s.shore.ledger.lgReady = b ∧
      bit (sreg s 0x3000) 1 = true) ∧
    (∃ s : State, s.shore.ledger.warn = false) ∧
    (∀ n ∈ [999999, 1000000], ∃ s : State, s.shore.ledger.warnRise = some 0 ∧ s.ns = n ∧ gaspEmpty s = false) ∧
    (∃ s : State, s.shore.ledger.lgErase = true ∧ s.shore.sfl.op0 = none ∧ s.shore.ledger.lgDraft = none ∧
      ∀ x ∈ s.shore.cmds, x.prog = false) ∧
    ∃ (s : State) (g : LastGasp), s.shore.ledger.lgDraft = some g ∧
      ∀ x ∈ s.shore.cmds, x.prog = false ∧ x.phase ≠ .record := by
  refine ⟨fun l hl => ⟨almAt none true true false 0 0, ?_⟩, ⟨almAt none true true false 0 1, ?_⟩,
    ⟨almAt (some 3) true true false 0 0, ?_⟩, fun b => ⟨almAt none true b false 0 0, ?_⟩,
    ⟨almAt none false true false 0 0, ?_⟩,
    fun n hn => ⟨onSfl (fun f => { f with words := [(0xE000, .committed 0)] }) (almAt none true true false n 0), ?_⟩,
    ⟨almAt none true true false 0 0, ?_⟩, almAt none true true true 0 0, ⟨0, tSnap⟩, ?_⟩
  · revert l; decide +kernel
  · decide +kernel
  · decide +kernel
  · revert b; decide +kernel
  · decide +kernel
  · revert n; decide +kernel
  · decide +kernel
  · decide +kernel

/-- A state in which a last-gasp record is being written and one configuration record waits for SCVU2. -/
def recordWaits (data : List Byte) : State :=
  onShore (fun h => { h with
    ledger := { h.ledger with lgDraft := some ⟨0, tSnap⟩ },
    cmds := [tCmd (tDesc 0x30 0 [(0x18, 1)]) .record data] }) (cmdAt [])

/-- The record that waited is checked once the last gasp has committed (R416), and one whose operand comes before
waits. -/
theorem test_witness_AlarmsAndSupply_records :
    (∀ d, (recordWaits d).shore.ledger.lgDraft = some ⟨0, tSnap⟩ ∧
      (recordWaits d).shore.cmds = [tCmd (tDesc 0x30 0 [(0x18, 1)]) .record d]) ∧
    crc32c (tOperand.take 8) = leAt tOperand 8 4 ∧ leAt tOperand 12 4 = 0 ∧
    crc32c ((List.replicate 16 0).take 8) ≠ leAt (List.replicate 16 0) 8 4 ∧
    (recordWaits []).shore.tbs.epoch.getD 0 + latOf (recordWaits []) < 5 ∧
    (∃ s : State, readers s 1 = [tCmd (tDesc 0x30 0 [(0x18, 1)]) (.reading 0 16) []] ∧
      s.shore.ledger.lgDraft ≠ none) ∧
    readers (readingAt (tDesc 0x30 0 [(0x18, 1)]) 16) 1 ≠ [] ∧
    (readingAt (tDesc 0x30 0 [(0x18, 1)]) 16).shore.ledger.lgDraft = none := by
  refine ⟨fun d => ⟨rfl, rfl⟩, by decide +kernel, by decide +kernel, by decide +kernel, by decide +kernel,
    ⟨onLedger (fun l => { l with lgDraft := some ⟨0, tSnap⟩ }) (readingAt (tDesc 0x30 0 [(0x18, 1)]) 16), ?_⟩,
    by decide +kernel, by decide +kernel⟩
  decide +kernel

/-- "123456789" through the reset configuration of SCVU2 gives the CRC-32C of Table 15.2, and sets DONE. -/
theorem test_scvu_hard :
    (scvuOf (scvuHard 2 (asciiBytes "123456789") State.reset) 2).result = 0xE3069283 ∧
    scvuView (scvuHard 2 (asciiBytes "123456789") State.reset) 2 4 = 1 := by decide +kernel

/-- The debug port enabled, with a DRBG, a challenge of time 0 and an unlocked pond 0. -/
def dbgAt (chal : Option (List Byte × Nat)) (ns : Nat) : State :=
  { onShore (fun h => { h with
      keys := { h.keys with dbgEn := true, drbg := some ([], []), chal := chal, unlocked := 1 } }) (at0 tPond)
    with ns := ns }

/-- A response in its last instant, of no accepted signer; a blank Larva part in phase 3. -/
theorem test_witness_DebugPort :
    (∃ (s : State) (x : List Byte × List Byte), s.shore.keys.dbgEn = true ∧ s.shore.alarms.active.getLsbD 6 = false ∧
      keyBlocked s = false ∧ s.shore.keys.drbg = some x) ∧
    State.reset.shore.keys.dbgEn = false ∧
    (∀ n ∈ [9999999999, 10000000000], ∃ s : State, s.shore.keys.chal = some ([], 0) ∧ s.ns = n) ∧
    (∃ s : State, debugSigner s (slice [] 0x10 97) = false) ∧
    (∃ (s : State) (p : PondId), dbgPond s p.val = true) ∧ (∃ (s : State) (p : PondId), dbgPond s p.val = false) ∧
    (∃ s : State, s.shore.boot.lc = 0 ∧ s.shore.boot.por = false ∧ s.shore.boot.phase = 3 ∧ enrolled s = false) ∧
    ∃ s : State, enrolled s = true := by
  refine ⟨⟨dbgAt none 0, ([], []), ?_⟩, rfl, fun n hn => ⟨dbgAt (some ([], 0)) n, rfl, rfl⟩, ⟨State.reset, ?_⟩,
    ⟨dbgAt none 0, 0, ?_⟩, ⟨State.reset, 0, ?_⟩,
    ⟨onBoot (fun b => { b with por := false, phase := 3 }) State.reset, ?_⟩,
    onOtp (fun o => { o with words := [(0x84, 1)] }) State.reset, ?_⟩ <;> decide +kernel

/-! ### Encoding and the invariants -/

theorem test_witness_EncodeThenDecode : ∃ i w, Instr.wf i = true ∧ PondWord.encode i = some w ∧
    i = .bmov 3 ⟨0, 3, 0, 0, 0, 0⟩ 7 ∧ w = 0xE00C0000 :=
  ⟨_, _, by decide, by decide, rfl, rfl⟩

/-- A command that waits in the reset state. -/
def waitingState : State := { State.reset with pending := [.watchdogKick] }

theorem test_witness_StepKeepsBuffers : BuffersFit waitingState ∧ ∃ t, step waitingState = .next t :=
  ⟨fun p => by
    have h : pondOf waitingState p = Pond.reset := by
      show (Vector.replicate 64 Pond.reset)[p.val] = _
      simp
    rw [h]; exact ⟨by decide, by decide⟩, _, rfl⟩

theorem test_witness_StepKeepsOrders : OrdersRise waitingState ∧ ∃ t, step waitingState = .next t :=
  ⟨⟨List.Pairwise.nil, fun _ h => nomatch h⟩, _, rfl⟩

/-! ### The queue -/

/-- On an empty queue one nanosecond passes; else the front command goes first. -/
theorem test_tick : step State.reset = .next (tick State.reset) ∧ (tick State.reset).ns = 1 :=
  ⟨rfl, by decide +kernel⟩
theorem test_front : step { State.reset with pending := [.watchdogKick, .watchdogExpiry] } =
    exec .watchdogKick { State.reset with pending := [.watchdogExpiry] } := rfl

/-- An edge that misses a code is one gap, also when its other codes come, and the next edge forms its
product (R168, R314). -/
theorem test_tap_missed_edge :
    let e : Nat → Edge := fun n => ⟨.gss, n, 0, 100 * n⟩
    let whole : TapOpen → TapOpen := fun o => { o with v := some 3, i := some 4 }
    let P := tapEdge 2000 (e 2) whole (tapEdge 2000 (e 1) whole
      (tapEdge 2000 (e 1) (fun o => { o with miss := true }) Pond.reset))
    P.tap.gaps = 1 ∧ P.tap.pend.length = 1 ∧ P.tap.prev = some 200 := by decide

/-! ### The package -/

/-- Example 18.1: P17_AIN_0_P at T8, P17_PWM_0 at Y8, P63_SB_SCL at BW50. -/
theorem test_ball_map :
    ballName 15 8 = "T8" ∧ ballAt 15 8 = .pond 17 (.ain 0 false) ∧
    ballName 19 8 = "Y8" ∧ ballAt 19 8 = .pond 17 (.pwm 0) ∧
    ballName 56 50 = "BW50" ∧ ballAt 56 50 = .pond 63 .sbScl := by decide +kernel

/-- Table 18.4: the totals of each supply over the whole grid. -/
theorem test_ball_totals :
    [Ball.vdd, .vdds, .vddh, .vdda, .vddio, .vddf, .vssa, .vss].map (fun b =>
      ((List.range 64).map (fun r => ((List.range 64).filter (fun c => ballAt (r + 1) (c + 1) == b)).length)).foldl (· + ·) 0) =
    [256, 200, 64, 206, 136, 78, 256, 1027] := by decide +kernel

end Sys2Proof.Tests
end

section
/-! SUPPORT and claims. The write of a register by pond firmware, by the Shore firmware and through a setup BAR
(R12, R261, R467): what the word becomes under its access codes and locks, and that nothing else changes. -/

namespace Sys2Proof.Machine

/-! ### Fields -/

/-- A field depends on its own bits only (R9). -/
theorem fld_congr {n lo len : Nat} {a b : BitVec n}
    (h : ∀ i, lo ≤ i → i < lo + len → a.getLsbD i = b.getLsbD i) : fld a lo len = fld b lo len := by
  apply Nat.eq_of_testBit_eq
  intro i
  unfold fld
  simp only [Nat.testBit_mod_two_pow, Nat.testBit_shiftRight, BitVec.testBit_toNat]
  by_cases hi : i < len
  · rw [h (lo + i) (by omega) (by omega)]
  · simp [hi]

/-- The bits of a mask replaced: those of the written word there, the others kept. -/
theorem getLsbD_masked {n : Nat} (m cur v : BitVec n) (i : Nat) :
    ((cur &&& ~~~m) ||| (v &&& m)).getLsbD i = if m.getLsbD i then v.getLsbD i else cur.getLsbD i := by
  by_cases hi : i < n
  · cases hm : m.getLsbD i <;> simp [-BitVec.getLsbD_eq_getElem, hi, hm]
  · simp [BitVec.getLsbD_of_ge, Nat.le_of_not_lt hi]

/-- A field inside the mask is the written one. -/
theorem fld_masked {n lo len : Nat} {m : BitVec n} (hm : ∀ i, lo ≤ i → i < lo + len → m.getLsbD i = true)
    (cur v : BitVec n) : fld ((cur &&& ~~~m) ||| (v &&& m)) lo len = fld v lo len :=
  fld_congr fun i hlo hhi => by rw [getLsbD_masked, if_pos (hm i hlo hhi)]

/-! ### Access codes (R12, R467) -/

/-- One bit after a store: an RW bit, and a WL bit whose block is not locked, takes the written bit, any other is
kept; a 1 written to a W1C bit then clears it and to a W1S bit sets it. -/
theorem mergeAcc_getLsbD (locked : Bool) (a : Acc) (cur v : Word) {i : Nat} (hi : i < 32) :
    (mergeAcc locked a cur v).getLsbD i =
      ((if a.rw.getLsbD i || (!locked && a.wl.getLsbD i) then v.getLsbD i else cur.getLsbD i) &&
        !(v.getLsbD i && a.w1c.getLsbD i) || v.getLsbD i && a.w1s.getLsbD i) := by
  rw [mergeAcc, BitVec.getLsbD_or, BitVec.getLsbD_and, getLsbD_masked, BitVec.getLsbD_or]
  cases locked <;> simp [-BitVec.getLsbD_eq_getElem, hi]

/-- A word of WL bits alone is kept while its block is locked. -/
theorem mergeAcc_wl_locked (m cur v : Word) : mergeAcc true { wl := m } cur v = cur := by
  apply BitVec.eq_of_getLsbD_eq
  intro i hi
  rw [mergeAcc_getLsbD _ _ _ _ hi]
  simp [-BitVec.getLsbD_eq_getElem]

/-- A word of WL bits alone takes them from the store while its block is not locked. -/
theorem mergeAcc_wl_unlocked (m cur v : Word) :
    mergeAcc false { wl := m } cur v = (v &&& m) ||| (cur &&& ~~~m) := by
  rw [BitVec.or_comm]
  apply BitVec.eq_of_getLsbD_eq
  intro i hi
  rw [mergeAcc_getLsbD _ _ _ _ hi, getLsbD_masked]
  simp [-BitVec.getLsbD_eq_getElem]

/-! ### A pond's registers -/

/-- A store that only its access codes rule writes the merged word. -/
theorem storePlain_eq {off : Nat} {a : Acc} (h : pondAcc off = some a) (v : Word) (P : Pond) :
    storePlain off v P = rset off (mergeAcc (lockedAt P off) a (rg P off) v) P := by
  rw [storePlain, h]
  rfl

/-- A register write of pond firmware at an offset that holds a register stores it, but for PFL_CMD and PFL_SRC. -/
theorem exec_registerWrite_pond {off v : Word} {a : Acc} {s : State} {p : PondId} {P : Pond}
    (hacc : pondAcc off.toNat = some a) (hcmd : off ≠ 0x600) (hsrc : off ≠ 0x604)
    (hstore : storeReg (pctx s p) off.toNat v (pondOf s p) = P) :
    exec (.registerWrite (.pond p) off v) s = .next (withPond s p P) := by
  have hw : ¬ ((pondAcc off.toNat).isNone || off == 0x600 || off == 0x604) = true := by
    simpa [hacc] using ⟨hcmd, hsrc⟩
  show Host.Outcome.next (if _ then _ else _) = _
  rw [if_neg hw, onPond_eq, hstore]

/-- A register write of pond firmware at an offset that holds no register changes nothing (R465). -/
theorem exec_registerWrite_pond_none {off : Word} (h : pondAcc off.toNat = none) (s : State) (p : PondId) (v : Word) :
    exec (.registerWrite (.pond p) off v) s = .next s := by
  show Host.Outcome.next (if _ then _ else _) = _
  rw [h]
  rfl

/-- PCORE_VBASE after a store: its base bits are WL bits under PCORE_CTRL.LOCK. -/
theorem storeReg_vbase (c : PCtx) (v : Word) (P : Pond) :
    storeReg c 0x00C v P = rset 0x00C (mergeAcc (bit (rg P 0) 31) { wl := 0xFFFFFF00 } (rg P 0x00C) v) P :=
  storePlain_eq (off := 0x00C) rfl v P

/-- PCORE_CTRL after a store: IE is the core's own bit, bit 0 an RW bit and LOCK a W1S bit. -/
theorem storeReg_ctrl (c : PCtx) (v : Word) (P : Pond) :
    storeReg c 0 v P =
      rset 0 (mergeAcc (bit (rg P 0) 31) { rw := 0x1, w1s := 0x80000000 } (rg P 0) v)
        { P with core := { P.core with ie := v.getLsbD 4 } } := by
  show { storePlain 0 v P with core := { (storePlain 0 v P).core with ie := bit v 4 } } = _
  rw [storePlain_eq (off := 0) rfl v P]
  rfl

/-- PCORE_VBASE written by its pond's core (R467). -/
theorem exec_write_vbase (s : State) (p : PondId) (v : Word) :
    ∃ P, exec (.registerWrite (.pond p) 0x00C v) s = .next (withPond s p P) ∧
      P = { pondOf s p with regs := P.regs } ∧ (∀ off, off ≠ 0x00C → rg P off = rg (pondOf s p) off) ∧
      if bit (rg (pondOf s p) 0) 31 then rg P 0x00C = rg (pondOf s p) 0x00C
      else rg P 0x00C = (v &&& 0xFFFFFF00) ||| (rg (pondOf s p) 0x00C &&& 0xFF) := by
  refine ⟨_, exec_registerWrite_pond (off := 0x00C) rfl (by decide) (by decide) (storeReg_vbase _ v _), rfl,
    fun off h => rg_rset_ne _ _ h, ?_⟩
  rw [rg_rset_self]
  cases bit (rg (pondOf s p) 0) 31 with
  | true => exact mergeAcc_wl_locked _ _ _
  | false => exact mergeAcc_wl_unlocked _ _ _

/-- PCORE_CTRL written by its pond's core: IE moves with the store, and LOCK once set stays set (R12, R467). -/
theorem exec_write_ctrl (s : State) (p : PondId) (v : Word) :
    ∃ P, exec (.registerWrite (.pond p) 0 v) s = .next (withPond s p P) ∧
      P = { pondOf s p with regs := P.regs, core := { (pondOf s p).core with ie := v.getLsbD 4 } } ∧
      (∀ off, off ≠ 0 → rg P off = rg (pondOf s p) off) ∧
      (rg P 0).getLsbD 31 = ((rg (pondOf s p) 0).getLsbD 31 || v.getLsbD 31) ∧
      (rg P 0).getLsbD 0 = v.getLsbD 0 := by
  refine ⟨_, exec_registerWrite_pond (off := 0) rfl (by decide) (by decide) (storeReg_ctrl _ v _), rfl,
    fun off h => rg_rset_ne _ _ h, ?_, ?_⟩
  · rw [rg_rset_self, mergeAcc_getLsbD _ _ _ _ (by decide)]
    simp [-BitVec.getLsbD_eq_getElem]
  · rw [rg_rset_self, mergeAcc_getLsbD _ _ _ _ (by decide)]
    simp [-BitVec.getLsbD_eq_getElem]

/-! ### The Shore's registers -/

theorem sreg_smod (off : Nat) (f : Word → Word) (s : State) (o : Nat) :
    sreg (smod off f s) o = if o = off then f (sreg s off) else sreg s o := SMap.get_set _ _ _ _

/-- A store to TBS_EPOCH_LEN lands while TBS_LOCK is 0 and in the field's range (R47). -/
theorem shoreStore_epochLen (v : Word) (s : State) : shoreStore 0x6008 v s =
    if (sreg s 0x6098).getLsbD 0 = true ∨ fld v 0 17 < 500 ∨ 65536 < fld v 0 17 then s
    else storeBits 0x6008 0x1FFFF v s := by
  show (if bit (sreg s 0x6098) 0 || decide (fld v 0 17 < 500) || decide (65536 < fld v 0 17) then s
    else storeBits 0x6008 0x1FFFF v s) = _
  simp only [bit, Bool.or_eq_true, decide_eq_true_eq, or_assoc]

/-- TBS_EPOCH_LEN written by the Shore firmware (R47, R467). -/
theorem exec_write_epochLen (s : State) (v : Word) : ∃ t, exec (.registerWrite .shore 0x6008 v) s = .next t ∧
    t = { s with shore := { s.shore with regs := t.shore.regs } } ∧
    (∀ off, off ≠ 0x6008 → sreg t off = sreg s off) ∧
    if (sreg s 0x6098).getLsbD 0 = true ∨ fld v 0 17 < 500 ∨ 65536 < fld v 0 17 then
      sreg t 0x6008 = sreg s 0x6008
    else fld (sreg t 0x6008) 0 17 = fld v 0 17 := by
  have mask : ∀ i < 17, (0x1FFFF : Word).getLsbD i = true := by decide
  refine ⟨shoreStore 0x6008 v s, rfl, ?_⟩
  rw [shoreStore_epochLen]
  split
  · exact ⟨rfl, fun _ _ => rfl, rfl⟩
  · refine ⟨rfl, fun off h => (sreg_smod _ _ s off).trans (if_neg h), ?_⟩
    rw [storeBits, sreg_smod, if_pos rfl]
    exact fld_masked (fun i _ hi => mask i hi) _ v

/-! ### Writes through a setup BAR (R261) -/

/-- A write that is not a whole aligned word is an Unsupported Request and writes nothing. -/
theorem barWrite_partial {h : Nat} {s : State} (hl : (portOf s h).link = true) (hr : (portOf s h).ready = true)
    (off : Nat) (v : Word) : barWrite h off false v s = { s with barUr := true } := by
  simp [barWrite, hl, hr]

/-- A whole aligned word writes its port register. -/
theorem barWrite_whole {h off : Nat} {s : State} (hl : (portOf s h).link = true) (hr : (portOf s h).ready = true)
    (ha : off % 4 = 0) (v : Word) : barWrite h off true v s = { hpWrite h off v s with barUr := false } := by
  simp [barWrite, hl, hr, ha]

/-- A whole word written to a port register that a store only changes by `f`. -/
theorem exec_write_bar {s : State} {h : PortId} {off v : Word} {f : Word → Word}
    (hl : (portOf s h.val).link = true) (hr : (portOf s h.val).ready = true) (ha : off.toNat % 4 = 0)
    (hw : hpWrite h.val off.toNat v s = smod (hpBase h.val + off.toNat) f s) :
    ∃ t, exec (.registerWrite (.bar h true) off v) s = .next t ∧
      t = { s with shore := { s.shore with regs := t.shore.regs }, barUr := false } ∧
      sreg t (0x400 * h.val + off.toNat) = f (sreg s (0x400 * h.val + off.toNat)) ∧
      ∀ o, o ≠ 0x400 * h.val + off.toNat → sreg t o = sreg s o := by
  refine ⟨{ smod (hpBase h.val + off.toNat) f s with barUr := false },
    congrArg Host.Outcome.next ((barWrite_whole hl hr ha v).trans (by rw [hw])), rfl, ?_, fun o ho => ?_⟩
  · exact (sreg_smod _ f s _).trans (if_pos rfl)
  · exact (sreg_smod _ f s o).trans (if_neg ho)

/-- Settles O45: each register by the law of its store. -/
theorem registerWrites : Obligations.RegisterWrites := by
  unfold Obligations.RegisterWrites
  refine ⟨fun s p v => ⟨exec_write_vbase s p v, exec_write_ctrl s p v, exec_registerWrite_pond_none rfl s p v⟩,
    exec_write_epochLen, fun s h v hl hr => ⟨fun off => ?_, ?_, ?_⟩⟩
  · exact congrArg Host.Outcome.next (barWrite_partial hl hr off.toNat v)
  · exact exec_write_bar (off := 0x038) (f := fun w => w &&& ~~~v) hl hr rfl rfl
  · exact exec_write_bar (off := 0x07C) (f := fun _ => v) hl hr rfl rfl

end Sys2Proof.Machine
end

section
/-! SUPPORT and claims. What the Shore does by itself at a boundary or by a clock: the silence of a lease's port falls
due (R30), the slots of closed sluices are freed (R238), and a port writes its snapshot (R282). -/

namespace Sys2Proof.Machine

/-! ### Maps and registers -/

/-- A value read from a map that is not its default stands in the map. -/
theorem KMap.mem_of_get_ne {α : Type} {d : α} {m : KMap α} {k : Nat} (h : KMap.get d m k ≠ d) :
    (k, KMap.get d m k) ∈ m := by
  induction m with
  | nil => exact absurd rfl h
  | cons x r ih =>
    obtain ⟨j, v⟩ := x
    rw [KMap.get] at h ⊢
    split at h
    next e => rw [if_pos e, e]; exact List.mem_cons_self
    next e => rw [if_neg e]; exact List.mem_cons_of_mem _ (ih h)

theorem sreg_smod_ne {off o : Nat} (f : Word → Word) (s : State) (h : o ≠ off) : sreg (smod off f s) o = sreg s o := by
  rw [sreg_smod, if_neg h]

theorem sreg_sset_ne {off o : Nat} (v : Word) (s : State) (h : o ≠ off) : sreg (sset off v s) o = sreg s o :=
  sreg_smod_ne _ s h

theorem sreg_sset_self (off : Nat) (v : Word) (s : State) : sreg (sset off v s) off = v := by
  rw [sreg_sset, if_pos rfl]

theorem sreg_inc64_ne {off o : Nat} (s : State) (h0 : o ≠ off) (h1 : o ≠ off + 4) : sreg (inc64 off s) o = sreg s o := by
  rw [inc64, sreg_sset_ne _ _ h1, sreg_sset_ne _ _ h0]

theorem sreg_postWrite (h a : Nat) (l : List Byte) (k : WriteKind) (s : State) (o : Nat) :
    sreg (postWrite h a l k s) o = sreg s o := rfl

theorem sreg_onPort (h : Nat) (f : Port → Port) (s : State) (o : Nat) : sreg (onPort h f s) o = sreg s o := rfl

/-! ### The Shore alone -/

/-- Nothing outside the Shore differs. -/
def ShoreOnly (s t : State) : Prop := t = { s with shore := t.shore }

theorem ShoreOnly.refl (s : State) : ShoreOnly s s := rfl

theorem ShoreOnly.trans {s t u : State} (h : ShoreOnly s t) (k : ShoreOnly t u) : ShoreOnly s u := by
  unfold ShoreOnly at *
  rw [k, h]

theorem ShoreOnly.smod {s t : State} {off : Nat} {f : Word → Word} (h : ShoreOnly s t) :
    ShoreOnly s (smod off f t) := h.trans rfl

theorem ShoreOnly.sset {s t : State} {off : Nat} {v : Word} (h : ShoreOnly s t) : ShoreOnly s (sset off v t) :=
  h.smod

theorem ShoreOnly.inc64 {s t : State} {off : Nat} (h : ShoreOnly s t) : ShoreOnly s (inc64 off t) :=
  h.sset.sset

theorem onShore_only (f : Shore → Shore) (s : State) : ShoreOnly s (onShore f s) := rfl

theorem ShoreOnly.foldl {α : Type} {f : State → α → State} (h : ∀ t a, ShoreOnly t (f t a)) (l : List α) (s : State) :
    ShoreOnly s (l.foldl f s) :=
  foldl_keep ShoreOnly .refl (fun _ _ _ => .trans) f h l s

/-! ### Orphan silence (R30) -/

theorem leaseOf_setLease (s : State) (p : Nat) (l : Option Lease) (n : Nat) :
    leaseOf (onShore (fun h => { h with leases := KMap.set none h.leases p l }) s) n =
      if n = p then l else leaseOf s n :=
  KMap.get_set _ _ _ _ _

/-- ORPHAN_POLICY of a lease that has not acted and whose port is silent: the lease has a boundary at which it is due. -/
theorem exec_orphanPolicy_silent {s : State} {p : PondId} {l : Lease} (hl : leaseOf s p.val = some l)
    (ha : l.acted = false) (hs : leaseMoment s l ≤ s.ns) :
    exec (.orphanPolicy p) s = .next (onShore (fun h => { h with
      leases := KMap.set none h.leases p.val (some { l with due := some (l.due.getD (leaseDue s l)) }) }) s) := by
  have hgo : (!l.acted && leaseSilent s l) = true := by simp [ha, leaseSilent, hs]
  change execOrphanPolicy p s = _
  unfold execOrphanPolicy
  simp only [hl]
  rw [if_pos hgo]

/-- ORPHAN_POLICY of a silent lease (R30). -/
theorem orphanPolicy_falls_due {s : State} {p : PondId} {l : Lease} (hl : leaseOf s p.val = some l)
    (ha : l.acted = false) (hs : leaseMoment s l ≤ s.ns) :
    ∃ t, exec (.orphanPolicy p) s = .next t ∧
      t = { s with shore := { s.shore with leases := t.shore.leases } } ∧
      leaseOf t p.val = some { l with due := some (l.due.getD (leaseDue s l)) } ∧
      ∀ n, n ≠ p.val → leaseOf t n = leaseOf s n := by
  refine ⟨_, exec_orphanPolicy_silent hl ha hs, rfl, ?_, fun n hn => ?_⟩
  · rw [leaseOf_setLease, if_pos rfl]
  · rw [leaseOf_setLease, if_neg hn]

/-! ### Freed sluice slots (R238) -/

/-- The mark of a sluice in a wheel slot. -/
def sluiceMark (n : Nat) : BitVec 8 := BitVec.ofNat 8 (n + 1)

theorem sluiceMark_ne_zero {n : Nat} (h : n < 255) : sluiceMark n ≠ 0 := by
  unfold sluiceMark
  bv_omega

/-- The slots of one mark freed on a link. -/
def unmarkLink (m : BitVec 8) (l : Nat) (s : State) : State :=
  onLink l (fun k => { k with wheel := k.wheel.filter (fun e => e.2 != m) }) s

theorem sluiceFree_eq (r : SluiceRec) (s : State) : sluiceFree r s =
    onWeir (fun w => { w with sluices := w.sluices.filter (fun x => x.num != r.num) })
      (r.path.foldl (fun t l => unmarkLink (sluiceMark r.num) l t) s) := rfl

theorem linkOf_onLink (l : Nat) (f : Link → Link) (s : State) (j : Nat) :
    linkOf (onLink l f s) j = if j = l then f (linkOf s l) else linkOf s j :=
  KMap.get_set _ _ _ _ _

theorem mem_wheel_unmarkLink {m : BitVec 8} {l j : Nat} {s : State} {e : Nat × BitVec 8} :
    e ∈ (linkOf (unmarkLink m l s) j).wheel ↔ e ∈ (linkOf s j).wheel ∧ (j = l → e.2 ≠ m) := by
  unfold unmarkLink
  rw [linkOf_onLink]
  split
  next h => subst h; simp
  next h => simp [h]

/-- The slots of a mark freed along a path: on its links, and on no other. -/
theorem mem_wheel_unmarkPath {m : BitVec 8} {path : List Nat} {j : Nat} {s : State} {e : Nat × BitVec 8} :
    e ∈ (linkOf (path.foldl (fun t l => unmarkLink m l t) s) j).wheel ↔
      e ∈ (linkOf s j).wheel ∧ (j ∈ path → e.2 ≠ m) := by
  induction path generalizing s with
  | nil => simp
  | cons l r ih =>
    rw [List.foldl_cons, ih, mem_wheel_unmarkLink, and_assoc, List.mem_cons, or_imp]

theorem unmarkPath_sluices (m : BitVec 8) (path : List Nat) (s : State) :
    (path.foldl (fun t l => unmarkLink m l t) s).shore.weir.sluices = s.shore.weir.sluices := by
  induction path generalizing s with
  | nil => rfl
  | cons l r ih => exact ih _

theorem sluiceFree_sluices (r : SluiceRec) (s : State) :
    (sluiceFree r s).shore.weir.sluices = s.shore.weir.sluices.filter (fun x => x.num != r.num) := by
  rw [sluiceFree_eq, onWeir_weir, unmarkPath_sluices]

theorem mem_wheel_sluiceFree {r : SluiceRec} {j : Nat} {s : State} {e : Nat × BitVec 8} :
    e ∈ (linkOf (sluiceFree r s) j).wheel ↔ e ∈ (linkOf s j).wheel ∧ (j ∈ r.path → e.2 ≠ sluiceMark r.num) := by
  rw [sluiceFree_eq]
  exact mem_wheel_unmarkPath

/-- Of the records, those stay whose number none of the freed sluices has. -/
theorem mem_sluices_freed {l : List SluiceRec} {s : State} {x : SluiceRec} :
    x ∈ (l.foldl (fun t r => sluiceFree r t) s).shore.weir.sluices ↔
      x ∈ s.shore.weir.sluices ∧ ∀ r ∈ l, x.num ≠ r.num := by
  induction l generalizing s with
  | nil => simp
  | cons r l ih =>
    rw [List.foldl_cons, ih, sluiceFree_sluices, List.mem_filter, bne_iff_ne, and_assoc, List.forall_mem_cons]

/-- Of the slots, those stay that none of the freed sluices has on its path. -/
theorem mem_wheel_freed {l : List SluiceRec} {s : State} {j : Nat} {e : Nat × BitVec 8} :
    e ∈ (linkOf (l.foldl (fun t r => sluiceFree r t) s) j).wheel ↔
      e ∈ (linkOf s j).wheel ∧ ∀ r ∈ l, j ∈ r.path → e.2 ≠ sluiceMark r.num := by
  induction l generalizing s with
  | nil => simp
  | cons r l ih => rw [List.foldl_cons, ih, mem_wheel_sluiceFree, and_assoc, List.forall_mem_cons]

/-- The sluices whose close lies nine epochs back. -/
def sluicesPast (s : State) : List SluiceRec :=
  s.shore.weir.sluices.filter (fun r => r.closeAt.any (fun a => decide (a + 9 ≤ s.shore.tbs.epoch.getD 0)))

theorem mem_sluicesPast {s : State} {r : SluiceRec} : r ∈ sluicesPast s ↔
    r ∈ s.shore.weir.sluices ∧ ∃ a, r.closeAt = some a ∧ a + 9 ≤ s.shore.tbs.epoch.getD 0 := by
  simp only [sluicesPast, List.mem_filter, Option.any_eq_true, decide_eq_true_eq]

theorem sluicesFree_eq (s : State) : sluicesFree s = (sluicesPast s).foldl (fun t r => sluiceFree r t) s := by
  unfold sluicesFree sluicesPast
  congr 2
  funext r
  cases r.closeAt <;> rfl

theorem unmarkLink_only (m : BitVec 8) (l : Nat) (s : State) : ShoreOnly s (unmarkLink m l s) := rfl

theorem sluicesFree_only (s : State) : ShoreOnly s (sluicesFree s) := by
  rw [sluicesFree_eq]
  refine .foldl (fun t r => ?_) _ s
  rw [sluiceFree_eq]
  exact (ShoreOnly.foldl (fun t l => unmarkLink_only _ l t) _ t).trans (onShore_only _ _)

/-- SLUICE_SLOTS_FREED (R238): a record goes with its number, and with it every slot of its mark on its path. -/
theorem sluicesFree_frees (s : State) :
    (∀ r ∈ (sluicesFree s).shore.weir.sluices, r ∈ s.shore.weir.sluices ∧
      ∀ a, r.closeAt = some a → s.shore.tbs.epoch.getD 0 < a + 9) ∧
    (∀ r ∈ s.shore.weir.sluices,
      (∀ x ∈ s.shore.weir.sluices, x.num = r.num → ∀ a, x.closeAt = some a → s.shore.tbs.epoch.getD 0 < a + 9) →
      r ∈ (sluicesFree s).shore.weir.sluices) ∧
    (∀ r ∈ s.shore.weir.sluices, ∀ a, r.closeAt = some a → a + 9 ≤ s.shore.tbs.epoch.getD 0 → r.num < 255 →
      ∀ l ∈ r.path, ∀ j, (linkOf (sluicesFree s) l).wheel.get j ≠ sluiceMark r.num) := by
  rw [sluicesFree_eq]
  refine ⟨fun r hr => ?_, fun r hr stay => ?_, fun r hr a hc ha hn l hl j hj => ?_⟩
  · obtain ⟨hr, left⟩ := mem_sluices_freed.1 hr
    refine ⟨hr, fun a hc => Nat.lt_of_not_le fun ha => ?_⟩
    exact left r (mem_sluicesPast.2 ⟨hr, a, hc, ha⟩) rfl
  · refine mem_sluices_freed.2 ⟨hr, fun x hx hnum => ?_⟩
    obtain ⟨hx, a, hc, ha⟩ := mem_sluicesPast.1 hx
    exact Nat.not_lt.2 ha (stay x hx hnum.symm a hc)
  · have slot := KMap.mem_of_get_ne (hj.trans_ne (sluiceMark_ne_zero hn))
    exact (mem_wheel_freed.1 slot).2 r (mem_sluicesPast.2 ⟨hr, a, hc, ha⟩) hl hj

/-! ### Writes to host memory (R256) -/

theorem Sends.nil (a : Nat) (k : WriteKind) (size : Nat) : Sends [] a [] k size := by
  simp [Sends]

theorem Sends.single {l : List Byte} {size : Nat} (h : l.length ≤ size) (a : Nat) (k : WriteKind) :
    Sends [⟨a, l, k, 0⟩] a l k size := by
  refine ⟨by simp, by simp [h], fun pre w post e => ?_⟩
  obtain ⟨rfl, e⟩ | ⟨pre, rfl, e⟩ := List.cons_eq_append_iff.1 e
  · cases e; rfl
  · simp at e

/-- Writes of bytes and of those that follow them. -/
theorem Sends.append {ws vs : List HostWrite} {a : Nat} {l m : List Byte} {k : WriteKind} {size : Nat}
    (hw : Sends ws a l k size) (hv : Sends vs (a + l.length) m k size) : Sends (ws ++ vs) a (l ++ m) k size := by
  obtain ⟨wl, wk, wa⟩ := hw
  obtain ⟨vl, vk, va⟩ := hv
  refine ⟨by rw [List.flatMap_append, wl, vl], fun w hw => (List.mem_append.1 hw).elim (wk w) (vk w),
    fun pre w post e => ?_⟩
  obtain ⟨pre, rfl, e'⟩ | ⟨mid, e, e'⟩ := List.append_eq_append_iff.1 e
  · rw [va pre w post e', List.flatMap_append, wl, List.length_append, Nat.add_assoc]
  · cases mid with
    | nil => rw [va [] w post e'.symm, ← wl, e]; simp
    | cons x mid =>
      obtain ⟨rfl, -⟩ := List.cons.inj e'
      exact wa pre w mid e

theorem tlps_sends {size : Nat} (hs : 0 < size) (k : WriteKind) {fuel : Nat} (a : Nat) {l : List Byte}
    (hf : l.length < fuel) : Sends (tlps size k fuel a l) a l k size := by
  induction fuel generalizing a l with
  | zero => omega
  | succ fuel ih =>
    rw [tlps]
    split
    next h => exact .single h a k
    next h =>
      have hlen : (l.take size).length = size := by simp; omega
      have head : Sends [⟨a, l.take size, k, 0⟩] a (l.take size) k size := .single hlen.le a k
      have rest : Sends (tlps size k fuel (a + size) (l.drop size)) (a + size) (l.drop size) k size :=
        ih _ (by rw [List.length_drop]; omega)
      have both := head.append (by rw [hlen]; exact rest)
      rwa [List.take_append_drop] at both

/-- Bytes that fit one write go in one. -/
theorem tlps_short {size : Nat} {l : List Byte} (h : l.length ≤ size) (k : WriteKind) (fuel a : Nat) :
    tlps size k (fuel + 1) a l = [⟨a, l, k, 0⟩] := by
  rw [tlps, if_pos h]

theorem maxPayload_ge (p : Port) : 128 ≤ maxPayload p :=
  Nat.le_mul_of_pos_right _ (Nat.two_pow_pos _)

/-- The writes that carry parts of a block at `base`, each at its own place. -/
def partWrites (size : Nat) (k : WriteKind) (base : Nat) (ps : List (Nat × List Byte)) : List HostWrite :=
  ps.flatMap (fun x => tlps size k (x.2.length + 1) (base + x.1) x.2)

/-- The parts stand one after the other, from place `n` on. -/
def PartsFrom : Nat → List (Nat × List Byte) → Prop
  | _, [] => True
  | n, x :: r => x.1 = n ∧ PartsFrom (n + x.2.length) r

theorem PartsFrom.append {n m : Nat} {ps qs : List (Nat × List Byte)} (hp : PartsFrom n ps)
    (hm : n + (ps.flatMap (·.2)).length = m) (hq : PartsFrom m qs) : PartsFrom n (ps ++ qs) := by
  induction ps generalizing n with
  | nil => subst hm; exact hq
  | cons x r ih =>
    obtain ⟨hx, hr⟩ := hp
    exact ⟨hx, ih hr (by rw [← hm, List.flatMap_cons, List.length_append, Nat.add_assoc])⟩

/-- Parts that stand one after the other are written as their bytes in a row. -/
theorem partWrites_sends {size : Nat} (hs : 0 < size) (k : WriteKind) (base : Nat) {n : Nat}
    {ps : List (Nat × List Byte)} (h : PartsFrom n ps) :
    Sends (partWrites size k base ps) (base + n) (ps.flatMap (·.2)) k size := by
  induction ps generalizing n with
  | nil => exact .nil _ k size
  | cons x r ih =>
    obtain ⟨rfl, h⟩ := h
    exact (tlps_sends hs k _ (Nat.lt_succ_self _)).append (by rw [Nat.add_assoc]; exact ih h)

theorem postWrite_only (h a : Nat) (l : List Byte) (k : WriteKind) (s : State) : ShoreOnly s (postWrite h a l k s) := rfl

theorem portOf_postWrite {h : Nat} (hh : h < 4) (a : Nat) (l : List Byte) (k : WriteKind) (s : State) :
    portOf (postWrite h a l k s) h = { portOf s h with
      posted := (portOf s h).posted ++ tlps (maxPayload (portOf s h)) k (l.length + 1) a l } := by
  rw [postWrite, portOf_onPort _ _ _ _ hh, if_pos rfl]

theorem portOf_postParts {h : Nat} (hh : h < 4) (base : Nat) (k : WriteKind) (ps : List (Nat × List Byte)) (s : State) :
    portOf (ps.foldl (fun t x => postWrite h (base + x.1) x.2 k t) s) h = { portOf s h with
      posted := (portOf s h).posted ++ partWrites (maxPayload (portOf s h)) k base ps } := by
  induction ps generalizing s with
  | nil => simp [partWrites]
  | cons x r ih =>
    rw [List.foldl_cons, ih, portOf_postWrite hh]
    simp [partWrites, maxPayload]

/-! ### Snapshots (R282) -/

theorem slice_eq {l : List Byte} {off len : Nat} (h : off + len ≤ l.length) : slice l off len = (l.drop off).take len := by
  rw [slice, padTo, List.take_append_of_le_length (by rw [List.length_drop]; omega)]

/-- Bytes and the structure's part that follows them. -/
theorem take_append_slice {l : List Byte} {off len : Nat} (h : off + len ≤ l.length) :
    l.take off ++ slice l off len = l.take (off + len) := by
  rw [slice_eq h, ← List.take_add]

/-- A section of a block, left out where it is empty. -/
theorem section_bytes (l : List Byte) (off len : Nat) :
    (if len = 0 then [] else [(off, slice l off len)]).flatMap (·.2) = slice l off len := by
  split
  next h => rw [h]; exact (List.eq_nil_of_length_eq_zero (slice_length l off 0)).symm
  next h => simp

theorem section_from (l : List Byte) (off len : Nat) :
    PartsFrom off (if len = 0 then [] else [(off, slice l off len)]) := by
  split
  · trivial
  · exact ⟨rfl, trivial⟩

/-- The parts of a snapshot stand one after the other. -/
theorem mirParts_from {set : Nat} {l : List Byte} (hl : 8 ≤ l.length) : PartsFrom 0 (mirParts set l) := by
  have h8 : (l.take 8).length = 8 := by simp [hl]
  have head : PartsFrom 0 [(0, l.take 8), (8, slice l 8 56)] := ⟨rfl, by rw [h8], trivial⟩
  have head_length : ([(0, l.take 8), (8, slice l 8 56)].flatMap (·.2)).length = 64 := by simp [h8, slice_length]
  refine (head.append (by rw [head_length]) (section_from l 64 _)).append ?_ (section_from l (64 + _) _)
  rw [List.flatMap_append, section_bytes, List.length_append, head_length, slice_length, Nat.zero_add]

/-- The parts of a snapshot are its bytes but for SEQ_END. -/
theorem mirParts_bytes {set : Nat} {l : List Byte} (hl : l.length = mirSize set) :
    (mirParts set l).flatMap (·.2) = l.take (l.length - 8) := by
  unfold mirSize at hl
  unfold mirParts
  simp only [List.flatMap_append, section_bytes]
  generalize (if set % 2 = 1 then 2048 else 0) = pond at hl ⊢
  generalize (if 2 ≤ set then 8192 else 0) = acct at hl ⊢
  calc [(0, l.take 8), (8, slice l 8 56)].flatMap (·.2) ++ slice l 64 pond ++ slice l (64 + pond) acct
      = l.take 8 ++ slice l 8 56 ++ slice l 64 pond ++ slice l (64 + pond) acct := by simp
    _ = l.take (64 + pond + acct) := by
      rw [take_append_slice (by omega), take_append_slice (by omega), take_append_slice (by omega)]
    _ = l.take (l.length - 8) := by rw [hl, Nat.add_sub_cancel]

/-- The Shore's registers that count a port's writes: the delay, the boundary, and delays past 1 µs. -/
def mirCounted (h x delay : Nat) (s : State) : State :=
  let t := sset (tmir h 0x3C) (BitVec.ofNat 32 x) (sset (tmir h 0x30) (BitVec.ofNat 32 delay) s)
  if 1000 < delay then sinc (tmir h 0x34) 0 32 1 t else t

theorem mirCounted_only (h x delay : Nat) (s : State) : ShoreOnly s (mirCounted h x delay s) := by
  unfold mirCounted
  split <;> rfl

theorem portOf_mirCounted (h x delay : Nat) (s : State) (k : Nat) : portOf (mirCounted h x delay s) k = portOf s k := by
  unfold mirCounted
  split <;> rfl

/-- A port that can write begins its due snapshot with all the parts before SEQ_END. -/
theorem mirStart_eq {s : State} {h x : Nat} {l : List Byte} {b : Block} (hd : (portOf s h).mirDue = some (x, l))
    (hb : (ctxOf s h 0).block = some b) (hc : canRequest (portOf s h) = true) (hr : mirrorRuns s h = true)
    (hn : (portOf s h).mirBusy = none) : mirStart h s =
      onPort h (fun p => { p with
        mirDue := none, mirBusy := some (x, leAt l 0x28 4, s.ns), mirTail := b.mirBase + (l.length - 8) })
        (mirCounted h x (s.ns - (portOf s h).mirAt)
          ((mirParts (fld b.mirCfg 16 2) l).foldl (fun t y => postWrite h (b.mirBase + y.1) y.2 .mirror t) s)) := by
  unfold mirStart
  simp only [hd, hb, hc, hr, hn]
  rfl

/-- MIRROR_SNAPSHOT of a port that can write (R282). -/
theorem exec_mirrorSnapshot {s : State} {h : PortId} {x : Nat} {l : List Byte} {b : Block}
    (hd : (portOf s h.val).mirDue = some (x, l)) (hb : (ctxOf s h.val 0).block = some b)
    (hc : canRequest (portOf s h.val) = true) (hr : mirrorRuns s h.val = true)
    (hn : (portOf s h.val).mirBusy = none) (hl : l.length = mirSize (fld b.mirCfg 16 2)) :
    ∃ t ws, exec (.mirrorSnapshot h) s = .next t ∧ ShoreOnly s t ∧
      portOf t h.val = { portOf s h.val with
        posted := (portOf s h.val).posted ++ ws, mirDue := none, mirBusy := some (x, leAt l 0x28 4, s.ns),
        mirTail := b.mirBase + (l.length - 8) } ∧
      Sends ws b.mirBase (l.take (l.length - 8)) .mirror (maxPayload (portOf s h.val)) := by
  have hs : 0 < maxPayload (portOf s h.val) := Nat.lt_of_lt_of_le (by decide) (maxPayload_ge _)
  have h8 : 8 ≤ l.length := by rw [hl]; exact Nat.le_add_left _ _
  refine ⟨mirStart h.val s, partWrites (maxPayload (portOf s h.val)) .mirror b.mirBase
    (mirParts (fld b.mirCfg 16 2) l), rfl, ?_, ?_, ?_⟩
  · rw [mirStart_eq hd hb hc hr hn]
    have parts : ShoreOnly s ((mirParts (fld b.mirCfg 16 2) l).foldl
        (fun t y => postWrite h.val (b.mirBase + y.1) y.2 .mirror t) s) :=
      .foldl (fun t y => postWrite_only _ _ _ _ t) _ s
    exact (parts.trans (mirCounted_only _ _ _ _)).trans (onShore_only _ _)
  · rw [mirStart_eq hd hb hc hr hn, portOf_onPort _ _ _ _ h.isLt, if_pos rfl, portOf_mirCounted,
      portOf_postParts h.isLt]
  · rw [← mirParts_bytes hl]
    exact partWrites_sends hs .mirror b.mirBase (mirParts_from h8)

/-- The Shore's registers at the end of a snapshot of boundary `x` that took `d` ns (Table 10.10). -/
def mirEnded (h x d : Nat) (s : State) : State :=
  let s1 := sset (tmir h 0x14) (BitVec.ofNat 32 (x / 2 ^ 32))
    (sset (tmir h 0x10) (BitVec.ofNat 32 x) (smod (tmir h 0x18) (fun w => w + 1) s))
  let s2 := smod (tmir h 0x28) (fun w => peakFld w 0 32 d) (sset (tmir h 0x24) (BitVec.ofNat 32 d) s1)
  sset 0x801C (BitVec.ofNat 32 h) (smod 0x8018 (fun w => peakFld w 0 32 d) (inc64 0x8008 s2))

theorem portOf_mirEnded (h x d : Nat) (s : State) (k : Nat) : portOf (mirEnded h x d s) k = portOf s k := by
  unfold mirEnded inc64 sset
  simp only [portOf_smod]

theorem mirEnded_only (h x d : Nat) (s : State) : ShoreOnly s (mirEnded h x d s) :=
  .sset <| .smod <| .inc64 <| .smod <| .sset <| .sset <| .sset <| .smod <| .refl s

/-- X and the duration stand in the port's TMIR registers. -/
theorem sreg_mirEnded (h x d : Nat) (s : State) :
    sreg (mirEnded h x d s) (tmir h 0x10) = BitVec.ofNat 32 x ∧
    sreg (mirEnded h x d s) (tmir h 0x14) = BitVec.ofNat 32 (x / 2 ^ 32) ∧
    sreg (mirEnded h x d s) (tmir h 0x24) = BitVec.ofNat 32 d := by
  unfold mirEnded tmir
  refine ⟨?_, ?_, ?_⟩ <;>
    simp (disch := omega) only [sreg_sset_ne, sreg_smod_ne, sreg_inc64_ne, sreg_sset_self]

/-- The end of a snapshot: its registers, then SEQ_END written after the writes that are not a snapshot's. -/
theorem mirEnd_eq {s : State} {h x k t : Nat} (hb : (portOf s h).mirBusy = some (x, k, t)) : mirEnd h s =
    postWrite h (portOf s h).mirTail (leBytes x 8) .mirror (onPort h (fun p => { p with
      mirBusy := none, mirSkips := p.mirSkips - k, posted := p.posted.filter (fun w => w.kind != .mirror) })
      (mirEnded h x (s.ns - t) s)) := by
  unfold mirEnd
  simp only [hb]
  rfl

/-- SNAPSHOT_WRITE_END of a port that writes a snapshot (R282). -/
theorem exec_snapshotWriteEnd {s : State} {h : PortId} {x k t0 : Nat} (hb : (portOf s h.val).mirBusy = some (x, k, t0)) :
    ∃ t, exec (.snapshotWriteEnd h) s = .next t ∧ ShoreOnly s t ∧
      portOf t h.val = { portOf s h.val with
        mirBusy := none, mirSkips := (portOf s h.val).mirSkips - k,
        posted := (portOf s h.val).posted.filter (fun w => w.kind != .mirror) ++
          [⟨(portOf s h.val).mirTail, leBytes x 8, .mirror, 0⟩] } ∧
      ∀ o, sreg t o = sreg (mirEnded h.val x (s.ns - t0) s) o := by
  refine ⟨mirEnd h.val s, rfl, ?_, ?_, fun o => ?_⟩ <;> rw [mirEnd_eq hb]
  · exact ((mirEnded_only _ _ _ _).trans (onShore_only _ _)).trans (postWrite_only _ _ _ _ _)
  · have short (p : Port) : (leBytes x 8).length ≤ maxPayload p := by
      have := maxPayload_ge p
      rw [leBytes_length]; omega
    rw [portOf_postWrite h.isLt, tlps_short (short _), portOf_onPort _ _ _ _ h.isLt, if_pos rfl, portOf_mirEnded]
  · rw [sreg_postWrite, sreg_onPort]

/-! ### The statement -/

/-- Settles O38: each instruction by its law. -/
theorem orphansSlotsAndSnapshots : Obligations.OrphansSlotsAndSnapshots := by
  unfold Obligations.OrphansSlotsAndSnapshots
  refine ⟨fun s p l hl ha hs => orphanPolicy_falls_due hl ha hs,
    fun s => ⟨sluicesFree s, rfl, sluicesFree_only s, sluicesFree_frees s⟩,
    fun s h => ⟨fun x l b hd hb hc hr hn hl => ?_, fun x a b hb => ?_⟩⟩
  · obtain ⟨t, ws, step, only, port, sends⟩ := exec_mirrorSnapshot hd hb hc hr hn hl
    exact ⟨t, ws, step, only, by rw [port], sends, by rw [port], by rw [port], by rw [port]⟩
  · obtain ⟨t, step, only, port, regs⟩ := exec_snapshotWriteEnd hb
    obtain ⟨lo, hi, dur⟩ := sreg_mirEnded h.val x (s.ns - b) s
    exact ⟨t, step, only, by rw [port], (regs _).trans lo, (regs _).trans hi, (regs _).trans dur, by rw [port]⟩

end Sys2Proof.Machine
end

section
/-! SUPPORT and claims. Device starts: POR_N asserted and released, the ends of BIST and of the regeneration, and the
warm device resets with the watchdog and the armed registers (R68 to R79, R83, R91, R341, R343, R466). -/

namespace Sys2Proof.Machine

/-! ### Bits and ponds by number -/

theorem getLsbD_setBit {n : Nat} (w : BitVec n) (i : Nat) (b : Bool) {j : Nat} (hj : j < n) :
    (setBit w i b).getLsbD j = if j = i then b else w.getLsbD j := by
  have hbit : (BitVec.ofNat n (1 <<< i)).getLsbD j = decide (j = i) := by
    rw [BitVec.getLsbD_ofNat, decide_eq_true hj, Bool.true_and, Nat.one_shiftLeft, Nat.testBit_two_pow,
      decide_eq_decide]
    exact eq_comm
  unfold setBit
  cases b
  · rw [if_neg Bool.false_ne_true, BitVec.getLsbD_and, BitVec.getLsbD_not, hbit]
    by_cases h : j = i <;> simp [h, hj]
  · rw [if_pos rfl, BitVec.getLsbD_or, hbit]
    by_cases h : j = i <;> simp [h]

theorem bitIs_setBit {n : Nat} (w : BitVec n) (i : Nat) (b : Bool) : BitIs w (setBit w i b) i b :=
  fun _ hj => getLsbD_setBit w i b hj

theorem pondAt_val (s : State) (p : PondId) : pondAt s p.val = pondOf s p := by
  simp [pondAt, pondOf, vget, Vector.getD]

theorem vset_eq_set {α : Type} {n : Nat} (v : Vector α n) (i : Fin n) (x : α) : vset v i.val x = v.set i x :=
  Vector.ext fun j hj => by rw [vset, Vector.getElem_setIfInBounds, Vector.getElem_set]

theorem onPondN_val (p : PondId) (f : Pond → Pond) (s : State) : onPondN p.val f s = onPond p f s := by
  unfold onPondN onPond
  rw [pondAt_val, vset_eq_set]
  rfl

theorem pondOf_ponds_eq {s t : State} (h : t.ponds = s.ponds) (p : PondId) : pondOf t p = pondOf s p := by
  unfold pondOf; rw [h]

/-! ### What a device start cuts (R387, R393) -/

/-- Nothing but the Shore's registers, its system flash and its free values differs. -/
def FlashOnly (s t : State) : Prop :=
  ∃ r f n, t = { s with shore := { s.shore with regs := r, sfl := f, fresh := n } }

theorem FlashOnly.refl (s : State) : FlashOnly s s := ⟨_, _, _, rfl⟩

theorem FlashOnly.trans {s t u : State} (h : FlashOnly s t) (k : FlashOnly t u) : FlashOnly s u := by
  obtain ⟨_, _, _, rfl⟩ := h
  obtain ⟨_, _, _, rfl⟩ := k
  exact ⟨_, _, _, rfl⟩

theorem FlashOnly.foldl {α : Type} {f : State → α → State} (h : ∀ t a, FlashOnly t (f t a)) (l : List α) (s : State) :
    FlashOnly s (l.foldl f s) :=
  foldl_keep FlashOnly .refl (fun _ _ _ => .trans) f h l s

theorem sflPut_flash (a : FArr) (s : State) : FlashOnly s (sflPut a s) := ⟨_, _, _, rfl⟩

theorem sflErase_flash (k : Nat) (s : State) : FlashOnly s (sflErase k s) := ⟨_, _, _, rfl⟩

theorem useShoreFree_flash (s : State) : FlashOnly s (useShoreFree s) := ⟨_, _, _, rfl⟩

theorem sysAbandon_flash (s : State) : FlashOnly s (sysAbandon s) := by
  refine .foldl (fun t b => ?_) _ s
  dsimp only
  split
  · exact .refl t
  · exact ⟨_, _, _, rfl⟩

theorem archCut_idle {s : State} (h : s.shore.ledger.queue = []) : archCut s = s := by
  unfold archCut
  rw [h]

theorem selCut_flash (s : State) : FlashOnly s (selCut s) := by
  refine .trans (.trans (.foldl (fun t x => sflPut_flash _ t) _ s) ⟨_, _, _, rfl⟩) (useShoreFree_flash _)

/-- The last-gasp path is cut: its draft is gone, and of the ledger nothing else. -/
theorem gaspCut_says (s : State) : ∃ u, FlashOnly s u ∧ gaspCut s = onLedger (fun l => { l with lgDraft := none }) u := by
  unfold gaspCut
  extract_lets w a cut d blank s1 s2
  have h1 : FlashOnly s s1 := by
    unfold s1
    split
    · exact .refl s
    · exact sflPut_flash _ s
  have h2 : FlashOnly s s2 := by
    unfold s2
    split
    · exact (h1.trans (sflPut_flash _ _)).trans (.foldl (fun t k => sflErase_flash _ t) _ _)
    · exact h1
  exact ⟨useShoreFree s2, h2.trans (useShoreFree_flash s2), rfl⟩

/-- With no interval to seal, what is cut of system flash leaves the ledger but for the draft. -/
theorem flashCut_ledger {s : State} (h : s.shore.ledger.queue = []) :
    (flashCut s).shore.ledger = { s.shore.ledger with lgDraft := none } := by
  unfold flashCut
  obtain ⟨r, f, n, e⟩ := sysAbandon_flash s
  rw [archCut_idle (by rw [e]; exact h)]
  obtain ⟨u, hu, g⟩ := gaspCut_says (selCut (sysAbandon s))
  obtain ⟨r', f', n', e'⟩ := (selCut_flash (sysAbandon s)).trans hu
  rw [g, e', e]
  rfl

theorem sysAbandon_idle {s : State} (h0 : s.shore.sfl.op0 = none) (h1 : s.shore.sfl.op1 = none) : sysAbandon s = s := by
  simp [sysAbandon, sysOpOf, h0, h1]

/-- With nothing under way in system flash, its words are kept. -/
theorem flashCut_words {s : State} (hq : s.shore.ledger.queue = []) (hd : s.shore.ledger.lgDraft = none)
    (he : s.shore.ledger.lgErase = false) (h0 : s.shore.sfl.op0 = none) (h1 : s.shore.sfl.op1 = none)
    (hn : s.shore.sfl.selNew = []) : (flashCut s).shore.sfl.words = s.shore.sfl.words := by
  have hsel : selCut s = useShoreFree (onSfl (fun f => { f with selWait := [], selNew := [] }) s) := by
    simp [selCut, hn]
  unfold flashCut
  rw [sysAbandon_idle h0 h1, archCut_idle hq, hsel]
  simp [gaspCut, useShoreFree, onSfl, hd, he]

/-- Nothing but the OTP row and the Shore's free values differs. -/
def RowOnly (s t : State) : Prop := ∃ o n, t = { s with shore := { s.shore with otp := o, fresh := n } }

theorem otpCut_row (s : State) : RowOnly s (otpCut s) := by
  unfold otpCut
  split
  · exact ⟨_, _, rfl⟩
  · exact ⟨_, _, rfl⟩

theorem huskCut_row (s : State) : RowOnly s (huskCut s) := by
  unfold huskCut
  split
  · exact ⟨_, _, rfl⟩
  · exact ⟨_, _, rfl⟩

theorem rowCut_row (s : State) : RowOnly s (rowCut s) := by
  obtain ⟨o, n, e⟩ := otpCut_row s
  obtain ⟨o', n', e'⟩ := huskCut_row (otpCut s)
  exact ⟨o', n', by rw [rowCut, e', e]⟩

theorem rowCut_idle {s : State} (hp : s.shore.otp.prog = none) (hh : s.shore.alarms.huskProg = false) : rowCut s = s := by
  have ho : otpCut s = s := by unfold otpCut; rw [hp]
  unfold rowCut huskCut
  rw [ho, hh, if_neg Bool.false_ne_true]

theorem pflAbandon_bank (P : Pond) : (pflAbandon P).pfl.bank = P.pfl.bank := by
  unfold pflAbandon
  split <;> rfl

theorem pflAbandon_idle {P : Pond} (h : P.pfl.op = none) : pflAbandon P = P := by
  unfold pflAbandon
  rw [h]

/-! ### POR_N (R83, R68) -/

theorem pondOf_coldClear (s : State) (p : PondId) : pondOf (coldClear s) p = pondAtStart Tap.reset (pondOf s p) := by
  simp [pondOf, coldClear]

/-- POR_N asserted leaves the places of the seals, where none waits to be written. -/
theorem coldClear_ledger {s : State} (h : s.shore.ledger.queue = []) :
    (coldClear s).shore.ledger.archive = s.shore.ledger.archive ∧
    (coldClear s).shore.ledger.archPos = s.shore.ledger.archPos := by
  obtain ⟨o, n, e⟩ := rowCut_row s
  have hl : (flashCut (rowCut s)).shore.ledger = { s.shore.ledger with lgDraft := none } := by
    rw [flashCut_ledger (by rw [e]; exact h), e]
  change (flashCut (rowCut s)).shore.ledger.archive = _ ∧ (flashCut (rowCut s)).shore.ledger.archPos = _
  rw [hl]
  exact ⟨rfl, rfl⟩

/-- POR_N asserted leaves the words of system flash, where nothing runs there. -/
theorem coldClear_words {s : State} (hq : s.shore.ledger.queue = []) (hd : s.shore.ledger.lgDraft = none)
    (he : s.shore.ledger.lgErase = false) (h0 : s.shore.sfl.op0 = none) (h1 : s.shore.sfl.op1 = none)
    (hn : s.shore.sfl.selNew = []) : (coldClear s).shore.sfl.words = s.shore.sfl.words := by
  obtain ⟨o, n, e⟩ := rowCut_row s
  have hw : (flashCut (rowCut s)).shore.sfl.words = s.shore.sfl.words := by
    rw [e]
    exact flashCut_words hq hd he h0 h1 hn
  exact hw

/-- POR_N asserted leaves the OTP row, where no word of it is programmed. -/
theorem coldClear_otp {s : State} (hp : s.shore.otp.prog = none) (hh : s.shore.alarms.huskProg = false) :
    (coldClear s).shore.otp.words = s.shore.otp.words := by
  change (rowCut s).shore.otp.words = _
  rw [rowCut_idle hp hh]

/-- POR_N released begins start-up, where some pond is not fused out. -/
theorem porRelease_begun {s : State} {q : PondId} (h : s.shore.boot.por = true) (hq : fusedOut s q.val = false) :
    StepsBegun (onBoot (fun b => { b with por := false, cause := 1, startNs := s.ns, coldStart := true }) s)
      (porRelease s) := by
  unfold porRelease
  rw [h]
  exact startSteps_begun _ q.isLt hq

theorem porRelease_started {s : State} (h : s.shore.boot.por = false) : porRelease s = s := by
  unfold porRelease
  rw [h]
  rfl

/-! ### The end of BIST (R91) -/

/-- A pond that passed BIST calibrates its converters (step 6). -/
def passBist (P : Pond) : Pond :=
  { P with life := { P.life with bistDone := true }, conv := P.conv.map calAtStart }

/-- A pond that failed BIST leaves service. -/
def failBist (P : Pond) : Pond := { P with life := { P.life with inService := false } }

/-- The outcome of BIST in pond `p` recorded: a pond that passed calibrates, one that failed leaves service. -/
def bistRecord (p : Nat) (units : BitVec 16) (s : State) : State :=
  let s1 := onBoot (fun b => { b with bistWait := setBit b.bistWait p false }) s
  if units = 0 then
    onPondN p passBist s1
  else
    addReport 2 p units.toNat (onBoot (fun b => { b with
        bistFail := setBit b.bistFail p true, bistUnit := b.bistUnit.set p units })
      (onPondN p failBist s1))

/-- The last outcome ends step 5. -/
def bistStepEnd (s : State) : State := if s.shore.boot.bistWait = 0 then phaseEnded 5 s else s

theorem bistEnd_eq {p : Nat} {s : State} (h : s.shore.boot.bistWait.getLsbD p = true) (units : BitVec 16) :
    bistEnd p units s = bootAdvance (bistStepEnd (bistRecord p units s)) := by
  unfold bistEnd bit
  rw [h]
  rfl

theorem bistEnd_idle {p : Nat} {s : State} (h : s.shore.boot.bistWait.getLsbD p = false) (units : BitVec 16) :
    bistEnd p units s = s := by
  unfold bistEnd bit
  rw [h]
  rfl

/-- Nothing but the ponds and the state of start-up differs. -/
def BistOnly (s t : State) : Prop := t = { s with ponds := t.ponds, shore := { s.shore with boot := t.shore.boot } }

theorem bistRecord_only (p : Nat) (units : BitVec 16) (s : State) : BistOnly s (bistRecord p units s) := by
  unfold bistRecord
  dsimp only
  split <;> rfl

theorem bistStepEnd_only (s : State) : BistOnly s (bistStepEnd s) := by
  unfold bistStepEnd
  split <;> rfl

theorem BistOnly.trans {s t u : State} (h : BistOnly s t) (k : BistOnly t u) : BistOnly s u := by
  unfold BistOnly at *
  rw [k, h]

/-- The record of an outcome leaves what start-up waits for, but for BIST of this pond. -/
theorem bistRecord_boot (p : Nat) (units : BitVec 16) (s : State) :
    (bistRecord p units s).shore.boot.bistWait = setBit s.shore.boot.bistWait p false ∧
    (bistRecord p units s).shore.boot.wellWait = s.shore.boot.wellWait ∧
    (bistRecord p units s).shore.boot.applied = s.shore.boot.applied := by
  unfold bistRecord
  dsimp only
  split <;> exact ⟨rfl, rfl, rfl⟩

theorem bistStepEnd_boot (s : State) : ∃ k, (bistStepEnd s).shore.boot = { s.shore.boot with phase := k } ∧
    (s.shore.boot.bistWait = 0 → k = 5) := by
  unfold bistStepEnd
  split
  next => exact ⟨5, rfl, fun _ => rfl⟩
  next h => exact ⟨_, rfl, fun e => absurd e h⟩

theorem bistStepEnd_ponds (s : State) : (bistStepEnd s).ponds = s.ponds := by
  unfold bistStepEnd
  split <;> rfl

theorem bistRecord_passed (p : PondId) (s : State) :
    (bistRecord p.val 0 s).ponds = (onPond p passBist s).ponds := by
  unfold bistRecord
  rw [if_pos rfl, onPondN_val]
  rfl

theorem bistRecord_failed (p : PondId) {units : BitVec 16} (h : units ≠ 0) (s : State) :
    (bistRecord p.val units s).ponds = (onPond p failBist s).ponds ∧
    (bistRecord p.val units s).shore.boot.bistFail = setBit s.shore.boot.bistFail p.val true ∧
    (bistRecord p.val units s).shore.boot.bistUnit = s.shore.boot.bistUnit.set p.val units := by
  unfold bistRecord
  rw [if_neg h, onPondN_val]
  exact ⟨rfl, rfl, rfl⟩

theorem bistRecord_others {p q : PondId} (h : q ≠ p) (units : BitVec 16) (s : State) :
    pondOf (bistRecord p.val units s) q = pondOf s q := by
  by_cases hu : units = 0
  · subst hu
    rw [pondOf_ponds_eq (bistRecord_passed p s), pondOf_onPond_ne _ _ h]
  · rw [pondOf_ponds_eq (bistRecord_failed p hu s).1, pondOf_onPond_ne _ _ h]

/-- BIST_END of a pond while start-up still waits for another or for the regeneration. -/
theorem bistEnd_waits {p : PondId} {s : State} (h : s.shore.boot.bistWait.getLsbD p.val = true)
    (hw : s.shore.boot.wellWait = true ∨ ∃ q : PondId, q ≠ p ∧ s.shore.boot.bistWait.getLsbD q.val = true)
    (units : BitVec 16) : bistEnd p.val units s = bistStepEnd (bistRecord p.val units s) := by
  rw [bistEnd_eq h]
  obtain ⟨hb, hwell, -⟩ := bistRecord_boot p.val units s
  obtain ⟨k, hk, -⟩ := bistStepEnd_boot (bistRecord p.val units s)
  rcases hw with hw | ⟨q, hq, hwait⟩
  · exact bootAdvance_well (by rw [hk]; exact hwell.trans hw)
  · refine bootAdvance_bist fun hz => ?_
    rw [hk] at hz
    have hq0 : (setBit s.shore.boot.bistWait p.val false).getLsbD q.val = false := by
      rw [← hb, show (bistRecord p.val units s).shore.boot.bistWait = 0 from hz]
      exact BitVec.getLsbD_zero
    rw [getLsbD_setBit _ _ _ q.isLt, if_neg (fun e => hq (Fin.ext e)), hwait] at hq0
    exact Bool.noConfusion hq0

theorem calWaits_ponds {s t : State} (h : t.ponds = s.ponds) : calWaits t = calWaits s := by
  unfold calWaits inService pondAt
  rw [h]

/-- The last end of BIST, with nothing else to wait for, runs start-up to its step 10 (R68). -/
theorem bistEnd_last {p : PondId} {units : BitVec 16} {s : State} (hu : units ≠ 0)
    (hb : s.shore.boot.bistWait = BitVec.twoPow 64 p.val) (hw : s.shore.boot.wellWait = false)
    (ha : s.shore.boot.applied = false)
    (hc : calWaits (onPond p failBist s) = false) :
    (bistEnd p.val units s).shore.boot.applied = true ∧ (bistEnd p.val units s).shore.boot.phase = 10 := by
  have hp : s.shore.boot.bistWait.getLsbD p.val = true := by rw [hb, BitVec.getLsbD_twoPow]; simp
  obtain ⟨hbist, hwell, happ⟩ := bistRecord_boot p.val units s
  have hzero : (bistRecord p.val units s).shore.boot.bistWait = 0 := by
    rw [hbist, hb]
    refine BitVec.eq_of_getLsbD_eq fun i hi => ?_
    rw [getLsbD_setBit _ _ _ hi, BitVec.getLsbD_twoPow]
    by_cases e : i = p.val <;> simp [e, Ne.symm]
  obtain ⟨k, hk, h5⟩ := bistStepEnd_boot (bistRecord p.val units s)
  have hcal : calWaits (bistStepEnd (bistRecord p.val units s)) = false := by
    rw [calWaits_ponds (bistStepEnd_ponds _), calWaits_ponds (bistRecord_failed p hu s).1, hc]
  rw [bistEnd_eq hp]
  refine bootAdvance_runs ?_ ?_ ?_ ?_ hcal <;> rw [hk]
  · exact le_of_le_of_eq (by decide) (h5 hzero).symm
  · exact happ.trans ha
  · exact hzero
  · exact hwell.trans hw

/-! ### The end of the regeneration (R341, R343) -/

/-- There are no keys. -/
def keysAway (s : State) : State := onBoot (fun b => { b with keysAbsent := true }) s

/-- The word that shows what the regeneration corrected. -/
def wellWord (a b c : List Byte) (s : State) : Word :=
  BitVec.ofNat 32 (65536 * (match pufCorrected s (majority a b c) with
    | some x => bitsApart (majority a b c) x
    | none => (shoreFree s 31).toNat % 65536) + 3200)

/-- Step 4 ended, with this word in 0x2008. -/
def stepFourEnd (v : Word) (s : State) : State :=
  useShoreFree (sset 0x2008 v (phaseEnded 4 (onBoot (fun b => { b with wellWait := false }) s)))

/-- Step 4 ended, with what the regeneration corrected. -/
def wellShown (a b c : List Byte) (s : State) : State := stepFourEnd (wellWord a b c s) s

/-- The outcome of the regeneration recorded: W of a corrected value that its check value agrees with, or no keys. -/
def wellRecord (a b c : List Byte) (s : State) : State :=
  if s.shore.keys.inhibit then keysAway (phaseEnded 4 (onBoot (fun b => { b with wellWait := false }) s))
  else match (pufCorrected s (majority a b c)).map pufW with
    | some w =>
      if pufCheck s w then onKeys (fun k => { k with w := some w }) (wellShown a b c s)
      else onKeys (fun k => { k with pufFail := true }) (keysAway (wellShown a b c s))
    | none => onKeys (fun k => { k with pufFail := true }) (keysAway (wellShown a b c s))

theorem wellEnd_eq {s : State} (h : s.shore.boot.wellWait = true) (a b c : List Byte) :
    wellEnd a b c s = bootAdvance (wellRecord a b c s) := by
  unfold wellEnd
  rw [h]
  rfl

theorem wellRecord_inhibited {s : State} (h : s.shore.keys.inhibit = true) (a b c : List Byte) :
    wellRecord a b c s = keysAway (phaseEnded 4 (onBoot (fun b => { b with wellWait := false }) s)) := by
  unfold wellRecord
  rw [if_pos h]

theorem wellRecord_corrected {s : State} {a b c v : List Byte} (h : s.shore.keys.inhibit = false)
    (hv : pufCorrected s (majority a b c) = some v) : wellRecord a b c s =
      if pufCheck s (pufW v) then onKeys (fun k => { k with w := some (pufW v) }) (wellShown a b c s)
      else onKeys (fun k => { k with pufFail := true }) (keysAway (wellShown a b c s)) := by
  unfold wellRecord
  rw [if_neg (by rw [h]; exact Bool.false_ne_true), hv]
  rfl

theorem wellRecord_uncorrected {s : State} {a b c : List Byte} (h : s.shore.keys.inhibit = false)
    (hv : pufCorrected s (majority a b c) = none) :
    wellRecord a b c s = onKeys (fun k => { k with pufFail := true }) (keysAway (wellShown a b c s)) := by
  unfold wellRecord
  rw [if_neg (by rw [h]; exact Bool.false_ne_true), hv]
  rfl

theorem sreg_useShoreFree (s : State) (o : Nat) : sreg (useShoreFree s) o = sreg s o := rfl

theorem sreg_onKeys (f : Keys → Keys) (s : State) (o : Nat) : sreg (onKeys f s) o = sreg s o := rfl

theorem sreg_onBoot (f : Boot → Boot) (s : State) (o : Nat) : sreg (onBoot f s) o = sreg s o := rfl

theorem sreg_stepFourEnd (v : Word) (s : State) : sreg (stepFourEnd v s) 0x2008 = v := by
  rw [stepFourEnd, sreg_useShoreFree, sreg_sset_self]

theorem stepFourEnd_only (v : Word) (s : State) : ∃ r n, stepFourEnd v s = { s with shore := { s.shore with
    regs := r, fresh := n, boot := { s.shore.boot with wellWait := false, phase := 4 } } } := ⟨_, _, rfl⟩

theorem wellShown_only (a b c : List Byte) (s : State) : ∃ r n, wellShown a b c s = { s with shore := { s.shore with
    regs := r, fresh := n, boot := { s.shore.boot with wellWait := false, phase := 4 } } } :=
  stepFourEnd_only _ s

/-- What the record of the regeneration leaves: the ponds, the time, the queue, and of start-up all but step 4. -/
theorem wellRecord_keeps (a b c : List Byte) (s : State) :
    (wellRecord a b c s).pending = s.pending ∧ (wellRecord a b c s).ns = s.ns ∧
    (wellRecord a b c s).ponds = s.ponds ∧ (wellRecord a b c s).shore.boot = { s.shore.boot with
      wellWait := false, phase := 4, keysAbsent := (wellRecord a b c s).shore.boot.keysAbsent } := by
  obtain ⟨r, n, e⟩ := wellShown_only a b c s
  cases h : s.shore.keys.inhibit
  · cases hv : pufCorrected s (majority a b c) with
    | none => rw [wellRecord_uncorrected h hv, e]; exact ⟨rfl, rfl, rfl, rfl⟩
    | some v =>
      rw [wellRecord_corrected h hv, e]
      split <;> exact ⟨rfl, rfl, rfl, rfl⟩
  · rw [wellRecord_inhibited h]; exact ⟨rfl, rfl, rfl, rfl⟩

theorem sreg_wellShown {a b c v : List Byte} {s : State} (hv : pufCorrected s (majority a b c) = some v) :
    sreg (wellShown a b c s) 0x2008 = BitVec.ofNat 32 (65536 * bitsApart (majority a b c) v + 3200) := by
  have hw : wellWord a b c s = BitVec.ofNat 32 (65536 * bitsApart (majority a b c) v + 3200) := by
    unfold wellWord
    rw [hv]
  rw [wellShown, sreg_stepFourEnd, hw]

/-- A reading within 1,024 bits of the enrolled value is corrected to it (R341). -/
theorem pufCorrected_near {s : State} {m v : List Byte} (he : s.shore.otp.enrolled = v) (hv : v ≠ [])
    (hh : otpBytes s 0x210 3056 = padTo 3056 (Config.pufHelper v)) (hn : bitsApart m v ≤ 1024) :
    pufCorrected s m = some v := by
  have hne : v.isEmpty = false := by cases v with | nil => exact absurd rfl hv | cons => rfl
  unfold pufCorrected
  simp [he, hh, hn, hne]

/-! ### The statement -/

/-- Settles O39: each instruction by its law. -/
theorem deviceStart : Obligations.DeviceStart := by
  unfold Obligations.DeviceStart
  refine ⟨fun s => ⟨coldClear s, rfl, rfl, rfl, rfl, rfl, rfl, rfl, rfl, rfl, rfl, rfl, coldClear_otp,
      coldClear_ledger, coldClear_words, fun p => ?_⟩,
    fun s => ⟨fun h => congrArg Host.Outcome.next (porRelease_started h), fun h ⟨q, hq⟩ => ?_⟩,
    fun s p units => ⟨fun h => congrArg Host.Outcome.next (bistEnd_idle h units), fun h hw => ?_, fun hu hb hw ha hc => ?_⟩,
    fun s a b c h => ⟨fun hb => ?_, fun hb ha hc => ?_⟩⟩
  · rw [pondOf_coldClear]
    exact ⟨rfl, rfl, rfl, pflAbandon_bank _, fun h => congrArg (fun P => P.pfl.words) (pflAbandon_idle h)⟩
  · have B := porRelease_begun h hq
    refine ⟨porRelease s, rfl, B.pending, B.ns, B.por, B.cause, B.startNs, B.phase, B.token, B.larva, fun p => ?_⟩
    rw [← pondAt_val]
    exact ⟨B.bist p.val p.isLt, B.service p.val p.isLt⟩
  · refine ⟨_, congrArg Host.Outcome.next (bistEnd_waits h hw units), (bistRecord_only _ _ _).trans (bistStepEnd_only _), ?_⟩
    obtain ⟨hbist, -, -⟩ := bistRecord_boot p.val units s
    obtain ⟨k, hk, h5⟩ := bistStepEnd_boot (bistRecord p.val units s)
    simp only [pondOf_ponds_eq (bistStepEnd_ponds _), hk]
    refine ⟨by rw [hbist]; exact bitIs_setBit _ _ _, h5, fun q hq => bistRecord_others hq units s, ?_, fun hu => ?_⟩
    · rintro rfl
      rw [pondOf_ponds_eq (bistRecord_passed p s), pondOf_onPond_self]
      rfl
    · obtain ⟨hp, hf, hm⟩ := bistRecord_failed p hu s
      rw [pondOf_ponds_eq hp, pondOf_onPond_self, hf, hm]
      exact ⟨rfl, bitIs_setBit _ _ _, SMap.get_set_self _ _ _⟩
  · exact ⟨_, rfl, bistEnd_last hu hb hw ha hc⟩
  · obtain ⟨hpend, hns, hponds, hboot⟩ := wellRecord_keeps a b c s
    have he : wellEnd a b c s = wellRecord a b c s := by
      rw [wellEnd_eq h]
      exact bootAdvance_bist (by rw [hboot]; exact hb)
    obtain ⟨r, n, e⟩ := wellShown_only a b c s
    refine ⟨wellRecord a b c s, congrArg Host.Outcome.next he, hpend, hns, hponds, hboot, fun hi => ?_, fun hi v hv => ?_,
      fun hi hv => ?_, fun v hv hne hh hn hi hc => ?_⟩
    · rw [wellRecord_inhibited hi]; exact ⟨rfl, rfl⟩
    · rw [wellRecord_corrected hi hv]
      refine ⟨?_, fun hc => ?_, fun hc => ?_⟩
      · split
        · rw [sreg_onKeys, sreg_wellShown hv]
        · rw [sreg_onKeys, keysAway, sreg_onBoot, sreg_wellShown hv]
      · rw [if_pos hc, e]; exact ⟨rfl, rfl⟩
      · rw [if_neg (by rw [hc]; exact Bool.false_ne_true), e]; exact ⟨rfl, rfl⟩
    · rw [wellRecord_uncorrected hi hv, e]; exact ⟨rfl, rfl⟩
    · rw [wellRecord_corrected hi (pufCorrected_near hv hne hh hn), if_pos hc]; rfl
  · obtain ⟨-, -, hponds, hboot⟩ := wellRecord_keeps a b c s
    refine ⟨_, congrArg Host.Outcome.next (wellEnd_eq h a b c), bootAdvance_runs ?_ ?_ ?_ ?_ ?_⟩
    · rw [hboot]; exact Nat.le_succ 3
    · rw [hboot]; exact ha
    · rw [hboot]; exact hb
    · rw [hboot]
    · rw [calWaits_ponds hponds, hc]

end Sys2Proof.Machine
end

section
/-! SUPPORT and claims. The warm device resets, the watchdog and the armed registers (R75 to R79, R466). -/

namespace Sys2Proof.Machine

/-! ### Fields -/

theorem testBit_fld {n : Nat} (w : BitVec n) (lo len i : Nat) :
    (fld w lo len).testBit i = (decide (i < len) && w.getLsbD (lo + i)) := by
  rw [fld, Nat.testBit_mod_two_pow, Nat.testBit_shiftRight, BitVec.testBit_toNat]

/-- A field of a word whose field was replaced. -/
theorem fld_setFld {n lo len : Nat} (h : lo + len ≤ n) (w : BitVec n) (v : Nat) :
    fld (setFld w lo len v) lo len = v % 2 ^ len := by
  refine Nat.eq_of_testBit_eq fun i => ?_
  rw [testBit_fld, Nat.testBit_mod_two_pow]
  by_cases hi : i < len
  · have hin : lo + i < n := by omega
    simp [setFld, fmask, hi, hin, -BitVec.getLsbD_eq_getElem, BitVec.getLsbD_ofNat, Nat.testBit_shiftLeft]
  · simp [hi]

theorem satTo_eq (len v : Nat) : satTo len v = min (2 ^ len - 1) v := by
  have := Nat.two_pow_pos len
  unfold satTo
  split <;> omega

/-- A count field raised (R13). -/
theorem fld_incFld {n lo len : Nat} (h : lo + len ≤ n) (w : BitVec n) (k : Nat) :
    fld (incFld w lo len k) lo len = min (2 ^ len - 1) (fld w lo len + k) := by
  have := Nat.two_pow_pos len
  rw [incFld, fld_setFld h, satTo_eq, Nat.mod_eq_of_lt (by omega)]

/-! ### The warm device reset (R77 to R79) -/

/-- A word of the OTP row that is neither being programmed nor the Husk mark is not cut. -/
theorem rowCut_word {s : State} {i : Nat} (h : ∀ x, s.shore.otp.prog = some x → x.1 ≠ i) (hi : i ≠ 18) :
    (rowCut s).shore.otp.words.get i = s.shore.otp.words.get i ∧
    (rowCut s).shore.otp.bad.get i = s.shore.otp.bad.get i := by
  have hotp : (otpCut s).shore.otp.words.get i = s.shore.otp.words.get i ∧
      (otpCut s).shore.otp.bad.get i = s.shore.otp.bad.get i := by
    unfold otpCut
    split
    next => exact ⟨rfl, rfl⟩
    next j v e => exact ⟨SMap.get_set_ne _ _ (h _ e).symm, SMap.get_set_ne _ _ (h _ e).symm⟩
  unfold rowCut huskCut
  split
  · exact ⟨(SMap.get_set_ne _ _ hi).trans hotp.1, hotp.2⟩
  · exact hotp

theorem fusedOut_congr {s t : State} {p : Nat}
    (hw : t.shore.otp.words.get (8 + p / 32) = s.shore.otp.words.get (8 + p / 32))
    (hb : t.shore.otp.bad.get (8 + p / 32) = s.shore.otp.bad.get (8 + p / 32)) : fusedOut t p = fusedOut s p := by
  unfold fusedOut
  rw [hw, hb]

/-- What a warm device reset leaves at the beginning of start-up. -/
structure WarmCleared (s t : State) (cause : Nat) : Prop where
  pending : t.pending = s.pending
  ns : t.ns = s.ns
  por : t.shore.boot.por = false
  cause : t.shore.boot.cause = BitVec.ofNat 32 cause
  startNs : t.shore.boot.startNs = s.ns
  applied : t.shore.boot.applied = false
  cmds : t.shore.cmds = []
  leases : t.shore.leases = []
  streams : t.shore.streams = []
  tbs : t.shore.tbs = Tbs.reset
  otp : t.shore.otp = otpAtStart (rowCut s).shore.otp
  core : ∀ p : PondId, (pondOf t p).core = Core.reset
  sram : ∀ p : PondId, (pondOf t p).sram = []

theorem warmReset_cleared (cause : Nat) {s : State} (h : s.shore.boot.por = false) :
    ∃ t, warmReset cause s = startSteps t ∧ WarmCleared s t cause := by
  unfold warmReset
  rw [if_neg (by rw [h]; exact Bool.false_ne_true)]
  refine ⟨_, rfl, ⟨rfl, rfl, rfl, rfl, rfl, rfl, rfl, rfl, rfl, rfl, rfl, fun p => ?_, fun p => ?_⟩⟩ <;>
    simp [pondOf, pondAtStart, Pond.reset]

/-- A pond of the part is not fused out over a warm device reset. -/
theorem WarmCleared.live {s t : State} {cause : Nat} (h : WarmCleared s t cause) {p : PondId} (hp : LivePond s p) :
    fusedOut t p.val = false := by
  obtain ⟨hf, hprog⟩ := hp
  obtain ⟨hw, hb⟩ := rowCut_word hprog (by omega)
  rw [← hf]
  refine fusedOut_congr ?_ ?_ <;> rw [h.otp]
  · exact hw
  · exact hb

/-- A warm device reset with its cause, on a part with a pond (R77, R78). -/
theorem warmReset_started (cause : Nat) {s : State} {q : PondId} (h : s.shore.boot.por = false) (hq : LivePond s q) :
    WarmStarted s (warmReset cause s) cause := by
  obtain ⟨t, e, C⟩ := warmReset_cleared cause h
  have B := startSteps_begun t q.isLt (C.live hq)
  rw [e]
  refine ⟨B.pending.trans C.pending, B.ns.trans C.ns, B.por.trans C.por, B.cause.trans C.cause,
    B.startNs.trans C.startNs, B.cmds.trans C.cmds, B.leases.trans C.leases, B.streams.trans C.streams,
    B.tbs.trans C.tbs, B.token, B.phase, B.applied.trans C.applied, fun p => ?_⟩
  rw [← pondAt_val]
  refine ⟨?_, ?_, (B.bist p.val p.isLt).trans (B.service p.val p.isLt).symm, fun hp => ?_⟩
  · rw [B.core p.val p.isLt, pondAt_val, C.core]
  · rw [B.sram p.val p.isLt, pondAt_val, C.sram]
  · rw [B.service p.val p.isLt, C.live hp, Bool.not_false]

theorem warmReset_cold (cause : Nat) {s : State} (h : s.shore.boot.por = true) : warmReset cause s = s := by
  unfold warmReset
  rw [if_pos h]

/-! ### The armed registers (R76) -/

/-- The pair of an armed register replaced. -/
def pairPut (off : Nat) (x : Option (Word × Nat)) (s : State) : State :=
  onShore (fun h => { h with pairs := KMap.set none h.pairs off x }) s

theorem armedWrite_first {off : Nat} {s : State} (h : KMap.get none s.shore.pairs off = none) (v : Word)
    (act : Word → State → State) : armedWrite off v act s = pairPut off (some (v, s.ns)) s := by
  unfold armedWrite
  rw [h]
  rfl

/-- Past its 1 ms a pair is cancelled, and the write is a first write again. -/
theorem armedWrite_late {off a : Nat} {w : Word} {s : State} (h : KMap.get none s.shore.pairs off = some (w, a))
    (ha : a + 1000000 < s.ns) (v : Word) (act : Word → State → State) :
    armedWrite off v act s = pairPut off (some (v, s.ns)) s := by
  unfold armedWrite
  rw [h]
  exact if_pos ha

theorem armedWrite_wrong {off a : Nat} {v w : Word} {s : State} (h : KMap.get none s.shore.pairs off = some (w, a))
    (ha : s.ns ≤ a + 1000000) (hv : v ≠ ~~~w) (act : Word → State → State) :
    armedWrite off v act s = pairPut off none s := by
  unfold armedWrite
  rw [h]
  exact (if_neg (Nat.not_lt.mpr ha)).trans (if_neg hv)

theorem armedWrite_second {off a : Nat} {w : Word} {s : State} (h : KMap.get none s.shore.pairs off = some (w, a))
    (ha : s.ns ≤ a + 1000000) (act : Word → State → State) :
    armedWrite off (~~~w) act s = act w (pairPut off none s) := by
  unfold armedWrite
  rw [h]
  exact (if_neg (Nat.not_lt.mpr ha)).trans (if_pos rfl)

theorem pairExpire_due {off a : Nat} {w : Word} {s : State} (h : KMap.get none s.shore.pairs off = some (w, a))
    (ha : a + 1000000 ≤ s.ns) : pairExpire off s = pairPut off none s := by
  unfold pairExpire
  rw [h]
  exact if_pos ha

/-- CRL_WARM_RESET is an armed register. -/
theorem exec_crlWarmReset (v : Word) (s : State) :
    exec (.crlWarmReset v) s = .next (armedWrite 0x5004 v (fun _ t => warmReset 4 t) s) := rfl

/-! ### The statement -/

theorem wdogRuns_of {s : State} (h1 : (sreg s 0x5014).getLsbD 31 = true) (h2 : s.shore.boot.fwRun = true)
    (h3 : s.shore.keys.shoreHalted = false) : wdogRuns s = true := by
  simp [wdogRuns, bit, h1, h2, h3]

/-- WATCHDOG_EXPIRY of a watchdog whose count reached its timeout. -/
theorem exec_watchdogExpiry_due {s : State} (hr : wdogRuns s = true)
    (hd : 1000000 * fld (sreg s 0x5014) 0 16 ≤ s.shore.boot.wdog) :
    exec .watchdogExpiry s = .next (warmReset 8 s) := by
  change Host.Outcome.next _ = _
  rw [hr, decide_eq_true hd]
  rfl

/-- PLL_LOSS_OF_LOCK of a PLL that had locked. -/
theorem exec_pllLossOfLock_locked {s : State} {j : Fin 65} (h : s.shore.boot.pll.getLsbD j.val = true) :
    exec (.pllLossOfLock j) s =
      .next (sinc 0x505C 16 16 1 (onBoot (fun b => { b with pll := setBit b.pll j.val false }) s)) := by
  change Host.Outcome.next _ = _
  unfold bit
  rw [h]
  rfl

/-- Settles O40: each cause by the law of the warm device reset, the armed register by the law of its pair. -/
theorem warmResets : Obligations.WarmResets := by
  unfold Obligations.WarmResets
  refine ⟨fun s h => congrArg Host.Outcome.next (warmReset_cold 2 h),
    fun s q h hq => ⟨_, rfl, warmReset_started 2 h hq⟩,
    fun s q h hq h31 hf hh hd => ⟨_, exec_watchdogExpiry_due (wdogRuns_of h31 hf hh) hd, warmReset_started 8 h hq⟩,
    fun s => rfl, fun s v => ⟨fun h => ?_, fun w a h ha => ?_, fun w a h ha => ⟨fun hv => ?_, ?_⟩⟩,
    fun s r w a h ha => congrArg Host.Outcome.next (pairExpire_due h ha), fun s j h => ?_⟩
  · rw [exec_crlWarmReset, armedWrite_first h]; rfl
  · rw [exec_crlWarmReset, armedWrite_late h ha]; rfl
  · rw [exec_crlWarmReset, armedWrite_wrong h ha hv]; rfl
  · rintro q rfl hp hq
    rw [exec_crlWarmReset, armedWrite_second h ha]
    exact ⟨_, rfl, warmReset_started 4 (s := pairPut 0x5004 none s) hp hq⟩
  · refine ⟨_, exec_pllLossOfLock_locked h, rfl, bitIs_setBit _ _ _, ?_⟩
    exact (congrArg (fun w => fld w 16 16) (sreg_smod _ _ _ _)).trans (fld_incFld (by decide) _ 1)

end Sys2Proof.Machine
end

section
/-! SUPPORT and claims. Life-cycle requests and OTP programming behind their armed registers (R87 to R89, R393). -/

namespace Sys2Proof.Machine

/-- CRL_LC_ADVANCE is an armed register. -/
theorem exec_crlLcAdvance (v : Word) (s : State) :
    exec (.crlLcAdvance v) s = .next (armedWrite 0x5010 v lcAdvance s) := rfl

/-- OTP_PROG_GO is an armed register. -/
theorem exec_otpProgGo (v : Word) (s : State) :
    exec (.otpProgGo v) s = .next (armedWrite 0x408C v (fun _ t => otpGo t) s) := rfl

theorem bit_setBit_self {n : Nat} (w : BitVec n) {i : Nat} (hi : i < n) (b : Bool) : (setBit w i b).getLsbD i = b := by
  rw [getLsbD_setBit _ _ _ hi, if_pos rfl]

/-! ### Life-cycle requests (R87, R88) -/

/-- A request for Imago that the OTP row is ready for programs the mark. -/
theorem lcAdvance_imago {w : Word} {s : State} (ht : fld w 0 4 = 2) (hl : s.shore.boot.lc = 1)
    (hr : imagoReady s = true) (hp : s.shore.boot.lcPending ≠ 3) :
    lcAdvance w s = onBoot (fun b => { b with lcPending := 2 })
      (onOtp (fun o => { o with words := o.words.set 17 0xFFFFFFFF }) s) := by
  unfold lcAdvance
  rw [if_pos ⟨ht, hl, hr⟩]
  unfold onBoot onOtp onShore
  dsimp only
  rw [if_neg hp]

/-- The Husk transition begun (R89): the keys are gone, the erase runs, and the mark waits for it. -/
structure HuskBegun (s t : State) : Prop where
  only : ShoreOnly s t
  w : t.shore.keys.w = none
  root : t.shore.keys.root = 0
  kSetup : t.shore.keys.kSetup = none
  kId : t.shore.keys.kId = none
  kAlias : t.shore.keys.kAlias = none
  kSeal : t.shore.keys.kSeal = none
  kWrap : t.shore.keys.kWrap = none
  drbg : t.shore.keys.drbg = none
  erased : t.shore.keys.erased = true
  wait : t.shore.alarms.huskWait = true
  erase : t.shore.alarms.erase = some s.ns
  pending : t.shore.boot.lcPending = 3
  otp : t.shore.otp = s.shore.otp

theorem huskBegin_begun {s : State} (he : s.shore.alarms.erase = none) : HuskBegun s (huskBegin s) := by
  unfold huskBegin
  extract_lets s1
  have only : ShoreOnly s s1 := (onShore_only _ _).trans (onShore_only _ _)
  have none : s1.shore.alarms.erase.isSome = false := congrArg Option.isSome he
  rw [if_neg (by rw [none]; exact Bool.false_ne_true)]
  exact ⟨only.trans ((onShore_only _ _).trans (onShore_only _ _)), rfl, rfl, rfl, rfl, rfl, rfl, rfl, rfl, rfl, rfl,
    rfl, rfl, rfl⟩

/-- A request for Husk begins the transition. -/
theorem lcAdvance_husk {w : Word} {s : State} (ht : fld w 0 4 = 3) (hl : s.shore.boot.lc ≠ 3)
    (hw : s.shore.alarms.huskWait = false) (hp : s.shore.alarms.huskProg = false) :
    lcAdvance w s = huskBegin s := by
  unfold lcAdvance
  dsimp only
  rw [if_neg (by rw [ht]; omega), if_pos ⟨ht, hl⟩, hw, hp]
  rfl

/-- Any other request is refused. -/
theorem lcAdvance_refused {w : Word} (h2 : fld w 0 4 ≠ 2) (h3 : fld w 0 4 ≠ 3) (s : State) :
    lcAdvance w s = smod 0x500C (fun w => setBit w 9 true) s := by
  unfold lcAdvance
  dsimp only
  rw [if_neg fun h => h2 h.1, if_neg fun h => h3 h.1]

/-! ### OTP programming (R393) -/

/-- Firmware may program the words from 0x20 to 0x2E. -/
theorem otpField_iff (i : Nat) : otpField i = true ↔ 0x20 ≤ i ∧ i ≤ 0x2E := by
  simp [otpField]

/-- The word that OTP_ADDR names. -/
def otpAddr (s : State) : Nat := fld (sreg s 0x4084) 2 10

theorem otpGo_programs {s : State} (hl : s.shore.boot.lc = 1) (hk : (sreg s 0x4000).getLsbD 31 = false)
    (hp : s.shore.otp.prog = none) (hf : otpField (otpAddr s) = true) (hw : s.shore.otp.words.get (otpAddr s) = 0)
    (hb : s.shore.otp.bad.get (otpAddr s) = 0) :
    otpGo s = onOtp (fun o => { o with prog := some (otpAddr s, sreg s 0x4088) }) s := by
  unfold otpAddr at *
  simp [otpGo, bit, -BitVec.getLsbD_eq_getElem, hl, hk, hp, hf, hw, hb]

theorem otpGo_refused {s : State} (hk : (sreg s 0x4000).getLsbD 31 = false) (hf : otpField (otpAddr s) = false) :
    otpGo s = smod 0x4080 (fun w => setFld (setBit w 30 true) 2 10 (otpAddr s)) s := by
  unfold otpAddr at *
  simp [otpGo, bit, -BitVec.getLsbD_eq_getElem, hk, hf]

/-- Bits outside a field are kept when it is replaced. -/
theorem getLsbD_setFld_ge {n lo len i : Nat} (h : lo + len ≤ i) (hi : i < n) (w : BitVec n) (v : Nat) :
    (setFld w lo len v).getLsbD i = w.getLsbD i := by
  obtain ⟨j, rfl⟩ : ∃ j, i = lo + j := ⟨i - lo, by omega⟩
  have hj : ¬ j < len := by omega
  simp [setFld, fmask, hi, hj, -BitVec.getLsbD_eq_getElem, BitVec.getLsbD_ofNat, Nat.testBit_shiftLeft,
    Nat.testBit_two_pow_sub_one]

theorem otpTaken_whole (s : State) (v : Word) : otpTaken s v 0 = (v, 0) := rfl

/-- OTP_PROGRAM_DONE of a word whose bits all took. -/
theorem exec_otpProgramDone_whole {s : State} {i : Nat} {v : Word} (h : s.shore.otp.prog = some (i, v)) :
    exec (.otpProgramDone 0) s = .next (useShoreFree (otpPut i (v, 0) (onOtp (fun o => { o with prog := none }) s))) := by
  have h0 : (0 : Word) &&& v = 0 := BitVec.zero_and
  change execOtpProgramDone 0 s = _
  unfold execOtpProgramDone
  rw [h]
  dsimp only
  rw [h0, if_pos rfl, otpTaken_whole]

/-- HUSK_MARK_DONE of a mark that reads back well. -/
theorem exec_huskMarkDone_good {s : State} (h : s.shore.alarms.huskProg = true) :
    exec (.huskMarkDone true) s = .next (onBoot (fun b => { b with lc := 3, lcPending := 0 })
      (onOtp (fun o => { o with words := o.words.set 18 0xFFFFFFFF })
        (onAlarms (fun a => { a with huskProg := false }) s))) := by
  change Host.Outcome.next (huskMarkDone true s) = _
  unfold huskMarkDone
  rw [h]
  rfl

/-! ### The statement -/

/-- Settles O41: the second write of a pair acts as its register's law says. -/
theorem lifeCycleAndOtp : Obligations.LifeCycleAndOtp := by
  unfold Obligations.LifeCycleAndOtp
  refine ⟨?_, fun s i v h => ⟨s.shore.fresh + 1, exec_otpProgramDone_whole h⟩,
    fun s h => ⟨_, exec_huskMarkDone_good h, rfl, rfl, rfl, rfl⟩⟩
  rintro s v w a rfl ha
  refine ⟨fun h => ?_, fun h hl hk hp => ?_⟩
  · rw [exec_crlLcAdvance, armedWrite_second h ha]
    refine ⟨fun ht hl hr hp => ?_, fun ht hl hw hp he => ?_, fun h2 h3 => ?_⟩
    · rw [lcAdvance_imago (s := pairPut 0x5010 none s) ht hl hr hp]
      exact ⟨_, rfl, rfl, rfl, hl, rfl, rfl⟩
    · rw [lcAdvance_husk (s := pairPut 0x5010 none s) ht hl hw hp]
      obtain ⟨only, k1, k2, k3, k4, k5, k6, k7, k8, k9, a1, a2, b1, o1⟩ :=
        huskBegin_begun (s := pairPut 0x5010 none s) he
      exact ⟨_, rfl, (onShore_only _ s).trans only, k1, k2, k3, k4, k5, k6, k7, k8, k9, a1, a2, b1, o1⟩
    · rw [lcAdvance_refused h2 h3]
      refine ⟨_, rfl, rfl, rfl, rfl, ?_⟩
      rw [sreg_smod, if_pos rfl, bit_setBit_self _ (by decide)]
  · rw [exec_otpProgGo, armedWrite_second h ha]
    refine ⟨fun hlo hhi hw hb => ?_, fun hout => ?_⟩
    · have hf : otpField (otpAddr (pairPut 0x408C none s)) = true := (otpField_iff _).mpr ⟨hlo, hhi⟩
      rw [otpGo_programs (s := pairPut 0x408C none s) hl hk hp hf hw hb]
      exact ⟨_, rfl, rfl, rfl⟩
    · have hf : otpField (otpAddr (pairPut 0x408C none s)) = false := by
        refine Bool.eq_false_iff.mpr fun h => ?_
        obtain ⟨hlo, hhi⟩ := (otpField_iff _).mp h
        exact hout.elim (Nat.not_lt.mpr hlo) (Nat.not_lt.mpr hhi)
      rw [otpGo_refused (s := pairPut 0x408C none s) hk hf]
      refine ⟨_, rfl, rfl, ?_⟩
      rw [sreg_smod, if_pos rfl, getLsbD_setFld_ge (by decide) (by decide), bit_setBit_self _ (by decide)]

end Sys2Proof.Machine
end

section
/-! SUPPORT and claims. Requests of a pond reset and of a core-only reset, the core-only reset itself, and the end of
a pond reset with the start that follows it (R70, R80 to R82, R98). -/

namespace Sys2Proof.Machine

/-! ### Requests (R80 to R82) -/

/-- A request of every named pond in service: of a word of numbers, those from `base` on. -/
def askPonds (f : Pond → Pond) (base : Nat) (l : List Nat) (s : State) : State :=
  l.foldl (fun t n => if inService t (base + n) then onPondN (base + n) f t else t) s

theorem pondResetReq_eq (i : Nat) (v : Word) (s : State) :
    pondResetReq i v s = askPonds (askPondReset 1) (32 * i) (bitsOf 32 v.toNat) s := rfl

theorem coreResetReq_eq (i : Nat) (v : Word) (s : State) :
    coreResetReq i v s = askPonds (askCoreReset 3) (32 * i) (bitsOf 32 v.toNat) s := rfl

theorem mem_bitsOf {n m i : Nat} : i ∈ bitsOf n m ↔ i < n ∧ m.testBit i = true := by
  simp [bitsOf]

theorem bitsOf_nodup (n m : Nat) : (bitsOf n m).Nodup := List.nodup_range.filter _

theorem inService_val (s : State) (p : PondId) : inService s p.val = (pondOf s p).life.inService := by
  simp [inService, pondAt_val]

/-- A request changes nothing but the ponds. -/
theorem askPonds_only (f : Pond → Pond) (base : Nat) (l : List Nat) (s : State) :
    askPonds f base l s = { s with ponds := (askPonds f base l s).ponds } := by
  refine foldl_keep (fun s t => t = { s with ponds := t.ponds }) (fun _ => rfl) (fun s t u h k => ?_) _ (fun t n => ?_) l s
  · rw [k, h]
  · split <;> rfl

/-- A request reaches each named pond in service once. -/
theorem pondOf_askPonds (f : Pond → Pond) {base : Nat} {l : List Nat} (hl : l.Nodup) (s : State) (p : PondId) :
    pondOf (askPonds f base l s) p =
      if (∃ n ∈ l, p.val = base + n) ∧ (pondOf s p).life.inService = true then f (pondOf s p) else pondOf s p := by
  induction l generalizing s with
  | nil => simp [askPonds]
  | cons n l ih =>
    obtain ⟨hn, hl⟩ := List.nodup_cons.mp hl
    generalize hu : (if inService s (base + n) then onPondN (base + n) f s else s) = u
    have step : askPonds f base (n :: l) s = askPonds f base l u := by rw [← hu]; rfl
    rw [step, ih hl u]
    by_cases e : p.val = base + n
    · have rest : ¬ ∃ m ∈ l, p.val = base + m := by
        rintro ⟨m, hm, em⟩
        exact hn (by rwa [show n = m by omega])
      rw [if_neg fun h => rest h.1, ← hu, ← e, inService_val, onPondN_val]
      cases hs : (pondOf s p).life.inService
      · simp
      · simp [e]
    · have same : pondOf u p = pondOf s p := by
        rw [← hu]
        split
        · rw [← pondAt_val, onPondN_row _ _ _ _ p.isLt, if_neg e, pondAt_val]
        · rfl
      rw [same]
      simp [e]

/-- The ponds that a word of CRL_POND_RESET or CRL_CORE_RESET names. -/
theorem named_iff (i : Fin 2) (v : Word) (p : PondId) :
    (∃ n ∈ bitsOf 32 v.toNat, p.val = 32 * i.val + n) ↔ p.val / 32 = i.val ∧ v.getLsbD (p.val % 32) = true := by
  simp only [mem_bitsOf, BitVec.testBit_toNat]
  constructor
  · rintro ⟨n, ⟨hn, hv⟩, e⟩
    rw [show p.val % 32 = n by omega]
    exact ⟨by omega, hv⟩
  · rintro ⟨hi, hv⟩
    exact ⟨p.val % 32, ⟨by omega, hv⟩, by omega⟩

/-- A request by a word reaches each pond in service that it names. -/
theorem pondOf_askNamed (f : Pond → Pond) (i : Fin 2) (v : Word) (s : State) (p : PondId) :
    pondOf (askPonds f (32 * i.val) (bitsOf 32 v.toNat) s) p =
      if (p.val / 32 = i.val ∧ v.getLsbD (p.val % 32) = true) ∧ (pondOf s p).life.inService = true then
        f (pondOf s p) else pondOf s p :=
  (pondOf_askPonds f (bitsOf_nodup _ _) s p).trans (if_congr (and_congr_left' (named_iff i v p)) rfl rfl)

theorem isSome_or_iff {α β : Type} (a : Option α) (b : Option β) :
    (a.isSome || b.isSome) = true ↔ ¬ (a = none ∧ b = none) := by
  cases a <;> cases b <;> simp

theorem askPondReset_eq (cause : Nat) (P : Pond) : askPondReset cause P =
    if P.life.resetEnd = none ∧ P.life.resetReq = none then
      { P with life := { P.life with resetReq := some cause, coreReq := none } }
    else P := by
  unfold askPondReset
  rw [if_congr (isSome_or_iff _ _) rfl rfl, ite_not]

theorem askCoreReset_eq (cause : Nat) (P : Pond) : askCoreReset cause P =
    if P.life.resetEnd = none ∧ P.life.coreReq = none then { P with life := { P.life with coreReq := some cause } }
    else P := by
  unfold askCoreReset
  rw [if_congr (isSome_or_iff _ _) rfl rfl, ite_not]

/-- CRL_POND_RESET_i written (R80, R82). -/
theorem pondOf_pondResetReq (i : Fin 2) (v : Word) (s : State) (p : PondId) :
    pondOf (pondResetReq i.val v s) p =
      if p.val / 32 = i.val ∧ v.getLsbD (p.val % 32) = true ∧ (pondOf s p).life.inService = true ∧
        (pondOf s p).life.resetEnd = none ∧ (pondOf s p).life.resetReq = none then
        { pondOf s p with life := { (pondOf s p).life with resetReq := some 1, coreReq := none } }
      else pondOf s p := by
  rw [pondResetReq_eq, pondOf_askNamed, askPondReset_eq, ← ite_and]
  simp only [and_assoc]

/-- CRL_CORE_RESET_i written (R81, R82). -/
theorem pondOf_coreResetReq (i : Fin 2) (v : Word) (s : State) (p : PondId) :
    pondOf (coreResetReq i.val v s) p =
      if p.val / 32 = i.val ∧ v.getLsbD (p.val % 32) = true ∧ (pondOf s p).life.inService = true ∧
        (pondOf s p).life.resetEnd = none ∧ (pondOf s p).life.coreReq = none then
        { pondOf s p with life := { (pondOf s p).life with coreReq := some 3 } }
      else pondOf s p := by
  rw [coreResetReq_eq, pondOf_askNamed, askCoreReset_eq, ← ite_and]
  simp only [and_assoc]

/-- KEY of MISC_RESET_REQ. -/
theorem resetKey (key : BitVec 16) {r : Nat} (hr : r < 65536) :
    fld (BitVec.ofNat 32 (65536 * key.toNat + r)) 16 16 = key.toNat := by
  have := key.isLt
  rw [fld, BitVec.toNat_ofNat, Nat.shiftRight_eq_div_pow]
  omega

theorem resetRequest_wrong {key : BitVec 16} (h : key ≠ 0xA5C3) {r : Nat} (hr : r < 65536) (P : Pond) :
    resetRequest (BitVec.ofNat 32 (65536 * key.toNat + r)) P = P := by
  have hne : key.toNat ≠ 0xA5C3 := fun e => h (BitVec.eq_of_toNat_eq e)
  unfold resetRequest
  rw [resetKey key hr, if_pos hne]

theorem resetRequest_pond (P : Pond) : resetRequest (BitVec.ofNat 32 (65536 * (0xA5C3 : BitVec 16).toNat + 2)) P =
    askPondReset 2 P := by
  unfold resetRequest
  rw [resetKey _ (by decide), if_neg (by decide), if_pos (by decide)]

theorem resetRequest_core (P : Pond) : resetRequest (BitVec.ofNat 32 (65536 * (0xA5C3 : BitVec 16).toNat + 1)) P =
    askCoreReset 4 P := by
  unfold resetRequest
  rw [resetKey _ (by decide), if_neg (by decide), if_neg (by decide), if_pos (by decide)]

theorem withPond_self (s : State) (p : PondId) : withPond s p (pondOf s p) = s := by
  simp [withPond, pondOf]

theorem onPond_fixed {p : PondId} {f : Pond → Pond} {s : State} (h : f (pondOf s p) = pondOf s p) :
    onPond p f s = s := by
  rw [onPond_eq, h, withPond_self]

/-! ### Maps filtered and merged -/

theorem KMap.lt_of_mem {α : Type} [DecidableEq α] {d : α} {m : KMap α} {lo : Nat}
    (h : KMap.wfFrom d (some lo) m = true) {x : Nat × α} (hx : x ∈ m) : lo < x.1 := by
  induction m generalizing lo with
  | nil => exact absurd hx List.not_mem_nil
  | cons y r ih =>
    obtain ⟨hlo, -, hr⟩ := KMap.wfFrom_cons.mp h
    rcases List.mem_cons.mp hx with rfl | hx
    · exact hlo lo rfl
    · exact (hlo lo rfl).trans (ih hr hx)

/-- The entries of a canonical map that are not left out, written over another map. -/
theorem SMap.get_overlay {n : Nat} {out : Nat → Prop} [DecidablePred out] {m : SMap n} {lo : Option Nat}
    (h : KMap.wfFrom 0#n lo m = true) (z : SMap n) (k : Nat) :
    (m.foldl (fun z e => if out e.1 then z else z.set e.1 e.2) z).get k =
      if out k ∨ ∀ x ∈ m, x.1 ≠ k then z.get k else m.get k := by
  induction m generalizing z lo with
  | nil => simp
  | cons y r ih =>
    obtain ⟨a, b⟩ := y
    obtain ⟨-, -, hr⟩ := KMap.wfFrom_cons.mp h
    rw [List.foldl_cons, ih hr]
    by_cases hk : a = k
    · subst hk
      have hrest : ∀ x ∈ r, x.1 ≠ a := fun x hx => (KMap.lt_of_mem hr hx).ne'
      rw [if_pos (.inr hrest)]
      by_cases ho : out a
      · simp [ho]
      · rw [if_neg ho, if_neg (by simp [ho]), SMap.get_set_self]
        exact (if_pos rfl).symm
    · have hget : SMap.get ((a, b) :: r) k = SMap.get r k := if_neg hk
      have hz : (if out a then z else z.set a b).get k = z.get k := by
        split
        · rfl
        · exact SMap.get_set_ne _ _ (Ne.symm hk)
      rw [hget, hz]
      exact if_congr (by simp [hk]) rfl rfl

theorem SMap.get_of_not_mem {n : Nat} {m : SMap n} {k : Nat} (h : ∀ x ∈ m, x.1 ≠ k) : m.get k = 0 := by
  induction m with
  | nil => rfl
  | cons y r ih =>
    exact (if_neg (h y List.mem_cons_self)).trans (ih fun x hx => h x (List.mem_cons_of_mem _ hx))

/-! ### The core-only reset (R81, R98) -/

theorem rg_pcoreClear {P : Pond} (h : P.regs.wf = true) (off : Nat) : rg (pcoreClear P) off =
    if off < 0x20 ∧ off ≠ 0x008 then (if off = 0x010 then 0x2001FFC0 else 0) else rg P off := by
  have hz : SMap.get [(0x010, (0x2001FFC0 : Word))] off = if off = 0x010 then 0x2001FFC0 else 0 :=
    if_congr eq_comm rfl rfl
  refine (SMap.get_overlay (out := fun k => k < 0x20 ∧ k ≠ 0x008) h _ off).trans ?_
  rw [hz]
  by_cases ho : off < 0x20 ∧ off ≠ 0x008
  · rw [if_pos (.inl ho), if_pos ho]
  · rw [if_neg ho]
    split
    next hn =>
      rw [if_neg (by omega)]
      exact (SMap.get_of_not_mem (hn.resolve_left ho)).symm
    next => rfl

/-- A word that reads with no record leaves the pond as it is (R382). -/
theorem readEntry_clean {P : Pond} (h : CleanWord P 0) : readEntry 0 P = P := by
  have hw : windowBank P false = P.pfl.bank := by simp [windowBank]
  have hflash : pondFlashClass P (flashIx P.pfl.bank 0) = 0 ∨
      (pondFlashClass P (flashIx P.pfl.bank 0) = 1 ∧ (flashWord P (flashIx P.pfl.bank 0)).step = 0) := by
    rcases h.2 with ⟨-, h⟩ | ⟨⟨h, -⟩, -⟩ | ⟨h, -⟩
    · exact h
    · omega
    · omega
  unfold readEntry flashRead
  dsimp only
  rw [hw]
  rcases hflash with hc | ⟨hc, hs⟩
  · simp only [hc]
  · simp only [hc, hs, if_true]

theorem activeWord_pfl {P Q : Pond} (h : Q.pfl = P.pfl) (off : Nat) : activeWord Q off = activeWord P off := by
  unfold activeWord pflArr
  rw [h]

theorem CleanWord.pfl {P Q : Pond} (h : Q.pfl = P.pfl) {a : Nat} (ha : a < 0x40000) (hc : CleanWord P a) :
    CleanWord Q a := by
  obtain ⟨h4, hc⟩ := hc
  refine ⟨h4, .inl ⟨ha, ?_⟩⟩
  have hflash : ∀ ix, pondFlashClass Q ix = pondFlashClass P ix ∧ flashWord Q ix = flashWord P ix := fun ix => by
    unfold pondFlashClass flashWord
    rw [h]
    exact ⟨rfl, rfl⟩
  rw [h, (hflash _).1, (hflash _).2]
  rcases hc with ⟨-, hc⟩ | ⟨⟨hc, -⟩, -⟩ | ⟨hc, -⟩
  · exact hc
  · omega
  · omega

/-- Nothing but the core, and of that only the event latches, differs. -/
def EvtOnly (P Q : Pond) : Prop := ∃ e, Q = { P with core := { P.core with evt := e } } ∧
  ∀ i < 8, i ≠ 5 → e.getLsbD i = P.core.evt.getLsbD i

theorem picLatch_evt (P : Pond) : EvtOnly P (picLatch P) := by
  rcases picLatch_cases P with e | e <;> rw [e]
  · exact ⟨_, rfl, fun _ _ _ => rfl⟩
  · refine ⟨_, rfl, fun i hi h5 => ?_⟩
    rw [getLsbD_setBit _ _ _ hi, if_neg h5]

theorem postAccepted_nil {c : PCtx} {P : Pond} (h : P.core.pb = []) : postAccepted c P = P := by
  unfold postAccepted
  rw [h]

theorem drainPosts_nil {c : PCtx} {P : Pond} (h : P.core.pb = []) : drainPosts c P = P := by
  unfold drainPosts
  rw [h]
  exact postAccepted_nil h

theorem stopLong_none {P : Pond} (h : P.core.long = none) : stopLong P = P := by
  unfold stopLong
  rw [h]

/-- The store buffer drained: SRAM holds what a load saw before, and nothing else of the pond differs. -/
theorem drainSb_says (P : Pond) : ∃ sram ecc, drainSb P = { P with
    sram := sram, ecc := ecc, core := { P.core with sb := [] } } := by
  have keep : ∀ (l : List SbEntry) (Q : Pond), ∃ sram ecc, l.foldl retireEntry Q = { Q with sram := sram, ecc := ecc } :=
    fun l Q => foldl_keep (fun Q R : Pond => ∃ sram ecc, R = { Q with sram := sram, ecc := ecc })
      (fun Q => ⟨_, _, rfl⟩) (fun _ _ _ h k => by obtain ⟨_, _, rfl⟩ := h; obtain ⟨_, _, rfl⟩ := k; exact ⟨_, _, rfl⟩)
      retireEntry (fun _ _ => ⟨_, _, rfl⟩) l Q
  obtain ⟨sram, ecc, e⟩ := keep (P.core.sb.take P.core.sb.length) P
  unfold drainSb retireN
  rw [e]
  exact ⟨sram, ecc, by simp⟩

/-- The pond at a core-only reset before its core begins: nothing waits in the core's buffers, every claim is
completed, and the core's registers are at their reset values. -/
def coreStopped (cause : Nat) (P : Pond) : Pond :=
  rset 0x684 (BitVec.ofNat 32 cause)
    (pcoreClear { completeAll (drainSb P) with life := { (completeAll (drainSb P)).life with coreReq := none } })

theorem coreOnlyReset_eq {c : PCtx} {P : Pond} {cause : Nat} (hq : P.life.coreReq = some cause)
    (hg : P.core.gate = none) (hs : P.life.swapDue = none) (hr : P.life.resetEnd = none)
    (hl : P.core.long = none) (hp : P.core.pb = []) (hst : P.life.started = true) :
    coreOnlyReset c P = picLatch (coreBegin (coreStopped cause P)) := by
  have hd : (drainSb P).core.pb = [] := by obtain ⟨_, _, e⟩ := drainSb_says P; rw [e]; exact hp
  have hrun : (coreStopped cause P).life.started = true := by
    obtain ⟨_, _, e⟩ := drainSb_says P
    obtain ⟨_, g, -⟩ := picLatch_evt { drainSb P with pic := { (drainSb P).pic with act := 0 } }
    change (picLatch _).life.started = true
    rw [g, e]
    exact hst
  unfold coreOnlyReset
  rw [hq]
  dsimp only
  rw [hg, hs, hr, if_neg (by decide), stopLong_none hl, drainPosts_nil hd]
  exact if_pos hrun

/-- What the pond is at a core-only reset before its core begins. -/
theorem coreStopped_says (cause : Nat) (P : Pond) : ∃ sram ecc e,
    coreStopped cause P = { P with
      sram := sram, ecc := ecc, core := { P.core with sb := [], evt := e }, pic := { P.pic with act := 0 },
      life := { P.life with coreReq := none }, regs := (coreStopped cause P).regs } ∧
    drainSb P = { P with sram := sram, ecc := ecc, core := { P.core with sb := [] } } := by
  obtain ⟨sram, ecc, hd⟩ := drainSb_says P
  obtain ⟨e, hl, -⟩ := picLatch_evt { drainSb P with pic := { (drainSb P).pic with act := 0 } }
  refine ⟨sram, ecc, e, ?_, hd⟩
  have hc : completeAll (drainSb P) = { P with
      sram := sram, ecc := ecc, core := { P.core with sb := [], evt := e }, pic := { P.pic with act := 0 } } :=
    hl.trans (by rw [hd])
  unfold coreStopped
  rw [hc]
  rfl

theorem rg_coreStopped {P : Pond} (h : P.regs.wf = true) (cause off : Nat) : rg (coreStopped cause P) off =
    if off = 0x684 then BitVec.ofNat 32 cause
    else if off < 0x20 ∧ off ≠ 0x008 then (if off = 0x010 then 0x2001FFC0 else 0) else rg P off := by
  obtain ⟨sram, ecc, hd⟩ := drainSb_says P
  obtain ⟨e, hl, -⟩ := picLatch_evt { drainSb P with pic := { (drainSb P).pic with act := 0 } }
  have hregs : (completeAll (drainSb P)).regs = P.regs := (congrArg Pond.regs hl).trans (by rw [hd])
  unfold coreStopped
  rw [rg_rset, rg_pcoreClear (by rw [hregs]; exact h)]
  unfold rg
  rw [hregs]

/-- What a core-only reset leaves of a pond whose core had started (R81, R98). -/
structure CoreRestarted (Q P : Pond) (cause : Nat) : Prop where
  core : P.core = { Core.reset with
    run := .running, pc := activeWord Q 0, halted := Q.core.halted, evt := P.core.evt }
  evt : ∀ i < 8, i ≠ 5 → P.core.evt.getLsbD i = false
  pic : P.pic = { Q.pic with act := 0 }
  coreReq : P.life.coreReq = none
  pfl : P.pfl = Q.pfl
  regs : ∀ off, rg P off = if off = 0x684 then BitVec.ofNat 32 cause
    else if off < 0x20 ∧ off ≠ 0x008 then (if off = 0x010 then 0x2001FFC0 else 0) else rg Q off
  sram : SameSram Q P

/-- The core begins at the reset entry of the active bank, whose word reads with no record. -/
theorem coreBegin_clean {P : Pond} (h : CleanWord P 0) : coreBegin P = { P with
    core := { Core.reset with run := .running, pc := activeWord P 0, halted := P.core.halted } } := by
  unfold coreBegin
  rw [readEntry_clean h]

theorem coreOnlyReset_restarts {c : PCtx} {Q : Pond} {cause : Nat} (hq : Q.life.coreReq = some cause)
    (hg : Q.core.gate = none) (hs : Q.life.swapDue = none) (hr : Q.life.resetEnd = none)
    (hst : Q.life.started = true) (hl : Q.core.long = none) (hp : Q.core.pb = [])
    (hw : Q.regs.wf = true) (hc : CleanWord Q 0) : CoreRestarted Q (coreOnlyReset c Q) cause := by
  obtain ⟨sram, ecc, e, hS, hd⟩ := coreStopped_says cause Q
  have hpfl : (coreStopped cause Q).pfl = Q.pfl := by rw [hS]
  have hregs := rg_coreStopped hw cause
  rw [coreOnlyReset_eq hq hg hs hr hl hp hst, coreBegin_clean (hc.pfl hpfl (by decide)), activeWord_pfl hpfl]
  generalize coreStopped cause Q = S at *
  obtain ⟨e', hL, he⟩ := picLatch_evt { S with
    core := { Core.reset with run := .running, pc := activeWord Q 0, halted := S.core.halted } }
  rw [hL]
  refine ⟨?_, fun i hi h5 => (he i hi h5).trans ?_, ?_, ?_, hpfl, hregs, fun a _ => ?_⟩
  · rw [hS]
  · exact BitVec.getLsbD_zero
  · rw [hS]
  · rw [hS]
  · rw [← sramByte_drainSb Q a, hd, hS]
    rfl

/-- CORE_ONLY_RESET. -/
theorem exec_coreOnlyReset (p : PondId) (s : State) :
    exec (.coreOnlyReset p) s = .next (withPond s p (coreOnlyReset (pctxN s p.val) (pondOf s p))) :=
  congrArg Host.Outcome.next (onPondN_val p _ s)

/-! ### The end of a pond reset (R80, R70) -/

/-- What a start decides by, and what it begins, is kept: of the core only the event latches may differ. -/
structure LifeKept (P Q : Pond) : Prop where
  life : Q.life = P.life
  pfl : Q.pfl = P.pfl
  setup : Q.setup = P.setup
  conv : Q.conv = P.conv
  epoch : Q.epoch = P.epoch
  core : ∃ e, Q.core = { P.core with evt := e }

theorem LifeKept.refl (P : Pond) : LifeKept P P := ⟨rfl, rfl, rfl, rfl, rfl, _, rfl⟩

theorem LifeKept.trans {P Q R : Pond} (h : LifeKept P Q) (k : LifeKept Q R) : LifeKept P R := by
  obtain ⟨e, he⟩ := h.core
  obtain ⟨e', he'⟩ := k.core
  exact ⟨k.life.trans h.life, k.pfl.trans h.pfl, k.setup.trans h.setup, k.conv.trans h.conv,
    k.epoch.trans h.epoch, e', by rw [he', he]⟩

theorem LifeKept.ite {P Q R : Pond} {c : Prop} [Decidable c] (h : LifeKept P Q) (k : LifeKept P R) :
    LifeKept P (if c then Q else R) := by
  split
  · exact h
  · exact k

theorem LifeKept.foldl {α : Type} {f : Pond → α → Pond} (h : ∀ Q a, LifeKept Q (f Q a)) (l : List α) (P : Pond) :
    LifeKept P (l.foldl f P) :=
  foldl_keep LifeKept .refl (fun _ _ _ => .trans) f h l P

theorem rset_life_kept (off : Nat) (v : Word) (P : Pond) : LifeKept P (rset off v P) := ⟨rfl, rfl, rfl, rfl, rfl, _, rfl⟩

theorem rmod_life_kept (off : Nat) (f : Word → Word) (P : Pond) : LifeKept P (rmod off f P) := rset_life_kept _ _ P

theorem rinc_life_kept (off lo len : Nat) (P : Pond) : LifeKept P (rinc off lo len P) := rset_life_kept _ _ P

theorem pgSet_life_kept (k : Nat) (g : Pg) (P : Pond) : LifeKept P (pgSet k g P) := ⟨rfl, rfl, rfl, rfl, rfl, _, rfl⟩

theorem picEvent_life_kept (n : Nat) (P : Pond) : LifeKept P (picEvent n P) := by
  rcases picEvent_cases n P with ⟨-, e⟩ | ⟨-, x, e⟩ <;> rw [e] <;> exact ⟨rfl, rfl, rfl, rfl, rfl, _, rfl⟩

theorem flashRead_life_kept (inactive : Bool) (off len : Nat) (P : Pond) :
    LifeKept P (flashRead P inactive off len).2 := by
  unfold flashRead
  dsimp only
  split
  · exact .refl P
  · split
    · exact .refl P
    · split
      · refine .trans ?_ (picEvent_life_kept _ _)
        refine .trans ?_ (rinc_life_kept _ _ _ _)
        exact rset_life_kept _ _ _
      · refine .trans ?_ (rinc_life_kept _ _ _ _)
        exact rset_life_kept _ _ _
  · refine .trans ?_ (rinc_life_kept _ _ _ _)
    exact rset_life_kept _ _ _

theorem imgReads_life_kept (inactive : Bool) (P : Pond) : LifeKept P (imgReads inactive P) := by
  unfold imgReads pflReads
  refine foldl_keep (fun x y : Bool × Pond => LifeKept x.2 y.2) (fun _ => .refl _) (fun _ _ _ => .trans) _
    (fun x i => ?_) _ (false, P)
  split
  · exact .refl _
  · exact flashRead_life_kept _ _ _ _

theorem startBlank_life_kept (k : Nat) (P : Pond) : LifeKept P (startBlank k P) := by
  unfold startBlank
  extract_lets go
  have step : ∀ n Q, LifeKept Q (go n Q) := fun n Q => .ite ⟨rfl, rfl, rfl, rfl, rfl, _, rfl⟩ (.refl Q)
  exact (step 0 P).trans (step 1 _)

theorem withEdges_life_kept {f : Pond → Pond} (h : ∀ Q, LifeKept Q (f Q)) (P : Pond) : LifeKept P (withEdges f P) := by
  unfold withEdges
  exact (h P).trans (.foldl (fun Q k => .ite (startBlank_life_kept _ _) (.refl Q)) _ _)

theorem pgSetCfg_life_kept (k : Nat) (w : Word) (P : Pond) : LifeKept P (pgSetCfg k w P) := by
  have drive : ∀ j b Q, LifeKept Q (pgDrive j b Q) := fun j b Q => pgSet_life_kept _ _ Q
  have disable : LifeKept P (pgDisable k P) := by
    unfold pgDisable
    dsimp only
    exact .ite (.refl P) (.ite ((pgSet_life_kept _ _ P).trans (drive _ _ _)) (pgSet_life_kept _ _ P))
  unfold pgSetCfg
  extract_lets was P1 P2 P3
  have h1 : LifeKept P P1 := .ite disable (.refl P)
  have h2 : LifeKept P P2 := .ite (h1.trans (drive _ _ _)) h1
  have h3 : LifeKept P P3 := h2.trans (rset_life_kept _ _ _)
  exact .ite (h3.trans (.ite (pgSet_life_kept _ _ _) (.refl _))) h3

theorem enableAct_life_kept (on : Bool) (m : Nat) (P : Pond) : LifeKept P (enableAct on m P) := by
  unfold enableAct
  exact (LifeKept.foldl (fun Q k => withEdges_life_kept (fun R => pgSetCfg_life_kept _ _ R) Q) _ P).trans
    (.foldl (fun Q k => rmod_life_kept _ _ Q) _ _)

theorem startRefs_life_kept (P : Pond) : LifeKept P (startRefs P) := by
  unfold startRefs
  exact .ite ((rset_life_kept _ _ P).trans (rset_life_kept _ _ _)) (.refl P)

theorem groupRejoin_life_kept (P : Pond) : LifeKept P (groupRejoin P) := by
  unfold groupRejoin
  split
  · exact .ite ⟨rfl, rfl, rfl, rfl, rfl, _, rfl⟩ (.refl P)
  · exact .refl P

/-- A pond that has begun to run at the reset entry of its active bank (R70, R98). -/
structure Started (Q P : Pond) : Prop where
  life : P.life = { Q.life with started := true, calLate := false }
  run : P.core.run = .running
  pc : P.core.pc = activeWord Q 0
  g : P.core.g = Core.reset.g
  flags : P.core.flags = Core.reset.flags
  nest : P.core.nest = 0

theorem Started.keep {Q P R : Pond} (h : Started Q P) (k : LifeKept P R) : Started Q R := by
  obtain ⟨e, he⟩ := k.core
  refine ⟨k.life.trans h.life, ?_, ?_, ?_, ?_, ?_⟩ <;> rw [he]
  · exact h.run
  · exact h.pc
  · exact h.g
  · exact h.flags
  · exact h.nest

theorem coreBegin_says (P : Pond) : (coreBegin P).life = P.life ∧ (coreBegin P).core = { Core.reset with
    run := .running, pc := activeWord P 0, halted := P.core.halted } :=
  ⟨(flashRead_life_kept _ _ _ P).life, rfl⟩

theorem startPond_started (P : Pond) : Started P (startPond P) := by
  unfold startPond
  dsimp only
  refine Started.keep ?_ ((startRefs_life_kept _).trans (enableAct_life_kept _ _ _))
  obtain ⟨hl, hc⟩ := coreBegin_says { P with rx := P.recvDef, life := { P.life with started := true, calLate := false } }
  exact ⟨hl, by rw [hc], by rw [hc]; exact activeWord_pfl rfl 0, by rw [hc], by rw [hc], by rw [hc]; rfl⟩

/-- The reset ended (R80 steps 4 and 5), with no register entry of the setup image to store. -/
theorem pondResetEnd_says {c : PCtx} {P : Pond} (hs : P.setup = []) (ho : activeOk P = true)
    (hf : P.life.calFail = false) :
    (pondResetEnd c P).life = { P.life with
      resetEnd := none, pinsLow := false, imageValid := true, nostart := false } ∧
    (pondResetEnd c P).pfl = P.pfl ∧ (pondResetEnd c P).conv = P.conv ∧ (pondResetEnd c P).epoch = P.epoch := by
  obtain ⟨-, hpfl, hsetup, hconv, hepoch, -⟩ := imgReads_life_kept false P
  have he : pondResetEnd c P = { imgReads false P with
      core := { P.core with run := .rom },
      life := { P.life with resetEnd := none, pinsLow := false, imageValid := activeOk P,
                            nostart := P.life.calFail || !activeOk P } } := by
    unfold pondResetEnd loadSetup
    dsimp only
    rw [hsetup, hs]
    rfl
  rw [he, ho, hf]
  exact ⟨rfl, hpfl, hconv, hepoch⟩

theorem restartDue_of {P : Pond} {r : Nat} (h : P.life.resetEnd = some r) (hr : r ≤ P.epoch.getD 0)
    (hw : P.life.incWait = false) : restartDue P = true := by
  unfold restartDue epochOf
  simp [h, hw, hr]

/-- POND_RESTART of a pond that may start and whose start epoch has come. -/
theorem pondRestart_starts {c : PCtx} {P : Pond} (hd : restartDue P = true) (hs : P.setup = [])
    (hc : canStart { P with life := { P.life with resetEnd := none, imageValid := true } } = true)
    (hf : P.life.calFail = false) (ho : activeOk P = true) (he : P.epoch ≠ none)
    (hep : P.life.startEp ≤ P.epoch.getD 0) : Started (pondResetEnd c P) (pondRestart c P) := by
  obtain ⟨hlife, hpfl, hconv, hepoch⟩ := pondResetEnd_says (c := c) hs ho hf
  have hn : P.life.nostart = false := by
    simp only [canStart, Bool.and_eq_true, Bool.not_eq_true'] at hc
    exact hc.1.1.1.1.2
  have hcan : canStart (pondResetEnd c P) = true := by
    rw [← hc]
    unfold canStart convOf
    rw [hlife, hconv, hn]
  have hstart : startDue (pondResetEnd c P) = true := by
    unfold startDue epochOf
    rw [hcan, hlife, hepoch, decide_eq_true hep, Option.isSome_iff_ne_none.mpr he]
    rfl
  unfold pondRestart
  dsimp only
  rw [if_neg (by simp [hd]), if_pos hstart]
  exact (startPond_started _).keep (groupRejoin_life_kept _)

/-- A restart that was due, with what its calibration made late (R70). -/
theorem exec_pondRestart_due {s : State} {p : PondId} (hd : restartDue (pondOf s p) = true)
    (hs : (pondRestart (pctxN s p.val) (pondOf s p)).life.started = true) :
    exec (.pondRestart p) s = .next { withPond s p (pondRestart (pctxN s p.val) (pondOf s p)) with
      shore := { s.shore with boot := { s.shore.boot with
        late := if (pondOf s p).life.calLate then setBit s.shore.boot.late p.val true else s.shore.boot.late } } } := by
  change Host.Outcome.next _ = _
  rw [if_pos hd]
  unfold pondStarts
  dsimp only
  have hb : pondBegin (pctxN s p.val) (pondAt s p.val) = pondRestart (pctxN s p.val) (pondOf s p) := by
    unfold pondBegin
    rw [pondAt_val, if_pos hd]
  rw [hb, onPondN_val, onPond_eq, pondAt_val, hs, Bool.and_true]
  split <;> rfl

/-! ### The statement -/

/-- Settles O42: each request and each reset by its law. -/
theorem pondResets : Obligations.PondResets := by
  unfold Obligations.PondResets
  refine ⟨fun s i v => ⟨⟨_, rfl, askPonds_only _ _ _ _, pondOf_pondResetReq i v s⟩,
      ⟨_, rfl, askPonds_only _ _ _ _, pondOf_coreResetReq i v s⟩⟩,
    fun s p hr => ⟨fun hq => ?_, fun hq => ?_, fun key hk => ⟨?_, ?_⟩⟩,
    fun s p cause hq hg hs hr hst hl hp hw hc => ?_,
    fun s p r hr hle hw hs hc hf ho he hep => ?_⟩
  · exact congrArg (fun P => Host.Outcome.next (withPond s p P))
      ((resetRequest_pond _).trans ((askPondReset_eq _ _).trans (if_pos ⟨hr, hq⟩)))
  · exact congrArg (fun P => Host.Outcome.next (withPond s p P))
      ((resetRequest_core _).trans ((askCoreReset_eq _ _).trans (if_pos ⟨hr, hq⟩)))
  · exact congrArg Host.Outcome.next (onPond_fixed (resetRequest_wrong hk (by decide) _))
  · exact congrArg Host.Outcome.next (onPond_fixed (resetRequest_wrong hk (by decide) _))
  · have R := coreOnlyReset_restarts (c := pctxN s p.val) hq hg hs hr hst hl hp hw hc
    refine ⟨_, exec_coreOnlyReset p s, R.core, R.evt, R.pic, R.coreReq, R.pfl, ?_, fun off ho => ?_,
      fun off ho h684 => ?_, R.sram⟩
    · rw [R.regs, if_pos rfl]
    · rw [R.regs, if_neg (by omega)]
      by_cases h8 : off = 0x008
      · subst h8
        rw [if_neg (by decide), if_neg (by decide), if_pos rfl]
      · rw [if_pos ⟨ho, h8⟩]
        exact if_congr Iff.rfl rfl (if_neg h8).symm
    · rw [R.regs, if_neg h684, if_neg (by omega)]
  · have hd := restartDue_of hr hle hw
    have S := pondRestart_starts (c := pctxN s p.val) hd hs hc hf ho he hep
    obtain ⟨hlife, hpfl, -, -⟩ := pondResetEnd_says (c := pctxN s p.val) hs ho hf
    have hstarted : (pondRestart (pctxN s p.val) (pondOf s p)).life.started = true := by rw [S.life]
    refine ⟨_, exec_pondRestart_due hd hstarted, ?_, hstarted, ?_, S.run, ?_, S.g, S.flags, S.nest⟩
    · rw [S.life, hlife]
    · rw [S.life, hlife]
    · rw [S.pc, activeWord_pfl hpfl]

end Sys2Proof.Machine
end

section
/-! SUPPORT and claims. Host ports: what a break leaves to the port while the commands that waited on it go on, and
the moves of a context. -/

namespace Sys2Proof.Machine

/-! ### One port, one context -/

theorem portOf_ge (s : State) {k : Nat} (hk : 4 ≤ k) : portOf s k = Port.reset := by
  show s.shore.ports.getD k Port.reset = _
  simp [Vector.getD, Nat.not_lt.mpr hk]

theorem portOf_onPort_self {h : Nat} (hh : h < 4) (f : Port → Port) (s : State) :
    portOf (onPort h f s) h = f (portOf s h) := by rw [portOf_onPort _ _ _ _ hh, if_pos rfl]

theorem portOf_onPort_ne {h k : Nat} (hk : h ≠ k) (f : Port → Port) (s : State) :
    portOf (onPort k f s) h = portOf s h := by
  by_cases h4 : k < 4
  · rw [portOf_onPort _ _ _ _ h4, if_neg hk]
  · show vget (vset s.shore.ports k _) h Port.reset = _
    rw [vset_ge _ _ (Nat.le_of_not_lt h4)]
    rfl

theorem ctxOf_ge (s : State) (h : Nat) {n : Nat} (hn : 32 ≤ n) : ctxOf s h n = Ctx.reset := by
  show (portOf s h).ctx.getD n Ctx.reset = _
  simp [Vector.getD, Nat.not_lt.mpr hn]

theorem ctxOf_onCtx_self {h n : Nat} (hh : h < 4) (hn : n < 32) (f : Ctx → Ctx) (s : State) :
    ctxOf (onCtx h n f s) h n = f (ctxOf s h n) := by rw [ctxOf_onCtx _ _ _ _ _ _ hh hn, if_pos ⟨rfl, rfl⟩]

/-- A changed context leaves the rest of its port. -/
theorem portOf_onCtx {h : Nat} (hh : h < 4) (n : Nat) (f : Ctx → Ctx) (s : State) :
    portOf (onCtx h n f s) h =
      { portOf s h with ctx := vset (portOf s h).ctx n (f (vget (portOf s h).ctx n Ctx.reset)) } :=
  portOf_onPort_self hh _ s

/-- A port changed outside its contexts keeps them. -/
theorem ctxOf_onPort_keep {h : Nat} (hh : h < 4) {f : Port → Port} (s : State)
    (hf : (f (portOf s h)).ctx = (portOf s h).ctx) (n : Nat) : ctxOf (onPort h f s) h n = ctxOf s h n := by
  unfold ctxOf
  rw [portOf_onPort_self hh, hf]

theorem ctxOf_smod (off : Nat) (f : Word → Word) (s : State) (h n : Nat) :
    ctxOf (smod off f s) h n = ctxOf s h n := rfl

/-! ### A context settles -/

section
variable {h n : Nat} {s : State}

theorem ctxSettle_waits (ha : (portOf s h).reserve.any (fun e => e.ctx == n) = true) : ctxSettle h n s = s :=
  if_pos ha

theorem ctxSettle_replayed (ha : (portOf s h).reserve.any (fun e => e.ctx == n) = false)
    (hs : (ctxOf s h n).st = 2) : ctxSettle h n s = ctxRun h n s := by
  unfold ctxSettle
  rw [if_neg (by rw [ha]; decide), if_pos hs]

theorem ctxSettle_drained (ha : (portOf s h).reserve.any (fun e => e.ctx == n) = false)
    (hs : (ctxOf s h n).st = 4) (ho : (ctxOf s h n).owed = 0) :
    ctxSettle h n s = onCtx h n (fun c => { c with st := 0, replaying := false }) s := by
  unfold ctxSettle
  rw [if_neg (by rw [ha]; decide), if_neg (by omega), if_pos ⟨hs, ho⟩]

theorem ctxSettle_draining (ha : (portOf s h).reserve.any (fun e => e.ctx == n) = false)
    (hs : (ctxOf s h n).st = 4) (ho : (ctxOf s h n).owed ≠ 0) :
    ctxSettle h n s = onCtx h n (fun c => { c with replaying := false }) s := by
  unfold ctxSettle
  rw [if_neg (by rw [ha]; decide), if_neg (by omega), if_neg (fun x => ho x.2), if_pos hs]

/-- A context that neither replays nor drains has nothing to settle. -/
theorem ctxSettle_still (hs : ctxWrites (ctxOf s h n) = false) : ctxSettle h n s = s := by
  simp only [ctxWrites, Bool.or_eq_false_iff, beq_eq_false_iff_ne] at hs
  obtain ⟨⟨h2, -⟩, h4⟩ := hs
  simp [ctxSettle, h2, h4]

/-- To settle a context changes it or nothing. -/
theorem ctxSettle_cases (h n : Nat) (s : State) : ctxSettle h n s = s ∨ ∃ f, ctxSettle h n s = onCtx h n f s := by
  unfold ctxSettle ctxRun
  dsimp only
  split
  · exact .inl rfl
  split
  · exact .inr ⟨_, rfl⟩
  split
  · exact .inr ⟨_, rfl⟩
  split
  · exact .inr ⟨_, rfl⟩
  · exact .inl rfl

/-- To settle a context leaves its port but for the contexts. -/
theorem ctxSettle_port (hh : h < 4) : ∃ cx, portOf (ctxSettle h n s) h = { portOf s h with ctx := cx } := by
  rcases ctxSettle_cases h n s with e | ⟨f, e⟩
  · exact ⟨_, by rw [e]⟩
  · exact ⟨_, by rw [e]; exact portOf_onCtx hh n f s⟩

end

/-! ### A port that writes no completions -/

/-- No context of the port writes completions. -/
def Quiet (h : Nat) (s : State) : Prop := ∀ n, ctxWrites (ctxOf s h n) = false

theorem quiet_portFlush {h : Nat} {s : State} (hq : Quiet h s) : portFlush h s = s := by
  unfold portFlush
  split
  · rfl
  · generalize (portOf s h).reserve = l
    induction l with
    | nil => rfl
    | cons e r ih =>
      rw [List.foldl_cons, hq, Bool.and_false]
      exact ih

/-- A context but for the counts that a completion or its loss changes. -/
def Ctx.uncounted (c : Ctx) : Ctx := { c with owed := 0, seq := 0, loss := 0 }

theorem ctxWrites_uncounted {c d : Ctx} (e : c.uncounted = d.uncounted) : ctxWrites c = ctxWrites d := by
  have : c.uncounted.st = d.uncounted.st := by rw [e]
  change c.st = d.st at this
  unfold ctxWrites
  rw [this]

/-- Where no context of port `h` writes, the port keeps all but its reserve and the counts of its contexts. -/
structure PortRests (h : Nat) (s t : State) : Prop where
  ns : t.ns = s.ns
  port : Quiet h s → ∃ re cx, portOf t h = { portOf s h with reserve := re, ctx := cx }
  ctx : Quiet h s → ∀ n, (ctxOf t h n).uncounted = (ctxOf s h n).uncounted

theorem PortRests.quiet {h : Nat} {s t : State} (a : PortRests h s t) (hq : Quiet h s) : Quiet h t :=
  fun n => (ctxWrites_uncounted (a.ctx hq n)).trans (hq n)

theorem PortRests.refl (h : Nat) (s : State) : PortRests h s s := ⟨rfl, fun _ => ⟨_, _, rfl⟩, fun _ _ => rfl⟩

theorem PortRests.trans {h : Nat} {s t u : State} (a : PortRests h s t) (b : PortRests h t u) : PortRests h s u := by
  refine ⟨b.ns.trans a.ns, fun hq => ?_, fun hq n => (b.ctx (a.quiet hq) n).trans (a.ctx hq n)⟩
  obtain ⟨x, y, e⟩ := a.port hq
  obtain ⟨x', y', e'⟩ := b.port (a.quiet hq)
  exact ⟨x', y', by rw [e', e]⟩

theorem PortRests.canRequest {h : Nat} {s t : State} (a : PortRests h s t) (hq : Quiet h s) :
    canRequest (portOf t h) = Machine.canRequest (portOf s h) := by
  obtain ⟨x, y, e⟩ := a.port hq
  rw [e]
  rfl

/-- The port itself is as before. -/
theorem PortRests.same {h : Nat} {s t : State} (hn : t.ns = s.ns) (hp : portOf t h = portOf s h) : PortRests h s t := by
  refine ⟨hn, fun _ => ⟨_, _, hp⟩, fun _ n => ?_⟩
  unfold ctxOf
  rw [hp]

theorem onPort_other_rests {h k : Nat} (hk : h ≠ k) (f : Port → Port) (s : State) : PortRests h s (onPort k f s) :=
  .same rfl (portOf_onPort_ne hk f s)

theorem smod_rests (h off : Nat) (f : Word → Word) (s : State) : PortRests h s (smod off f s) :=
  .same rfl rfl

theorem cplLost_rests (h k n : Nat) (s : State) : PortRests h s (cplLost k n s) := by
  unfold cplLost sinc
  exact smod_rests h _ _ s

/-- A context of the port itself counts. -/
theorem onCtx_rests {h : Nat} (hh : h < 4) (n : Nat) {f : Ctx → Ctx} (hf : ∀ c, (f c).uncounted = c.uncounted) (s : State) :
    PortRests h s (onCtx h n f s) := by
  refine ⟨rfl, fun _ => ⟨_, _, portOf_onCtx hh n f s⟩, fun _ m => ?_⟩
  unfold ctxOf
  rw [portOf_onCtx hh]
  by_cases hn : n < 32
  · dsimp only
    rw [vget_vset _ _ _ _ _ hn]
    split
    · rename_i e
      rw [hf, e]
    · rfl
  · dsimp only
    rw [vset_ge _ _ (by omega)]

theorem ctxSettle_rests (h k n : Nat) (s : State) : PortRests h s (ctxSettle k n s) := by
  rcases ctxSettle_cases k n s with e | ⟨f, e⟩
  · rw [e]
    exact .refl h s
  · by_cases hk : h = k
    · subst hk
      exact ⟨by rw [e]; rfl, fun hq => ⟨_, _, by rw [ctxSettle_still (hq n)]⟩, fun hq m => by rw [ctxSettle_still (hq n)]⟩
    · rw [e]
      exact onPort_other_rests hk _ s

theorem portFlush_rests (h k : Nat) (s : State) : PortRests h s (portFlush k s) := by
  have hns : (portFlush k s).ns = s.ns := by
    obtain ⟨ps, e⟩ := portFlush_only k s
    rw [e]
  by_cases hk : h = k
  · subst hk
    exact ⟨hns, fun hq => ⟨_, _, by rw [quiet_portFlush hq]⟩, fun hq n => by rw [quiet_portFlush hq]⟩
  · by_cases h4 : k < 4
    · exact .same hns ((portFlush_flushed k h4 s).other h hk)
    · refine .same hns (congrArg (portOf · h) ?_)
      unfold portFlush
      rw [portOf_ge s (by omega)]
      rfl

/-- The reserve of a port changes. -/
theorem reserve_rests {h : Nat} (hh : h < 4) (k : Nat) (f : List Cpl → List Cpl) (s : State) :
    PortRests h s (onPort k (fun p => { p with reserve := f p.reserve }) s) := by
  by_cases hk : h = k
  · subst hk
    refine ⟨rfl, fun _ => ⟨_, _, portOf_onPort_self hh _ s⟩, fun _ n => ?_⟩
    rw [ctxOf_onPort_keep hh s rfl]
  · exact onPort_other_rests hk _ s

/-- A completion or its loss (R273, R276) leaves a port that writes none but for its reserve and its counts. -/
theorem produceCpl_rests {h : Nat} (hh : h < 4) (k n life : Nat) (index : Word) (order : Nat) (head : List Byte) (s : State) :
    PortRests h s (produceCpl k n life index order head s) := by
  have counts : ∀ (f : Ctx → Ctx) (t : State), (∀ c, (f c).uncounted = c.uncounted) → PortRests h t (onCtx k n f t) := by
    intro f t hf
    by_cases hk : h = k
    · subst hk
      exact onCtx_rests hh n hf t
    · exact onPort_other_rests hk _ t
  unfold produceCpl
  dsimp only
  split
  · exact cplLost_rests h k 1 s
  · split
    · refine .trans (.trans (cplLost_rests h k 1 s) (counts _ _ ?_)) (ctxSettle_rests h k n _)
      exact fun _ => rfl
    · refine .trans (.trans (.trans ?_ (reserve_rests hh k (fun l => l ++ [_]) _)) (smod_rests h _ _ _))
        (portFlush_rests h k _)
      exact counts _ s fun _ => rfl

/-! ### The commands that go on -/

/-- The ports and the time are as before. -/
structure PortsKept (s t : State) : Prop where
  ns : t.ns = s.ns
  ports : t.shore.ports = s.shore.ports

theorem PortsKept.refl (s : State) : PortsKept s s := ⟨rfl, rfl⟩

theorem PortsKept.trans {s t u : State} (a : PortsKept s t) (b : PortsKept t u) : PortsKept s u :=
  ⟨b.ns.trans a.ns, b.ports.trans a.ports⟩

theorem PortsKept.foldl {α : Type} {f : State → α → State} (hf : ∀ t a, PortsKept t (f t a)) (l : List α) (s : State) :
    PortsKept s (l.foldl f s) :=
  foldl_keep PortsKept .refl (fun _ _ _ => .trans) f hf l s

theorem PortsKept.rests {s t : State} (a : PortsKept s t) (h : Nat) : PortRests h s t :=
  .same a.ns (by unfold portOf; rw [a.ports])

theorem StartKept.portsKept {s t : State} (a : StartKept s t) : PortsKept s t := ⟨a.ns, a.ports⟩

theorem onShore_portsKept {f : Shore → Shore} {s : State} (hf : (f s.shore).ports = s.shore.ports) :
    PortsKept s (onShore f s) := ⟨rfl, hf⟩

theorem smod_portsKept (off : Nat) (f : Word → Word) (s : State) : PortsKept s (smod off f s) := onShore_portsKept rfl

theorem sinc_portsKept (off lo len k : Nat) (s : State) : PortsKept s (sinc off lo len k s) := smod_portsKept _ _ s

theorem onPondN_portsKept (n : Nat) (f : Pond → Pond) (s : State) : PortsKept s (onPondN n f s) := ⟨rfl, rfl⟩

theorem onCmd_portsKept (o : Nat) (f : Cmd → Cmd) (s : State) : PortsKept s (onCmd o f s) := onShore_portsKept rfl

theorem setPhase_portsKept (c : Cmd) (ph : Phase) (s : State) : PortsKept s (setPhase c ph s) := onCmd_portsKept _ _ s

theorem onKeys_portsKept (f : Keys → Keys) (s : State) : PortsKept s (onKeys f s) := ⟨rfl, onKeys_ports s f⟩

theorem cekDrop_portsKept (target : Nat) (s : State) : PortsKept s (cekDrop target s) := onKeys_portsKept _ s

theorem useShoreFree_portsKept (s : State) : PortsKept s (useShoreFree s) := onShore_portsKept rfl

theorem dmaErr_portsKept (h a : Nat) (s : State) : PortsKept s (dmaErr h a s) := by
  unfold dmaErr sset
  exact .trans (.trans (sinc_portsKept _ _ _ _ s) (smod_portsKept _ _ _)) (smod_portsKept _ _ _)

theorem onSfl_portsKept (f : Sfl → Sfl) (s : State) : PortsKept s (onSfl f s) := onShore_portsKept rfl

theorem sflPut_portsKept (a : FArr) (s : State) : PortsKept s (sflPut a s) := onSfl_portsKept _ s

theorem selPut_portsKept (l : List Byte) (s : State) : PortsKept s (selPut l s) := by
  unfold selPut sflWrite
  exact .trans (sflPut_portsKept _ s) (onSfl_portsKept _ _)

theorem sflErase_portsKept (k : Nat) (s : State) : PortsKept s (sflErase k s) := by
  unfold sflErase
  exact .trans (sflPut_portsKept _ s) (sinc_portsKept _ _ _ _ _)

theorem selTurn_portsKept (s : State) : PortsKept s (selTurn s) := by
  unfold selTurn
  dsimp only
  split
  · exact .refl s
  · exact ((PortsKept.foldl (fun t k => sflErase_portsKept _ t) _ s).trans (onSfl_portsKept _ _)).trans
      (selPut_portsKept _ _)

theorem selectRecord_portsKept (target sel epoch : Nat) (meas : List Byte) (s : State) :
    PortsKept s (selectRecord target sel epoch meas s) := by
  have kick : ∀ t, PortsKept t (selKick t) := fun t => by
    unfold selKick
    split
    · exact .refl t
    · exact .trans (onSfl_portsKept _ t) (.foldl (fun u l => (selTurn_portsKept u).trans (selPut_portsKept l _)) _ _)
  unfold selectRecord
  exact .trans (onSfl_portsKept _ s) (kick _)

theorem setVerified_portsKept (target : Nat) (b : Bool) (s : State) : PortsKept s (setVerified target b s) := by
  unfold setVerified
  split
  · exact onPondN_portsKept _ _ s
  · split
    · exact onSfl_portsKept _ s
    · exact onSfl_portsKept _ s

theorem setNext_portsKept (target slot : Nat) (s : State) : PortsKept s (setNext target slot s) := by
  unfold setNext
  split
  · exact onSfl_portsKept _ s
  · exact onSfl_portsKept _ s

theorem slotTouched_portsKept (target : Nat) (s : State) : PortsKept s (slotTouched target s) := by
  have hv := setVerified_portsKept target false s
  unfold slotTouched
  dsimp only
  split
  · exact hv
  · exact (hv.trans (setNext_portsKept _ _ _)).trans (selectRecord_portsKept _ _ _ _ _)

theorem sysStart_portsKept (b : Nat) (o : SysOp) (s : State) : PortsKept s (sysStart b o s) := by
  have hs : PortsKept s (sysOpSet b (some o) s) := onSfl_portsKept _ s
  unfold sysStart
  dsimp only
  split
  · exact hs.trans (sflPut_portsKept _ _)
  · exact hs

theorem eraseNext_portsKept (c : Cmd) (i : Nat) (s : State) : PortsKept s (eraseNext c i s) := by
  have hs := setPhase_portsKept c (.flash i) s
  unfold eraseNext
  dsimp only
  split
  · exact hs.trans (onPondN_portsKept _ _ _)
  · exact hs.trans (sysStart_portsKept _ _ _)

theorem mgmtSend_portsKept (p order : Nat) (k : Packet) (s : State) : PortsKept s (mgmtSend p order k s) := by
  unfold mgmtSend
  split
  · exact onShore_portsKept rfl
  · refine .trans (t := onShore _ s) (onShore_portsKept rfl) (onShore_portsKept rfl)

theorem cekChunk_portsKept (target off : Nat) (d : List Byte) (s : State) : PortsKept s (cekChunk target off d s).2 := by
  have keys : ∀ (l : List Byte) (f : Keys → Keys), PortsKept s (l, onKeys f s).2 := fun _ f => onKeys_portsKept f s
  unfold cekChunk
  split
  · exact .refl s
  split
  · exact .refl s
  dsimp only
  split
  · exact keys _ _
  split
  · exact keys _ _
  · exact keys _ _

theorem targetReads_portsKept (target : Nat) (l : List Nat) (s : State) : PortsKept s (targetReads target l s) := by
  unfold targetReads
  split
  · exact onPondN_portsKept _ _ s
  · exact foldl_keep (fun a b : Bool × State => PortsKept a.2 b.2) (fun _ => .refl _) (fun _ _ _ => .trans) _
      (fun x i => by
        split
        · exact .refl _
        · exact (sflWordRead_kept i x.2).portsKept) l (false, s)

theorem spdmHead_port {s : State} {h : Nat} {c : Cmd} (e : spdmHead s h = some c) : c.port = h := by
  have := List.find?_some e
  simp only [Bool.and_eq_true, beq_iff_eq] at this
  exact this.1

section
variable {h : Nat} (hh : h < 4)
include hh

theorem finish_rests (c : Cmd) (st det com app : Nat) (r : Word) (lost : Bool) (s : State) :
    PortRests h s (finish c st det com app r lost s) := by
  rw [finish_eq]
  exact (PortsKept.rests (t := gone c s) (onShore_portsKept rfl) h).trans (produceCpl_rests hh _ _ _ _ _ _ _)

theorem writeStart_rests (c : Cmd) (s : State) : PortRests h s (writeStart c s) := by
  unfold writeStart
  dsimp only
  split
  · split
    · exact finish_rests hh _ _ _ _ _ _ _ s
    · refine PortsKept.rests (.trans (.trans ?_ (onCmd_portsKept _ _ _)) (mgmtSend_portsKept _ _ _ _)) h
      exact cekChunk_portsKept _ _ _ s
  · refine PortsKept.rests (.trans (.trans ?_ (setPhase_portsKept _ _ _)) (sysStart_portsKept _ _ _)) h
    exact slotTouched_portsKept _ s

theorem progStart_rests (c : Cmd) (s0 : State) : PortRests h s0 (progStart c s0) := by
  unfold progStart
  extract_lets s P s1 s2
  have hs : PortsKept s0 s := by
    show PortsKept s0 (if c.op = 0x62 then s0 else setVerified c.target false s0)
    split
    · exact .refl s0
    · exact setVerified_portsKept _ _ s0
  refine (hs.rests h).trans ?_
  split
  · exact finish_rests hh _ _ _ _ _ _ _ s
  split
  · exact finish_rests hh _ _ _ _ _ _ _ s
  split
  · have h1 : PortsKept s s1 := cekDrop_portsKept _ s
    have h2 : PortsKept s (if c.target < 64 then s1 else slotTouched c.target s1) := by
      split
      · exact h1
      · exact h1.trans (slotTouched_portsKept _ _)
    exact (h2.trans (eraseNext_portsKept c 0 _)).rests h
  split
  · exact writeStart_rests hh c s
  · have h2 : PortsKept s s2 := targetReads_portsKept _ _ s
    cases headFail s c.target with
    | none => exact (h2.trans (setPhase_portsKept _ _ _)).rests h
    | some why =>
      have h3 := h2.trans (cekDrop_portsKept c.target s2)
      exact .trans ((h3.trans (smod_portsKept _ _ _)).rests h) (finish_rests hh _ _ _ _ _ _ _ _)

/-- The program commands that go on leave a port that writes no completions. -/
theorem progKick_rests (s : State) : PortRests h s (progKick s) := by
  unfold progKick
  refine foldl_keep (PortRests h) (.refl h) (fun _ _ _ => .trans) _ (fun t c => ?_) _ s
  cases cmdOf t c.order with
  | none => exact .refl h t
  | some x =>
    dsimp only
    split
    · exact progStart_rests hh x t
    · cases eraseHeld t x with
      | none => exact .refl h t
      | some i => exact (eraseNext_portsKept x i t).rests h

/-- An SPDM request of a port that cannot request ends without a write to its host. -/
theorem spdmAnswer_rests (c : Cmd) (l : List Byte) {s : State} (hc : canRequest (portOf s c.port) = false) :
    PortRests h s (spdmAnswer c l s s) := by
  unfold spdmAnswer
  dsimp only
  split
  · exact finish_rests hh _ _ _ _ _ _ _ s
  · unfold finishData
    dsimp only
    rw [hc]
    exact finish_rests hh _ _ _ _ _ _ _ s

theorem spdmKick_rests (fuel : Nat) {s : State} (hq : Quiet h s) (hc : canRequest (portOf s h) = false) :
    PortRests h s (spdmKick h fuel s) := by
  induction fuel generalizing s with
  | zero => exact .refl h s
  | succ fuel ih =>
    have more : ∀ t, PortRests h s t → PortRests h s (spdmKick h fuel t) :=
      fun t ht => ht.trans (ih (ht.quiet hq) ((ht.canRequest hq).trans hc))
    unfold spdmKick
    split
    · exact .refl h s
    · rename_i c e
      split
      · split
        · exact .refl h s
        split
        · exact more _ (finish_rests hh _ _ _ _ _ _ _ s)
        · exact more _ (spdmAnswer_rests hh c _ (by rw [spdmHead_port e]; exact hc))
      · exact .refl h s

/-- What waited for the reads of a broken port goes on, and the port stays as the break left it. -/
theorem readsGoOn_rests {s : State} (hq : Quiet h s) (hc : canRequest (portOf s h) = false) :
    PortRests h s (readsGoOn h s) :=
  (spdmKick_rests hh _ hq hc).trans (progKick_rests hh _)

/-- The abandoned operand reads of a break leave the port as `breakPort` left it. -/
theorem portBreak_rests (s : State) : PortRests h (breakPort h s) (portBreak h s) := by
  unfold portBreak
  dsimp only
  refine foldl_keep (PortRests h) (.refl h) (fun _ _ _ => .trans) _ (fun t c => ?_) _ _
  split
  · exact .trans (((dmaErr_portsKept _ _ t).trans (useShoreFree_portsKept _)).rests h) (finish_rests hh _ _ _ _ _ _ _ _)
  · exact .refl h t

end

/-! ### No program command -/

/-- No program command is unfinished. -/
def ProgFree (s : State) : Prop := ∀ x ∈ s.shore.cmds, x.prog = false

/-- Where no program command is unfinished, none comes and the ponds stay. -/
structure ProgFreeKept (s t : State) : Prop where
  ponds : ProgFree s → t.ponds = s.ponds
  free : ProgFree s → ProgFree t

theorem ProgFreeKept.refl (s : State) : ProgFreeKept s s := ⟨fun _ => rfl, id⟩

theorem ProgFreeKept.trans {s t u : State} (a : ProgFreeKept s t) (b : ProgFreeKept t u) : ProgFreeKept s u :=
  ⟨fun hp => (b.ponds (a.free hp)).trans (a.ponds hp), fun hp => b.free (a.free hp)⟩

/-- Ponds and commands are as before. -/
theorem ProgFreeKept.same {s t : State} (hp : t.ponds = s.ponds) (hc : t.shore.cmds = s.shore.cmds) : ProgFreeKept s t :=
  ⟨fun _ => hp, fun h x hx => h x (hc ▸ hx)⟩

theorem mem_of_mem_eraseFirst {α : Type} {p : α → Bool} {l : List α} {x : α} (hx : x ∈ eraseFirst p l) : x ∈ l := by
  induction l with
  | nil => exact hx
  | cons y r ih =>
    unfold eraseFirst at hx
    split at hx
    · exact List.mem_cons_of_mem y hx
    · rcases List.mem_cons.mp hx with e | hr
      · exact e ▸ List.mem_cons_self
      · exact List.mem_cons_of_mem y (ih hr)

theorem smod_progFree (off : Nat) (f : Word → Word) (s : State) : ProgFreeKept s (smod off f s) := .same rfl rfl

theorem onPort_progFree (h : Nat) (f : Port → Port) (s : State) : ProgFreeKept s (onPort h f s) := .same rfl rfl

theorem finish_progFree (c : Cmd) (st det com app : Nat) (r : Word) (lost : Bool) (s : State) :
    ProgFreeKept s (finish c st det com app r lost s) := by
  obtain ⟨ps, rg, e⟩ := finish_only c st det com app r lost s
  rw [e]
  exact ⟨fun _ => rfl, fun hp x hx => hp x (mem_of_mem_eraseFirst hx)⟩

theorem spdmAnswer_progFree (c : Cmd) (l : List Byte) (s : State) : ProgFreeKept s (spdmAnswer c l s s) := by
  unfold spdmAnswer
  dsimp only
  split
  · exact finish_progFree _ _ _ _ _ _ _ s
  · unfold finishData
    dsimp only
    split
    · exact (onPort_progFree _ _ s).trans (finish_progFree _ _ _ _ _ _ _ _)
    · exact finish_progFree _ _ _ _ _ _ _ s

theorem spdmKick_progFree (h fuel : Nat) (s : State) : ProgFreeKept s (spdmKick h fuel s) := by
  induction fuel generalizing s with
  | zero => exact .refl s
  | succ fuel ih =>
    unfold spdmKick
    split
    · exact .refl s
    · rename_i c e
      split
      · split
        · exact .refl s
        split
        · exact (finish_progFree _ _ _ _ _ _ _ s).trans (ih _)
        · exact (spdmAnswer_progFree c _ s).trans (ih _)
      · exact .refl s

theorem progKick_progFree {s : State} (hp : ProgFree s) : progKick s = s := by
  unfold progKick
  rw [List.filter_eq_nil_iff.mpr (fun x hx => by rw [hp x hx]; decide)]
  rfl

theorem readsGoOn_progFree (h : Nat) (s : State) : ProgFreeKept s (readsGoOn h s) := by
  have hs := spdmKick_progFree h s.shore.cmds.length s
  unfold readsGoOn spdmTurns
  refine ⟨fun hp => ?_, fun hp => ?_⟩
  · rw [progKick_progFree (hs.free hp), hs.ponds hp]
  · rw [progKick_progFree (hs.free hp)]
    exact hs.free hp

theorem breakPort_progFree (h : Nat) (s : State) : ProgFreeKept s (breakPort h s) := by
  unfold breakPort
  extract_lets p lost ctx s1
  refine .trans (t := s1) ?_ (onPort_progFree _ _ _)
  show ProgFreeKept s (if p.mirBusy.isSome then _ else s)
  split
  · exact (smod_progFree _ _ s).trans (smod_progFree _ _ _)
  · exact .refl s

theorem dmaErr_progFree (h a : Nat) (s : State) : ProgFreeKept s (dmaErr h a s) := by
  unfold dmaErr sset sinc
  exact .trans (.trans (smod_progFree _ _ s) (smod_progFree _ _ _)) (smod_progFree _ _ _)

theorem useShoreFree_progFree (s : State) : ProgFreeKept s (useShoreFree s) := .same rfl rfl

theorem portBreak_progFree (h : Nat) (s : State) : ProgFreeKept s (portBreak h s) := by
  unfold portBreak
  dsimp only
  refine (breakPort_progFree h s).trans (foldl_keep ProgFreeKept .refl (fun _ _ _ => .trans) _ (fun t c => ?_) _ _)
  split
  · exact .trans ((dmaErr_progFree _ _ t).trans (useShoreFree_progFree _)) (finish_progFree _ _ _ _ _ _ _ _)
  · exact .refl t

/-! ### Training and breaks -/

/-- Training ends with the link up (R72). -/
theorem linkUp_trains (s : State) (h : PortId) {speed : BitVec 4} {width : BitVec 3} {flit : Bool}
    (hp : s.shore.boot.por = false) (h2 : 2 ≤ s.shore.boot.phase) (ht : linkTrains speed width flit = true) :
    exec (.linkUp h speed width flit) s = .next (onPort h.val (fun p => { p with
      perst := false, link := true, ready := true, speed := speed.toNat, width := width.toNat, flit := flit }) s) := by
  refine congrArg Host.Outcome.next (if_neg ?_)
  rw [hp, ht]
  simp only [Bool.false_or, Bool.not_true, Bool.or_false, decide_eq_true_eq]
  omega

/-- The speeds and widths of Table 10.2. -/
theorem linkTrains_of_table {speed : BitVec 4} {width : BitVec 3} {flit : Bool} (h1 : 1 ≤ speed.toNat)
    (h6 : speed.toNat ≤ 6) (hf : speed = 6 → flit = true) (hw : width = 1 ∨ width = 2 ∨ width = 4) :
    linkTrains speed width flit = true := by
  have flits : (speed != 6 || flit) = true := by
    by_cases e : speed = 6
    · simp [hf e]
    · rw [bne_iff_ne.mpr e, Bool.true_or]
  have lanes : (width == 1 || width == 2 || width == 4) = true := by simpa [or_assoc] using hw
  rw [linkTrains, flits, lanes]
  simp [h1, h6]

/-- A context after a break of its port (R258). -/
def brokenCtx (c : Ctx) : Ctx :=
  let c1 := { c with
    fetched := [], asked := [], polling := false, pollAt := none, cut := c.cut || c.replaying }
  if c.st = 1 then { c1 with st := 0 }
  else if c.st = 2 ∨ c.st = 3 ∨ c.st = 4 then { c1 with st := 5, cause := 1 } else c1

theorem brokenCtx_quiet (c : Ctx) : ctxWrites (brokenCtx c) = false := by
  unfold brokenCtx
  dsimp only
  split
  · rfl
  · split
    · rfl
    · rename_i hx
      simp only [not_or] at hx
      simp [ctxWrites, hx]

/-- What a break leaves of a context, whatever completions and losses it then counts (R257, R258). -/
theorem brokenCtx_says {c d : Ctx} (e : d.uncounted = (brokenCtx c).uncounted) :
    d.fetched = [] ∧ d.asked = [] ∧ d.polling = false ∧ d.consumed = c.consumed ∧
    (if c.st = 1 then d.st = 0 else if c.st = 2 ∨ c.st = 3 ∨ c.st = 4 then d.st = 5 ∧ d.cause = 1 else d.st = c.st) := by
  have field : ∀ {α : Type} (f : Ctx → α), (∀ c, f c.uncounted = f c) → f d = f (brokenCtx c) :=
    fun f hf => by rw [← hf d, e, hf]
  have hst := field Ctx.st fun _ => rfl
  have hcause := field Ctx.cause fun _ => rfl
  have hfet := field Ctx.fetched fun _ => rfl
  have hask := field Ctx.asked fun _ => rfl
  have hpol := field Ctx.polling fun _ => rfl
  have hcon := field Ctx.consumed fun _ => rfl
  unfold brokenCtx at hst hcause hfet hask hpol hcon
  dsimp only at hst hcause hfet hask hpol hcon
  by_cases h1 : c.st = 1
  · simp only [if_pos h1] at *
    exact ⟨hfet, hask, hpol, hcon, hst⟩
  · simp only [if_neg h1] at *
    by_cases h2 : c.st = 2 ∨ c.st = 3 ∨ c.st = 4
    · simp only [if_pos h2] at *
      exact ⟨hfet, hask, hpol, hcon, hst, hcause⟩
    · simp only [if_neg h2] at *
      exact ⟨hfet, hask, hpol, hcon, hst⟩

section
variable {h : Nat} (hh : h < 4) (s : State)
include hh

theorem breakPort_port : ∃ re, portOf (breakPort h s) h = { portOf s h with
    breaks := (portOf s h).breaks + 1, posted := [], mirBusy := none, mirDue := none, reserve := re,
    ctx := (portOf s h).ctx.map brokenCtx } := by
  have hs1 : ∀ b : Bool, portOf (if b then sinc (0x8060 + 0x40 * h) 0 32 1 (sinc 0x8014 0 32 1 s) else s) h = portOf s h := by
    intro b
    cases b <;> rfl
  unfold breakPort
  extract_lets p lost ctx s1
  have e1 : portOf s1 h = p := hs1 _
  refine ⟨p.reserve.map lost, ?_⟩
  rw [portOf_onPort_self hh, e1]
  rfl

theorem breakPort_ctx {n : Nat} (hn : n < 32) : ctxOf (breakPort h s) h n = brokenCtx (ctxOf s h n) := by
  obtain ⟨re, e⟩ := breakPort_port hh s
  unfold ctxOf vget
  rw [e]
  simp [Vector.getD, hn]

theorem breakPort_quiet : Quiet h (breakPort h s) := by
  intro n
  by_cases hn : n < 32
  · rw [breakPort_ctx hh s hn]
    exact brokenCtx_quiet _
  · rw [ctxOf_ge _ _ (by omega)]
    rfl

end

theorem breakPort_ns (h : Nat) (s : State) : (breakPort h s).ns = s.ns := by
  unfold breakPort
  dsimp only
  split
  · rfl
  · rfl

theorem breakEffect_canRequest (k : BreakKind) (p : Port) : canRequest (breakEffect k p) = false := by
  cases k <;> simp [canRequest, breakEffect]

/-- The event of a break leaves contexts, posted writes and the count of breaks. -/
theorem breakEffect_keeps (k : BreakKind) (p : Port) :
    (breakEffect k p).ctx = p.ctx ∧ (breakEffect k p).posted = p.posted ∧ (breakEffect k p).breaks = p.breaks := by
  cases k <;> exact ⟨rfl, rfl, rfl⟩

/-- The state after a break and what goes on with it. -/
def broken (h : Nat) (k : BreakKind) (s : State) : State :=
  readsGoOn h (onPort h (breakEffect k) (portBreak h s))

theorem exec_portBreak (h : PortId) (k : BreakKind) (s : State) : exec (.portBreak h k) s =
    .next (if breaks (portOf s h.val) k then broken h.val k s else s) := rfl

theorem broken_ponds (h : Nat) (k : BreakKind) {s : State} (hp : ProgFree s) : (broken h k s).ponds = s.ponds :=
  (((portBreak_progFree h s).trans (onPort_progFree _ _ _)).trans (readsGoOn_progFree h _)).ponds hp

section
variable {h : Nat} (hh : h < 4) (k : BreakKind) (s : State)
include hh

theorem portBreak_quiet : Quiet h (onPort h (breakEffect k) (portBreak h s)) := by
  intro n
  rw [ctxOf_onPort_keep hh _ (breakEffect_keeps k _).1]
  exact (portBreak_rests hh s).quiet (breakPort_quiet hh s) n

theorem broken_rests : PortRests h (onPort h (breakEffect k) (portBreak h s)) (broken h k s) := by
  refine readsGoOn_rests hh (portBreak_quiet hh k s) ?_
  rw [portOf_onPort_self hh]
  exact breakEffect_canRequest k _

theorem broken_ns : (broken h k s).ns = s.ns :=
  (broken_rests hh k s).ns.trans ((portBreak_rests hh s).ns.trans (breakPort_ns h s))

theorem broken_canRequest : canRequest (portOf (broken h k s) h) = false := by
  rw [(broken_rests hh k s).canRequest (portBreak_quiet hh k s), portOf_onPort_self hh]
  exact breakEffect_canRequest k _

/-- The port's posted writes are lost and the break is counted (R257, R258). -/
theorem broken_port : (portOf (broken h k s) h).posted = [] ∧
    (portOf (broken h k s) h).breaks = (portOf s h).breaks + 1 := by
  obtain ⟨re, e0⟩ := breakPort_port hh s
  obtain ⟨re1, cx1, e1⟩ := (portBreak_rests hh s).port (breakPort_quiet hh s)
  obtain ⟨re2, cx2, e2⟩ := (broken_rests hh k s).port (portBreak_quiet hh k s)
  obtain ⟨-, hp, hb⟩ := breakEffect_keeps k (portOf (portBreak h s) h)
  rw [e2, portOf_onPort_self hh]
  dsimp only
  rw [hp, hb, e1, e0]
  exact ⟨rfl, rfl⟩

theorem broken_ctx {n : Nat} (hn : n < 32) :
    (ctxOf (broken h k s) h n).uncounted = (brokenCtx (ctxOf s h n)).uncounted := by
  rw [(broken_rests hh k s).ctx (portBreak_quiet hh k s), ctxOf_onPort_keep hh _ (breakEffect_keeps k _).1,
    (portBreak_rests hh s).ctx (breakPort_quiet hh s), breakPort_ctx hh s hn]

end

/-! ### Configuration and acknowledgement -/

section
variable {h : Nat} (hh : h < 4)
include hh

/-- The writes that a change of a port allows leave its configuration space (R256). -/
theorem portFlush_onPort_cfg (f : Port → Port) (s : State) :
    (portOf (portFlush h (onPort h f s)) h).bme = (f (portOf s h)).bme ∧
    (portOf (portFlush h (onPort h f s)) h).d3 = (f (portOf s h)).d3 ∧
    (portOf (portFlush h (onPort h f s)) h).cfg = (f (portOf s h)).cfg := by
  obtain ⟨po, re, cx, e⟩ := (portFlush_flushed h hh (onPort h f s)).port
  rw [e, portOf_onPort_self hh]
  exact ⟨rfl, rfl, rfl⟩

end

theorem portFlush_ponds (h : Nat) (s : State) : (portFlush h s).ponds = s.ponds := by
  obtain ⟨ps, e⟩ := portFlush_only h s
  rw [e]

/-- A port after a write of its configuration space (R256). -/
def configured (k : ConfigKind) (p : Port) : Port :=
  match k with
  | .bmeSet => { p with bme := true }
  | .d0 => { p with d3 := false }
  | .control mps mrrs => { p with cfg := { p.cfg with mps := mps, mrrs := mrrs } }
  | .bar mem base => { p with cfg := { p.cfg with mem := mem, bar := base &&& ~~~(0xFFFF : BitVec 64) } }

theorem configWrite_linked {s : State} {h : PortId} (k : ConfigKind) (hl : (portOf s h.val).link = true) :
    exec (.configWrite h k) s = .next (portFlush h.val (onPort h.val (configured k) s)) := by
  refine congrArg Host.Outcome.next (if_neg ?_)
  rw [hl]
  decide

theorem firstTail_append {w r : List HostWrite} {a n : Nat} {q : Word} {d : List Byte} {m : BitVec 2}
    (hw : ∀ x ∈ w, ∀ m z, x.kind ≠ .cplTail m z) : firstTail (w ++ ⟨a, d, .cplTail n q, m⟩ :: r) = some ((n, q), r) := by
  induction w with
  | nil => rfl
  | cons x w ih =>
    have hx := hw x List.mem_cons_self
    rw [List.cons_append, firstTail]
    split
    · rename_i n' q' e
      exact absurd e (hx n' q')
    · exact ih fun y hy => hw y (List.mem_cons_of_mem x hy)

/-- The oldest second write is acknowledged with all before it (R276). -/
theorem completionAck_tail {s : State} {h n : Nat} {q : Word} {r : List HostWrite} (hl : (portOf s h).link = true)
    (ht : firstTail (portOf s h).posted = some ((n, q), r)) :
    completionAck h s = ctxSettle h n (onPort h (fun p => { p with
      posted := r, reserve := p.reserve.filter (fun e => !(e.ctx == n && e.seq == q)) }) s) := by
  unfold completionAck
  rw [if_neg (by rw [hl]; decide), ht]

/-! ### The moves of a context -/

/-- Whether a completion of a context stands in a reserve does not turn on what else the marks say. -/
theorem any_of_map {f g : Cpl → Cpl} (n : Nat) {l m : List Cpl} (e : l.map f = m.map g)
    (hf : ∀ x, (f x).ctx = x.ctx) (hg : ∀ x, (g x).ctx = x.ctx) :
    l.any (fun x => x.ctx == n) = m.any (fun x => x.ctx == n) := by
  have h1 : (l.map f).any (fun x => x.ctx == n) = l.any (fun x => x.ctx == n) := by
    simp only [List.any_map, Function.comp_def, hf]
  have h2 : (m.map g).any (fun x => x.ctx == n) = m.any (fun x => x.ctx == n) := by
    simp only [List.any_map, Function.comp_def, hg]
  rw [← h1, e, h2]

theorem ctx_of_core {c d : Ctx} (e : c.core = d.core) : c.st = d.st ∧ c.gen = d.gen := by
  have hs : c.core.st = d.core.st := by rw [e]
  have hg : c.core.gen = d.core.gen := by rw [e]
  exact ⟨hs, hg⟩

section
variable {h n : Nat} (hh : h < 4) (hn : n < 32) {s : State}
include hh hn

theorem ctxRun_ctx : (ctxOf (ctxRun h n s) h n).st = 3 ∧ (ctxOf (ctxRun h n s) h n).gen = (ctxOf s h n).gen := by
  unfold ctxRun
  dsimp only
  rw [ctxOf_onCtx_self hh hn]
  exact ⟨rfl, rfl⟩

theorem ctxEnable_disabled (hs : (ctxOf s h n).st = 0) : (ctxOf (ctxEnable h n s) h n).st = 1 := by
  have e : ctxEnable h n s = onCtx h n (fun c => { c with st := 1, fetched := [], asked := [], polling := false }) s := by
    simp only [ctxEnable, hs]
  rw [e, ctxOf_onCtx_self hh hn]

theorem ctxEnable_draining (hs : (ctxOf s h n).st = 4) : (ctxOf (ctxEnable h n s) h n).st = 3 := by
  have e : ctxEnable h n s = portFlush h (ctxRun h n s) := by simp only [ctxEnable, hs]
  rw [e, (ctx_of_core ((portFlush_flushed h hh _).ctx n)).1, (ctxRun_ctx hh hn).1]

theorem ctxDisable_starting (hs : (ctxOf s h n).st = 1) : (ctxOf (ctxDisable h n s) h n).st = 0 := by
  have e : ctxDisable h n s = onCtx h n (fun c => { c with st := 0 }) s := by simp only [ctxDisable, hs]
  rw [e, ctxOf_onCtx_self hh hn]

/-- A context that drains is DISABLED once nothing is owed and its completions have left the reserve (R265). -/
theorem ctxSettle_drains (hs : (ctxOf s h n).st = 4) : (ctxOf (ctxSettle h n s) h n).st =
    if (portOf s h).reserve.any (fun e => e.ctx == n) = false ∧ (ctxOf s h n).owed = 0 then 0 else 4 := by
  by_cases ha : (portOf s h).reserve.any (fun e => e.ctx == n) = true
  · rw [ctxSettle_waits ha, if_neg (fun x => by rw [ha] at x; exact absurd x.1 (by decide)), hs]
  · rw [Bool.not_eq_true] at ha
    by_cases ho : (ctxOf s h n).owed = 0
    · rw [ctxSettle_drained ha hs ho, ctxOf_onCtx_self hh hn, if_pos ⟨ha, ho⟩]
    · rw [ctxSettle_draining ha hs ho, ctxOf_onCtx_self hh hn, if_neg (fun x => ho x.2)]
      exact hs

theorem ctxDisable_running (hs : (ctxOf s h n).st = 2 ∨ (ctxOf s h n).st = 3) :
    (ctxOf (ctxDisable h n s) h n).st =
      if (portOf s h).reserve.any (fun e => e.ctx == n) = false ∧ (ctxOf s h n).owed = 0 then 0 else 4 := by
  have e : ctxDisable h n s = ctxSettle h n (onCtx h n (fun c => { c with st := 4 }) s) := by
    rcases hs with hs | hs <;> simp only [ctxDisable, hs]
  have hc := ctxOf_onCtx_self hh hn (fun c => { c with st := 4 }) s
  rw [e, ctxSettle_drains hh hn (by rw [hc]), hc, portOf_onCtx hh]

/-- A context that replays runs once its completions have left the reserve (R278). -/
theorem ctxSettle_replays (hs : (ctxOf s h n).st = 2) :
    (ctxOf (ctxSettle h n s) h n).gen = (ctxOf s h n).gen ∧
    (ctxOf (ctxSettle h n s) h n).st = if (portOf s h).reserve.any (fun e => e.ctx == n) then 2 else 3 := by
  by_cases ha : (portOf s h).reserve.any (fun e => e.ctx == n) = true
  · rw [ctxSettle_waits ha, if_pos ha]
    exact ⟨rfl, hs⟩
  · rw [if_neg ha]
    rw [Bool.not_eq_true] at ha
    rw [ctxSettle_replayed ha hs]
    exact ⟨(ctxRun_ctx hh hn).2, (ctxRun_ctx hh hn).1⟩

/-- Replaying marks the completions of a context and moves it to REPLAYING, or at once to RUNNING (R277, R278). -/
theorem ctxReplay_replays :
    (ctxOf (ctxReplay h n s) h n).gen = (if (ctxOf s h n).cut then (ctxOf s h n).gen else (ctxOf s h n).gen + 1) ∧
    (ctxOf (ctxReplay h n s) h n).st = if (portOf s h).reserve.any (fun e => e.ctx == n) then 2 else 3 := by
  unfold ctxReplay
  extract_lets s1 s2
  have F := portFlush_flushed h hh s2
  have hctx : ctxOf s2 h n = { ctxOf s h n with
      st := 2, gen := if (ctxOf s h n).cut then (ctxOf s h n).gen else (ctxOf s h n).gen + 1, cut := false,
      report := true, replaying := true } := by
    rw [ctxOf_onPort_keep hh s1 rfl]
    exact ctxOf_onCtx_self hh hn _ s
  have hres : (portOf s2 h).reserve = (portOf s h).reserve.map
      (fun e => if e.ctx = n then { e with sent := false, replay := true } else e) := by
    rw [portOf_onPort_self hh, portOf_onCtx hh]
  have hany : (portOf (portFlush h s2) h).reserve.any (fun e => e.ctx == n) =
      (portOf s h).reserve.any (fun e => e.ctx == n) := by
    rw [any_of_map n F.reserve (fun _ => rfl) (fun _ => rfl), hres, List.any_map]
    congr 1
    funext e
    by_cases he : e.ctx = n <;> simp [he]
  obtain ⟨hst, hgen⟩ := ctx_of_core (F.ctx n)
  rw [hctx] at hst hgen
  obtain ⟨hg, ht⟩ := ctxSettle_replays hh hn hst
  exact ⟨hg.trans hgen, by rw [ht, hany]⟩

end

theorem ctxEnable_paused {h n : Nat} {s : State} (hs : (ctxOf s h n).st = 5) : ctxEnable h n s = ctxReplay h n s := by
  simp only [ctxEnable, hs]

/-- A context is abandoned in DISABLED and PAUSED only (R266). -/
theorem ctxAbandon_other {h n : Nat} {s : State} (h0 : (ctxOf s h n).st ≠ 0) (h5 : (ctxOf s h n).st ≠ 5) :
    ctxAbandon h n s = s := if_pos ⟨h5, h0⟩

/-- A saturating count of a whole register. -/
theorem sreg_sinc_word (off k : Nat) (s : State) :
    (sreg (sinc off 0 32 k s) off).toNat = min (2 ^ 32 - 1) ((sreg s off).toNat + k) := by
  have whole : ∀ w : Word, fld w 0 32 = w.toNat := fun w => by simp [fld, Nat.mod_eq_of_lt w.isLt]
  unfold sinc
  rw [sreg_smod, if_pos rfl, ← whole, fld_incFld (by omega), whole]

/-- The state after a context's completions and what it counts are abandoned (R266, R276). -/
theorem ctxAbandon_abandoned {h n : Nat} (hh : h < 4) (hn : n < 32) {s : State}
    (hs : (ctxOf s h n).st = 0 ∨ (ctxOf s h n).st = 5) :
    (ctxOf (ctxAbandon h n s) h n).st = 0 ∧ (ctxOf (ctxAbandon h n s) h n).consumed = 0 ∧
    (ctxOf (ctxAbandon h n s) h n).seq = 0 ∧ (ctxOf (ctxAbandon h n s) h n).life = (ctxOf s h n).life + 1 ∧
    (portOf (ctxAbandon h n s) h).reserve = (portOf s h).reserve.filter (fun e => e.ctx != n) ∧
    (sreg (ctxAbandon h n s) (0x400 * h + 0x24)).toNat = min (2 ^ 32 - 1) ((sreg s (0x400 * h + 0x24)).toNat +
      ((portOf s h).reserve.filter (fun e => e.ctx == n)).length) := by
  unfold ctxAbandon
  dsimp only
  rw [if_neg (by omega), ctxOf_onCtx_self hh hn, ctxOf_onPort_keep hh _ rfl, portOf_onCtx hh, portOf_onPort_self hh]
  refine ⟨rfl, rfl, rfl, rfl, rfl, ?_⟩
  unfold onCtx
  rw [sreg_onPort, sreg_onPort]
  exact sreg_sinc_word _ _ s

/-! ### The claim -/

/-- Settles O43: training and a break (R72, R257, R258), configuration space (R256), acknowledged completions (R276)
and the moves of Table 10.6 (R265, R266, R276 to R278). -/
theorem portsAndContextStates : Obligations.PortsAndContextStates := by
  unfold Obligations.PortsAndContextStates
  refine ⟨?_, ?_, ?_, ?_⟩
  · intro s h speed width flit hp h2 h1 h6 hf hw
    refine ⟨_, linkUp_trains s h hp h2 (linkTrains_of_table h1 h6 hf hw), rfl, portOf_onPort_self h.isLt _ s, ?_⟩
    exact fun q hq => portOf_onPort_ne (fun e => hq (Fin.ext e)) _ s
  · intro s h k
    refine ⟨fun hb => by rw [exec_portBreak, hb]; rfl, fun hb => ⟨broken h.val k s, by rw [exec_portBreak, hb]; rfl, ?_⟩⟩
    obtain ⟨hposted, hbreaks⟩ := broken_port h.isLt k s
    exact ⟨broken_ns h.isLt k s, fun hp => broken_ponds h.val k hp, broken_canRequest h.isLt k s, hbreaks, hposted,
      fun n => brokenCtx_says (broken_ctx h.isLt k s n.isLt)⟩
  · intro s h hl
    have config : ∀ k, ∃ t, exec (.configWrite h k) s = .next t ∧ t.ponds = s.ponds ∧
        (portOf t h.val).bme = (configured k (portOf s h.val)).bme ∧
        (portOf t h.val).d3 = (configured k (portOf s h.val)).d3 ∧
        (portOf t h.val).cfg = (configured k (portOf s h.val)).cfg :=
      fun k => ⟨_, configWrite_linked k hl, portFlush_ponds _ _, portFlush_onPort_cfg h.isLt (configured k) s⟩
    obtain ⟨tb, eb, pb, bb, db, -⟩ := config .bmeSet
    obtain ⟨td, ed, pd, bd, dd, cd⟩ := config .d0
    refine ⟨⟨tb, eb, bb, db, pb⟩, ⟨td, ed, dd, bd, pd⟩, ⟨td, ed, cd⟩, fun mps mrrs => ?_, ?_⟩
    · obtain ⟨t, e, p, -, -, c⟩ := config (.control mps mrrs)
      exact ⟨t, e, p, c⟩
    · intro w n q l r d a m hp hw hr
      have ht : firstTail (portOf s h.val).posted = some ((n, q), r) := by rw [hp, firstTail_append hw]
      refine ⟨_, congrArg Host.Outcome.next (completionAck_tail hl ht), ?_⟩
      obtain ⟨cx, e⟩ := ctxSettle_port (n := n) (s := onPort h.val (fun p => { p with
        posted := r, reserve := p.reserve.filter (fun e => !(e.ctx == n && e.seq == q)) }) s) h.isLt
      rw [e, portOf_onPort_self h.isLt, hr]
      exact ⟨rfl, rfl⟩
  · intro s h n
    refine ⟨fun hs => ⟨_, rfl, ctxEnable_disabled h.isLt n.isLt hs⟩, fun hs => ⟨ctxReplay h.val n.val s,
        congrArg Host.Outcome.next (ctxEnable_paused hs), ctxReplay_replays h.isLt n.isLt⟩,
      fun hs => ⟨_, rfl, ctxEnable_draining h.isLt n.isLt hs⟩, fun hs => ⟨_, rfl, ctxDisable_starting h.isLt n.isLt hs⟩,
      fun hs => ⟨_, rfl, ctxDisable_running h.isLt n.isLt hs⟩, fun hs => ⟨_, rfl, ctxAbandon_abandoned h.isLt n.isLt hs⟩,
      fun h0 h5 => congrArg Host.Outcome.next (ctxAbandon_other h0 h5)⟩

end Sys2Proof.Machine
end

section
/-! SUPPORT and claims. The words of the pond core (Tables 4.8 to 4.17): each field of a word put together reads
back, so a word decodes to the instruction that it encodes. -/

namespace Sys2Proof
namespace PondWord

/-! ### Fields of a word put together -/

/-- A field that lies in the low part of a word. -/
theorem extract_low {n m lo len : Nat} (a : BitVec n) (b : BitVec m) (h : lo + len ≤ m) :
    (a ++ b).extractLsb' lo len = b.extractLsb' lo len := by
  apply BitVec.eq_of_getLsbD_eq
  intro i hi
  simp only [BitVec.getLsbD_extractLsb', BitVec.getLsbD_append, hi, decide_true, Bool.true_and]
  rw [if_pos (by omega)]

/-- The field that is the high part of a word. -/
theorem extract_high {n m lo : Nat} (a : BitVec n) (b : BitVec m) (h : lo = m) :
    (a ++ b).extractLsb' lo n = a := by
  subst h
  exact BitVec.extractLsb'_append_eq_left

theorem extract_all {n : Nat} (a : BitVec n) : a.extractLsb' 0 n = a := BitVec.extractLsb'_eq_self

theorem op_put (o : Nat) (r : BitVec 26) : op (put o r) = o % 64 := by
  rw [op, bits, put, extract_high _ _ rfl, BitVec.toNat_ofNat]

theorem fmtA_putA (o fn : Nat) (f : FmtA) : fmtA (putA o fn f) = f := by
  simp (disch := decide) only [fmtA, bits, putA, put, extract_low, extract_high]

theorem func_putA (o fn : Nat) (f : FmtA) : func (putA o fn f) = fn % 64 := by
  simp (disch := decide) only [func, bits, putA, put, extract_low, extract_all, BitVec.toNat_ofNat]

theorem fmtI_putI (o : Nat) (f : FmtI) : fmtI (putI o f) = f := by
  simp (disch := decide) only [fmtI, bits, putI, put, extract_low, extract_high, extract_all]

theorem fmtF_putF (fn : Nat) (f : FmtF) : fmtF (putF fn f) = f := by
  simp (disch := decide) only [fmtF, bits, putF, put, extract_low, extract_high]

theorem func_putF (fn : Nat) (f : FmtF) : func (putF fn f) = fn % 64 := by
  simp (disch := decide) only [func, bits, putF, put, extract_low, extract_all, BitVec.toNat_ofNat]

theorem fmtS_putS (sub : Nat) (f : FmtS) : fmtS (putS sub f) = f := by
  simp (disch := decide) only [fmtS, bits, putS, put, extract_low, extract_high, extract_all]

theorem sub_putS (sub : Nat) (f : FmtS) : (bits (putS sub f) 12 6).toNat = sub % 64 := by
  simp (disch := decide) only [bits, putS, put, extract_low, extract_high, BitVec.toNat_ofNat]

theorem fmtG_putG (n : BitVec 8) (f : FmtG) : fmtG (putG n f) = f := by
  simp (disch := decide) only [fmtG, bits, putG, put, extract_low, extract_high]

theorem sub_putG (n : BitVec 8) (f : FmtG) : bits (putG n f) 12 6 = 2 := by
  simp (disch := decide) only [bits, putG, put, extract_low, extract_high]
  rfl

theorem gate_putG (n : BitVec 8) (f : FmtG) : bits (putG n f) 0 8 = n := by
  simp (disch := decide) only [bits, putG, put, extract_low, extract_all]

theorem fmtL_putL (o : Nat) (f : FmtL) : fmtL (putL o f) = f := by
  simp (disch := decide) only [fmtL, bits, putL, put, extract_low, extract_high, extract_all]

theorem fmtU_put (o : Nat) (f : FmtU) : fmtU (put o (f.d ++ f.imm)) = f := by
  simp (disch := decide) only [fmtU, bits, put, extract_low, extract_high, extract_all]

theorem fmtB_put (o : Nat) (f : FmtB) : fmtB (put o (f.cond ++ f.off)) = f := by
  simp (disch := decide) only [fmtB, bits, put, extract_low, extract_high, extract_all]

theorem fmtC_put (o : Nat) (f : FmtC) : fmtC (put o f.off) = f := by
  simp (disch := decide) only [fmtC, bits, put, extract_low, extract_all]

theorem op_putA (o fn : Nat) (f : FmtA) : op (putA o fn f) = o % 64 := op_put _ _

theorem op_putI (o : Nat) (f : FmtI) : op (putI o f) = o % 64 := op_put _ _

theorem op_putF (fn : Nat) (f : FmtF) : op (putF fn f) = 3 := op_put _ _

theorem op_putS (sub : Nat) (f : FmtS) : op (putS sub f) = 48 := op_put _ _

theorem op_putG (n : BitVec 8) (f : FmtG) : op (putG n f) = 48 := op_put _ _

theorem op_putL (o : Nat) (f : FmtL) : op (putL o f) = o % 64 := op_put _ _

/-- The word of a gate names its gate, where the gate is none of Table 5.8's. -/
theorem gate_other (p : PondId) {n : BitVec 8} (h : 5 ≤ n.toNat) (f : FmtG) :
    gate p (putG n f) = .gateNotImplemented p n f := by
  unfold gate
  rw [gate_putG, fmtG_putG]
  split
  case h_6 => rfl
  all_goals omega

/-- An encoded word decodes to its instruction (R100, R101). -/
theorem decode_encode {i : Instr} {w : Word} (hi : Instr.wf i = true) (h : encode i = some w) :
    ∃ (p : PondId) (u : Nat), decode p u w = some i := by
  cases i
  case add p f | sub p f | adc p f | sbc p f | adds p f | subs p f | andd p f | orr p f | xor p f | andn p f |
      shl p f | shr p f | sar p f | ror p f | slt p f | sltu p f | minS p f | maxS p f | minu p f | maxu p f |
      cmp p f | tst p f =>
    obtain rfl := Option.some.inj h
    exact ⟨p, 0, by simp [decode, op_putA, alu, func_putA, fmtA_putA]⟩
  case mul p f | mulh p f | mulhu p f | div p f | divu p f | rem p f | remu p f =>
    obtain rfl := Option.some.inj h
    exact ⟨p, 0, by simp [decode, op_putA, mul, func_putA, fmtA_putA]⟩
  case mac p f | msu p f | macz p f | accx p f | accrd p f | accw p f | accz p f =>
    obtain rfl := Option.some.inj h
    exact ⟨p, 0, by simp [decode, op_putA, acc, func_putA, fmtA_putA]⟩
  case jr p f | callr p f =>
    obtain rfl := Option.some.inj h
    exact ⟨p, 0, by simp [decode, op_putA, jump, func_putA, fmtA_putA]⟩
  case addi p f | andi p f | ori p f | xori p f | shli p f | shri p f | sari p f | slti p f | sltiu p f |
      cmpi p f | tsti p f | lb p f | lbu p f | lh p f | lhu p f | lw p f | ld p f | sb p f | sh p f | sw p f |
      sd p f | bz p f | bnz p f | dbnz p f =>
    obtain rfl := Option.some.inj h
    exact ⟨p, 0, by simp [decode, op_putI, fmtI_putI]⟩
  case extu p f | exts p f | ins p f | clz p f | popc p f | sats p f | satu p f =>
    obtain rfl := Option.some.inj h
    exact ⟨p, 0, by simp [decode, op_putF, field, func_putF, fmtF_putF]⟩
  case nop p f | trap p f | rete p f | fence p f | waite p f | tbrd p f | eprd p f | brk p f | ei p f | di p f =>
    obtain rfl := Option.some.inj h
    exact ⟨p, 0, by simp [decode, op_putS, system, sub_putS, fmtS_putS]⟩
  case romInfo p f | pflProgram p f | pflErase p f | calRead p f | idRead p f =>
    obtain rfl := Option.some.inj h
    exact ⟨p, 0, by simp [decode, op_putG, system, sub_putG, gate, gate_putG, fmtG_putG]⟩
  case gateNotImplemented p n f =>
    obtain rfl := Option.some.inj h
    exact ⟨p, 0, by simp [decode, op_putG, system, sub_putG, gate_other p (of_decide_eq_true hi) f]⟩
  case lui p f =>
    obtain rfl := Option.some.inj h
    exact ⟨p, 0, by simp [decode, op_put, fmtU_put]⟩
  case bcc p f =>
    obtain rfl := Option.some.inj h
    exact ⟨p, 0, by simp [decode, op_put, fmtB_put]⟩
  case call p f =>
    obtain rfl := Option.some.inj h
    exact ⟨p, 0, by simp [decode, op_put, fmtC_put]⟩
  case bmov p f u | bcrc p f u | firb p f u | xfrm p f u =>
    obtain rfl := Option.some.inj h
    exact ⟨p, u, by simp [decode, op_putL, fmtL_putL]⟩
  all_goals cases h

end PondWord

/-- Settles O57: by the format of the instruction, each field of the word reads back what was put there. -/
theorem encodeThenDecode : Obligations.EncodeThenDecode := fun _ _ hi h => PondWord.decode_encode hi h

end Sys2Proof
end

section
/-! SUPPORT and claims. The arithmetic of the pond core (Tables 4.10 to 4.14): each operation of the model in the
plain integer arithmetic of the tables, and the groups of instructions over it. -/

namespace Sys2Proof.Machine

/-! ### Values in 32 bits -/

/-- The signed value of an integer cut to 32 bits is the integer itself just where it fits. -/
theorem toInt_ofInt_ne (x : Int) : decide ((BitVec.ofInt 32 x).toInt ≠ x) = !fits32 x := by
  have h : (BitVec.ofInt 32 x).toInt = x ↔ -2147483648 ≤ x ∧ x ≤ 2147483647 := by
    rw [BitVec.toInt_ofInt, Int.bmod_def]
    omega
  by_cases hx : (BitVec.ofInt 32 x).toInt = x
  · simp [hx, fits32, h.1 hx]
  · have := mt h.2 hx
    simp only [fits32, ne_eq, hx, not_false_eq_true, decide_true]
    rw [← Bool.decide_and, eq_comm, Bool.not_eq_true', decide_eq_false_iff_not]
    exact this

theorem satI_32 (x : Int) : satI 32 x = clamp32 x := by
  unfold satI clampI clamp32
  norm_num
  split
  · omega
  · split <;> omega

theorem clamp32_ne (x : Int) : decide (clamp32 x ≠ x) = !fits32 x := by
  unfold clamp32 fits32
  rw [← Bool.decide_and, ← decide_not, decide_eq_decide]
  omega

theorem ofNat_b2n (p : Prop) [Decidable p] : BitVec.ofNat 32 (b2n (decide p)) = if p then 1 else 0 := by
  by_cases h : p <;> simp [h, b2n]

theorem ofInt_min (a b : Word) : BitVec.ofInt 32 (min a.toInt b.toInt) = if a.toInt ≤ b.toInt then a else b := by
  rw [Int.min_def]
  split <;> exact BitVec.ofInt_toInt

theorem ofInt_max (a b : Word) : BitVec.ofInt 32 (max a.toInt b.toInt) = if a.toInt ≤ b.toInt then b else a := by
  rw [Int.max_def]
  split <;> exact BitVec.ofInt_toInt

theorem ofNat_min (a b : Word) : BitVec.ofNat 32 (min a.toNat b.toNat) = if a.toNat ≤ b.toNat then a else b := by
  rw [Nat.min_def]
  split <;> exact BitVec.ofNat_toNat _ _ |>.trans (BitVec.setWidth_eq _)

theorem ofNat_max (a b : Word) : BitVec.ofNat 32 (max a.toNat b.toNat) = if a.toNat ≤ b.toNat then b else a := by
  rw [Nat.max_def]
  split <;> exact BitVec.ofNat_toNat _ _ |>.trans (BitVec.setWidth_eq _)

/-! ### Sums and differences (R102) -/

theorem add_eq_ofInt (a b : Word) (c : Bool) :
    a + b + BitVec.ofNat 32 (b2n c) = BitVec.ofInt 32 (a.toInt + b.toInt + b2n c) := by
  rw [BitVec.ofInt_add, BitVec.ofInt_add, BitVec.ofInt_toInt, BitVec.ofInt_toInt, BitVec.ofInt_natCast]

theorem sub_eq_ofInt (a b : Word) (k : Nat) :
    a - b - BitVec.ofNat 32 k = BitVec.ofInt 32 (a.toInt - b.toInt - k) := by
  rw [Int.sub_eq_add_neg, Int.sub_eq_add_neg, BitVec.ofInt_add, BitVec.ofInt_add, BitVec.ofInt_neg, BitVec.ofInt_neg,
    BitVec.ofInt_toInt, BitVec.ofInt_toInt, BitVec.ofInt_natCast, BitVec.sub_eq_add_neg, BitVec.sub_eq_add_neg]

/-- The sum of ADD and ADC, as Table 4.10 gives it. -/
def sumOut (a b : Word) (c : Bool) : AluOut :=
  ⟨BitVec.ofInt 32 (a.toInt + b.toInt + b2n c), decide (2 ^ 32 ≤ a.toNat + b.toNat + b2n c),
    !fits32 (a.toInt + b.toInt + b2n c), false⟩

/-- The difference of SUB, SBC, CMP and CMPI with borrow `k`. -/
def diffOut (a b : Word) (k : Nat) : AluOut :=
  ⟨BitVec.ofInt 32 (a.toInt - b.toInt - k), decide (b.toNat + k ≤ a.toNat), !fits32 (a.toInt - b.toInt - k), false⟩

theorem addFlags_eq (a b : Word) (c : Bool) (fl : Flags) :
    addFlags a b c fl = ((sumOut a b c).v, (sumOut a b c).flags fl) := by
  simp only [addFlags, sumOut, AluOut.flags, flagsNZ, add_eq_ofInt, toInt_ofInt_ne, Bool.or_false]
  rfl

theorem subFlags_eq (a b : Word) (c : Bool) (fl : Flags) :
    subFlags a b c fl = ((diffOut a b (1 - b2n c)).v, (diffOut a b (1 - b2n c)).flags fl) := by
  simp only [subFlags, diffOut, AluOut.flags, flagsNZ, sub_eq_ofInt, toInt_ofInt_ne, Bool.or_false]
  rfl

theorem satFlags_eq (x : Int) (fl : Flags) :
    satFlags x fl = (BitVec.ofInt 32 (clamp32 x),
      AluOut.flags ⟨BitVec.ofInt 32 (clamp32 x), fl.c, !fits32 x, !fits32 x⟩ fl) := by
  simp only [satFlags, AluOut.flags, flagsNZ, satI_32, clamp32_ne]

theorem logFlags_eq {v w : Word} (h : v = w) (fl : Flags) : logFlags v fl = ((nz w fl).v, (nz w fl).flags fl) := by
  subst h
  simp only [logFlags, nz, AluOut.flags, flagsNZ, Bool.or_false]
  rfl

/-! ### Shifts (R103) -/

theorem fld_low {n : Nat} (w : BitVec n) (len : Nat) : fld w 0 len = w.toNat % 2 ^ len := by
  rw [fld, Nat.shiftRight_zero]

theorem fld_byte {n : Nat} (w : BitVec n) : fld w 0 8 = w.toNat % 256 := fld_low w 8

theorem fld_five {n : Nat} (w : BitVec n) : fld w 0 5 = w.toNat % 32 := fld_low w 5

theorem shiftFlags_eq (v : Word) (k : Nat) (out : Bool) (fl : Flags) :
    shiftFlags v k out fl = ((nzc v k out fl).v, (nzc v k out fl).flags fl) := by
  simp only [shiftFlags, nzc, AluOut.flags, flagsNZ, Bool.or_false]
  rfl

theorem shiftLeft_eq_ofNat (a : Word) (k : Nat) : a <<< k = BitVec.ofNat 32 (a.toNat * 2 ^ k) := by
  apply BitVec.eq_of_toNat_eq
  rw [BitVec.toNat_shiftLeft, BitVec.toNat_ofNat, Nat.shiftLeft_eq]

theorem shiftRight_eq_ofNat (a : Word) (k : Nat) : a >>> k = BitVec.ofNat 32 (a.toNat / 2 ^ k) := by
  apply BitVec.eq_of_toNat_eq
  rw [BitVec.toNat_ushiftRight, BitVec.toNat_ofNat, Nat.shiftRight_eq_div_pow, Nat.mod_eq_of_lt]
  exact Nat.lt_of_le_of_lt (Nat.div_le_self _ _) a.isLt

theorem sshiftRight_eq_ofInt (a : Word) (k : Nat) : a.sshiftRight k = BitVec.ofInt 32 (a.toInt.fdiv (2 ^ k)) := by
  apply BitVec.eq_of_toInt_eq
  rw [Int.fdiv_eq_ediv_of_nonneg _ (by positivity)]
  rw [BitVec.sshiftRight, Int.shiftRight_eq_div_pow]
  norm_cast

/-- The bit that SHL shifts out is bit 32 of the product. -/
theorem shl_out (a : Word) (k : Nat) :
    (decide (k ≤ 32) && bit a (32 - k)) = (a.toNat * 2 ^ k).testBit 32 := by
  rw [Nat.testBit_mul_two_pow]
  rfl

theorem fmod_two_eq (x : Int) : decide (x.fmod 2 = 1) = decide (x % 2 = 1) := by
  rw [Int.fmod_eq_emod_of_nonneg _ (by decide)]

/-- The last bit that SAR shifts out is bit 0 of the value shifted by one less. -/
theorem sar_out (a : Word) (k : Nat) :
    (if k ≤ 32 then bit a (k - 1) else a.msb) = decide ((a.toInt.fdiv (2 ^ (k - 1))).fmod 2 = 1) := by
  have hbit : ∀ x : Int, (BitVec.ofInt 32 x).getLsbD 0 = decide (x % 2 = 1) := by
    intro x
    rw [BitVec.getLsbD, BitVec.toNat_ofInt, Nat.testBit_zero, decide_eq_decide]
    omega
  rw [fmod_two_eq, ← hbit, ← sshiftRight_eq_ofInt, BitVec.getLsbD_sshiftRight]
  by_cases h : k ≤ 32
  · rw [if_pos h]
    have : k - 1 < 32 := by omega
    simp [bit, this]
  · rw [if_neg h]
    have : ¬ k - 1 < 32 := by omega
    simp [this]

theorem shlFlags_eq (a : Word) (k : Nat) (fl : Flags) :
    shlFlags a k fl = shiftFlags (BitVec.ofNat 32 (a.toNat * 2 ^ k)) k ((a.toNat * 2 ^ k).testBit 32) fl := by
  rw [shlFlags, shl_out, shiftLeft_eq_ofNat]

theorem shrFlags_eq (a : Word) (k : Nat) (fl : Flags) :
    shrFlags a k fl = shiftFlags (BitVec.ofNat 32 (a.toNat / 2 ^ k)) k (a.toNat.testBit (k - 1)) fl := by
  rw [shrFlags, shiftRight_eq_ofNat]
  rfl

theorem sarFlags_eq (a : Word) (k : Nat) (fl : Flags) :
    sarFlags a k fl = shiftFlags (BitVec.ofInt 32 (a.toInt.fdiv (2 ^ k))) k
      (decide ((a.toInt.fdiv (2 ^ (k - 1))).fmod 2 = 1)) fl := by
  rw [sarFlags, sshiftRight_eq_ofInt, sar_out]

theorem rorFlags_eq (a : Word) (k : Nat) (fl : Flags) :
    rorFlags a k fl = (a.rotateRight k, AluOut.flags ⟨a.rotateRight k, (a.rotateRight k).msb, fl.v, false⟩ fl) := by
  simp only [rorFlags, AluOut.flags, flagsNZ, Bool.or_false]

/-! ### The ALU register group (Table 4.10) -/

section
variable {Q : Pond}

theorem aluReg_step {f : FmtA} {op : Word → Word → Flags → Word × Flags} {out : Word → Word → Flags → AluOut}
    (he : f.ext = 0) (ho : ∀ a b fl, op a b fl = ((out a b fl).v, (out a b fl).flags fl)) :
    CoreStep Q (aluReg op f Q) (gput Q f.d (out (gr Q f.a) (gr Q f.b) Q.core.flags).v) Q.core.acc
      (if f.s = 1 then (out (gr Q f.a) (gr Q f.b) Q.core.flags).flags Q.core.flags
       else { Q.core.flags with q := Q.core.flags.q || (out (gr Q f.a) (gr Q f.b) Q.core.flags).q })
      (Q.core.pc + 4) := by
  have hs := (CoreStep.refl Q).stallFor (rmask f.a ||| rmask f.b) false false
  rw [aluReg, he, beq_self_eq_true, legal_true]
  simp only [ho]
  split
  · exact ((hs.setFlags _).gset _ _).retire 1
  · have hq := ((hs.setQ (Q.core.flags.q || (out (gr Q f.a) (gr Q f.b) Q.core.flags).q)).gset f.d
      (out (gr Q f.a) (gr Q f.b) Q.core.flags).v).retire 1
    rwa [← Bool.or_assoc, Bool.or_self] at hq

theorem aluTest_step {f : FmtA} {op : Word → Word → Flags → Word × Flags} {out : Word → Word → Flags → AluOut}
    (he : f.ext = 0) (hs : f.s = 0) (hd : f.d = 0)
    (ho : ∀ a b fl, op a b fl = ((out a b fl).v, (out a b fl).flags fl)) :
    CoreStep Q (aluTest op f Q) Q.core.g Q.core.acc ((out (gr Q f.a) (gr Q f.b) Q.core.flags).flags Q.core.flags)
      (Q.core.pc + 4) := by
  rw [aluTest, he, hs, hd]
  simp only [beq_self_eq_true, Bool.and_self, legal_true, ho]
  exact (((CoreStep.refl Q).stallFor _ _ _).setFlags _).retire 1

theorem aluImm_step {f : FmtI} {ok : Bool} {op : Word → Word} {v : Word} (hk : ok = true) (hv : op (gr Q f.a) = v) :
    CoreStep Q (aluImm ok op f Q) (gput Q f.d v) Q.core.acc Q.core.flags (Q.core.pc + 4) := by
  rw [aluImm, hk, legal_true, hv]
  exact (((CoreStep.refl Q).stallFor _ _ _).gset _ _).retire 1

theorem immTest_step {f : FmtI} {op : Word → Flags → Word × Flags} {r : AluOut} (hd : f.d = 0)
    (ho : op (gr Q f.a) Q.core.flags = (r.v, r.flags Q.core.flags)) :
    CoreStep Q (immTest op f Q) Q.core.g Q.core.acc (r.flags Q.core.flags) (Q.core.pc + 4) := by
  rw [immTest, hd, beq_self_eq_true, legal_true, ho]
  exact (((CoreStep.refl Q).stallFor _ _ _).setFlags _).retire 1

end

/-- An instruction that issues as an operation of its pond which is a `CoreStep`. -/
theorem issue_step {s : State} {p : PondId} {Q : Pond} {f : PCtx → Pond → Pond} {g : Vector Word 16} {acc : BitVec 72}
    {fl : Flags} {pc : Word} (h : Issues s p Q) (hf : CoreStep Q (f (pctx s p) Q) g acc fl pc) :
    ∃ P, issue p f s = .next (withPond s p P) ∧ CoreStep Q P g acc fl pc :=
  ⟨_, issue_eq h f, hf⟩

/-- The operation of the model behind each row of Table 4.10. -/
theorem AluRow.op {c : PondId → FmtA → Instr} {out : Word → Word → Flags → AluOut} (h : AluRow c out) :
    ∃ op : Word → Word → Flags → Word × Flags,
      (∀ p f s, exec (c p f) s = issue p (fun _ P => aluReg op f P) s) ∧
      ∀ a b fl, op a b fl = ((out a b fl).v, (out a b fl).flags fl) := by
  cases h
  case add => exact ⟨_, fun _ _ _ => rfl, fun a b fl => by simpa [sumOut, b2n] using addFlags_eq a b false fl⟩
  case sub => exact ⟨_, fun _ _ _ => rfl, fun a b fl => by simpa [diffOut, b2n] using subFlags_eq a b true fl⟩
  case adc => exact ⟨_, fun _ _ _ => rfl, fun a b fl => addFlags_eq a b fl.c fl⟩
  case sbc =>
    refine ⟨_, fun _ _ _ => rfl, fun a b fl => (subFlags_eq a b fl.c fl).trans ?_⟩
    rw [show 1 - b2n fl.c = b2n (!fl.c) by cases fl.c <;> rfl]
    rfl
  case adds => exact ⟨_, fun _ _ _ => rfl, fun a b fl => satFlags_eq _ fl⟩
  case subs => exact ⟨_, fun _ _ _ => rfl, fun a b fl => satFlags_eq _ fl⟩
  case andd | orr | xor | andn => exact ⟨_, fun _ _ _ => rfl, fun _ _ fl => logFlags_eq rfl fl⟩
  case shl =>
    exact ⟨_, fun _ _ _ => rfl, fun a b fl => by simp only [fld_byte, shlFlags_eq, shiftFlags_eq]⟩
  case shr =>
    exact ⟨_, fun _ _ _ => rfl, fun a b fl => by simp only [fld_byte, shrFlags_eq, shiftFlags_eq]⟩
  case sar =>
    exact ⟨_, fun _ _ _ => rfl, fun a b fl => by simp only [fld_byte, sarFlags_eq, shiftFlags_eq]⟩
  case ror => exact ⟨_, fun _ _ _ => rfl, fun a b fl => by simp only [fld_five, rorFlags_eq]⟩
  case slt | sltu => exact ⟨_, fun _ _ _ => rfl, fun _ _ fl => logFlags_eq (ofNat_b2n _).symm fl⟩
  case minS => exact ⟨_, fun _ _ _ => rfl, fun _ _ fl => logFlags_eq (ofInt_min _ _).symm fl⟩
  case maxS => exact ⟨_, fun _ _ _ => rfl, fun _ _ fl => logFlags_eq (ofInt_max _ _).symm fl⟩
  case minu => exact ⟨_, fun _ _ _ => rfl, fun _ _ fl => logFlags_eq (ofNat_min _ _).symm fl⟩
  case maxu => exact ⟨_, fun _ _ _ => rfl, fun _ _ fl => logFlags_eq (ofNat_max _ _).symm fl⟩

/-- Settles O2: each row is the model's operation of that row, and the group's shape is that of `aluReg_step`. -/
theorem aluRegisterGroup : Obligations.AluRegisterGroup := by
  intro c out hrow s p Q f hi he
  obtain ⟨op, hx, ho⟩ := hrow.op
  rw [hx]
  exact issue_step hi (aluReg_step he ho)

/-! ### CMP, TST, CMPI and TSTI -/

theorem TestRow.op {c : PondId → FmtA → Instr} {out : Word → Word → Flags → AluOut} (h : TestRow c out) :
    ∃ op : Word → Word → Flags → Word × Flags,
      (∀ p f s, exec (c p f) s = issue p (fun _ P => aluTest op f P) s) ∧
      ∀ a b fl, op a b fl = ((out a b fl).v, (out a b fl).flags fl) := by
  cases h
  case cmp => exact ⟨_, fun _ _ _ => rfl, fun a b fl => by simpa [diffOut, b2n] using subFlags_eq a b true fl⟩
  case tst => exact ⟨_, fun _ _ _ => rfl, fun _ _ fl => logFlags_eq rfl fl⟩

theorem toInt_signExtend_imm (i : BitVec 18) : (i.signExtend 32).toInt = i.toInt :=
  BitVec.toInt_signExtend_of_le (by decide)

theorem toInt_sx (f : FmtI) : (FmtI.sx f).toInt = f.imm.toInt := toInt_signExtend_imm f.imm

theorem toNat_zx (f : FmtI) : (FmtI.zx f).toNat = f.imm.toNat := BitVec.toNat_setWidth_of_le (by decide)

theorem and_zx (a : Word) (f : FmtI) : a &&& FmtI.zx f = BitVec.ofNat 32 (a.toNat &&& f.imm.toNat) := by
  rw [← toNat_zx, ← BitVec.toNat_and, BitVec.ofNat_toNat, BitVec.setWidth_eq]

theorem ImmTestRow.op {c : PondId → FmtI → Instr} {out : Word → BitVec 18 → Flags → AluOut} (h : ImmTestRow c out) :
    ∃ op : FmtI → Word → Flags → Word × Flags,
      (∀ p f s, exec (c p f) s = issue p (fun _ P => immTest (op f) f P) s) ∧
      ∀ f a fl, op f a fl = ((out a f.imm fl).v, (out a f.imm fl).flags fl) := by
  cases h
  case cmpi =>
    refine ⟨fun f a fl => subFlags a (FmtI.sx f) true fl, fun _ _ _ => rfl, fun f a fl => ?_⟩
    simpa [diffOut, b2n, toInt_signExtend_imm, FmtI.sx] using subFlags_eq a (FmtI.sx f) true fl
  case tsti =>
    refine ⟨fun f a fl => logFlags (a &&& FmtI.zx f) fl, fun _ _ _ => rfl, fun f a fl => ?_⟩
    exact logFlags_eq (and_zx a f) fl

/-- Settles O3. -/
theorem comparesSetFlagsOnly : Obligations.ComparesSetFlagsOnly := by
  intro s p Q hi
  constructor
  · intro c out hrow f he hs hd
    obtain ⟨op, hx, ho⟩ := hrow.op
    rw [hx]
    exact issue_step hi (aluTest_step he hs hd ho)
  · intro c out hrow f hd
    obtain ⟨op, hx, ho⟩ := hrow.op
    rw [hx]
    exact issue_step hi (immTest_step hd (ho f _ _))

/-! ### The immediate group (Table 4.11) -/

theorem shiftOk_iff (f : FmtI) : FmtI.shiftOk f = true ↔ f.imm.toNat < 32 := by
  have := f.imm.isLt
  rw [FmtI.shiftOk, beq_iff_eq, fld, Nat.shiftRight_eq_div_pow]
  omega

theorem amount_of_lt {f : FmtI} (h : f.imm.toNat < 32) : FmtI.amount f = f.imm.toNat := by
  rw [FmtI.amount, fld_five, Nat.mod_eq_of_lt h]

theorem or_zx (a : Word) (f : FmtI) : a ||| FmtI.zx f = BitVec.ofNat 32 (a.toNat ||| f.imm.toNat) := by
  rw [← toNat_zx, ← BitVec.toNat_or, BitVec.ofNat_toNat, BitVec.setWidth_eq]

theorem xor_zx (a : Word) (f : FmtI) : a ^^^ FmtI.zx f = BitVec.ofNat 32 (a.toNat ^^^ f.imm.toNat) := by
  rw [← toNat_zx, ← BitVec.toNat_xor, BitVec.ofNat_toNat, BitVec.setWidth_eq]

theorem add_sx (a : Word) (f : FmtI) : a + FmtI.sx f = BitVec.ofInt 32 (a.toInt + f.imm.toInt) := by
  rw [← toInt_sx, BitVec.ofInt_add, BitVec.ofInt_toInt, BitVec.ofInt_toInt]

/-- The operation of the model behind each row of Table 4.11. -/
theorem ImmRow.op {c : PondId → FmtI → Instr} {ok : BitVec 18 → Bool} {val : Word → BitVec 18 → Word}
    (h : ImmRow c ok val) : ∃ (good : FmtI → Bool) (op : FmtI → Word → Word),
      (∀ p f s, exec (c p f) s = issue p (fun _ P => aluImm (good f) (op f) f P) s) ∧
      ∀ f, ok f.imm = true → good f = true ∧ ∀ a, op f a = val a f.imm := by
  cases h
  case addi => exact ⟨_, fun f a => a + FmtI.sx f, fun _ _ _ => rfl, fun f _ => ⟨rfl, fun a => add_sx a f⟩⟩
  case andi => exact ⟨_, fun f a => a &&& FmtI.zx f, fun _ _ _ => rfl, fun f _ => ⟨rfl, fun a => and_zx a f⟩⟩
  case ori => exact ⟨_, fun f a => a ||| FmtI.zx f, fun _ _ _ => rfl, fun f _ => ⟨rfl, fun a => or_zx a f⟩⟩
  case xori => exact ⟨_, fun f a => a ^^^ FmtI.zx f, fun _ _ _ => rfl, fun f _ => ⟨rfl, fun a => xor_zx a f⟩⟩
  case shli =>
    refine ⟨_, fun f a => a <<< FmtI.amount f, fun _ _ _ => rfl, fun f h => ?_⟩
    have hf := of_decide_eq_true h
    exact ⟨(shiftOk_iff f).2 hf, fun a => by simp only [amount_of_lt hf, shiftLeft_eq_ofNat]⟩
  case shri =>
    refine ⟨_, fun f a => a >>> FmtI.amount f, fun _ _ _ => rfl, fun f h => ?_⟩
    have hf := of_decide_eq_true h
    exact ⟨(shiftOk_iff f).2 hf, fun a => by simp only [amount_of_lt hf, shiftRight_eq_ofNat]⟩
  case sari =>
    refine ⟨_, fun f a => a.sshiftRight (FmtI.amount f), fun _ _ _ => rfl, fun f h => ?_⟩
    have hf := of_decide_eq_true h
    exact ⟨(shiftOk_iff f).2 hf, fun a => by simp only [amount_of_lt hf, sshiftRight_eq_ofInt]⟩
  case slti =>
    refine ⟨_, fun f a => if a.toInt < (FmtI.sx f).toInt then 1 else 0, fun _ _ _ => rfl, fun f _ => ⟨rfl, fun a => ?_⟩⟩
    simp only [ofNat_b2n, toInt_sx]
  case sltiu =>
    exact ⟨_, fun f a => if a.toNat < (FmtI.sx f).toNat then 1 else 0, fun _ _ _ => rfl,
      fun f _ => ⟨rfl, fun a => (ofNat_b2n _).symm⟩⟩

theorem lui_value (i : BitVec 22) : i.setWidth 32 <<< 10 = BitVec.ofNat 32 (i.toNat * 2 ^ 10) := by
  rw [shiftLeft_eq_ofNat, BitVec.toNat_setWidth_of_le (by decide)]

/-- Settles O4. -/
theorem immediateGroup : Obligations.ImmediateGroup := by
  intro s p Q hi
  constructor
  · intro c ok val hrow f hok
    obtain ⟨good, op, hx, ho⟩ := hrow.op
    obtain ⟨hg, hv⟩ := ho f hok
    rw [hx]
    exact issue_step hi (aluImm_step hg (hv _))
  · intro f
    rw [← lui_value]
    exact issue_step (f := fun _ P => retire 1 (gset f.d _ (stallFor 0 false false P))) hi
      ((((CoreStep.refl Q).stallFor _ _ _).gset _ _).retire 1)

/-! ### Multiplication and division (Tables 4.12, 4.13) -/

section
variable {Q : Pond} {f : FmtA}

theorem mulOp_step {op : Word → Word → Word} {v : Word} (he : f.ext = 0) (hs : f.s = 0)
    (hv : op (gr Q f.a) (gr Q f.b) = v) :
    CoreStep Q (mulOp op f Q) (gput Q f.d v) Q.core.acc Q.core.flags (Q.core.pc + 4) := by
  subst hv
  simp only [mulOp, he, hs, beq_self_eq_true, Bool.and_self, legal_true]
  exact (((CoreStep.refl Q).stallFor _ _ _).gset _ _).finishAt _ _ _ _ _

theorem divOp_step {op : Word → Word → Word × Bool} {r : Word × Bool} (he : f.ext = 0) (hs : f.s = 0)
    (hv : op (gr Q f.a) (gr Q f.b) = r) :
    CoreStep Q (divOp op f Q) (gput Q f.d r.1) Q.core.acc { Q.core.flags with q := Q.core.flags.q || r.2 }
      (Q.core.pc + 4) := by
  subst hv
  simp only [divOp, he, hs, beq_self_eq_true, Bool.and_self, legal_true]
  exact ((((CoreStep.refl Q).stallFor _ _ _).setQ _).gset _ _).retire 18

end

theorem mul_eq_ofNat (a b : Word) : a * b = BitVec.ofNat 32 (a.toNat * b.toNat) := by
  apply BitVec.eq_of_toNat_eq
  rw [BitVec.toNat_mul, BitVec.toNat_ofNat]

theorem MulRow.op {c : PondId → FmtA → Instr} {val : Word → Word → Word} (h : MulRow c val) :
    ∃ op : Word → Word → Word, (∀ p f s, exec (c p f) s = issue p (fun _ P => mulOp op f P) s) ∧
      ∀ a b, op a b = val a b := by
  cases h
  case mul => exact ⟨_, fun _ _ _ => rfl, mul_eq_ofNat⟩
  case mulh => exact ⟨_, fun _ _ _ => rfl, fun _ _ => rfl⟩
  case mulhu => exact ⟨_, fun _ _ _ => rfl, fun _ _ => rfl⟩

theorem eq_zero_iff_toInt (b : Word) : b = 0 ↔ b.toInt = 0 := by
  rw [← BitVec.toInt_inj]
  rfl

theorem eq_zero_iff_toNat (b : Word) : b = 0 ↔ b.toNat = 0 := by
  rw [← BitVec.toNat_inj]
  rfl

theorem overflow_iff (a b : Word) :
    (a = 0x80000000#32 ∧ b = 0xFFFFFFFF#32) ↔ (a.toInt = -2147483648 ∧ b.toInt = -1) := by
  rw [← BitVec.toInt_inj, ← BitVec.toInt_inj]
  rfl

/-- The quotient and remainder of Table 4.13, signed. -/
theorem divS_eq (a b : Word) : divS a b =
    if b.toInt = 0 then (if 0 ≤ a.toInt then 0x7FFFFFFF#32 else 0x80000000#32, a, true)
    else if a.toInt = -2147483648 ∧ b.toInt = -1 then (0x7FFFFFFF#32, 0, true)
    else (BitVec.ofInt 32 (a.toInt.tdiv b.toInt), BitVec.ofInt 32 (a.toInt - b.toInt * a.toInt.tdiv b.toInt),
        false) := by
  have hm : a.toInt.tmod b.toInt = a.toInt - b.toInt * a.toInt.tdiv b.toInt := by
    have := Int.mul_tdiv_add_tmod a.toInt b.toInt
    omega
  have hs : (if a.msb then 0x80000000#32 else 0x7FFFFFFF#32) =
      if 0 ≤ a.toInt then 0x7FFFFFFF#32 else 0x80000000#32 := by
    rw [BitVec.msb_eq_toInt]
    by_cases h : 0 ≤ a.toInt
    · simp [h]
    · simp [h, Int.not_le.1 h]
  simp only [divS, eq_zero_iff_toInt, overflow_iff, hm, hs]

theorem DivRow.op {c : PondId → FmtA → Instr} {val : Word → Word → Word × Bool} (h : DivRow c val) :
    ∃ op : Word → Word → Word × Bool, (∀ p f s, exec (c p f) s = issue p (fun _ P => divOp op f P) s) ∧
      ∀ a b, op a b = val a b := by
  cases h
  case div =>
    refine ⟨_, fun _ _ _ => rfl, fun a b => ?_⟩
    simp only [divS_eq]
    split
    · rfl
    · split <;> rfl
  case rem =>
    refine ⟨_, fun _ _ _ => rfl, fun a b => ?_⟩
    simp only [divS_eq]
    split
    · rfl
    · split <;> rfl
  case divu | remu =>
    refine ⟨_, fun _ _ _ => rfl, fun a b => ?_⟩
    simp only [divU, eq_zero_iff_toNat]
    split <;> rfl

/-- Settles O5. -/
theorem multiplyAndDivide : Obligations.MultiplyAndDivide := by
  constructor
  · intro c val hrow s p Q f hi he hs
    obtain ⟨op, hx, hv⟩ := hrow.op
    rw [hx]
    exact issue_step hi (mulOp_step he hs (hv _ _))
  · intro c val hrow s p Q f hi he hs
    obtain ⟨op, hx, hv⟩ := hrow.op
    rw [hx]
    exact issue_step hi (divOp_step he hs (hv _ _))

/-! ### The acc group (Table 4.12) -/

theorem satI_72 (x : Int) : satI 72 x = clamp72 x := by
  unfold satI clampI clamp72
  norm_num
  split
  · omega
  · split <;> omega

theorem clamp72_ne (x : Int) : decide (clamp72 x ≠ x) = !fits72 x := by
  unfold clamp72 fits72
  rw [← Bool.decide_and, ← decide_not, decide_eq_decide]
  omega

theorem satAcc_eq (x : Int) : satAcc x = (BitVec.ofInt 72 (clamp72 x), !fits72 x) := by
  rw [satAcc, satI_72, clamp72_ne]

theorem AccRow.op {c : PondId → FmtA → Instr} {op : Int → Int → Int → Int} (h : AccRow c op)
    (p : PondId) (f : FmtA) (s : State) : exec (c p f) s = issue p (fun _ P => accOp op f P) s := by
  cases h <;> rfl

theorem asrI_eq (v : Int) (k : Nat) : asrI v k = v.fdiv (2 ^ k) := by
  rw [asrI]
  norm_cast

theorem rndI_eq (x : Int) (k : Nat) : rndI x k = accRounded x k := by
  unfold rndI accRounded
  rw [asrI_eq]
  norm_cast

/-- Bit `i` of a word whose field was replaced. -/
theorem getLsbD_setFld {n lo len i : Nat} (hi : i < n) (w : BitVec n) (v : Nat) :
    (setFld w lo len v).getLsbD i = if lo ≤ i ∧ i < lo + len then v.testBit (i - lo) else w.getLsbD i := by
  by_cases hlo : lo ≤ i
  · obtain ⟨j, rfl⟩ := Nat.exists_eq_add_of_le hlo
    by_cases hj : j < len <;>
      simp [setFld, fmask, hi, hj, -BitVec.getLsbD_eq_getElem, BitVec.getLsbD_ofNat, Nat.testBit_shiftLeft]
  · simp [setFld, fmask, hi, hlo, -BitVec.getLsbD_eq_getElem, BitVec.getLsbD_ofNat, Nat.testBit_shiftLeft]

/-- A field outside the one that was replaced. -/
theorem fld_setFld_other {n lo len lo' len' : Nat} (hn : lo' + len' ≤ n) (h : lo' + len' ≤ lo ∨ lo + len ≤ lo')
    (w : BitVec n) (v : Nat) : fld (setFld w lo len v) lo' len' = fld w lo' len' :=
  fld_congr fun i _ _ => by rw [getLsbD_setFld (by omega), if_neg (by omega)]

/-- The place of part `n` of acc. -/
def accLo (n : Nat) : Nat := if n = 0 then 0 else if n = 1 then 32 else 64

/-- The width of part `n` of acc. -/
def accLen (n : Nat) : Nat := if n < 2 then 32 else 8

/-- The word that a part of acc reads as: its field, and sign-extended where it is acc[71:64]. -/
theorem accPart_eq (x : BitVec 72) (n : Nat) : accPart x n =
    if n < 2 then BitVec.ofNat 32 (fld x (accLo n) (accLen n))
    else (BitVec.ofNat 8 (fld x (accLo n) (accLen n))).signExtend 32 := by
  have hx := x.isLt
  unfold accPart accLo accLen fld
  match n with
  | 0 =>
    apply BitVec.eq_of_toNat_eq
    simp
  | 1 =>
    apply BitVec.eq_of_toNat_eq
    simp [Nat.shiftRight_eq_div_pow]
  | n + 2 =>
    rw [if_neg (by omega), if_neg (by omega), if_neg (by omega), if_neg (by omega), if_neg (by omega),
        if_neg (by omega)]
    apply BitVec.eq_of_toInt_eq
    rw [BitVec.toInt_signExtend_of_le (by decide), BitVec.toInt_ofInt, BitVec.toInt_ofNat', Nat.shiftRight_eq_div_pow,
      Int.fdiv_eq_ediv_of_nonneg _ (by decide), BitVec.toInt_eq_toNat_cond, Int.bmod_def, Int.bmod_def]
    norm_num
    omega

theorem ofNat_fld {n : Nat} (x : BitVec n) (lo len : Nat) : BitVec.ofNat len (fld x lo len) = x.extractLsb' lo len := by
  apply BitVec.eq_of_toNat_eq
  simp [fld]

theorem accPart_zero (x : BitVec 72) : accPart x 0 = x.extractLsb' 0 32 := (accPart_eq x 0).trans (ofNat_fld x 0 32)

theorem accPart_one (x : BitVec 72) : accPart x 1 = x.extractLsb' 32 32 := (accPart_eq x 1).trans (ofNat_fld x 32 32)

theorem accPart_two (x : BitVec 72) : accPart x 2 = (x.extractLsb' 64 8).signExtend 32 :=
  (accPart_eq x 2).trans (congrArg (BitVec.signExtend 32) (ofNat_fld x 64 8))

/-- acc with part `n` written (ACCW). -/
def accPut (x : BitVec 72) (n : Nat) (v : Word) : BitVec 72 := setFld x (accLo n) (accLen n) v.toNat

theorem accPut_other {n m : Nat} (hn : n < 3) (hm : m < 3) (h : m ≠ n) (x : BitVec 72) (v : Word) :
    accPart (accPut x n v) m = accPart x m := by
  have hf : fld (accPut x n v) (accLo m) (accLen m) = fld x (accLo m) (accLen m) := by
    apply fld_setFld_other
    · unfold accLo accLen; split_ifs <;> omega
    · unfold accLo accLen; split_ifs <;> omega
  rw [accPart_eq, accPart_eq, hf]

theorem accPut_self {n : Nat} (hn : n < 3) (x : BitVec 72) (v : Word) :
    accPart (accPut x n v) n = if n < 2 then v else (v.extractLsb' 0 8).signExtend 32 := by
  rw [accPart_eq, accPut, fld_setFld (by unfold accLo accLen; split_ifs <;> omega)]
  by_cases h : n < 2
  · rw [if_pos h, if_pos h, accLen, if_pos h]
    rw [Nat.mod_eq_of_lt v.isLt, BitVec.ofNat_toNat, BitVec.setWidth_eq]
  · simp only [h, accLen, if_false]
    congr 1
    apply BitVec.eq_of_toNat_eq
    simp

/-- acc written with no saturation leaves Q. -/
theorem CoreStep.putAcc {Q P : Pond} {g : Vector Word 16} {acc : BitVec 72} {fl : Flags} {pc : Word} (x : BitVec 72)
    (h : CoreStep Q P g acc fl pc) : CoreStep Q (Machine.setAcc (x, false) P) g x fl pc := by
  simpa only [Bool.or_false] using h.setAcc (x, false)

/-- Settles O6. -/
theorem accGroup : Obligations.AccGroup := by
  intro s p Q f hi hs
  refine ⟨?_, ?_, ?_, ?_, ?_⟩
  · intro c op hrow he hd
    rw [hrow.op]
    refine issue_step (f := fun _ P => accOp op f P) hi ?_
    simp only [accOp, he, hs, hd, beq_self_eq_true, Bool.and_self, legal_true, satAcc_eq]
    exact (((CoreStep.refl Q).stallFor _ _ _).setAcc _).finishAt _ _ _ _ _
  · intro ha hb he
    refine issue_step (f := fun _ P => legal _ _ P) hi ?_
    have h6 : bit f.ext 6 = false := Nat.testBit_lt_two_pow he
    have hsh : fld f.ext 0 6 = f.ext.toNat := (fld_low _ _).trans (Nat.mod_eq_of_lt he)
    simp only [ha, hb, hs, h6, hsh, beq_self_eq_true, Bool.and_self, Bool.not_false, legal_true, rndI_eq, satI_32,
      clamp32_ne]
    exact ((((CoreStep.refl Q).stallFor _ _ _).setQ _).gset _ _).retire 1
  · intro ha hb he
    refine issue_step (f := fun _ P => legal _ _ P) hi ?_
    simp only [ha, hb, hs, he, beq_self_eq_true, Bool.and_self, decide_true, legal_true]
    have hpart : f.ext.toNat = 0 ∨ f.ext.toNat = 1 ∨ f.ext.toNat = 2 := by omega
    obtain h | h | h := hpart <;> simp only [h, accPart_zero, accPart_one, accPart_two] <;>
      exact (((CoreStep.refl Q).stallFor _ _ _).gset _ _).retire 1
  · intro hd hb he
    refine ⟨_, accPut Q.core.acc f.ext.toNat (gr Q f.a), issue_eq hi (fun _ P => legal _ _ P), ?_,
      fun n hn hne => accPut_other he hn hne _ _, accPut_self he _ _⟩
    simp only [hd, hb, hs, he, beq_self_eq_true, Bool.and_self, decide_true, legal_true]
    have hpart : f.ext.toNat = 0 ∨ f.ext.toNat = 1 ∨ f.ext.toNat = 2 := by omega
    obtain h | h | h := hpart <;> simp only [h] <;>
      exact (((CoreStep.refl Q).stallFor _ _ _).putAcc _).finishAt _ _ _ _ _
  · intro hd ha hb he
    refine issue_step (f := fun _ P => legal _ _ P) hi ?_
    simp only [hd, ha, hb, hs, he, beq_self_eq_true, Bool.and_self, legal_true]
    exact (((CoreStep.refl Q).stallFor _ _ _).putAcc _).finishAt _ _ _ _ _

/-! ### The bit-field group (Table 4.14) -/

theorem fieldOp_step {Q : Pond} {f : FmtF} {ok usesD : Bool} {op : Word → Word → Word × Bool} {r : Word × Bool}
    (hz : f.z = 0) (hk : ok = true) (hv : op (gr Q f.d) (gr Q f.a) = r) :
    CoreStep Q (fieldOp ok usesD op f Q) (gput Q f.d r.1) Q.core.acc
      { Q.core.flags with q := Q.core.flags.q || r.2 } (Q.core.pc + 4) := by
  subst hv
  simp only [fieldOp, hz, hk, beq_self_eq_true, Bool.and_self, legal_true]
  exact ((((CoreStep.refl Q).stallFor _ _ _).setQ _).gset _ _).retire 1

theorem sfld_eq (a : Word) (lo wm1 : Nat) :
    BitVec.ofInt 32 (sfld a lo (wm1 + 1)) = (a.extractLsb' lo (wm1 + 1)).signExtend 32 := by
  have hx : (a.extractLsb' lo (wm1 + 1)).toNat = fld a lo (wm1 + 1) := BitVec.extractLsb'_toNat _ _ _
  rw [BitVec.signExtend, BitVec.toInt_eq_toNat_cond, hx, sfld, Nat.add_sub_cancel, Nat.pow_succ']
  simp only [Nat.mul_lt_mul_left (show 0 < 2 by decide)]

/-- Bit `i` of a number spelt in three parts: below `lo`, the `len` bits of `v`, and from there up those of `w`. -/
theorem testBit_three (w v lo len i : Nat) :
    (w % 2 ^ lo + 2 ^ lo * (v % 2 ^ len) + 2 ^ (lo + len) * (w / 2 ^ (lo + len))).testBit i =
      if lo ≤ i ∧ i < lo + len then v.testBit (i - lo) else w.testBit i := by
  have h1 : w % 2 ^ lo < 2 ^ lo := Nat.mod_lt _ (Nat.two_pow_pos _)
  have h2 : w % 2 ^ lo + 2 ^ lo * (v % 2 ^ len) < 2 ^ (lo + len) := by
    have h3 : 2 ^ lo * (v % 2 ^ len + 1) ≤ 2 ^ lo * 2 ^ len :=
      Nat.mul_le_mul_left _ (Nat.mod_lt v (Nat.two_pow_pos len))
    rw [Nat.mul_succ] at h3
    rw [Nat.pow_add]
    omega
  rw [Nat.add_comm, Nat.testBit_two_pow_mul_add _ h2]
  by_cases hi : i < lo + len
  · rw [if_pos hi, Nat.add_comm, Nat.testBit_two_pow_mul_add _ h1]
    by_cases hlo : i < lo
    · rw [if_pos hlo, if_neg (by omega), Nat.testBit_mod_two_pow, decide_eq_true hlo, Bool.true_and]
    · have hj : i - lo < len := by omega
      rw [if_neg hlo, if_pos (by omega), Nat.testBit_mod_two_pow, decide_eq_true hj, Bool.true_and]
  · rw [if_neg hi, if_neg (by omega), Nat.testBit_div_two_pow]
    congr 1
    omega

theorem setFld_eq (d a : Word) (lo len : Nat) : setFld d lo len a.toNat =
    BitVec.ofNat 32 (d.toNat % 2 ^ lo + 2 ^ lo * (a.toNat % 2 ^ len) +
      2 ^ (lo + len) * (d.toNat / 2 ^ (lo + len))) := by
  apply BitVec.eq_of_getLsbD_eq
  intro i hi
  rw [getLsbD_setFld hi, BitVec.getLsbD_ofNat, testBit_three, decide_eq_true hi, Bool.true_and]
  rfl

theorem clz_eq (a : Word) : 32 - (if a = 0 then 0 else a.toNat.log2 + 1) = a.clz.toNat := by
  split
  · rename_i h
    rw [h]
    decide
  · rename_i h
    have hlo := BitVec.two_pow_sub_clz_le_toNat_of_ne_zero (by decide) h
    have hhi := BitVec.toNat_lt_two_pow_sub_clz (x := a)
    have hc : a.clz.toNat < 32 := by
      have := BitVec.clz_lt_iff_ne_zero.2 h
      simpa [BitVec.lt_def] using this
    have hlog : a.toNat.log2 = 32 - 1 - a.clz.toNat := by
      rw [Nat.log2_eq_iff (fun e => h (BitVec.eq_of_toNat_eq e))]
      exact ⟨hlo, by rwa [show 32 - 1 - a.clz.toNat + 1 = 32 - a.clz.toNat by omega]⟩
    omega

theorem popc_eq (a : Word) : (bitsOf 32 a.toNat).length = (List.range 32).countP (fun i => a.getLsbD i) :=
  (List.countP_eq_length_filter ..).symm

theorem clampI_eq (lo hi x : Int) (h : lo ≤ hi) : clampI lo hi x = max lo (min hi x) := by
  unfold clampI
  split
  · omega
  · split <;> omega

theorem satI_eq (m : Nat) (x : Int) : satI (m + 1) x = max (-(2 ^ m)) (min (2 ^ m - 1) x) := by
  have := Int.pow_pos (n := 2) (m := m) (by decide)
  rw [satI, Nat.add_sub_cancel, clampI_eq _ _ _ (by push_cast; omega)]
  push_cast
  rfl

theorem satu_eq (m : Nat) (x : Int) : clampI 0 ((2 ^ m : Nat) - 1) x = max 0 (min (2 ^ m - 1) x) := by
  have := Int.pow_pos (n := 2) (m := m) (by decide)
  rw [clampI_eq _ _ _ (by push_cast; omega)]
  push_cast
  rfl

theorem toNat_beq_zero {n : Nat} (x : BitVec n) : (x.toNat == 0) = (x == 0) := by
  rw [Bool.eq_iff_iff, beq_iff_eq, beq_iff_eq, ← BitVec.toNat_inj]
  rfl

/-- The operation of the model behind each row of Table 4.14. -/
theorem FieldRow.op {c : PondId → FmtF → Instr} {ok : Nat → Nat → Bool} {val : Nat → Nat → Word → Word → Word × Bool}
    (h : FieldRow c ok val) : ∃ (good : FmtF → Bool) (uses : Bool) (op : FmtF → Word → Word → Word × Bool),
      (∀ p f s, exec (c p f) s = issue p (fun _ P => fieldOp (good f) uses (op f) f P) s) ∧
      ∀ f, ok f.pos.toNat f.wm1.toNat = true →
        good f = true ∧ ∀ d a, op f d a = val f.pos.toNat f.wm1.toNat d a := by
  cases h
  case extu =>
    refine ⟨_, _, _, fun _ _ _ => rfl, fun f hok => ⟨hok, fun _ a => ?_⟩⟩
    rw [fld, Nat.shiftRight_eq_div_pow]
  case exts =>
    exact ⟨_, _, fun f _ a => (BitVec.ofInt 32 (sfld a f.pos.toNat (f.wm1.toNat + 1)), false), fun _ _ _ => rfl,
      fun f hok => ⟨hok, fun _ a => by simp only [sfld_eq]⟩⟩
  case ins =>
    exact ⟨_, _, fun f d a => (setFld d f.pos.toNat (f.wm1.toNat + 1) a.toNat, false), fun _ _ _ => rfl,
      fun f hok => ⟨hok, fun d a => by simp only [setFld_eq, ← Nat.add_assoc]⟩⟩
  case clz =>
    refine ⟨fun f => f.pos == 0 && f.wm1 == 0, _, _, fun _ _ _ => rfl, fun f hok => ⟨?_, fun _ a => ?_⟩⟩
    · simpa only [toNat_beq_zero] using hok
    · rw [clz_eq]
  case popc =>
    refine ⟨fun f => f.pos == 0 && f.wm1 == 0, _, _, fun _ _ _ => rfl, fun f hok => ⟨?_, fun _ a => ?_⟩⟩
    · simpa only [toNat_beq_zero] using hok
    · rw [popc_eq]
  case sats =>
    refine ⟨fun f => f.pos == 0, _, _, fun _ _ _ => rfl, fun f hok => ⟨?_, fun _ a => ?_⟩⟩
    · simpa only [toNat_beq_zero] using hok
    · rw [satI_eq]
  case satu =>
    refine ⟨fun f => f.pos == 0 && decide (f.wm1.toNat < 31), _, _, fun _ _ _ => rfl, fun f hok => ⟨?_, fun _ a => ?_⟩⟩
    · simpa only [toNat_beq_zero] using hok
    · rw [satu_eq]

/-- Settles O7. -/
theorem bitFieldGroup : Obligations.BitFieldGroup := by
  intro c ok val hrow s p Q f hi hz hok
  obtain ⟨good, uses, op, hx, ho⟩ := hrow.op
  obtain ⟨hg, hv⟩ := ho f hok
  rw [hx]
  exact issue_step hi (fieldOp_step hz hg (hv _ _))

end Sys2Proof.Machine
end

section
/-! SUPPORT and claims. Branches, the system group and the waits of the pond core (Tables 4.16 and 4.17; R109 to R111,
R126). -/

namespace Sys2Proof.Machine

/-! ### Branches (Table 4.16) -/

theorem offBytes_eq {n : Nat} (hn : n ≤ 32) (o : BitVec n) (pc : Word) : pc + offBytes o = jumpBy pc o.toInt := by
  have h : offBytes o = BitVec.ofInt 32 (4 * o.toInt) := by
    rw [offBytes, ← BitVec.mul_twoPow_eq_shiftLeft, BitVec.ofInt_mul, ← BitVec.toInt_signExtend_of_le hn,
      BitVec.ofInt_toInt, BitVec.mul_comm]
    rfl
  rw [h, jumpBy, BitVec.ofInt_add, BitVec.ofInt_natCast, BitVec.ofNat_toNat, BitVec.setWidth_eq]

theorem conditions_get (fl : Flags) {n : Nat} (h : n < 15) : (conditions fl)[n]? = some (condHolds n fl) := by
  interval_cases n <;> rfl

theorem branchIf_step {Q P : Pond} {g : Vector Word 16} {acc : BitVec 72} {fl : Flags} {pc : Word} (c : Bool)
    (t : Word) (h : CoreStep Q P g acc fl pc) :
    CoreStep Q (branchIf c t P) g acc fl (if c then t else pc + 4) := by
  rw [branchIf, h.pcEq]
  exact h.finishAt _ _ _ _ _

theorem regBranch_step {Q : Pond} {f : FmtI} {c : Word → Bool} (ha : f.a = 0) :
    CoreStep Q (regBranch false c f Q) Q.core.g Q.core.acc Q.core.flags
      (if c (gr Q f.d) then jumpBy Q.core.pc f.imm.toInt else Q.core.pc + 4) := by
  simp only [regBranch, ha, beq_self_eq_true, legal_true, offBytes_eq (show 18 ≤ 32 by decide), Bool.false_eq_true,
    if_false]
  exact branchIf_step _ _ ((CoreStep.refl Q).stallFor _ _ _)

theorem regBranch_dec_step {Q : Pond} {f : FmtI} {c : Word → Bool} (ha : f.a = 0) :
    CoreStep Q (regBranch true c f Q) (gput Q f.d (gr Q f.d - 1)) Q.core.acc Q.core.flags
      (if c (gr Q f.d - 1) then jumpBy Q.core.pc f.imm.toInt else Q.core.pc + 4) := by
  simp only [regBranch, ha, beq_self_eq_true, legal_true, offBytes_eq (show 18 ≤ 32 by decide), if_true]
  exact branchIf_step _ _ (((CoreStep.refl Q).stallFor _ _ _).gset _ _)

theorem jumpReg_step {Q : Pond} {f : FmtA} (hd : f.d = 0) (hb : f.b = 0) (hs : f.s = 0) (he : f.ext = 0)
    (ht : (gr Q f.a).toNat % 4 = 0) (link : Bool) :
    CoreStep Q (jumpReg link f Q) (if link then gput Q 14 (Q.core.pc + 4) else Q.core.g) Q.core.acc Q.core.flags
      (gr Q f.a) := by
  simp only [jumpReg, hd, hb, hs, he, ht, beq_self_eq_true, Bool.and_self, legal_true, ne_eq, not_true_eq_false,
      if_false]
  have h := (CoreStep.refl Q).stallFor (rmask f.a) false false
  cases link
  · exact h.finishAt _ _ _ _ _
  · exact (h.gset _ _).finishAt _ _ _ _ _

theorem sub_one_ne_zero (v : Word) : (v - 1 != 0) = !decide (v = 1) := by
  rw [bne, Bool.not_inj_iff, beq_eq_decide, decide_eq_decide]
  exact ⟨fun h => by rw [← BitVec.sub_add_cancel v 1, h]; rfl, fun h => by rw [h]; rfl⟩

/-- Settles O8. -/
theorem branches : Obligations.Branches := by
  intro s p Q hi
  refine ⟨?_, ?_, ?_, ?_⟩
  · intro f hc
    have hlt : f.cond.toNat < 15 := by
      have : f.cond.toNat ≠ 15 := fun e => hc (BitVec.eq_of_toNat_eq e)
      omega
    rw [conditions_get _ hlt]
    refine issue_step (f := fun _ P => legal _ _ P) hi ?_
    simp only [bne_iff_ne.2 hc, legal_true, offBytes_eq (show 22 ≤ 32 by decide), Option.some.injEq]
    exact branchIf_step _ _ (CoreStep.refl Q)
  · intro f
    rw [← offBytes_eq (by decide)]
    exact issue_step
      (f := fun _ P => finishAt (P.core.pc + offBytes f.off) 2 0 false false (gset 14 (P.core.pc + 4) P)) hi
      (((CoreStep.refl Q).gset _ _).finishAt _ _ _ _ _)
  · intro f ha
    refine ⟨?_, ?_, ?_⟩
    · refine issue_step (f := fun _ P => regBranch false (fun v => v == 0) f P) hi ?_
      simpa only [beq_iff_eq] using regBranch_step (c := fun v => v == 0) ha
    · refine issue_step (f := fun _ P => regBranch false (fun v => v != 0) f P) hi ?_
      simpa only [bne_iff_ne, ite_not] using regBranch_step (c := fun v => v != 0) ha
    · refine issue_step (f := fun _ P => regBranch true (fun v => v != 0) f P) hi ?_
      simpa only [sub_one_ne_zero, Bool.not_eq_true', decide_eq_false_iff_not, ite_not]
        using regBranch_dec_step (c := fun v => v != 0) ha
  · intro f hd hb hs he ht
    exact ⟨issue_step (f := fun _ P => jumpReg false f P) hi (jumpReg_step hd hb hs he ht false),
      issue_step (f := fun _ P => jumpReg true f P) hi (jumpReg_step hd hb hs he ht true)⟩

/-! ### NOP, EI, DI, TBRD and EPRD (Table 4.17) -/

theorem evenReg_iff (d : RegIx) : evenReg d = true ↔ d.toNat % 2 = 0 := by
  rw [evenReg, bit, BitVec.getLsbD, Nat.testBit_zero, Bool.not_eq_true', decide_eq_false_iff_not]
  omega

theorem bare_of {f : FmtS} (hd : f.d = 0) (ha : f.a = 0) (hi : f.imm = 0) : FmtS.bare f = true := by
  rw [FmtS.bare, hd, ha, hi]
  rfl

theorem readPair_step {Q : Pond} {f : FmtS} (v : BitVec 64) (hd : f.d.toNat % 2 = 0) (ha : f.a = 0) (hi : f.imm = 0) :
    CoreStep Q (readPair v f Q) (gputPair Q f.d v) Q.core.acc Q.core.flags (Q.core.pc + 4) := by
  simp only [readPair, (evenReg_iff f.d).2 hd, ha, hi, beq_self_eq_true, Bool.and_self, legal_true]
  exact ((((CoreStep.refl Q).stallFor _ _ _).gset _ _).gset _ _).retire 2

/-- Settles O9. -/
theorem systemGroup : Obligations.SystemGroup := by
  intro s p Q f hi ha him
  constructor
  · intro hd
    have hb := bare_of hd ha him
    refine ⟨?_, ?_, ?_⟩
    · refine issue_step (f := fun _ P => legal (FmtS.bare f) (fun P => retire 1 P) P) hi ?_
      rw [hb]
      exact (CoreStep.refl Q).retire 1
    · refine ⟨_, issue_eq hi (fun _ P => legal (FmtS.bare f) _ P), ?_⟩
      rw [hb]
      exact (CoreStep.refl { Q with core := { Q.core with ie := true } }).retire 1
    · refine ⟨_, issue_eq hi (fun _ P => legal (FmtS.bare f) _ P), ?_⟩
      rw [hb]
      exact (CoreStep.refl { Q with core := { Q.core with ie := false } }).retire 1
  · intro hd
    exact ⟨issue_step (f := fun _ P => readPair P.tb f P) hi (readPair_step _ hd ha him),
      issue_step (f := fun _ P => readPair (BitVec.ofNat 64 (epochOf P)) f P) hi (readPair_step _ hd ha him)⟩

/-! ### WAITE and FENCE (R110, R126) -/

section
variable {Q P : Pond} {g : Vector Word 16} {acc : BitVec 72} {fl : Flags} {pc : Word}

/-- Which source is deliverable does not depend on what an instruction changes of its core. -/
theorem CoreStep.picLatch (h : CoreStep Q P g acc fl pc) :
    CoreStep (Machine.picLatch Q) (Machine.picLatch P) g acc fl pc := by
  obtain ⟨hz, age, per, ca, n, hP⟩ := h
  have hb : picBest P = picBest Q := by rw [hP]; rfl
  unfold Machine.picLatch
  rw [hb, hP]
  split <;> exact ⟨_, _, _, _, _, rfl⟩

theorem CoreStep.waited (c : PCtx) (h : CoreStep Q P g acc fl pc) : CoreStep Q (Machine.waited c P) g acc fl pc := by
  obtain ⟨hz, age, per, ca, n, rfl⟩ := h
  exact ⟨_, _, _, _, _, rfl⟩

/-- The core runs again after a wait. -/
theorem CoreStep.runs (h : CoreStep Q P g acc fl pc) :
    CoreStep { Q with core := { Q.core with run := .running } } { P with core := { P.core with run := .running } }
      g acc fl pc := by
  obtain ⟨hz, age, per, ca, n, rfl⟩ := h
  exact ⟨_, _, _, _, _, rfl⟩

/-- WAITE completes (R110). -/
theorem CoreStep.waiteDone (m : BitVec 8) (h : CoreStep Q P g acc fl pc) :
    CoreStep (Machine.picLatch { Q with core := { Q.core with evt := Q.core.evt &&& ~~~m, run := .running } })
      (Machine.waiteDone m P) g acc fl (pc + 4) := by
  have hpc := h.pcEq
  have he : P.core.evt = Q.core.evt := by
    obtain ⟨hz, age, per, ca, n, rfl⟩ := h
    rfl
  unfold Machine.waiteDone
  rw [hpc, he]
  refine CoreStep.picLatch ?_
  obtain ⟨hz, age, per, ca, n, hf⟩ := h.finishAt (pc + 4) 2 0 false false
  rw [hf]
  exact ⟨_, _, _, _, _, rfl⟩

end

theorem fenceMet_iff (m : BitVec 2) (P : Pond) :
    fenceMet m P = true ↔ (m.toNat % 2 = 1 → P.core.sb = []) ∧ (2 ≤ m.toNat → P.core.pb = []) := by
  have h0 : bit m 0 = decide (m.toNat % 2 = 1) := Nat.testBit_zero _
  have h1 : bit m 1 = decide (2 ≤ m.toNat) := by
    have := m.isLt
    rw [bit, BitVec.getLsbD, Nat.testBit_succ, Nat.testBit_zero, decide_eq_decide]
    omega
  rw [fenceMet, h0, h1]
  simp only [Bool.and_eq_true, Bool.or_eq_true, Bool.not_eq_true', decide_eq_false_iff_not, List.isEmpty_iff,
    imp_iff_not_or]

theorem execWaite_step {s : State} {p : PondId} {Q : Pond} {f : FmtS} (hi : Issues s p Q) (hd : f.d = 0) (ha : f.a = 0)
    (h0 : f.imm ≠ 0) (hlt : f.imm.toNat < 256) :
    ∃ P, exec (.waite p f) s = .next (withPond s p P) ∧
      if Q.core.evt &&& f.imm.setWidth 8 = 0 then
        P = { Q with core := { Q.core with run := .waiting (f.imm.setWidth 8), waitCyc := (pctx s p).cyc } }
      else CoreStep (picLatch { Q with core := { Q.core with
          evt := Q.core.evt &&& ~~~(f.imm.setWidth 8), run := .running } }) P
        Q.core.g Q.core.acc Q.core.flags (Q.core.pc + 4) := by
  refine ⟨_, issue_eq hi (fun _ P => legal _ _ P), ?_⟩
  simp only [hd, ha, bne_iff_ne.2 h0, hlt, beq_self_eq_true, decide_true, Bool.and_self, legal_true, bne_iff_ne, ne_eq,
    ite_not]
  split
  · rfl
  · exact (CoreStep.refl Q).waiteDone _

theorem execFence_step {s : State} {p : PondId} {Q : Pond} {f : FmtS} (hi : Issues s p Q) (hd : f.d = 0) (ha : f.a = 0)
    (h1 : 1 ≤ f.imm.toNat) (h3 : f.imm.toNat ≤ 3) :
    ∃ P, exec (.fence p f) s = .next (withPond s p P) ∧
      if (f.imm.toNat % 2 = 1 → Q.core.sb = []) ∧ (2 ≤ f.imm.toNat → Q.core.pb = []) then
        CoreStep Q P Q.core.g Q.core.acc Q.core.flags (Q.core.pc + 4)
      else P = { Q with core := { Q.core with
        run := .fencing (f.imm.setWidth 2), waitCyc := (pctx s p).cyc } } := by
  have h0 : f.imm ≠ 0 := fun e => by rw [e] at h1; exact absurd h1 (by decide)
  have hlt : f.imm.toNat < 4 := by omega
  have hm : (f.imm.setWidth 2).toNat = f.imm.toNat := by
    rw [BitVec.toNat_setWidth, Nat.mod_eq_of_lt hlt]
  refine ⟨_, issue_eq hi (fun _ P => legal _ _ P), ?_⟩
  simp only [hd, ha, bne_iff_ne.2 h0, hlt, beq_self_eq_true, decide_true, Bool.and_self, legal_true]
  simp only [← hm, ← fenceMet_iff]
  split
  · exact (CoreStep.refl Q).retire 1
  · rfl

theorem exec_waiteWake {s : State} {p : PondId} {m : BitVec 8} (hr : (pondOf s p).core.run = .waiting m)
    (he : (pondOf s p).core.evt &&& m ≠ 0) (hh : (pondOf s p).core.halted = false) :
    exec (.waiteWake p) s = .next (withPond s p (if irqDue (pondOf s p) = true then pondOf s p
      else waiteDone m (waited (pctx s p) (pondOf s p)))) := by
  rw [show exec (.waiteWake p) s = execWaiteWake p s from rfl, execWaiteWake, onPond_eq]
  simp only [hr, bne_iff_ne.2 he, hh, Bool.not_false, Bool.and_self, Bool.true_and, Bool.not_eq_true']
  cases irqDue (pondOf s p) <;> rfl

theorem exec_fenceDone {s : State} {p : PondId} {m : BitVec 2} (hr : (pondOf s p).core.run = .fencing m)
    (hm : fenceMet m (pondOf s p) = true) (hh : (pondOf s p).core.halted = false) :
    exec (.fenceDone p) s = .next (withPond s p (retire 1 { waited (pctx s p) (pondOf s p) with
      core := { (waited (pctx s p) (pondOf s p)).core with run := .running } })) := by
  rw [show exec (.fenceDone p) s = execFenceDone p s from rfl, execFenceDone, onPond_eq]
  simp only [hr, hm, hh, Bool.not_false, Bool.and_self, if_true]

/-- Settles O13. -/
theorem waitsComplete : Obligations.WaitsComplete := by
  refine ⟨⟨fun s p Q f hi hd ha h0 hlt => execWaite_step hi hd ha h0 hlt, ?_⟩,
    ⟨fun s p Q f hi hd ha h1 h3 => execFence_step hi hd ha h1 h3, ?_⟩⟩
  · intro s p m hr he hh
    rw [exec_waiteWake hr he hh]
    constructor
    · intro hq
      rw [hq]
      exact ⟨_, rfl, ((CoreStep.refl _).waited _).waiteDone m⟩
    · intro hq
      rw [if_pos hq, withPond_self]
  · intro s p m hr hsb hpb hh
    rw [exec_fenceDone hr ((fenceMet_iff m _).2 ⟨hsb, hpb⟩) hh]
    exact ⟨_, rfl, ((CoreStep.refl _).waited _).runs.retire 1⟩

end Sys2Proof.Machine
end

section
/-! SUPPORT and claims. Loads from SRAM, stores to it and the store buffer (R106, R108, R122). -/

namespace Sys2Proof.Machine

/-! ### The bytes of SRAM and its frame -/

/-- `P` is `Q` but for SRAM, its ECC state and the store buffer. -/
def SramOnly (Q P : Pond) : Prop :=
  ∃ sb sram ecc, P = { Q with sram := sram, ecc := ecc, core := { Q.core with sb := sb } }

/-- `P` is `Q` with general registers `g` and pc `pc`, but for SRAM, its ECC state, the store buffer and what is
counted of every instruction. -/
def MemFrame (Q P : Pond) (g : Vector Word 16) (pc : Word) : Prop :=
  ∃ sb sram ecc hz age per ca n,
    P = { Q with
      sram := sram, ecc := ecc, fresh := n,
      core := { Q.core with
        g := g, sb := sb, pc := pc, hazard := hz, accAge := age, perStore := per, ca := ca } }

theorem MemFrame.refl (Q : Pond) : MemFrame Q Q Q.core.g Q.core.pc := ⟨_, _, _, _, _, _, _, _, rfl⟩

theorem MemFrame.core {Q P R : Pond} {g g' : Vector Word 16} {pc pc' : Word} (h : MemFrame Q P g pc)
    (k : CoreStep P R g' P.core.acc P.core.flags pc') : MemFrame Q R g' pc' := by
  obtain ⟨sb, sram, ecc, hz, age, per, ca, n, rfl⟩ := h
  obtain ⟨hz', age', per', ca', n', rfl⟩ := k
  exact ⟨_, _, _, _, _, _, _, _, rfl⟩

theorem MemFrame.sram {Q P R : Pond} {g : Vector Word 16} {pc : Word} (h : MemFrame Q P g pc) (k : SramOnly P R) :
    MemFrame Q R g pc := by
  obtain ⟨sb, sram, ecc, hz, age, per, ca, n, rfl⟩ := h
  obtain ⟨sb', sram', ecc', rfl⟩ := k
  exact ⟨_, _, _, _, _, _, _, _, rfl⟩

theorem MemFrame.step {Q P : Pond} {g : Vector Word 16} (h : MemFrame Q P g (Q.core.pc + 4)) : MemStep Q P g := h

theorem MemFrame.g_eq {Q P : Pond} {g : Vector Word 16} {pc : Word} (h : MemFrame Q P g pc) : P.core.g = g := by
  obtain ⟨sb, sram, ecc, hz, age, per, ca, n, rfl⟩ := h
  rfl

theorem MemFrame.pc_eq {Q P : Pond} {g : Vector Word 16} {pc : Word} (h : MemFrame Q P g pc) : P.core.pc = pc := by
  obtain ⟨sb, sram, ecc, hz, age, per, ca, n, rfl⟩ := h
  rfl

theorem SramOnly.trans {Q P R : Pond} (h : SramOnly Q P) (k : SramOnly P R) : SramOnly Q R := by
  obtain ⟨sb, sram, ecc, rfl⟩ := h
  obtain ⟨sb', sram', ecc', rfl⟩ := k
  exact ⟨_, _, _, rfl⟩

theorem retireN_sramOnly (n : Nat) (P : Pond) : SramOnly P (retireN n P) := by
  have keep : ∀ (l : List SbEntry) (Q : Pond), ∃ sram ecc, l.foldl retireEntry Q =
      { Q with sram := sram, ecc := ecc } :=
    fun l Q => foldl_keep (fun Q R : Pond => ∃ sram ecc, R = { Q with sram := sram, ecc := ecc })
      (fun Q => ⟨_, _, rfl⟩) (fun _ _ _ h k => by obtain ⟨_, _, rfl⟩ := h; obtain ⟨_, _, rfl⟩ := k; exact ⟨_, _, rfl⟩)
      retireEntry (fun _ _ => ⟨_, _, rfl⟩) l Q
  obtain ⟨sram, ecc, e⟩ := keep (P.core.sb.take n) P
  unfold retireN
  rw [e]
  exact ⟨_, _, _, rfl⟩

theorem pushSb_sramOnly (e : SbEntry) (P : Pond) : SramOnly P (pushSb e P) := by
  have hpush : ∀ R : Pond, SramOnly R { R with core := { R.core with sb := R.core.sb ++ [e] } } :=
    fun R => ⟨_, _, _, rfl⟩
  unfold pushSb
  split
  · exact (retireN_sramOnly 1 P).trans (hpush _)
  · exact hpush _

/-- What an instruction changes of its core but its stores leaves every byte that a load sees. -/
theorem CoreStep.sramByte {Q P : Pond} {g : Vector Word 16} {acc : BitVec 72} {fl : Flags} {pc : Word}
    (h : CoreStep Q P g acc fl pc) (a : Nat) : Machine.sramByte P a = Machine.sramByte Q a := by
  obtain ⟨hz, age, per, ca, n, rfl⟩ := h
  rfl

/-! ### Addresses -/

theorem memAddr_toNat (f : FmtI) (Q : Pond) : (memAddr f Q).toNat = effAddr Q f := by
  rw [memAddr, add_sx, effAddr]

theorem regionOf_sram {a : Nat} (h : inSram a) : regionOf a = .sram := by
  obtain ⟨hlo, hhi⟩ := h
  unfold regionOf
  rw [if_neg (by omega), if_neg (by omega), if_pos ⟨hlo, hhi⟩]

/-! ### ECC (R108) -/

/-- An access of `len` bytes touches as many SRAM words as start within it. -/
def wordsOk (a len : Nat) : Prop := ∀ i < (len + 3) / 4, (a - 0x20000000) / 4 + i ≤ (a + len - 1 - 0x20000000) / 4

theorem eccWords_clean {P : Pond} {a len : Nat} (hw : wordsOk a len) (h : eccClean P a len) :
    ∀ e ∈ eccWords P a len, e = 0 := by
  intro e he
  unfold eccWords at he
  split at he
  · cases he
  · obtain ⟨i, hi, rfl⟩ := List.mem_map.1 he
    exact congrArg BitVec.toNat (h _ (Nat.le_add_right _ _) (hw i (List.mem_range.1 hi)))

/-- A read of SRAM with no ECC error counts nothing. -/
theorem eccRead_clean {P : Pond} {a len : Nat} (hw : wordsOk a len) (h : eccClean P a len) :
    eccRead P a len = (false, P) := by
  have h0 := eccWords_clean hw h
  have hany : (eccWords P a len).any (fun e => decide (2 ≤ e)) = false := by
    rw [List.any_eq_false]
    intro e he
    rw [h0 e he]
    decide
  have hfil : (eccWords P a len).filter (fun e => e == 1) = [] := by
    rw [List.filter_eq_nil_iff]
    intro e he
    rw [h0 e he]
    decide
  simp only [eccRead, hany, hfil, List.foldl_nil]

theorem retireEntry_ecc_zero {P : Pond} (e : SbEntry) {i : Nat} (h : P.ecc.get i = 0) :
    (retireEntry P e).ecc.get i = 0 := by
  unfold retireEntry
  dsimp only
  split
  · rw [SMap.get_set, SMap.get_set]
    split_ifs
    · rfl
    · rfl
    · exact h
  · rw [SMap.get_set]
    split_ifs
    · rfl
    · exact h

/-- A retired entry brings no ECC error. -/
theorem retireN_ecc_zero {P : Pond} (n : Nat) {i : Nat} (h : P.ecc.get i = 0) : (retireN n P).ecc.get i = 0 := by
  have keep : ∀ (l : List SbEntry) (Q : Pond), Q.ecc.get i = 0 → (l.foldl retireEntry Q).ecc.get i = 0 := by
    intro l
    induction l with
    | nil => exact fun _ hQ => hQ
    | cons e r ih => exact fun Q hQ => ih _ (retireEntry_ecc_zero e hQ)
  exact keep _ _ h

/-! ### A load (R106) -/

theorem sramValue_congr {P Q : Pond} {a len : Nat} (h : ∀ i < len, sramByte P (a + i) = sramByte Q (a + i)) :
    sramValue P a len = sramValue Q a len := by
  unfold sramValue
  rw [List.map_congr_left fun i hi => h i (List.mem_range.1 hi)]

/-- A clean read of SRAM gives the bytes that a load sees, after the entries that hold a part of them retired. -/
theorem loadPlain_sram {P : Pond} {a len : Nat} (ha : inSram a) (hw : wordsOk a len) (h : eccClean P a len) :
    loadPlain P a len = (some (sramValue P a len), retireN (partialDepth P.core.sb a len) P) := by
  have hc : eccClean (retireN (partialDepth P.core.sb a len) P) a len :=
    fun i h1 h2 => retireN_ecc_zero _ (h i h1 h2)
  unfold loadPlain
  rw [regionOf_sram ha]
  simp only [eccRead_clean hw hc]
  exact congrArg (fun v => (some v, _)) (sramValue_congr fun i _ => sramByte_retireN _ _ _)

theorem loadAt_sram {c : PCtx} {P : Pond} {a len : Nat} (ha : inSram a) (hw : wordsOk a len) (h : eccClean P a len) :
    loadAt c a len P = (.inr (sramValue P a len), 1, retireN (partialDepth P.core.sb a len) P) := by
  have hr := regionOf_sram ha
  unfold loadAt
  simp only [hr, loadPlain_sram ha hw h]
  rfl

/-- A load from SRAM with no ECC error, whatever it does with the value. -/
theorem loadOp_sram {Q : Pond} {f : FmtI} {c : PCtx} {len : Nat} {ok : FmtI → Bool} {m : FmtI → BitVec 16}
    {wr : FmtI → Nat → Pond → Pond} (hok : ok f = true) (ha : inSram (effAddr Q f)) (hal : effAddr Q f % len = 0)
    (hw : wordsOk (effAddr Q f) len) (he : eccClean Q (effAddr Q f) len) :
    ∃ R cy hz, SramOnly Q R ∧ SameSram Q R ∧
      loadOp len ok m wr f c Q = finishAt (R.core.pc + 4) cy hz false false
        (wr f (sramValue Q (effAddr Q f) len) (stallFor (rmask f.a) false false R)) := by
  refine ⟨retireN (partialDepth Q.core.sb (effAddr Q f) len) Q, 1, m f, retireN_sramOnly _ _,
    fun a _ => sramByte_retireN _ _ _, ?_⟩
  rw [loadOp, hok, legal_true]
  simp only [memAddr_toNat, hal, loadAt_sram ha hw he, ne_eq, not_true_eq_false, if_false, if_true]

/-- The end of a load: the destination registers written, the pc advanced. -/
theorem load_ends {Q R P : Pond} {g : Vector Word 16} {cy : Nat} {hz : BitVec 16} (hR : SramOnly Q R)
    (hs : SameSram Q R) (hP : CoreStep R P g R.core.acc R.core.flags R.core.pc) :
    MemStep Q (finishAt (R.core.pc + 4) cy hz false false P) g ∧
      SameSram Q (finishAt (R.core.pc + 4) cy hz false false P) := by
  have hpc : R.core.pc = Q.core.pc := by
    obtain ⟨sb, sram, ecc, rfl⟩ := hR
    rfl
  have hend := hP.finishAt (R.core.pc + 4) cy hz false false
  refine ⟨MemFrame.step ?_, fun a ha => (hend.sramByte a).trans (hs a ha)⟩
  rw [← hpc]
  exact ((MemFrame.refl Q).sram hR).core hend

theorem wordsOk_aligned {a len : Nat} (h : len = 1 ∨ len = 2 ∨ len = 4 ∨ len = 8) (ha : inSram a)
    (hal : a % len = 0) : wordsOk a len := by
  obtain ⟨hlo, -⟩ := ha
  intro i hi
  rcases h with rfl | rfl | rfl | rfl <;> omega

theorem LoadRow.op {c : PondId → FmtI → Instr} {len : Nat} {ext : Nat → Word} (h : LoadRow c len ext) :
    (len = 1 ∨ len = 2 ∨ len = 4 ∨ len = 8) ∧ ∀ p f s, exec (c p f) s = issue p (loadOne len ext f) s := by
  cases h <;> exact ⟨by decide, fun _ _ _ => rfl⟩

theorem gputPair_ofNat (Q : Pond) (d : RegIx) (v : Nat) : gputPair Q d (BitVec.ofNat 64 v) =
    vset (vset Q.core.g d.toNat (BitVec.ofNat 32 v)) (d + 1).toNat (BitVec.ofNat 32 (v / 2 ^ 32)) := by
  have hlo : (BitVec.ofNat 64 v).extractLsb' 0 32 = BitVec.ofNat 32 v := by
    apply BitVec.eq_of_toNat_eq
    simp only [BitVec.extractLsb'_toNat, BitVec.toNat_ofNat, Nat.shiftRight_zero]
    omega
  have hhi : (BitVec.ofNat 64 v).extractLsb' 32 32 = BitVec.ofNat 32 (v / 2 ^ 32) := by
    apply BitVec.eq_of_toNat_eq
    simp only [BitVec.extractLsb'_toNat, BitVec.toNat_ofNat, Nat.shiftRight_eq_div_pow]
    omega
  rw [gputPair, hlo, hhi]

theorem SramOnly.core_eq {Q R : Pond} (h : SramOnly Q R) : R.core.g = Q.core.g := by
  obtain ⟨sb, sram, ecc, rfl⟩ := h
  rfl

/-- Settles O10. -/
theorem loadsFromSram : Obligations.LoadsFromSram := by
  intro s p Q f hi ha
  constructor
  · intro c len ext hrow hal he
    obtain ⟨hlen, hx⟩ := hrow.op
    obtain ⟨R, cy, hz, hR, hs, hop⟩ := loadOp_sram (c := pctx s p) (ok := fun _ => true) (m := fun f => rmask f.d)
      (wr := fun f v P => gset f.d (ext v) P) rfl ha hal (wordsOk_aligned hlen ha hal) he
    rw [hx]
    refine ⟨_, issue_eq hi _, ?_⟩
    rw [loadOne, hop, gput, ← hR.core_eq]
    exact load_ends hR hs (((CoreStep.refl R).stallFor _ _ _).gset _ _)
  · intro hd hal he
    obtain ⟨R, cy, hz, hR, hs, hop⟩ := loadOp_sram (c := pctx s p) (ok := fun f => evenReg f.d)
      (m := fun f => rmask f.d ||| rmask (f.d + 1))
      (wr := fun f v P => gset (f.d + 1) (BitVec.ofNat 32 (v / 2 ^ 32)) (gset f.d (BitVec.ofNat 32 v) P))
      ((evenReg_iff _).2 hd) ha hal (wordsOk_aligned (by decide) ha hal) he
    refine ⟨_, issue_eq hi _, ?_⟩
    rw [hop, gputPair_ofNat, ← hR.core_eq]
    exact load_ends hR hs ((((CoreStep.refl R).stallFor _ _ _).gset _ _).gset _ _)

/-! ### A store (R106, R122) -/

/-- Byte `i` of a number. -/
theorem getLsbD_byte (v i : Nat) {j : Nat} (hj : j < 8) :
    (BitVec.ofNat 8 (v >>> (8 * i))).getLsbD j = v.testBit (8 * i + j) := by
  rw [BitVec.getLsbD_ofNat, Nat.testBit_shiftRight, decide_eq_true hj, Bool.true_and]

theorem ofNat_div_256 (v i : Nat) : BitVec.ofNat 8 (v / 256 ^ i) = BitVec.ofNat 8 (v >>> (8 * i)) := by
  rw [Nat.shiftRight_eq_div_pow, Nat.pow_mul]

/-- Byte `i` of the value of an access is the byte at its address. -/
theorem sramValue_byte (P : Pond) (a : Nat) {len i : Nat} (hi : i < len) :
    BitVec.ofNat 8 (sramValue P a len >>> (8 * i)) = sramByte P (a + i) := by
  apply BitVec.eq_of_getLsbD_eq
  intro j hj
  rw [getLsbD_byte _ _ hj, sramValue, byte_bits _ _ (by simp only [List.length_map, List.length_range]; omega)]
  have h1 : (8 * i + j) / 8 = i := by omega
  have h2 : (8 * i + j) % 8 = j := by omega
  rw [h1, h2, List.getD_eq_getElem _ _ (by simpa using hi), List.getElem_map, List.getElem_range]

theorem covers_iff {a b : Nat} (ha : 0x20000000 ≤ a) (hb : 0x20000000 ≤ b) (dbl : Bool) (v : BitVec 64) :
    SbEntry.covers ⟨a, dbl, v⟩ b = true ↔ a ≤ b ∧ b < a + (if dbl then 8 else 4) := by
  unfold SbEntry.covers sramOff
  rw [Bool.and_eq_true, decide_eq_true_eq, decide_eq_true_eq]
  dsimp only
  split <;> omega

theorem covers_word {a b : Nat} (ha : 0x20000000 ≤ a) (hb : 0x20000000 ≤ b) (v : BitVec 64) :
    SbEntry.covers ⟨a, false, v⟩ b = true ↔ a ≤ b ∧ b < a + 4 := covers_iff ha hb false v

theorem byte_eq {a b : Nat} (ha : 0x20000000 ≤ a) (hb : a ≤ b) (dbl : Bool) (v : BitVec 64) :
    SbEntry.byte ⟨a, dbl, v⟩ b = BitVec.ofNat 8 (v.toNat >>> (8 * (b - a))) := by
  have : sramOff b - sramOff a = b - a := by unfold sramOff; omega
  rw [SbEntry.byte, this]

/-- A word or a doubleword put into the store buffer reads back, and no other byte changes. -/
theorem pushSb_stored {Q P : Pond} {a len : Nat} (hlen : len = 4 ∨ len = 8) (ha : inSram a)
    (hs : SameSram Q P) (v : BitVec 64) : Stored Q (pushSb ⟨a, len == 8, v⟩ P) a len v.toNat := by
  intro b hb
  obtain ⟨hlo, -⟩ := ha
  have hw : (if (len == 8) = true then 8 else 4) = len := by rcases hlen with rfl | rfl <;> rfl
  have hcov := covers_iff hlo hb (len == 8) v
  rw [hw] at hcov
  rw [sramByte_pushSb, hs b hb]
  by_cases h : a ≤ b ∧ b < a + len
  · rw [if_pos (hcov.2 h), if_pos h, byte_eq hlo h.1, ofNat_div_256]
  · rw [if_neg fun hc => h (hcov.1 hc), if_neg h]

/-- A byte of the word that a byte or halfword store leaves: a byte stored, or the one that was there. -/
theorem merged_byte (P : Pond) (wa o len v : Nat) {i : Nat} (hi : i < 4) :
    BitVec.ofNat 8 ((setFld (BitVec.ofNat 32 (sramValue P wa 4)) (8 * o) (8 * len) v).toNat >>> (8 * i)) =
      if o ≤ i ∧ i < o + len then BitVec.ofNat 8 (v >>> (8 * (i - o))) else sramByte P (wa + i) := by
  rw [← sramValue_byte P wa hi]
  apply BitVec.eq_of_getLsbD_eq
  intro j hj
  have hb : 8 * i + j < 32 := by omega
  rw [getLsbD_byte _ _ hj, ← BitVec.getLsbD, getLsbD_setFld hb]
  by_cases h : o ≤ i ∧ i < o + len
  · rw [if_pos h, if_pos (by omega), getLsbD_byte _ _ hj, show 8 * i + j - 8 * o = 8 * (i - o) + j by omega]
  · rw [if_neg h, if_neg (by omega), getLsbD_byte _ _ hj, BitVec.getLsbD_ofNat, decide_eq_true hb, Bool.true_and]

/-- A byte or halfword merged into its word and put into the store buffer. -/
theorem pushSb_merged {Q P R : Pond} {a len : Nat} (v : Nat) (ha : inSram a) (hlen : a % 4 + len ≤ 4)
    (hP : SameSram Q P) (hR : SameSram Q R) :
    Stored Q (pushSb ⟨a / 4 * 4, false,
      (setFld (BitVec.ofNat 32 (sramValue P (a / 4 * 4) 4)) (8 * (a % 4)) (8 * len) v).setWidth 64⟩ R) a len v := by
  intro b hb
  obtain ⟨hlo, -⟩ := ha
  have hwa : 0x20000000 ≤ a / 4 * 4 := by omega
  rw [sramByte_pushSb, hR b hb]
  by_cases hc : a / 4 * 4 ≤ b ∧ b < a / 4 * 4 + 4
  · obtain ⟨i, rfl⟩ := Nat.exists_eq_add_of_le hc.1
    have hi : i < 4 := by omega
    rw [if_pos ((covers_word hwa hb _).2 hc), byte_eq hwa hc.1, BitVec.toNat_setWidth_of_le (by decide),
      Nat.add_sub_cancel_left, merged_byte P _ _ _ _ hi, hP _ hb]
    by_cases h : a % 4 ≤ i ∧ i < a % 4 + len
    · rw [if_pos h, if_pos (by omega), ofNat_div_256, show a / 4 * 4 + i - a = i - a % 4 by omega]
    · rw [if_neg h, if_neg (by omega)]
  · rw [if_neg fun h => hc ((covers_word hwa hb _).1 h), if_neg (by omega)]

theorem sbStall_step {P : Pond} : CoreStep P (sbStall P) P.core.g P.core.acc P.core.flags P.core.pc := by
  unfold sbStall
  split
  · exact (CoreStep.refl P).charge 1 0
  · exact CoreStep.refl P

/-- The end of a store: an entry put into the buffer, the pc advanced. -/
theorem store_ends {Q P : Pond} (e : SbEntry) {a len v : Nat} (h : MemFrame Q P Q.core.g Q.core.pc)
    (hs : Stored Q (pushSb e (sbStall P)) a len v) :
    MemStep Q (retire 1 (pushSb e (sbStall P))) Q.core.g ∧ Stored Q (retire 1 (pushSb e (sbStall P))) a len v := by
  have hg := h.g_eq
  have hpc := h.pc_eq
  have hpush : MemFrame Q (pushSb e (sbStall P)) Q.core.g Q.core.pc := by
    refine MemFrame.sram (h.core ?_) (pushSb_sramOnly e _)
    rw [← hg, ← hpc]
    exact sbStall_step
  have hend := (CoreStep.refl (pushSb e (sbStall P))).retire 1
  refine ⟨MemFrame.step (hpush.core ?_), fun b hb => (hend.sramByte b).trans (hs b hb)⟩
  rwa [hpush.g_eq, hpush.pc_eq] at hend

theorem stallFor_frame (Q : Pond) (m : BitVec 16) : MemFrame Q (stallFor m false false Q) Q.core.g Q.core.pc :=
  (MemFrame.refl Q).core ((CoreStep.refl Q).stallFor m false false)

theorem stallFor_same (Q : Pond) (m : BitVec 16) : SameSram Q (stallFor m false false Q) :=
  fun a _ => ((CoreStep.refl Q).stallFor m false false).sramByte a

theorem sbStall_same {Q P : Pond} (h : SameSram Q P) : SameSram Q (sbStall P) :=
  fun a ha => (sbStall_step.sramByte a).trans (h a ha)

/-- A store of a word or a doubleword to SRAM. -/
theorem storeOp_word {Q : Pond} {f : FmtI} {c : PCtx} {len : Nat} {ok : FmtI → Bool} {uses : FmtI → BitVec 16}
    {val : FmtI → Pond → BitVec 64} (hlen : len = 4 ∨ len = 8) (hok : ok f = true) (ha : inSram (effAddr Q f))
    (hal : effAddr Q f % len = 0) :
    MemStep Q (storeOp len ok uses val f c Q) Q.core.g ∧
      Stored Q (storeOp len ok uses val f c Q) (effAddr Q f) len (val f Q).toNat := by
  have h4 : ¬ len < 4 := by omega
  rw [storeOp, hok, legal_true]
  simp only [memAddr_toNat, hal, regionOf_sram ha, h4, ne_eq, not_true_eq_false, if_false]
  exact store_ends _ (stallFor_frame _ _) (pushSb_stored hlen ha (sbStall_same (stallFor_same _ _)) _)

/-- A store of a byte or a halfword to SRAM, whose word holds no ECC error. -/
theorem storeOp_part {Q : Pond} {f : FmtI} {c : PCtx} {len : Nat} {ok : FmtI → Bool} {uses : FmtI → BitVec 16}
    {val : FmtI → Pond → BitVec 64} (hlen : len = 1 ∨ len = 2) (hok : ok f = true) (ha : inSram (effAddr Q f))
    (hal : effAddr Q f % len = 0) (he : eccClean Q (effAddr Q f / 4 * 4) 4) :
    MemStep Q (storeOp len ok uses val f c Q) Q.core.g ∧
      Stored Q (storeOp len ok uses val f c Q) (effAddr Q f) len (val f Q).toNat := by
  have h4 : len < 4 := by omega
  have hwa : inSram (effAddr Q f / 4 * 4) := by
    obtain ⟨hlo, hhi⟩ := ha
    exact ⟨by omega, by omega⟩
  have hs := stallFor_same Q (rmask f.a ||| uses f)
  have hecc : eccClean (stallFor (rmask f.a ||| uses f) false false Q) (effAddr Q f / 4 * 4) 4 := by
    obtain ⟨hz, age, per, ca, n, e⟩ := (CoreStep.refl Q).stallFor (rmask f.a ||| uses f) false false
    rw [e]
    exact he
  rw [storeOp, hok, legal_true]
  simp only [memAddr_toNat, hal, regionOf_sram ha, h4, ne_eq, not_true_eq_false, if_false, if_true, storeMerge,
    loadPlain_sram hwa (wordsOk_aligned (by decide) hwa (by omega)) hecc]
  refine store_ends _ ((stallFor_frame _ _).sram (retireN_sramOnly _ _))
    (pushSb_merged _ ha (by rcases hlen with rfl | rfl <;> omega) hs (sbStall_same fun a h => ?_))
  exact (sramByte_retireN _ _ _).trans (hs a h)

theorem StoreRow.op {c : PondId → FmtI → Instr} {len : Nat} (h : StoreRow c len) :
    (len = 1 ∨ len = 2 ∨ len = 4) ∧ ∀ p f s, exec (c p f) s = issue p (storeOne len f) s := by
  cases h <;> exact ⟨by decide, fun _ _ _ => rfl⟩

theorem toNat_pairOf (f : FmtI) (Q : Pond) :
    (pairOf f Q).toNat = (gr Q f.d).toNat + 2 ^ 32 * (gr Q (f.d + 1)).toNat := by
  rw [pairOf, BitVec.toNat_append, ← Nat.shiftLeft_add_eq_or_of_lt (gr Q f.d).isLt, Nat.shiftLeft_eq, Nat.mul_comm,
    Nat.add_comm]

/-- Settles O11. -/
theorem storesThroughTheStoreBuffer : Obligations.StoresThroughTheStoreBuffer := by
  constructor
  · intro s p Q f hi ha
    constructor
    · intro c len hrow hal he
      obtain ⟨hlen, hx⟩ := hrow.op
      rw [hx]
      refine ⟨_, issue_eq hi _, ?_⟩
      rw [← BitVec.toNat_setWidth_of_le (show 32 ≤ 64 by decide) (b := gr Q f.d)]
      rcases hlen with rfl | rfl | rfl
      · exact storeOp_part (.inl rfl) rfl ha hal (he (by decide))
      · exact storeOp_part (.inr rfl) rfl ha hal (he (by decide))
      · exact storeOp_word (.inl rfl) rfl ha hal
    · intro hd hal
      refine ⟨_, issue_eq hi _, ?_⟩
      rw [← toNat_pairOf]
      exact storeOp_word (.inr rfl) ((evenReg_iff _).2 hd) ha hal
  · intro s p
    exact ⟨retireN 1 (pondOf s p), rfl, retireN_sb 1 _, fun a _ => sramByte_retireN 1 _ a, retireN_sramOnly 1 _⟩

end Sys2Proof.Machine
end

section
/-! SUPPORT and claims. Posts through the message ports and the post buffer (R43, R124, R194, R238, R247). -/

namespace Sys2Proof.Machine

/-! ### A post issues (R247, R124) -/

theorem regionOf_port {n : Nat} (h : n < 32) : regionOf (0x50000000 + 8 * n) = .ports := by
  unfold regionOf
  rw [if_neg (by omega), if_neg (by omega), if_neg (by omega), if_neg (by omega), if_neg (by omega), if_neg (by omega),
    if_pos (by omega)]

/-- A post to a port whose record is defined enters the buffer, or stalls the core where the buffer is full. -/
theorem storePort_step {Q P : Pond} {c : PCtx} {a : Word} {n : Nat} (hn : n < 32) (ha : a.toNat = 0x50000000 + 8 * n)
    (hd : bit (Q.sendRec.get (2 * n)) 31 = true) (dbl : Bool) (v : BitVec 64)
    (h : CoreStep Q P Q.core.g Q.core.acc Q.core.flags Q.core.pc) :
    if Q.core.pb.length < 8 then
      CoreStep { Q with core := { Q.core with
          pb := Q.core.pb ++ [⟨0, n, dbl, v, Q.epoch.getD 0, Q.life.inc, c.cyc⟩] } } (storePort c a dbl v P)
        Q.core.g Q.core.acc Q.core.flags (Q.core.pc + 4)
    else CoreStep { Q with core := { Q.core with
          stalled := some ⟨0, n, dbl, v, Q.epoch.getD 0, Q.life.inc, c.cyc⟩,
              waitCyc := c.cyc } } (storePort c a dbl v P)
        Q.core.g Q.core.acc Q.core.flags Q.core.pc := by
  have hoff : a.toNat - 0x50000000 = 8 * n := by omega
  have hport : 8 * n / 8 = n := by omega
  have hok : ¬ (0x100 ≤ 8 * n ∨ 8 * n % 8 ≠ 0) := by omega
  obtain ⟨hz, age, per, ca, k, rfl⟩ := h
  simp only [storePort, hoff, hport, hok, hd, Bool.not_true, Bool.false_eq_true, if_false]
  split
  · rw [if_neg (by omega)]
    exact CoreStep.retire (pc := Q.core.pc) 1 ⟨_, _, _, _, _, rfl⟩
  · rw [if_pos (by omega)]
    exact ⟨_, _, _, _, _, rfl⟩

/-- A store instruction to a send port whose record is defined. -/
theorem storeOp_port {Q : Pond} {f : FmtI} {c : PCtx} {len n : Nat} {ok : FmtI → Bool} {uses : FmtI → BitVec 16}
    {val : FmtI → Pond → BitVec 64} (hlen : len = 4 ∨ len = 8) (hok : ok f = true) (hn : n < 32)
    (ha : effAddr Q f = 0x50000000 + 8 * n) :
    storeOp len ok uses val f c Q = storePort c (memAddr f Q) (len == 8) (val f Q)
      (stallFor (rmask f.a ||| uses f) false false Q) := by
  have hal : (0x50000000 + 8 * n) % len = 0 := by rcases hlen with rfl | rfl <;> omega
  have h4 : 4 ≤ len := by omega
  rw [storeOp, hok, legal_true]
  simp only [memAddr_toNat, ha, hal, regionOf_port hn, h4, ne_eq, not_true_eq_false, if_false, if_true]

/-! ### The oldest post leaves (R124, R238) -/

/-- The header of a message of one flit says what it was built of (Table 9.3). -/
structure HeadSays (k : Packet) (dest src inc apply port kind : Nat) (data : BitVec 64) : Prop where
  dest : k.dest = dest % 128
  src : k.src = src % 128
  cls : k.cls = 0
  len : k.len = 0
  tag : k.tag = inc % 256
  sendPort : k.sendPort = port % 32
  kind : k.kind = kind % 8
  data0 : k.data0 = data
  apply : k.apply = apply % 65536

theorem msgHead_says (dest src inc apply port kind : Nat) (data : BitVec 64) (body : List (BitVec 128))
    (sl : Option Nat) (t : Nat) :
    HeadSays ⟨msgHead dest src 0 inc apply port kind data.toNat, body, sl, t⟩ dest src inc apply port kind data := by
  have hd := data.isLt
  constructor
  case data0 =>
    apply BitVec.eq_of_toNat_eq
    simp only [Packet.data0, msgHead, BitVec.extractLsb'_toNat, BitVec.toNat_ofNat, Nat.shiftRight_eq_div_pow]
    omega
  all_goals
    simp only [Packet.dest, Packet.src, Packet.cls, Packet.len, Packet.tag, Packet.sendPort, Packet.kind, Packet.apply,
      fld, msgHead, BitVec.toNat_ofNat, Nat.shiftRight_eq_div_pow]
    omega

/-- The post goes to the Weir: its port names no sluice, or one that is open at the post's epoch (R238). -/
def PostGoes (c : PCtx) (P : Pond) (x : Post) : Prop :=
  bit (sendWord P x.port) 30 = false ∨ slOpenAt c (fld (sendWord P x.port) 16 8) x.epoch = true

/-- The packet of a post that goes to the Weir (R124, R194). -/
def weirPacket (c : PCtx) (P : Pond) (x : Post) : Packet :=
  ⟨msgHead (fld (sendWord P x.port) 8 7) c.p 0 x.inc.toNat (x.epoch + sendLat c P x.port) x.port x.kind
    x.data.toNat, [],
    if bit (sendWord P x.port) 30 then some (fld (sendWord P x.port) 16 8) else none, 0⟩

theorem postPacket_goes {c : PCtx} {P : Pond} {x : Post} (h : bit (sendWord P x.port) 31 = true) (hg : PostGoes c P x) :
    postPacket c P x = some (weirPacket c P x) := by
  unfold postPacket portPacket weirPacket
  cases hb : bit (sendWord P x.port) 30
  · simp only [h, hb, Bool.not_true, Bool.false_eq_true, if_false]
    rfl
  · have ho := hg.resolve_left (by rw [hb]; decide)
    simp only [h, hb, ho, Bool.not_true, Bool.false_eq_true, if_false, if_true]
    rfl

theorem postPacket_stays {c : PCtx} {P : Pond} {x : Post} (hg : ¬ PostGoes c P x) : postPacket c P x = none := by
  have hb : bit (sendWord P x.port) 30 = true := by
    rw [← Bool.not_eq_false]
    exact fun h => hg (.inl h)
  have ho : slOpenAt c (fld (sendWord P x.port) 16 8) x.epoch = false := by
    rw [← Bool.not_eq_true]
    exact fun h => hg (.inr h)
  unfold postPacket portPacket
  simp only [hb, ho, if_true, Bool.false_eq_true, if_false, ite_self]

/-- The oldest post `x` is taken from the buffer, which leaves `r`, and goes to the Weir or is discarded. -/
def postGone (c : PCtx) (x : Post) (r : List Post) (P : Pond) : Pond :=
  match postPacket c P x with
  | none => discardPost { P with core := { P.core with pb := r } }
  | some k => rmod 0x64C (fun w => w + 1) (keepPost c x (emit c.ns k { P with core := { P.core with pb := r } }))

/-- The post that stalls the core, if there is one, enters the buffer, and its store completes. -/
def postEnters (c : PCtx) (P : Pond) : Pond :=
  match P.core.stalled with
  | none => P
  | some y => retire 1 (waited c { P with core := { P.core with pb := P.core.pb ++ [y], stalled := none } })

theorem postAccepted_cons {c : PCtx} {P : Pond} {x : Post} {r : List Post} (h : P.core.pb = x :: r)
    (hi : P.life.incWait = false) :
    postAccepted c P = postEnters c (postGone c x r P) := by
  unfold postAccepted
  rw [h]
  dsimp only
  rw [hi]
  rfl

/-- What the end of a stall leaves as it was, and the post buffer after it. -/
theorem postEnters_says (c : PCtx) (P : Pond) :
    (postEnters c P).core.pb = P.core.pb ++ P.core.stalled.toList ∧ (postEnters c P).core.stalled = none ∧
    (postEnters c P).core.pc = (if P.core.stalled.isSome then P.core.pc + 4 else P.core.pc) ∧
    (postEnters c P).core.g = P.core.g ∧ (postEnters c P).sram = P.sram ∧ (postEnters c P).regs = P.regs ∧
    (postEnters c P).out = P.out := by
  unfold postEnters
  split
  · rename_i h
    rw [h]
    simp
  · rename_i y h
    rw [h]
    obtain ⟨hz, age, per, ca, n, e⟩ := ((CoreStep.refl { P with core := { P.core with
      pb := P.core.pb ++ [y], stalled := none } }).waited c).retire 1
    rw [e]
    exact ⟨rfl, rfl, rfl, rfl, rfl, rfl, rfl⟩

/-- What the departure of a post leaves as it was. -/
theorem postGone_core (c : PCtx) (x : Post) (r : List Post) (P : Pond) :
    (postGone c x r P).core = { P.core with pb := r } ∧ (postGone c x r P).sram = P.sram := by
  unfold postGone
  split <;> exact ⟨rfl, rfl⟩

theorem postGone_goes {c : PCtx} {P : Pond} {x : Post} (r : List Post) (h : bit (sendWord P x.port) 31 = true)
    (hg : PostGoes c P x) :
    rg (postGone c x r P) 0x64C = rg P 0x64C + 1 ∧ (∀ off, off ≠ 0x64C → rg (postGone c x r P) off = rg P off) ∧
    (postGone c x r P).out = P.out ++ [{ weirPacket c P x with since := c.ns }] := by
  unfold postGone
  rw [postPacket_goes h hg]
  exact ⟨rg_rset_self _ _ _, fun off ho => rg_rset_ne _ _ ho, rfl⟩

theorem postGone_stays {c : PCtx} {P : Pond} {x : Post} (r : List Post) (hg : ¬ PostGoes c P x) :
    (rg (postGone c x r P) 0x644).toNat = min (2 ^ 32 - 1) ((rg P 0x644).toNat + 1) ∧
    (∀ off, off ≠ 0x644 → rg (postGone c x r P) off = rg P off) ∧ (postGone c x r P).out = P.out := by
  have hword : ∀ w : Word, fld w 0 32 = w.toNat := fun w => (fld_low w 32).trans (Nat.mod_eq_of_lt w.isLt)
  unfold postGone
  rw [postPacket_stays hg]
  refine ⟨?_, fun off ho => rg_rset_ne _ _ ho, rfl⟩
  rw [discardPost, rinc, rmod, rg_rset_self, ← hword (incFld _ _ _ _), fld_incFld (by decide), hword]
  rfl

theorem weirPacket_says (c : PCtx) (P : Pond) (x : Post) :
    HeadSays { weirPacket c P x with since := c.ns } (fld (sendWord P x.port) 8 7) c.p x.inc.toNat
      (x.epoch + sendLat c P x.port) x.port x.kind x.data := msgHead_says _ _ _ _ _ _ _ _ _ _

/-- Settles O12. -/
theorem postsGoThroughThePostBuffer : Obligations.PostsGoThroughThePostBuffer := by
  constructor
  · intro s p Q f n hi hn ha hd
    have hmem : (memAddr f Q).toNat = 0x50000000 + 8 * n := by rw [memAddr_toNat, ha]
    constructor
    · refine ⟨_, issue_eq hi _, ?_⟩
      rw [storeOne, storeOp_port (.inl rfl) rfl hn ha]
      exact storePort_step hn hmem hd false _ ((CoreStep.refl Q).stallFor _ _ _)
    · intro he
      refine ⟨_, issue_eq hi _, ?_⟩
      rw [storeOp_port (.inr rfl) ((evenReg_iff _).2 he) hn ha]
      exact storePort_step hn hmem hd true _ ((CoreStep.refl Q).stallFor _ _ _)
  · intro s p x r hpb hinc h31
    have hx : exec (.postAccepted p) s =
        .next (withPond s p (postEnters (pctx s p) (postGone (pctx s p) x r (pondOf s p)))) := by
      rw [← postAccepted_cons hpb hinc]
      rfl
    refine ⟨_, hx, ?_⟩
    obtain ⟨e1, e2, e3, e4, e5, hregs, hout⟩ := postEnters_says (pctx s p) (postGone (pctx s p) x r (pondOf s p))
    obtain ⟨c1, c2⟩ := postGone_core (pctx s p) x r (pondOf s p)
    rw [c1] at e1 e3 e4
    refine ⟨e1, e2, e3, e4, e5.trans c2, ?_⟩
    simp only [rg, hregs, hout]
    split
    · rename_i hg
      obtain ⟨h1, h2, h3⟩ := postGone_goes r h31 hg
      have hs := weirPacket_says (pctx s p) (pondOf s p) x
      refine ⟨h1, h2, _, h3, ?_, ?_, hs.cls, hs.len, ?_, hs.sendPort, hs.kind, hs.data0, rfl, hs.apply, rfl⟩
      · rw [hs.dest]
        exact Nat.mod_eq_of_lt (Nat.mod_lt _ (by decide))
      · rw [hs.src]
        exact Nat.mod_eq_of_lt (Nat.lt_trans p.isLt (by decide))
      · rw [hs.tag]
        exact Nat.mod_eq_of_lt x.inc.isLt
    · rename_i hg
      obtain ⟨h1, h2, h3⟩ := postGone_stays r hg
      exact ⟨h3, h1, h2⟩

end Sys2Proof.Machine
end

section
/-! SUPPORT and claims. Exceptions that an instruction raises as its own effect (R101, R129, R132, R133, R147). -/

namespace Sys2Proof.Machine

/-! ### Clean words (R108, R380) -/

/-- The value of a clean word: an erased or committed word of the active flash bank, SRAM, or ROM. -/
def cleanRead (Q : Pond) (a : Nat) : Nat :=
  if a < 0x40000 then
    if pondFlashClass Q (flashIx Q.pfl.bank a) = 0 then 2 ^ 32 - 1
    else ((flashWord Q (flashIx Q.pfl.bank a)).data.toNat >>> (8 * (a % 32))) % 2 ^ 32
  else if a < 0x2001FFC0 then sramValue Q a 4
  else ofLe ((List.range 4).map (fun i => romByteAt (a - 0x30000000 + i)))

theorem regionOf_flash {a : Nat} (h : a < 0x40000) : regionOf a = .flashActive := by
  unfold regionOf
  rw [if_pos h]

theorem regionOf_rom {a : Nat} (h : 0x30000000 ≤ a ∧ a < 0x30008000) : regionOf a = .rom := by
  unfold regionOf
  rw [if_neg (by omega), if_neg (by omega), if_neg (by omega), if_neg (by omega), if_pos h]

theorem CleanWord.fetchable {Q : Pond} {a : Nat} (h : CleanWord Q a) : Machine.fetchable (regionOf a) = true := by
  obtain ⟨-, ⟨hf, -⟩ | ⟨hs, -⟩ | hr⟩ := h
  · rw [regionOf_flash hf]
    rfl
  · rw [regionOf_sram hs]
    rfl
  · rw [regionOf_rom hr]
    rfl

theorem CleanWord.plain {Q : Pond} {a : Nat} (h : CleanWord Q a) : plainMem (regionOf a) = true := by
  obtain ⟨-, ⟨hf, -⟩ | ⟨hs, -⟩ | hr⟩ := h
  · rw [regionOf_flash hf]
    rfl
  · rw [regionOf_sram hs]
    rfl
  · rw [regionOf_rom hr]
    rfl

theorem CleanWord.lt {Q : Pond} {a : Nat} (h : CleanWord Q a) : a < 2 ^ 32 := by
  obtain ⟨-, ⟨hf, -⟩ | ⟨⟨-, hs⟩, -⟩ | ⟨-, hr⟩⟩ := h <;> omega

/-- A read of a flash word that needs no retry leaves no record. -/
theorem flashRead_clean {Q : Pond} {a : Nat} (h : pondFlashClass Q (flashIx Q.pfl.bank a) = 0 ∨
    (pondFlashClass Q (flashIx Q.pfl.bank a) = 1 ∧ (flashWord Q (flashIx Q.pfl.bank a)).step = 0)) :
    flashRead Q false a 4 = (some (if pondFlashClass Q (flashIx Q.pfl.bank a) = 0 then 2 ^ 32 - 1
      else ((flashWord Q (flashIx Q.pfl.bank a)).data.toNat >>> (8 * (a % 32))) % 2 ^ 32), Q) := by
  have hw : windowBank Q false = Q.pfl.bank := by simp [windowBank]
  unfold flashRead
  dsimp only
  rw [hw]
  rcases h with hc | ⟨hc, hs⟩
  · simp only [hc, if_true]
  · simp only [hc, hs, if_true, Nat.one_ne_zero, if_false]

theorem SramOnly.refl (Q : Pond) : SramOnly Q Q := ⟨_, _, _, rfl⟩

/-- `R` is `Q` with some entries of the store buffer retired: every byte reads as before, and no ECC error has come. -/
structure Retired (Q R : Pond) : Prop where
  only : SramOnly Q R
  same : SameSram Q R
  ecc : ∀ i, Q.ecc.get i = 0 → R.ecc.get i = 0

theorem Retired.refl (Q : Pond) : Retired Q Q := ⟨SramOnly.refl Q, fun _ _ => rfl, fun _ h => h⟩

theorem retireN_retired (n : Nat) (Q : Pond) : Retired Q (retireN n Q) :=
  ⟨retireN_sramOnly n Q, fun a _ => sramByte_retireN n Q a, fun _ h => retireN_ecc_zero n h⟩

theorem loadPlain_clean {Q : Pond} {a : Nat} (h : CleanWord Q a) :
    ∃ R, loadPlain Q a 4 = (some (cleanRead Q a), R) ∧ Retired Q R := by
  obtain ⟨h4, ⟨hf, hc⟩ | ⟨hs, hc⟩ | hr⟩ := h
  · refine ⟨Q, ?_, Retired.refl Q⟩
    unfold loadPlain cleanRead
    rw [regionOf_flash hf, if_pos hf]
    exact flashRead_clean hc
  · refine ⟨retireN (partialDepth Q.core.sb a 4) Q, ?_, retireN_retired _ Q⟩
    rw [loadPlain_sram hs (wordsOk_aligned (by decide) hs h4) hc, cleanRead, if_neg (by have := hs.1; omega),
      if_pos hs.2]
  · refine ⟨Q, ?_, Retired.refl Q⟩
    unfold loadPlain cleanRead
    rw [regionOf_rom hr, if_neg (by omega), if_neg (by omega)]

/-- A fetch of a clean word raises nothing and leaves the pond. -/
theorem fetchAt_clean {Q : Pond} {a : Word} (h : CleanWord Q a.toNat) : fetchAt Q a = (none, Q) := by
  have hf := h.fetchable
  obtain ⟨h4, hcase⟩ := h
  unfold fetchAt
  rw [hf, h4]
  simp only [Bool.not_true, Bool.false_eq_true, ne_eq, not_true_eq_false, if_false]
  rcases hcase with ⟨hf, hc⟩ | ⟨hs, hc⟩ | hr
  · simp only [regionOf_flash hf, flashRead_clean hc]
  · have h0 : Q.ecc.get ((a.toNat - 0x20000000) / 4) = 0 :=
      hc _ (Nat.le_refl _) (by have := hs.1; omega)
    simp only [regionOf_sram hs, h0]
    rfl
  · simp only [regionOf_rom hr]

/-- A clean word stays clean where the flash is the same and no ECC error has come. -/
theorem CleanWord.keep {Q P : Pond} {a : Nat} (h : CleanWord Q a) (hp : P.pfl = Q.pfl)
    (he : ∀ i, Q.ecc.get i = 0 → P.ecc.get i = 0) : CleanWord P a := by
  obtain ⟨h4, ⟨hf, hc⟩ | ⟨hs, hc⟩ | hr⟩ := h
  · exact CleanWord.pfl hp hf ⟨h4, .inl ⟨hf, hc⟩⟩
  · exact ⟨h4, .inr (.inl ⟨hs, fun i h1 h2 => he i (hc i h1 h2)⟩)⟩
  · exact ⟨h4, .inr (.inr hr)⟩

/-! ### The vector -/

theorem vectorAddr_toNat {Q : Pond} {off : Nat} (h : vectorAt Q off < 2 ^ 32) :
    (BitVec.ofNat 32 (256 * fld (rg Q 0x00C) 8 24) + BitVec.ofNat 32 off).toNat = vectorAt Q off := by
  have hw := (rg Q 0x00C).isLt
  have hf : fld (rg Q 0x00C) 8 24 = (rg Q 0x00C).toNat / 256 := by
    rw [fld, Nat.shiftRight_eq_div_pow]
    exact Nat.mod_eq_of_lt (by omega)
  have hv : vectorAt Q off = 256 * ((rg Q 0x00C).toNat / 256) + off := by rw [vectorAt, Nat.mul_comm]
  rw [hv] at h ⊢
  rw [hf, ← BitVec.ofNat_add, BitVec.toNat_ofNat, Nat.mod_eq_of_lt h]

theorem readVector_clean {Q : Pond} {va h : Word} (hc : CleanWord Q va.toNat)
    (hv : (loadPlain Q va.toNat 4).1 = some h.toNat) (hh : CleanWord Q h.toNat) :
    ∃ R, readVector Q va = (some h, R) ∧ Retired Q R := by
  obtain ⟨R, hl, hR⟩ := loadPlain_clean hc
  rw [hl] at hv
  have hval : cleanRead Q va.toNat = h.toNat := Option.some.inj hv
  refine ⟨R, ?_, hR⟩
  unfold readVector
  rw [hc.plain, hl, hval]
  simp only [Bool.not_true, Bool.false_eq_true, if_false, hh.1, hh.fetchable, and_self, if_true, BitVec.ofNat_toNat,
    BitVec.setWidth_eq]

/-! ### The frame (R133) -/

/-- The value of an access whose bytes are those of a number. -/
theorem sramValue_eq {P : Pond} {a len v : Nat} (hv : v < 256 ^ len)
    (h : ∀ i < len, sramByte P (a + i) = BitVec.ofNat 8 (v >>> (8 * i))) : sramValue P a len = v := by
  have hl : (List.range len).map (fun i => sramByte P (a + i)) = leBytes v len := by
    apply List.ext_getElem
    · rw [List.length_map, List.length_range, leBytes_length]
    · intro i h1 h2
      rw [leBytes_length] at h2
      rw [List.getElem_map, List.getElem_range, h i h2, ← leBytes_getD v len i h2, List.getD_eq_getElem]
  rw [sramValue, hl, ofLe_leBytes, Nat.mod_eq_of_lt hv]

/-- The store buffer replaced. -/
def withSb (l : List SbEntry) (P : Pond) : Pond := { P with core := { P.core with sb := l } }

/-- A word in the store buffer. -/
def wordEntry (a : Nat) (w : Word) : SbEntry := ⟨a, false, w.setWidth 64⟩

theorem pushFrame_eq (base : Nat) (w0 w1 w2 w3 : Word) (Q : Pond) : pushFrame base w0 w1 w2 w3 Q =
    withSb ([] ++ [wordEntry (base + 4 * 0) w0] ++ [wordEntry (base + 4 * 1) w1] ++ [wordEntry (base + 4 * 2) w2] ++
      [wordEntry (base + 4 * 3) w3]) (drainSb (charge Q.core.sb.length 0 Q)) := rfl

theorem withSb_drained (R : Pond) : withSb [] (drainSb R) = drainSb R := by
  obtain ⟨sram, ecc, e⟩ := drainSb_says R
  rw [e]
  rfl

/-- The byte that a load sees after one more word in the buffer. -/
theorem sramByte_wordEntry {a b : Nat} (ha : 0x20000000 ≤ a) (hb : 0x20000000 ≤ b) (w : Word) (l : List SbEntry)
    (P : Pond) : sramByte (withSb (l ++ [wordEntry a w]) P) b =
      if a ≤ b ∧ b < a + 4 then BitVec.ofNat 8 (w.toNat >>> (8 * (b - a))) else sramByte (withSb l P) b := by
  have hlast : sramByte (withSb (l ++ [wordEntry a w]) P) b =
      if (wordEntry a w).covers b then (wordEntry a w).byte b else sramByte (withSb l P) b := by
    rw [sramByte_eq, sramByte_eq]
    exact find_last (fun e => e.covers b) (fun e => e.byte b) l _ _
  have hc : (wordEntry a w).covers b = true ↔ a ≤ b ∧ b < a + 4 := covers_word ha hb (w.setWidth 64)
  rw [hlast]
  by_cases h : a ≤ b ∧ b < a + 4
  · rw [if_pos (hc.2 h), if_pos h, wordEntry, byte_eq ha h.1, BitVec.toNat_setWidth_of_le (by decide)]
  · rw [if_neg fun k => h (hc.1 k), if_neg h]

/-- The byte that a load sees after a frame is pushed. -/
theorem sramByte_pushFrame {Q : Pond} {base : Nat} (w0 w1 w2 w3 : Word) (hb : 0x20000000 ≤ base) {a : Nat}
    (ha : 0x20000000 ≤ a) : sramByte (pushFrame base w0 w1 w2 w3 Q) a =
      if base + 4 * 3 ≤ a ∧ a < base + 4 * 3 + 4 then BitVec.ofNat 8 (w3.toNat >>> (8 * (a - (base + 4 * 3))))
      else if base + 4 * 2 ≤ a ∧ a < base + 4 * 2 + 4 then BitVec.ofNat 8 (w2.toNat >>> (8 * (a - (base + 4 * 2))))
      else if base + 4 * 1 ≤ a ∧ a < base + 4 * 1 + 4 then BitVec.ofNat 8 (w1.toNat >>> (8 * (a - (base + 4 * 1))))
      else if base + 4 * 0 ≤ a ∧ a < base + 4 * 0 + 4 then BitVec.ofNat 8 (w0.toNat >>> (8 * (a - (base + 4 * 0))))
      else sramByte Q a := by
  rw [pushFrame_eq, sramByte_wordEntry (by omega) ha, sramByte_wordEntry (by omega) ha,
    sramByte_wordEntry (by omega) ha, sramByte_wordEntry (by omega) ha, withSb_drained, sramByte_drainSb,
    ((CoreStep.refl Q).charge _ _).sramByte]

/-- The four words of a frame, by their place. -/
def frameWord (w0 w1 w2 w3 : Word) : Nat → Word
  | 0 => w0
  | 1 => w1
  | 2 => w2
  | _ => w3

/-- What a frame pushed leaves: its words, every other byte, and the rest of the pond. -/
structure Framed (Q P : Pond) (base : Nat) (w : Nat → Word) : Prop where
  frame : MemFrame Q P Q.core.g Q.core.pc
  ecc : ∀ i, Q.ecc.get i = 0 → P.ecc.get i = 0
  words : ∀ i < 4, sramValue P (base + 4 * i) 4 = (w i).toNat
  others : ∀ a, 0x20000000 ≤ a → a < base ∨ base + 16 ≤ a → sramByte P a = sramByte Q a

theorem pushFrame_framed {Q R : Pond} {base : Nat} (w0 w1 w2 w3 : Word) (hb : 0x20000000 ≤ base) (hR : Retired Q R) :
    Framed Q (pushFrame base w0 w1 w2 w3 R) base (frameWord w0 w1 w2 w3) where
  frame := by
    obtain ⟨sb, sram, ecc, rfl⟩ := hR.only
    have hsram : SramOnly Q _ := ⟨sb, sram, ecc, rfl⟩
    have hcharge := ((MemFrame.refl Q).sram hsram).core ((CoreStep.refl _).charge sb.length 0)
    exact (hcharge.sram (retireN_sramOnly _ _)).sram ⟨_, _, _, rfl⟩
  ecc i h := by
    have hcharge : (charge R.core.sb.length 0 R).ecc = R.ecc := by
      obtain ⟨hz, age, per, ca, n, e⟩ := (CoreStep.refl R).charge R.core.sb.length 0
      rw [e]
    exact retireN_ecc_zero _ (hcharge ▸ hR.ecc i h)
  words i hi := by
    refine sramValue_eq (frameWord w0 w1 w2 w3 i).isLt fun j hj => ?_
    rw [sramByte_pushFrame _ _ _ _ hb (by omega)]
    match i, hi with
    | 0, _ => rw [if_neg (by omega), if_neg (by omega), if_neg (by omega), if_pos (by omega),
        Nat.add_sub_cancel_left]; rfl
    | 1, _ => rw [if_neg (by omega), if_neg (by omega), if_pos (by omega), Nat.add_sub_cancel_left]; rfl
    | 2, _ => rw [if_neg (by omega), if_pos (by omega), Nat.add_sub_cancel_left]; rfl
    | 3, _ => rw [if_pos (by omega), Nat.add_sub_cancel_left]; rfl
  others a ha h := by
    rw [sramByte_pushFrame _ _ _ _ hb ha, if_neg (by omega), if_neg (by omega), if_neg (by omega), if_neg (by omega),
      hR.same a ha]

/-! ### Exception entry (R133) -/

theorem fld_fault {w : Word} {kind typ : Nat} (h : kind < 256) :
    fld (setFld (setFld w 8 8 kind) 0 4 typ) 8 8 = kind := by
  rw [fld_setFld_other (by decide) (by decide), fld_setFld (by decide)]
  exact Nat.mod_eq_of_lt h

theorem recordFault_is {P : Pond} {kind typ : Nat} {addr : Word} (h : kind < 256) :
    FaultIs (recordFault kind typ addr P) kind addr := by
  constructor
  · rw [recordFault, rg_rset_ne _ _ (by decide), rmod, rg_rset_self, fld_fault h]
  · exact rg_rset_self _ _ _

theorem savedStatus_toNat {Q : Pond} (h : Q.core.nest < 4) : (savedStatus Q).toNat = statusWord Q.core := by
  have hb : ∀ b : Bool, b2n b ≤ 1 := fun b => by cases b <;> decide
  have h1 := hb Q.core.ie
  have h2 := hb Q.core.flags.q
  have h3 := hb Q.core.flags.n
  have h4 := hb Q.core.flags.z
  have h5 := hb Q.core.flags.c
  have h6 := hb Q.core.flags.v
  exact Nat.mod_eq_of_lt (by omega)

/-- The core one exception deeper, with interrupts off (R133). -/
def nested (P : Pond) : Pond := { P with core := { P.core with nest := P.core.nest + 1, ie := false } }

/-- A pond once the frame is pushed and the fault recorded, before its handler is fetched (R133). -/
def faulted (x : Flt) (sp : Word) (F : Pond) : Pond := nested (recordFault x.kind x.typ x.addr (gset 15 sp F))

theorem enterAt_entered {Q F : Pond} {x : Flt} {ret h : Word} {cost : Nat} (hnest : Q.core.nest < 4)
    (hdf : Q.core.df = false) (hgate : Q.core.gate = none) (hlo : 0x20000010 ≤ (gr Q 15).toNat)
    (hF : Framed Q F ((gr Q 15).toNat - 16) (frameWord ret (savedStatus Q) (gr Q 12) (gr Q 14))) :
    Entered Q (enterAt h (charge cost 0 (faulted x (gr Q 15 - 16) F))) ret h := by
  obtain ⟨⟨sb, sram, ecc, hz, age, per, ca, n, rfl⟩, -, hwords, hothers⟩ := hF
  obtain ⟨hz', age', per', ca', n', e⟩ := (CoreStep.refl (faulted x (gr Q 15 - 16) _)).charge cost 0
  rw [e]
  have hword : ∀ i < 4, ∀ b, b = (gr Q 15).toNat - 16 + 4 * i → _ := fun i hi b hb => hb ▸ hwords i hi
  refine ⟨rfl, rfl, rfl, rfl, rfl, rfl, hdf, hgate, rfl, rfl, hword 0 (by decide) _ (by omega),
    (hword 1 (by decide) _ (by omega)).trans (savedStatus_toNat hnest), hword 2 (by decide) _ (by omega),
    hword 3 (by decide) _ (by omega), fun a ha hcase => hothers a ha (by omega), fun off h1 h2 => ?_, rfl, rfl⟩
  exact (rg_rset_ne _ _ h2).trans (rg_rset_ne _ _ h1)

theorem enterAt_faultIs {F : Pond} {x : Flt} {sp h : Word} {cost : Nat} (hk : x.kind < 256) :
    FaultIs (enterAt h (charge cost 0 (faulted x sp F))) x.kind x.addr := by
  obtain ⟨hz, age, per, ca, n, e⟩ := (CoreStep.refl (faulted x sp F)).charge cost 0
  rw [e]
  exact recordFault_is (P := gset 15 sp F) hk

theorem faulted_clean {Q F : Pond} {x : Flt} {sp h : Word} {base : Nat} {w : Nat → Word} (hh : CleanWord Q h.toNat)
    (hF : Framed Q F base w) : CleanWord (faulted x sp F) h.toNat := by
  obtain ⟨⟨sb, sram, ecc, hz, age, per, ca, n, rfl⟩, hecc, -, -⟩ := hF
  exact hh.keep rfl hecc

theorem enterExc_takes {Q : Pond} {x : Flt} {ret h : Word} (hk : x.kind < 256) (hc : CanTake Q (vectorOff x.kind) h) :
    Entered Q (enterExc (some x) ret Q) ret h ∧ FaultIs (enterExc (some x) ret Q) x.kind x.addr := by
  obtain ⟨hgate, hdf, hnest, hal, hlo, hhi, hvec, hload, hhand⟩ := hc
  have hva := vectorAddr_toNat hvec.lt
  rw [← hva] at hvec hload
  obtain ⟨R, hread, hR⟩ := readVector_clean hvec hload hhand
  have hframe : frameOk (gr Q 15).toNat = true := by
    rw [frameOk, decide_eq_true hal, decide_eq_true hlo, decide_eq_true hhi]
    rfl
  have hF := pushFrame_framed ret (savedStatus Q) (gr Q 12) (gr Q 14)
    (show 0x20000000 ≤ (gr Q 15).toNat - 16 by omega) hR
  have hP5 := fetchAt_clean (faulted_clean (x := x) (sp := gr Q 15 - 16) hhand hF)
  rw [faulted, nested] at hP5
  unfold enterExc
  dsimp only
  rw [hframe, hread]
  simp only [Bool.not_true, Bool.false_eq_true, if_false, hP5]
  exact ⟨enterAt_entered hnest hdf hgate hlo hF, enterAt_faultIs hk⟩

theorem raiseAt_takes {Q : Pond} {x : Flt} {ret h : Word} (hk : x.kind < 256) (hc : CanTake Q (vectorOff x.kind) h) :
    Entered Q (raiseAt x ret Q) ret h ∧ FaultIs (raiseAt x ret Q) x.kind x.addr := by
  obtain ⟨hgate, hdf, hnest, -⟩ := id hc
  have hraise : raiseAt x ret Q = enterExc (some x) ret Q := by
    unfold raiseAt
    simp only [hgate, hdf, Option.isSome_none, Bool.false_eq_true, if_false, if_neg (show ¬ 4 ≤ Q.core.nest by omega)]
  rw [hraise]
  exact enterExc_takes hk hc

/-- A free value taken leaves what an exception needs. -/
theorem CanTake.useFree {Q : Pond} {off : Nat} {h : Word} (hc : CanTake Q off h) : CanTake (useFree Q) off h := by
  obtain ⟨hgate, hdf, hnest, hal, hlo, hhi, hvec, hload, hhand⟩ := hc
  refine ⟨hgate, hdf, hnest, hal, hlo, hhi, hvec, ?_, hhand⟩
  obtain ⟨R, hR, -⟩ := loadPlain_clean hvec
  obtain ⟨R', hR', -⟩ := loadPlain_clean (Q := Machine.useFree Q) (a := vectorAt (Machine.useFree Q) off) hvec
  rw [hR']
  rw [hR] at hload
  exact hload

/-! ### The instructions -/

/-- An instruction that raises, after it has taken a free value. -/
theorem issue_raises {s : State} {p : PondId} {Q : Pond} {f : PCtx → Pond → Pond} {x : Flt} {ret h : Word}
    (hi : Issues s p Q) (hf : f (pctx s p) Q = raiseAt x ret (useFree Q)) (hk : x.kind < 256)
    (hc : CanTake Q (vectorOff x.kind) h) :
    ∃ P, issue p f s = .next (withPond s p P) ∧ Entered Q P ret h ∧ FaultIs P x.kind x.addr := by
  obtain ⟨hent, hfault⟩ := raiseAt_takes (ret := ret) hk hc.useFree
  exact ⟨_, (issue_eq hi f).trans (by rw [hf]), hent, hfault⟩

theorem Issues.gate {s : State} {p : PondId} {Q : Pond} (h : Issues s p Q) : (pondOf s p).core.gate = none := by
  obtain ⟨hcan, -⟩ := h
  unfold canIssue at hcan
  simp only [Bool.and_eq_true, Option.isNone_iff_eq_none] at hcan
  obtain ⟨⟨⟨-, hgate⟩, -⟩, -⟩ := hcan
  exact hgate

/-- The GATE of a gate that is not implemented raises in the caller's context (R147). -/
theorem exec_gateNotImplemented {s : State} {p : PondId} {Q : Pond} {n : BitVec 8} {f : FmtG} (hi : Issues s p Q)
    (hn : 5 ≤ n.toNat) (hd : f.d = 0) (ha : f.a = 0) (hh : f.hi = 0) (hgate : Q.core.gate = none) :
    exec (.gateNotImplemented p n f) s =
      .next (withPond s p (raiseAt ⟨6, 6, BitVec.ofNat 32 (0x1000 + n.toNat)⟩ Q.core.pc Q)) := by
  obtain ⟨hcan, hfetch⟩ := id hi
  show execGateNotImplemented p n f s = _
  unfold execGateNotImplemented
  rw [onPond_eq]
  simp only [if_neg (show ¬ n.toNat < 5 by omega), hi.gate, Option.isSome_none, Bool.false_eq_true, if_false, hcan,
    if_true]
  unfold issueP
  rw [hfetch]
  simp only [legal, hd, ha, hh, beq_self_eq_true, Bool.and_self, if_true, hgate, Option.isSome_none,
    Bool.false_eq_true, if_false]
  rfl

/-- The effects of TRAP and BRK as `exec` issues them (R129). -/
def trapOp (f : FmtS) (_ : PCtx) : Pond → Pond := legal (f.d == 0 && f.a == 0) (fun P =>
  raiseAt ⟨5, (freeNow P).toNat % 16, f.imm.setWidth 32⟩ (P.core.pc + 4) (useFree P))

def brkOp (f : FmtS) (c : PCtx) : Pond → Pond := legal (FmtS.bare f) (fun P =>
  if c.dbg then { P with core := { P.core with halted := true } }
  else raiseAt ⟨7, (freeNow P).toNat % 16, Config.freeWord (64 * P.fresh + 1)⟩ (P.core.pc + 4) (useFree P))

theorem exec_brk (p : PondId) (f : FmtS) (s : State) : exec (.brk p f) s = issue p (brkOp f) s := rfl

theorem brkOp_locked {f : FmtS} {c : PCtx} {Q : Pond} (hb : FmtS.bare f = true) (h : c.dbg = false) : brkOp f c Q =
    raiseAt ⟨7, (freeNow Q).toNat % 16, Config.freeWord (64 * Q.fresh + 1)⟩ (Q.core.pc + 4) (useFree Q) := by
  simp only [brkOp, legal, hb, h, Bool.false_eq_true, if_true, if_false]

theorem brkOp_unlocked {f : FmtS} {c : PCtx} {Q : Pond} (hb : FmtS.bare f = true) (h : c.dbg = true) :
    brkOp f c Q = { Q with core := { Q.core with halted := true } } := by
  simp only [brkOp, legal, hb, h, if_true]

/-- Settles O14: each of them is a fault raised at a pond that can take it, with the return address and the
address of its kind. -/
theorem softwareExceptions : Obligations.SoftwareExceptions := by
  unfold Obligations.SoftwareExceptions
  refine ⟨fun s p Q h hi => ⟨fun f hd ha hc => ?_, fun f hd ha himm hlock hc => ?_, fun w hw hc => ?_⟩,
    fun s p Q f hi hd ha himm hunlock => ?_, fun s p Q n f h hi hn hd ha hh hc => ?_⟩
  case refine_1 =>
    refine issue_raises hi (f := trapOp f) (x := ⟨5, (freeNow Q).toNat % 16, f.imm.setWidth 32⟩) ?_
      (by decide : 5 < 256) hc
    simp only [trapOp, legal, hd, ha, beq_self_eq_true, Bool.and_self, if_true]
  case refine_2 =>
    rw [exec_brk]
    obtain ⟨P, he, hent, hfault⟩ := issue_raises hi (brkOp_locked (bare_of hd ha himm) hlock) (by decide : 7 < 256) hc
    exact ⟨P, _, he, hent, hfault⟩
  case refine_3 =>
    obtain ⟨P, he, hent, hfault⟩ := issue_raises hi (ret := Q.core.pc) (x := ⟨1, _, _⟩)
      (f := fun _ P => if PondWord.unassigned w then raiseIllegal P else P)
      (by rw [if_pos hw]; rfl) (by decide : 1 < 256) hc
    exact ⟨P, _, he, hent, hfault⟩
  case refine_4 =>
    rw [exec_brk, issue_eq hi, brkOp_unlocked (bare_of hd ha himm) hunlock]
  case refine_5 =>
    obtain ⟨hent, hfault⟩ := raiseAt_takes (x := ⟨6, 6, BitVec.ofNat 32 (0x1000 + n.toNat)⟩) (ret := Q.core.pc)
      (by decide : 6 < 256) hc
    obtain ⟨hgate, -⟩ := hc
    exact ⟨_, exec_gateNotImplemented hi hn hd ha hh hgate, hent, hfault⟩

end Sys2Proof.Machine
end

section
/-! SUPPORT and claims. BMOV as a copy through a temporary buffer (R113, R114, R117). -/

namespace Sys2Proof.Machine

/-! ### Reads and writes of SRAM by a long instruction -/

theorem KMap.get_filter {α : Type} (d : α) (m : KMap α) (keep : Nat → Bool) (i : Nat) :
    KMap.get d (m.filter (fun e => keep e.1)) i = if keep i then KMap.get d m i else d := by
  induction m with
  | nil => simp only [List.filter_nil, KMap.get, ite_self]
  | cons e r ih =>
    obtain ⟨j, v⟩ := e
    rw [List.filter_cons, KMap.get]
    by_cases hj : j = i
    · subst hj
      cases hk : keep j
      · simpa only [hk, Bool.false_eq_true, if_false] using ih
      · simp only [if_true, KMap.get]
    · rw [if_neg hj, ← ih]
      split
      · rw [KMap.get, if_neg hj]
      · rfl

theorem SMap.get_clear_zero {n : Nat} {m : SMap n} (h : ∀ i, m.get i = 0) (a len i : Nat) :
    (m.clear a len).get i = 0 := by
  have hf := KMap.get_filter 0#n m (fun k => !(decide (a ≤ k) && decide (k < a + len))) i
  refine hf.trans ?_
  split
  · exact h i
  · rfl

theorem SMap.bytes_eq (m : SMap 8) (a len : Nat) : m.bytes a len = (List.range len).map (fun i => m.get (a + i)) := by
  induction len generalizing a with
  | zero => rfl
  | succ len ih =>
    rw [SMap.bytes, ih, List.range_succ_eq_map, List.map_cons, List.map_map, Nat.add_zero]
    refine congrArg _ (List.map_congr_left fun i _ => ?_)
    rw [Function.comp, Nat.add_assoc, Nat.add_comm 1 i]

theorem sramByte_empty {P : Pond} (h : P.core.sb = []) (a : Nat) : sramByte P a = P.sram.get (sramOff a) := by
  rw [sramByte_eq, h]
  rfl

theorem retireN_empty {P : Pond} (h : P.core.sb = []) (n : Nat) : retireN n P = P := by
  unfold retireN
  rw [h, List.take_nil, List.foldl_nil]
  dsimp only
  rw [h, List.drop_nil, ← h]

theorem sramOff_add {base : Nat} (hb : 0x20000000 ≤ base) (off i : Nat) :
    sramOff (base + off + i) = base - 0x20000000 + (off + i) := by
  unfold sramOff
  omega

/-- The field of a record, read where the store buffer is empty. -/
theorem leAt_bytes {P : Pond} {base off len size : Nat} (hb : 0x20000000 ≤ base) (h : P.core.sb = [])
    (hlen : off + len ≤ size) :
    leAt (P.sram.bytes (base - 0x20000000) size) off len = sramValue P (base + off) len := by
  have hl : slice (P.sram.bytes (base - 0x20000000) size) off len =
      (List.range len).map (fun i => sramByte P (base + off + i)) := by
    rw [SMap.bytes_eq, slice_eq (by rwa [List.length_map, List.length_range])]
    apply List.ext_getElem
    · simp only [List.length_take, List.length_drop, List.length_map, List.length_range]
      omega
    · intro i h1 h2
      rw [List.getElem_take, List.getElem_drop, List.getElem_map, List.getElem_map, List.getElem_range,
        List.getElem_range, sramByte_empty h, sramOff_add hb]
  rw [leAt, hl]
  rfl

/-- The bytes of an access written by a long instruction at another place. -/
theorem longWrite_value {P : Pond} (h : P.core.sb = []) {d a : Nat} (hd : 0x20000000 ≤ d) (ha : 0x20000000 ≤ a)
    (src k : Nat) : sramByte (longWrite d (leBytes (sramValue P src k) k) P) a =
      if d ≤ a ∧ a < d + k then sramByte P (src + (a - d)) else sramByte P a := by
  have hempty : (longWrite d (leBytes (sramValue P src k) k) P).core.sb = [] := h
  have hsram : (longWrite d (leBytes (sramValue P src k) k) P).sram =
      P.sram.setBytes (sramOff d) (leBytes (sramValue P src k) k) := rfl
  rw [sramByte_empty hempty, hsram, SMap.get_setBytes, leBytes_length, sramByte_empty h a]
  unfold sramOff
  by_cases hin : d ≤ a ∧ a < d + k
  · rw [if_pos hin, if_pos (by omega), leBytes_getD _ _ _ (by omega), sramValue_byte P src (by omega),
      show a - 0x20000000 - (d - 0x20000000) = a - d by omega]
  · rw [if_neg hin, if_neg (by omega)]

/-! ### A copy under way -/

/-- `P` is `Q` with an empty store buffer, while bytes `lo` up to `hi` of a range at `src` stand at `dst`. -/
structure Copying (Q P : Pond) (src dst lo hi : Nat) : Prop where
  frame : MemFrame Q P Q.core.g Q.core.pc
  empty : P.core.sb = []
  clean : ∀ i, P.ecc.get i = 0
  bytes : ∀ a, 0x20000000 ≤ a →
    sramByte P a = if dst + lo ≤ a ∧ a < dst + hi then sramByte Q (src + (a - dst)) else sramByte Q a

theorem Copying.charge {Q P : Pond} {src dst lo hi : Nat} (h : Copying Q P src dst lo hi) (c : Nat) :
    Copying Q (charge c 0 P) src dst lo hi := by
  obtain ⟨hframe, hempty, hclean, hbytes⟩ := h
  have hc := (CoreStep.refl P).charge c 0
  refine ⟨?_, ?_, ?_, fun a ha => (hc.sramByte a).trans (hbytes a ha)⟩
  · rw [hframe.g_eq, hframe.pc_eq] at hc
    exact hframe.core hc
  · obtain ⟨hz, age, per, ca, n, e⟩ := hc
    rw [e]
    exact hempty
  · obtain ⟨hz, age, per, ca, n, e⟩ := hc
    rw [e]
    exact hclean

/-- A piece read: its bytes, with nothing else done. -/
theorem Copying.load {Q P : Pond} {src dst lo hi a k : Nat} (h : Copying Q P src dst lo hi) (ha : inSram a)
    (hk : 1 ≤ k) (hw : a % 4 + k ≤ 4) : loadPlain P a k = (some (sramValue P a k), P) := by
  obtain ⟨hlo, -⟩ := id ha
  rw [loadPlain_sram ha (fun i hi => by omega) (fun i _ _ => h.clean i), retireN_empty h.empty]

/-- A piece written at its place: from the end of the range or below its start. -/
theorem Copying.write {Q P : Pond} {src dst lo hi at' k lo' hi' : Nat} (h : Copying Q P src dst lo hi)
    (hd : 0x20000000 ≤ dst) (hs : 0x20000000 ≤ src)
    (hread : ∀ i < k, ¬ (dst + lo ≤ src + at' + i ∧ src + at' + i < dst + hi))
    (hext : ∀ x, (lo' ≤ x ∧ x < hi') ↔ (lo ≤ x ∧ x < hi) ∨ (at' ≤ x ∧ x < at' + k)) :
    Copying Q (longWrite (dst + at') (leBytes (sramValue P (src + at') k) k) P) src dst lo' hi' where
  frame := h.frame.sram ⟨_, _, _, rfl⟩
  empty := h.empty
  clean i := by
    show SMap.get (if _ then _ else _) i = 0
    split
    · exact h.clean i
    · exact SMap.get_clear_zero h.clean _ _ _
  bytes a ha := by
    have hw : sramByte (longWrite (dst + at') (leBytes (sramValue P (src + at') k) k) P) a =
        if dst + at' ≤ a ∧ a < dst + at' + k then sramByte P (src + at' + (a - (dst + at'))) else sramByte P a :=
      longWrite_value h.empty (by omega) ha _ _
    rw [hw]
    by_cases hin : dst + at' ≤ a ∧ a < dst + at' + k
    · obtain ⟨i, rfl⟩ := Nat.exists_eq_add_of_le hin.1
      have hi : i < k := by omega
      rw [if_pos hin, if_pos (by have := (hext (at' + i)).2 (.inr (by omega)); omega), Nat.add_sub_cancel_left,
        h.bytes _ (by omega), if_neg (hread i hi)]
      congr 1
      omega
    · rw [if_neg hin, h.bytes a ha]
      refine if_congr ?_ rfl rfl
      by_cases hda : dst ≤ a
      · obtain ⟨x, rfl⟩ := Nat.exists_eq_add_of_le hda
        have := hext x
        constructor
        · intro hx
          have := this.2 (.inl (by omega))
          omega
        · intro hx
          have := this.1 (by omega)
          omega
      · omega

theorem pieceSize_sram {a : Nat} (h : inSram a) : pieceSize a = 4 := by
  unfold pieceSize
  rw [regionOf_sram h]
  rfl

section Copy
variable {Q : Pond} {src dst total : Nat}

/-- An upward copy reads no byte that it has written. -/
theorem copyUp_copies (hs : 0x20000000 ≤ src) (hst : src + total ≤ 0x2001FFC0) (hd : 0x20000000 ≤ dst)
    (hup : dst ≤ src ∨ src + total ≤ dst) (fuel n at' got : Nat) {P : Pond} (hfuel : n ≤ fuel)
    (hn : at' + n ≤ total) (h : Copying Q P src dst 0 at') :
    ∃ P', copyUp fuel (src + at') (dst + at') n got P = (none, got + n, P') ∧ Copying Q P' src dst 0 (at' + n) := by
  induction fuel generalizing n at' got P with
  | zero =>
    obtain rfl : n = 0 := by omega
    exact ⟨P, rfl, h⟩
  | succ fuel ih =>
    rw [copyUp]
    by_cases h0 : n = 0
    · rw [if_pos h0, h0]
      exact ⟨P, rfl, h⟩
    · have hin : inSram (src + at') := ⟨by omega, by omega⟩
      rw [if_neg h0, pieceSize_sram hin]
      obtain ⟨k, hk⟩ : ∃ k, min n (4 - (src + at') % 4) = k := ⟨_, rfl⟩
      simp only [hk, h.load hin (show 1 ≤ k by omega) (by omega)]
      obtain ⟨P', hP', hcopy⟩ := ih (n - k) (at' + k) (got + k) (by omega) (by omega)
        (h.write (at' := at') (k := k) (lo' := 0) (hi' := at' + k) hd hs (fun i hi => by omega) (fun x => by omega))
      rw [Nat.add_assoc src, Nat.add_assoc dst, hP']
      refine ⟨P', ?_, ?_⟩
      · rw [show got + k + (n - k) = got + n by omega]
      · rwa [show at' + k + (n - k) = at' + n by omega] at hcopy

/-- A downward copy reads no byte that it has written. -/
theorem copyDown_copies (hs : 0x20000000 ≤ src) (hst : src + total ≤ 0x2001FFC0) (hd : 0x20000000 ≤ dst)
    (hdown : src < dst) (fuel n lo got : Nat) {P : Pond} (hfuel : n ≤ fuel) (hn : n ≤ lo) (hlo : lo ≤ total)
    (h : Copying Q P src dst lo total) :
    ∃ P', copyDown fuel (src + lo) (dst + lo) n got P = (none, got + n, P') ∧
      Copying Q P' src dst (lo - n) total := by
  induction fuel generalizing n lo got P with
  | zero =>
    obtain rfl : n = 0 := by omega
    exact ⟨P, rfl, h⟩
  | succ fuel ih =>
    rw [copyDown]
    by_cases h0 : n = 0
    · rw [if_pos h0, h0]
      exact ⟨P, rfl, h⟩
    · have hin : inSram (src + lo - 1) := ⟨by omega, by omega⟩
      rw [if_neg h0, pieceSize_sram hin]
      obtain ⟨k, hk⟩ : ∃ k, min n (if (src + lo) % 4 = 0 then 4 else (src + lo) % 4) = k := ⟨_, rfl⟩
      have hk1 : 1 ≤ k ∧ k ≤ n ∧ (src + (lo - k)) % 4 + k ≤ 4 := by split_ifs at hk <;> omega
      obtain ⟨hpos, hkn, hword⟩ := hk1
      have hsrc : src + lo - k = src + (lo - k) := by omega
      have hdst : dst + lo - k = dst + (lo - k) := by omega
      simp only [hk, hsrc, hdst, h.load (show inSram (src + (lo - k)) from ⟨by omega, by omega⟩) hpos hword]
      obtain ⟨P', hP', hcopy⟩ := ih (n - k) (lo - k) (got + k) (by omega) (by omega) (by omega)
        (h.write (at' := lo - k) (k := k) (lo' := lo - k) (hi' := total) hd hs (fun i hi => by omega)
          (fun x => by omega))
      rw [hP']
      refine ⟨P', ?_, ?_⟩
      · rw [show got + k + (n - k) = got + n by omega]
      · rwa [show lo - k - (n - k) = lo - n by omega] at hcopy

end Copy

/-! ### The units of a BMOV (R117) -/

/-- A BMOV copies downward: its destination begins inside its source (R117). -/
def copiesDown (r : LRec) : Prop := r.w8 < r.wC ∧ r.wC < r.w8 + r.w10

/-- The source and the destination of a BMOV lie in SRAM. -/
def InSramCopy (r : LRec) : Prop :=
  0x20000000 ≤ r.w8 ∧ r.w8 + r.w10 ≤ 0x2001FFC0 ∧ 0x20000000 ≤ r.wC ∧ r.wC + r.w10 ≤ 0x2001FFC0

/-- The pond of a BMOV that has copied `done` bytes, in its direction. -/
def Moved (Q P : Pond) (r : LRec) (done : Nat) : Prop :=
  (copiesDown r ∧ Copying Q P r.w8 r.wC (r.w10 - done) r.w10) ∨ (¬ copiesDown r ∧ Copying Q P r.w8 r.wC 0 done)

theorem Moved.charge {Q P : Pond} {r : LRec} {done : Nat} (h : Moved Q P r done) (c : Nat) :
    Moved Q (charge c 0 P) r done := h.imp (fun ⟨hd, hc⟩ => ⟨hd, hc.charge c⟩) (fun ⟨hd, hc⟩ => ⟨hd, hc.charge c⟩)

theorem Moved.all {Q P : Pond} {r : LRec} (h : Moved Q P r r.w10) : Copying Q P r.w8 r.wC 0 r.w10 := by
  obtain ⟨-, hc⟩ | ⟨-, hc⟩ := h
  · rwa [Nat.sub_self] at hc
  · exact hc

theorem bmovOp_down (r : LRec) : (decide (r.w8 < r.wC) && decide (r.wC < r.w8 + r.w10)) = true ↔ copiesDown r := by
  rw [Bool.and_eq_true, decide_eq_true_eq, decide_eq_true_eq, copiesDown]

theorem bmovOp_unit {Q P : Pond} {r : LRec} (busy : Bool) (pc : Word) {done : Nat} (hr : InSramCopy r)
    (hdone : done ≤ r.w10) (h : Moved Q P r done) :
    ∃ P', (bmovOp r busy pc).unit done P = (none, min 32 (r.w10 - done), P') ∧
      Moved Q P' r (done + min 32 (r.w10 - done)) := by
  obtain ⟨hs, hst, hd, -⟩ := hr
  obtain ⟨hdir, hc⟩ | ⟨hdir, hc⟩ := h
  · obtain ⟨P', hP', hc'⟩ := copyDown_copies hs hst hd hdir.1 40 (min 32 (r.w10 - done)) (r.w10 - done) 0
      (by omega) (by omega) (by omega) hc
    refine ⟨P', ?_, .inl ⟨hdir, ?_⟩⟩
    · rw [Nat.zero_add] at hP'
      rw [← hP']
      simp only [bmovOp, if_pos ((bmovOp_down r).2 hdir)]
      rw [Nat.add_sub_assoc hdone, Nat.add_sub_assoc hdone]
    · rwa [Nat.sub_sub] at hc'
  · obtain ⟨P', hP', hc'⟩ := copyUp_copies hs hst hd (by unfold copiesDown at hdir; omega) 40
      (min 32 (r.w10 - done)) done 0 (by omega) (by omega) hc
    refine ⟨P', ?_, .inr ⟨hdir, hc'⟩⟩
    rw [Nat.zero_add] at hP'
    rw [← hP']
    simp only [bmovOp, if_neg (mt (bmovOp_down r).1 hdir)]

theorem bmovOp_units {Q : Pond} {r : LRec} (busy : Bool) (pc : Word) (hr : InSramCopy r) (units done : Nat) {P : Pond}
    (hdone : done ≤ r.w10) (hunits : r.w10 - done ≤ 32 * units) (h : Moved Q P r done) :
    ∃ P', longUnits (bmovOp r busy pc) units done P = (none, r.w10, P') ∧ Moved Q P' r r.w10 := by
  have htotal : (bmovOp r busy pc).total = r.w10 := rfl
  induction units generalizing done P with
  | zero =>
    obtain rfl : done = r.w10 := by omega
    exact ⟨P, rfl, h⟩
  | succ units ih =>
    rw [longUnits, htotal]
    by_cases hend : r.w10 ≤ done
    · obtain rfl : done = r.w10 := by omega
      exact ⟨P, if_pos (Nat.le_refl _), h⟩
    · obtain ⟨P1, hunit, hP1⟩ := bmovOp_unit busy pc hr hdone h
      obtain ⟨P2, hrest, hP2⟩ := ih (done + min 32 (r.w10 - done)) (by omega) (by omega)
        (hP1.charge (bmovOp r busy pc).cost)
      refine ⟨P2, ?_, hP2⟩
      simp only [if_neg hend, hunit, hrest]

/-- The pond with no long instruction under way. -/
def noLong (P : Pond) : Pond := { P with core := { P.core with long := none } }

/-- A BMOV whose units suffice ends with its header written (R114 step 4). -/
theorem longRun_bmov {Q P : Pond} {l : LongRun} {r : LRec} (busy : Bool) (pc : Word) (hr : InSramCopy r) {units : Nat}
    (hl : l.done = 0) (hunits : r.w10 ≤ 32 * units) (h : Moved Q P r 0) :
    ∃ P', longRun (bmovOp r busy pc) l units P = retire 0 (recHeader l.base 0x38#6 2 r.w10 (noLong P')) ∧
      Copying Q P' r.w8 r.wC 0 r.w10 := by
  obtain ⟨P', hrun, hP'⟩ := bmovOp_units busy pc hr units 0 (Nat.zero_le _) hunits h
  refine ⟨P', ?_, hP'.all⟩
  have htotal : (bmovOp r busy pc).total = r.w10 := rfl
  unfold longRun
  rw [hl, hrun, htotal]
  simp only [if_pos (Nat.le_refl r.w10)]
  rfl

/-! ### The start of a BMOV (R114) -/

theorem drainSb_copying {Q : Pond} (h : ∀ i, Q.ecc.get i = 0) (src dst : Nat) : Copying Q (drainSb Q) src dst 0 0 where
  frame := (MemFrame.refl Q).sram (retireN_sramOnly _ _)
  empty := by rw [drainSb, retireN_sb, List.drop_length]
  clean i := retireN_ecc_zero _ (h i)
  bytes a _ := by rw [sramByte_drainSb, if_neg (by omega)]

theorem rangeFault_sram {write busy : Bool} {a len : Nat} (hlo : 0x20000000 ≤ a) (hhi : a + len ≤ 0x2001FFC0) :
    rangeFault write busy a len = none := by
  unfold rangeFault
  by_cases h0 : len = 0
  · rw [if_pos h0]
  · have hspan : spanEnd write busy a = some (if write then 0x2001FFC0 else 0x20020000) := by
      unfold spanEnd
      rw [if_pos ⟨hlo, by split <;> omega⟩]
    rw [if_neg h0, hspan]
    exact if_pos (by split <;> omega)

theorem bmovOp_fault {r : LRec} (busy : Bool) (pc : Word) (hr : InSramCopy r) : (bmovOp r busy pc).fault = none := by
  obtain ⟨hs, hst, hd, hdt⟩ := hr
  show operandFault busy false [] [(false, r.w8, r.w10), (true, r.wC, r.w10)] pc = none
  simp only [operandFault, Bool.false_eq_true, if_false, List.find?_nil, List.findSome?_cons, List.findSome?_nil,
    rangeFault_sram hs hst, rangeFault_sram hd hdt, Option.map_none]

/-- A BMOV whose record and ranges pass their checks runs its units from the first byte. -/
theorem longStart_bmov {P : Pond} {base units : Nat} {r : LRec} (hal : base % 32 = 0) (hlo : 0x20000000 ≤ base)
    (hhi : base + 32 ≤ 0x2001FFC0) (hclean : ∀ i, (drainSb P).ecc.get i = 0) (hrec : readRec (drainSb P) base = r)
    (hst : r.st = 0) (hr : InSramCopy r) : ∃ l busy, l.base = base ∧ l.done = 0 ∧
      longStart 0x38#6 (fun r b => bmovOp r b P.core.pc) base units P =
        longRun (bmovOp r busy P.core.pc) l units (charge 6 0 (drainSb P)) := by
  have hread : eccRead (drainSb P) base 32 = (false, drainSb P) :=
    eccRead_clean (fun i hi => by omega) (fun i _ _ => hclean i)
  refine ⟨⟨0x38#6, base, 0, r.w10 % 2, r⟩, (drainSb P).pfl.op.isSome, rfl, rfl, ?_⟩
  unfold longStart
  simp only [hal, ne_eq, not_true_eq_false, if_false, rangeFault_sram hlo hhi, Option.isSome_none, Bool.false_eq_true,
    hread, hrec, hst, bmovOp_fault _ _ hr]
  rfl

/-! ### The header of the record (R114 step 4) -/

/-- What a header written leaves: its two words, every other byte, and the rest of the pond. -/
structure HeaderIs (P R : Pond) (base op st done : Nat) : Prop where
  frame : MemFrame P R P.core.g (P.core.pc + 4)
  head : sramValue R base 4 = 2 ^ 24 * op + st
  count : sramValue R (base + 4) 4 = done
  others : ∀ a, 0x20000000 ≤ a → ¬ (base ≤ a ∧ a < base + 8) → sramByte R a = sramByte P a

theorem recWord_stored {Q P : Pond} {base off v : Nat} (h : inSram (base + off)) (hv : v < 2 ^ 32) (hs : SameSram Q P) :
    Stored Q (recWord base off (BitVec.ofNat 32 v) P) (base + off) 4 v := by
  have hval : ((BitVec.ofNat 32 v).setWidth 64).toNat = v := by
    rw [BitVec.toNat_setWidth_of_le (by decide), BitVec.toNat_ofNat, Nat.mod_eq_of_lt hv]
  have hpush := pushSb_stored (.inl rfl) h hs ((BitVec.ofNat 32 v).setWidth 64)
  rwa [hval] at hpush

/-- A word stored reads as its number. -/
theorem Stored.value {Q P : Pond} {a v : Nat} (h : Stored Q P a 4 v) (ha : 0x20000000 ≤ a) (hv : v < 2 ^ 32) :
    sramValue P a 4 = v := by
  refine sramValue_eq hv fun i hi => ?_
  rw [h _ (by omega), if_pos (by omega), Nat.add_sub_cancel_left, ofNat_div_256]

theorem recHeader_is {P : Pond} {base st done : Nat} {op : BitVec 6} (hlo : 0x20000000 ≤ base)
    (hhi : base + 32 ≤ 0x2001FFC0) (hst : st < 2 ^ 24) (hdone : done < 2 ^ 32) :
    HeaderIs P (retire 0 (recHeader base op st done P)) base op.toNat st done := by
  have hop := op.isLt
  have hv : 2 ^ 24 * op.toNat + st < 2 ^ 32 := by omega
  have h1 := recWord_stored (P := P) (show inSram (base + 0) from ⟨by omega, by omega⟩) hv (fun _ _ => rfl)
  have h2 := recWord_stored (P := recWord base 0 (BitVec.ofNat 32 (2 ^ 24 * op.toNat + st)) P)
    (show inSram (base + 4) from ⟨by omega, by omega⟩) hdone (fun _ _ => rfl)
  have hend := (CoreStep.refl (recHeader base op st done P)).retire 0
  have hframe : MemFrame P (recHeader base op st done P) P.core.g P.core.pc :=
    ((MemFrame.refl P).sram (pushSb_sramOnly _ _)).sram (pushSb_sramOnly _ _)
  refine ⟨?_, ?_, ?_, fun a ha hout => ?_⟩
  · refine hframe.core ?_
    rwa [hframe.g_eq, hframe.pc_eq] at hend
  · rw [sramValue_congr fun i _ => hend.sramByte _, ← h1.value (by omega) hv]
    exact sramValue_congr fun i _ => (h2 _ (by omega)).trans (if_neg (by omega))
  · rw [sramValue_congr fun i _ => hend.sramByte _]
    exact h2.value (by omega) hdone
  · rw [hend.sramByte]
    exact ((h2 a ha).trans (if_neg (by omega))).trans ((h1 a ha).trans (if_neg (by omega)))

/-- The record of a BMOV, read where the store buffer has drained. -/
theorem readRec_drained {Q : Pond} {base : Nat} (hlo : 0x20000000 ≤ base) :
    (readRec (drainSb Q) base).st = sramValue Q base 1 ∧ (readRec (drainSb Q) base).w8 = sramValue Q (base + 8) 4 ∧
      (readRec (drainSb Q) base).wC = sramValue Q (base + 12) 4 ∧
      (readRec (drainSb Q) base).w10 = sramValue Q (base + 16) 4 := by
  have hempty : (drainSb Q).core.sb = [] := by rw [drainSb, retireN_sb, List.drop_length]
  have hfield : ∀ off len, off + len ≤ 32 →
      leAt ((drainSb Q).sram.bytes (base - 0x20000000) 32) off len = sramValue Q (base + off) len := by
    intro off len hlen
    rw [leAt_bytes hlo hempty hlen]
    exact sramValue_congr fun i _ => sramByte_drainSb _ _
  exact ⟨hfield 0 1 (by decide), hfield 8 4 (by decide), hfield 12 4 (by decide), hfield 16 4 (by decide)⟩

theorem execBmov_issues {s : State} {p : PondId} {Q : Pond} {f : FmtL} {units : Nat} (hi : Issues s p Q) (hd : f.d = 0)
    (hb : f.b = 0) (hs : f.s = 0) (he : f.ext = 0) (hf : f.func = 0) : exec (.bmov p f units) s =
      .next (withPond s p (longStart 0x38#6 (fun r b => bmovOp r b Q.core.pc) (gr Q f.a).toNat units Q)) := by
  obtain ⟨hcan, hfetch⟩ := id hi
  have hlong : (pondOf s p).core.long = none := by
    have hcan' := hcan
    unfold canIssue at hcan'
    simp only [Bool.and_eq_true, Option.isNone_iff_eq_none] at hcan'
    obtain ⟨⟨-, hlong⟩, -⟩ := hcan'
    exact hlong
  show execBmov p f units s = _
  unfold execBmov
  rw [onPond_eq]
  unfold longIssue issueP
  simp only [hlong, hcan, hfetch, if_true, hd, hb, hs, he, hf, beq_self_eq_true, Bool.and_self, legal_true]

/-- Settles O19: the units leave the source's bytes at the destination in either direction, because no piece
reads a byte already written, and the header follows in the store buffer. -/
theorem bmovCopies : Obligations.BmovCopies := by
  unfold Obligations.BmovCopies
  intro s p Q f units base src dst n hi hd hb hs he hf hbase hal hlo hhi hst hsrc hdst hn hs1 hs2 hd1 hd2 hout hecc
    hunits
  obtain ⟨rst, rsrc, rdst, rn⟩ := readRec_drained (Q := Q) hlo
  obtain ⟨r, hrec⟩ : ∃ r, readRec (drainSb Q) base = r := ⟨_, rfl⟩
  rw [hrec] at rst rsrc rdst rn
  rw [hst] at rst
  obtain rfl : r.w8 = src := rsrc.trans hsrc
  obtain rfl : r.wC = dst := rdst.trans hdst
  obtain rfl : r.w10 = n := rn.trans hn
  have hin : InSramCopy r := ⟨hs1, hs2, hd1, hd2⟩
  obtain ⟨l, busy, hlbase, hldone, hstart⟩ := longStart_bmov (P := Q) (units := units) hal hlo hhi
    (fun i => retireN_ecc_zero _ (hecc i)) hrec rst hin
  have hstart0 : Moved Q (charge 6 0 (drainSb Q)) r 0 := by
    refine Moved.charge ?_ 6
    by_cases hdir : copiesDown r
    · refine .inl ⟨hdir, ?_⟩
      obtain ⟨hframe, hempty, hclean, hbytes⟩ := drainSb_copying hecc r.w8 r.wC
      refine ⟨hframe, hempty, hclean, fun a ha => ?_⟩
      rw [hbytes a ha, if_neg (by omega), if_neg (by omega)]
    · exact .inr ⟨hdir, drainSb_copying hecc _ _⟩
  obtain ⟨P', hrun, hcopy⟩ := longRun_bmov busy Q.core.pc hin hldone hunits hstart0
  have hhead := recHeader_is (P := noLong P') (st := 2) (done := r.w10) (op := 0x38#6) hlo hhi (by decide) (by omega)
  refine ⟨_, (execBmov_issues hi hd hb hs he hf).trans (by rw [← hbase, hstart, hrun, hlbase]), ?_⟩
  obtain ⟨hframe, hword, hcount, hothers⟩ := hhead
  have hg : P'.core.g = Q.core.g := hcopy.frame.g_eq
  have hpc : P'.core.pc = Q.core.pc := hcopy.frame.pc_eq
  have hno : ∀ a, sramByte (noLong P') a = sramByte P' a := fun _ => rfl
  refine ⟨fun i hi => ?_, fun a ha hnd hnb => ?_, hword, hcount, ?_⟩
  · rw [hothers _ (by omega) (by omega), hno, hcopy.bytes _ (by omega), if_pos (by omega), Nat.add_sub_cancel_left]
  · rw [hothers a ha hnb, hno, hcopy.bytes a ha, if_neg (by omega)]
  · obtain ⟨sb, sram, ecc, hz, age, per, ca, fr, e⟩ := hframe
    obtain ⟨sb', sram', ecc', hz', age', per', ca', fr', e'⟩ := hcopy.frame
    rw [e]
    refine ⟨congrArg (· + 4) hpc, hg, ?_, ?_, rfl, ?_⟩
    · rw [e']
      rfl
    · rw [e']
      rfl
    · rw [e']
      rfl

end Sys2Proof.Machine
end

section
/-! SUPPORT. The operations that keep the bounds of a core's buffers as they are (R122, R124): each of them has the
same number of stores and posts before and after. -/

namespace Sys2Proof.Machine

/-- The store buffer holds at most four entries and the post buffer at most eight (R122, R124). -/
def Core.Fits (C : Core) : Prop := C.sb.length ≤ 4 ∧ C.pb.length ≤ 8

@[simp] theorem fits_ite {c : Prop} [Decidable c] {P Q : Pond} :
    (if c then P else Q).core.Fits ↔ if c then P.core.Fits else Q.core.Fits := by
  split <;> rfl

@[simp] theorem fits_foldl {α : Type} {f : Pond → α → Pond} {l : List α} {P : Pond}
    (h : ∀ Q a, (f Q a).core.Fits ↔ Q.core.Fits) : (l.foldl f P).core.Fits ↔ P.core.Fits := by
  induction l generalizing P with
  | nil => rfl
  | cons a r ih => rw [List.foldl_cons, ih, h]

@[simp] theorem fits_ie (C : Core) (b : Bool) : ({ C with ie := b } : Core).Fits ↔ C.Fits := Iff.rfl

@[simp] theorem fits_flags (C : Core) (f : Flags) : ({ C with flags := f } : Core).Fits ↔ C.Fits := Iff.rfl

/-! ### Ops -/

@[simp] theorem rset_fits (off : Nat) (v : Word) (P : Pond) : (rset off v P).core.Fits ↔ P.core.Fits := Iff.rfl

@[simp] theorem rmod_fits (off : Nat) (f : Word → Word) (P : Pond) : (rmod off f P).core.Fits ↔ P.core.Fits := Iff.rfl

@[simp] theorem rinc_fits (off lo len : Nat) (P : Pond) : (rinc off lo len P).core.Fits ↔ P.core.Fits := Iff.rfl

@[simp] theorem rbit_fits (off i : Nat) (P : Pond) : (rbit off i P).core.Fits ↔ P.core.Fits := Iff.rfl

@[simp] theorem useFree_fits (P : Pond) : (useFree P).core.Fits ↔ P.core.Fits := Iff.rfl

@[simp] theorem latch_fits (i : Nat) (P : Pond) : (latch i P).core.Fits ↔ P.core.Fits := Iff.rfl

@[simp] theorem picLatch_fits (P : Pond) : (picLatch P).core.Fits ↔ P.core.Fits := by
  simp [picLatch]

@[simp] theorem picEvent_fits (n : Nat) (P : Pond) : (picEvent n P).core.Fits ↔ P.core.Fits := by
  simp [picEvent]

@[simp] theorem picEvents_fits (l : List Nat) (P : Pond) : (picEvents l P).core.Fits ↔ P.core.Fits := by
  simp [picEvents]

@[simp] theorem pgSet_fits (k : Nat) (g : Pg) (P : Pond) : (pgSet k g P).core.Fits ↔ P.core.Fits := Iff.rfl

@[simp] theorem startBlank_fits (k : Nat) (P : Pond) : (startBlank k P).core.Fits ↔ P.core.Fits := by
  simp [startBlank]

@[simp] theorem withEdges_fits {f : Pond → Pond} (h : ∀ Q, (f Q).core.Fits ↔ Q.core.Fits) (P : Pond) :
    (withEdges f P).core.Fits ↔ P.core.Fits := by
  simp [withEdges, h]

@[simp] theorem flashRead_fits (P : Pond) (inactive : Bool) (off len : Nat) :
    (flashRead P inactive off len).2.core.Fits ↔ P.core.Fits := by
  unfold flashRead
  dsimp only
  split
  · rfl
  · split
    · rfl
    · split
      · rw [picEvent_fits, rinc_fits, rset_fits]
      · rw [rinc_fits, rset_fits]
  · rw [rinc_fits, rset_fits]

@[simp] theorem retireEntry_fits (P : Pond) (e : SbEntry) : (retireEntry P e).core.Fits ↔ P.core.Fits := Iff.rfl

theorem retireN_fits (n : Nat) {P : Pond} (h : P.core.Fits) : (retireN n P).core.Fits := by
  obtain ⟨hs, hp⟩ := h
  rw [retireN_core]
  exact ⟨by rw [List.length_drop]; omega, hp⟩

theorem drainSb_fits {P : Pond} (h : P.core.Fits) : (drainSb P).core.Fits := retireN_fits _ h

@[simp] theorem eccRead_fits (P : Pond) (a len : Nat) : (eccRead P a len).2.core.Fits ↔ P.core.Fits := by
  simp [eccRead]

@[simp] theorem sramWrite_fits (off : Nat) (l : List Byte) (P : Pond) : (sramWrite off l P).core.Fits ↔ P.core.Fits :=
  Iff.rfl

@[simp] theorem fetchAt_fits (P : Pond) (a : Word) : (fetchAt P a).2.core.Fits ↔ P.core.Fits := by
  have hflash := flashRead_fits P false a.toNat 4
  unfold fetchAt
  split
  · rfl
  · split
    · rfl
    · split
      · split <;> simp_all
      · split <;> simp
      · rfl

@[simp] theorem gset_fits (r : RegIx) (v : Word) (P : Pond) : (gset r v P).core.Fits ↔ P.core.Fits := Iff.rfl

@[simp] theorem charge_fits (cycles instrs : Nat) (P : Pond) : (charge cycles instrs P).core.Fits ↔ P.core.Fits := by
  obtain ⟨hz, age, per, ca, n, e⟩ := (CoreStep.refl P).charge cycles instrs
  rw [e]
  rfl

@[simp] theorem waited_fits (c : PCtx) (P : Pond) : (waited c P).core.Fits ↔ P.core.Fits := Iff.rfl

@[simp] theorem beginWait_fits (c : PCtx) (r : Run) (P : Pond) : (beginWait c r P).core.Fits ↔ P.core.Fits := Iff.rfl

@[simp] theorem stallFor_fits (uses : BitVec 16) (accRead perStore : Bool) (P : Pond) :
    (stallFor uses accRead perStore P).core.Fits ↔ P.core.Fits := by
  simp [stallFor]

@[simp] theorem pipe_fits (cycles : Nat) (hz : BitVec 16) (acc per : Bool) (P : Pond) :
    (pipe cycles hz acc per P).core.Fits ↔ P.core.Fits := Iff.rfl

@[simp] theorem finishAt_fits (target : Word) (cycles : Nat) (hz : BitVec 16) (acc per : Bool) (P : Pond) :
    (finishAt target cycles hz acc per P).core.Fits ↔ P.core.Fits := charge_fits cycles 1 P

@[simp] theorem retire_fits (cycles : Nat) (P : Pond) : (retire cycles P).core.Fits ↔ P.core.Fits := by
  simp [retire]

@[simp] theorem restoreFlags_fits (w : Word) (P : Pond) : (restoreFlags w P).core.Fits ↔ P.core.Fits := Iff.rfl

@[simp] theorem recordFault_fits (kind typ : Nat) (addr : Word) (P : Pond) :
    (recordFault kind typ addr P).core.Fits ↔ P.core.Fits := Iff.rfl

@[simp] theorem enterAt_fits (a : Word) (P : Pond) : (enterAt a P).core.Fits ↔ P.core.Fits := Iff.rfl

@[simp] theorem leaveGate_fits (P : Pond) : (leaveGate P).core.Fits ↔ P.core.Fits := Iff.rfl

@[simp] theorem stepUsed_fits (P : Pond) : (stepUsed P).core.Fits ↔ P.core.Fits := Iff.rfl


/-! ### Operands -/

@[simp] theorem setFlags_fits (fl : Flags) (P : Pond) : (setFlags fl P).core.Fits ↔ P.core.Fits := Iff.rfl

@[simp] theorem setQ_fits (q : Bool) (P : Pond) : (setQ q P).core.Fits ↔ P.core.Fits := Iff.rfl

@[simp] theorem setAcc_fits (r : BitVec 72 × Bool) (P : Pond) : (setAcc r P).core.Fits ↔ P.core.Fits := Iff.rfl


/-! ### Flash -/

@[simp] theorem pflPut_fits (f : FArr) (P : Pond) : (pflPut f P).core.Fits ↔ P.core.Fits := Iff.rfl

@[simp] theorem pflStart_fits (o : FlashOp) (P : Pond) : (pflStart o P).core.Fits ↔ P.core.Fits := by
  simp [pflStart]

@[simp] theorem pflEnd_fits (bad : Option Nat) (P : Pond) : (pflEnd bad P).core.Fits ↔ P.core.Fits := by
  unfold pflEnd
  dsimp only
  (repeat' split) <;> simp

@[simp] theorem pflAbandon_fits (P : Pond) : (pflAbandon P).core.Fits ↔ P.core.Fits := by
  unfold pflAbandon
  split <;> simp


/-! ### Pulse -/

@[simp] theorem pgSnapNow_fits (cy k : Nat) (P : Pond) : (pgSnapNow cy k P).core.Fits ↔ P.core.Fits := by
  simp [pgSnapNow]

@[simp] theorem pgArmWrite_fits (cy k duty : Nat) (P : Pond) : (pgArmWrite cy k duty P).core.Fits ↔ P.core.Fits := by
  simp [pgArmWrite]

@[simp] theorem pgLaneWrite_fits (cy lane k duty : Nat) (P : Pond) :
    (pgLaneWrite cy lane k duty P).core.Fits ↔ P.core.Fits := by
  simp [pgLaneWrite]

@[simp] theorem pgStorePreload_fits (cy k : Nat) (v : Word) (P : Pond) :
    (pgStorePreload cy k v P).core.Fits ↔ P.core.Fits := by
  unfold pgStorePreload
  split <;> simp

@[simp] theorem pgStorePeriod_fits (cy k : Nat) (v : Word) (P : Pond) :
    (pgStorePeriod cy k v P).core.Fits ↔ P.core.Fits := by
  simp [pgStorePeriod]

@[simp] theorem pgClearFresh_fits (cy k : Nat) (P : Pond) : (pgClearFresh cy k P).core.Fits ↔ P.core.Fits := by
  simp [pgClearFresh]

@[simp] theorem pgDrive_fits (k : Nat) (b : Bool) (P : Pond) : (pgDrive k b P).core.Fits ↔ P.core.Fits := Iff.rfl

@[simp] theorem pgTrigger_fits (k point num : Nat) (P : Pond) : (pgTrigger k point num P).core.Fits ↔ P.core.Fits := by
  simp [pgTrigger]

@[simp] theorem endCycleForce_fits (k : Nat) (P : Pond) : (endCycleForce k P).core.Fits ↔ P.core.Fits := Iff.rfl

@[simp] theorem startLevels_fits (k : Nat) (P : Pond) : (startLevels k P).core.Fits ↔ P.core.Fits := by
  simp [startLevels]

@[simp] theorem pgDecide_fits (cy k : Nat) (first : Bool) (P : Pond) :
    (pgDecide cy k first P).core.Fits ↔ P.core.Fits := by
  simp [pgDecide]

@[simp] theorem pgBegin_fits (cy k : Nat) (first : Bool) (P : Pond) :
    (pgBegin cy k first P).core.Fits ↔ P.core.Fits := by
  simp [pgBegin]

@[simp] theorem periodEnd_fits (cy k : Nat) (P : Pond) : (periodEnd cy k P).core.Fits ↔ P.core.Fits := by
  unfold periodEnd
  dsimp only
  (repeat' split) <;> simp

@[simp] theorem firstPeriod_fits (cy k : Nat) (P : Pond) : (firstPeriod cy k P).core.Fits ↔ P.core.Fits := by
  unfold firstPeriod
  dsimp only
  (repeat' split) <;> simp

@[simp] theorem compareEdge_fits (k e : Nat) (P : Pond) : (compareEdge k e P).core.Fits ↔ P.core.Fits := by
  unfold compareEdge
  split <;> simp

@[simp] theorem pgEnable_fits (k : Nat) (P : Pond) : (pgEnable k P).core.Fits ↔ P.core.Fits := by
  simp [pgEnable]

@[simp] theorem pgDisable_fits (k : Nat) (P : Pond) : (pgDisable k P).core.Fits ↔ P.core.Fits := by
  simp [pgDisable]

@[simp] theorem pgSetCfg_fits (k : Nat) (w : Word) (P : Pond) : (pgSetCfg k w P).core.Fits ↔ P.core.Fits := by
  simp [pgSetCfg]

@[simp] theorem pgSetEn_fits (k : Nat) (b : Bool) (P : Pond) : (pgSetEn k b P).core.Fits ↔ P.core.Fits := by
  simp [pgSetEn]

@[simp] theorem gridStart_fits (epochLen k : Nat) (P : Pond) : (gridStart epochLen k P).core.Fits ↔ P.core.Fits := by
  simp [gridStart]


/-! ### Lane -/

@[simp] theorem laneSet_fits (k : Nat) (l : Lane) (P : Pond) : (laneSet k l P).core.Fits ↔ P.core.Fits := Iff.rfl

@[simp] theorem laneCompute_fits (k : Nat) (edge : Edge) (aperture : Nat) (x r0 : Int) (P : Pond) :
    (laneCompute k edge aperture x r0 P).core.Fits ↔ P.core.Fits := Iff.rfl

@[simp] theorem cascadeSample_fits (edge : Edge) (aperture : Nat) (x : Int) (P : Pond) :
    (cascadeSample edge aperture x P).core.Fits ↔ P.core.Fits := by
  unfold cascadeSample
  dsimp only
  (repeat' split) <;> simp

@[simp] theorem laneSample_fits (k : Nat) (edge : Edge) (aperture : Nat) (x : Int) (P : Pond) :
    (laneSample k edge aperture x P).core.Fits ↔ P.core.Fits := by
  unfold laneSample
  dsimp only
  (repeat' split) <;> simp

@[simp] theorem laneOutput_fits (cy k : Nat) (P : Pond) : (laneOutput cy k P).core.Fits ↔ P.core.Fits := by
  unfold laneOutput
  dsimp only
  split
  · rfl
  · simp only [picEvent_fits, latch_fits, fits_ite, pgLaneWrite_fits, rset_fits, rmod_fits, rinc_fits, laneSet_fits,
      ite_self]

@[simp] theorem leRefWrite_fits (k : Nat) (v : Word) (P : Pond) : (leRefWrite k v P).core.Fits ↔ P.core.Fits := Iff.rfl

@[simp] theorem setRamp_fits (k : Nat) (P : Pond) : (setRamp k P).core.Fits ↔ P.core.Fits := Iff.rfl

@[simp] theorem setLaneMode_fits (k m : Nat) (P : Pond) : (setLaneMode k m P).core.Fits ↔ P.core.Fits := Iff.rfl

@[simp] theorem laneDrain_fits (n : Nat) (P : Pond) : (laneDrain n P).core.Fits ↔ P.core.Fits := by
  induction n generalizing P with
  | zero => rfl
  | succ n ih =>
    rw [laneDrain]
    split
    · rfl
    · rw [ih, laneSample_fits]

@[simp] theorem coefAuto_fits (P : Pond) : (coefAuto P).core.Fits ↔ P.core.Fits := by
  simp [coefAuto]

@[simp] theorem coefStore_fits (v : Word) (P : Pond) : (coefStore v P).core.Fits ↔ P.core.Fits := by
  simp [coefStore]


/-! ### Post -/

@[simp] theorem emit_fits (ns : Nat) (k : Packet) (P : Pond) : (emit ns k P).core.Fits ↔ P.core.Fits := Iff.rfl

@[simp] theorem discardPost_fits (P : Pond) : (discardPost P).core.Fits ↔ P.core.Fits := Iff.rfl

@[simp] theorem keepPost_fits (c : PCtx) (x : Post) (P : Pond) : (keepPost c x P).core.Fits ↔ P.core.Fits := Iff.rfl

@[simp] theorem restampOut_fits (c : PCtx) (e : Nat) (P : Pond) (x : Post) :
    (restampOut c e P x).core.Fits ↔ P.core.Fits := by
  unfold restampOut
  (repeat' split) <;> simp

@[simp] theorem restamp_fits (c : PCtx) (e : Nat) (P : Pond) : (restamp c e P).core.Fits ↔ P.core.Fits := by
  have hfold : (P.lastPosts.foldl (restampOut c e) P).core.Fits ↔ P.core.Fits := by simp
  rw [← hfold, Core.Fits, Core.Fits, restamp, List.length_map]

@[simp] theorem countLate_fits (rx : Option Nat) (P : Pond) : (countLate rx P).core.Fits ↔ P.core.Fits := by
  simp [countLate]

@[simp] theorem countReject_fits (P : Pond) : (countReject P).core.Fits ↔ P.core.Fits := by
  simp [countReject]

@[simp] theorem acceptMsg_fits (k : Packet) (P : Pond) : (acceptMsg k P).core.Fits ↔ P.core.Fits := by
  unfold acceptMsg
  dsimp only
  (repeat' split) <;> simp


/-! ### Groups -/

@[simp] theorem groupMove_fits (c : PCtx) (k : Nat) (P : Pond) : (groupMove c k P).core.Fits ↔ P.core.Fits := by
  unfold groupMove
  dsimp only
  (repeat' split) <;> simp

@[simp] theorem groupGrids_fits (c : PCtx) (P : Pond) : (groupGrids c P).core.Fits ↔ P.core.Fits := by
  simp [groupGrids]

@[simp] theorem groupPost_fits (c : PCtx) (P : Pond) : (groupPost c P).core.Fits ↔ P.core.Fits := by
  unfold groupPost
  dsimp only
  (repeat' split) <;> simp

@[simp] theorem groupApply_fits (P : Pond) : (groupApply P).core.Fits ↔ P.core.Fits := Iff.rfl

@[simp] theorem clearShare_fits (P : Pond) : (clearShare P).core.Fits ↔ P.core.Fits := Iff.rfl

@[simp] theorem clearHeld_fits (P : Pond) : (clearHeld P).core.Fits ↔ P.core.Fits := Iff.rfl

@[simp] theorem groupSt_fits (st stop : Nat) (P : Pond) : (groupSt st stop P).core.Fits ↔ P.core.Fits := Iff.rfl

@[simp] theorem groupStop_fits (reason : Nat) (P : Pond) : (groupStop reason P).core.Fits ↔ P.core.Fits := by
  simp [groupStop]

@[simp] theorem groupDisagree_fits (P : Pond) : (groupDisagree P).core.Fits ↔ P.core.Fits := by
  simp [groupDisagree]

@[simp] theorem groupShare_fits (p : Nat) (maj : BitVec 64) (held : Bool) (P : Pond) :
    (groupShare p maj held P).core.Fits ↔ P.core.Fits := by
  unfold groupShare
  split <;> simp

@[simp] theorem groupHold_fits (held agrees : Bool) (P : Pond) : (groupHold held agrees P).core.Fits ↔ P.core.Fits := by
  simp [groupHold]

@[simp] theorem groupShed_fits (P : Pond) : (groupShed P).core.Fits ↔ P.core.Fits := by
  simp [groupShed]

@[simp] theorem groupLeave_fits (gone : List Nat) (P : Pond) : (groupLeave gone P).core.Fits ↔ P.core.Fits := by
  simp [groupLeave]

@[simp] theorem runVerdict_fits (c : PCtx) (P : Pond) : (runVerdict c P).core.Fits ↔ P.core.Fits := by
  unfold runVerdict
  dsimp only
  (repeat' split) <;> simp

@[simp] theorem startVerdict_fits (c : PCtx) (P : Pond) : (startVerdict c P).core.Fits ↔ P.core.Fits := by
  unfold startVerdict
  dsimp only
  (repeat' split) <;> simp

@[simp] theorem groupJoin_fits (st : Nat) (P : Pond) : (groupJoin st P).core.Fits ↔ P.core.Fits := Iff.rfl

@[simp] theorem groupEnter_fits (P : Pond) : (groupEnter P).core.Fits ↔ P.core.Fits := by
  unfold groupEnter
  split <;> simp

@[simp] theorem groupRejoin_fits (P : Pond) : (groupRejoin P).core.Fits ↔ P.core.Fits := by
  unfold groupRejoin
  split <;> simp

@[simp] theorem groupVerdict_fits (c : PCtx) (P : Pond) : (groupVerdict c P).core.Fits ↔ P.core.Fits := by
  unfold groupVerdict
  split <;> simp

@[simp] theorem groupBegin_fits (members : List Nat) (port : Nat) (P : Pond) :
    (groupBegin members port P).core.Fits ↔ P.core.Fits := Iff.rfl

@[simp] theorem groupEnd_fits (P : Pond) : (groupEnd P).core.Fits ↔ P.core.Fits := Iff.rfl


/-! ### Cvu -/

@[simp] theorem cvuMod_fits (k : Nat) (f : Cvu → Cvu) (P : Pond) : (cvuMod k f P).core.Fits ↔ P.core.Fits := Iff.rfl

@[simp] theorem cvuFeed_fits (k : Nat) (l : List Byte) (P : Pond) : (cvuFeed k l P).core.Fits ↔ P.core.Fits := Iff.rfl

@[simp] theorem cvuStart_fits (k : Nat) (P : Pond) : (cvuStart k P).core.Fits ↔ P.core.Fits := Iff.rfl

@[simp] theorem cvuFinish_fits (k : Nat) (P : Pond) : (cvuFinish k P).core.Fits ↔ P.core.Fits := by
  simp [cvuFinish]


/-! ### Events -/

@[simp] theorem cmpSet_fits (n : Nat) (c : Cmp) (P : Pond) : (cmpSet n c P).core.Fits ↔ P.core.Fits := Iff.rfl

@[simp] theorem cmpTrip_fits (n : Nat) (P : Pond) : (cmpTrip n P).core.Fits ↔ P.core.Fits := by
  simp [cmpTrip]

@[simp] theorem cmpActive_fits (n : Nat) (nv : Int) (P : Pond) : (cmpActive n nv P).core.Fits ↔ P.core.Fits := by
  simp [cmpActive]

@[simp] theorem cmpBlankEnd_fits (n : Nat) (P : Pond) : (cmpBlankEnd n P).core.Fits ↔ P.core.Fits := by
  simp [cmpBlankEnd]

@[simp] theorem cmpInactive_fits (n : Nat) (nv : Int) (P : Pond) : (cmpInactive n nv P).core.Fits ↔ P.core.Fits := by
  simp [cmpInactive]

@[simp] theorem trippedClear_fits (n : Nat) (P : Pond) : (trippedClear n P).core.Fits ↔ P.core.Fits := by
  simp [trippedClear]

@[simp] theorem pinEdge_fits (sub i : Nat) (rise : Bool) (P : Pond) :
    (pinEdge sub i rise P).core.Fits ↔ P.core.Fits := by
  simp [pinEdge]

@[simp] theorem pinDrive_fits (sub i : Nat) (level : Bool) (P : Pond) :
    (pinDrive sub i level P).core.Fits ↔ P.core.Fits := by
  simp [pinDrive]

@[simp] theorem fltForce_fits (n : Nat) (P : Pond) : (fltForce n P).core.Fits ↔ P.core.Fits := by
  simp [fltForce]

@[simp] theorem fltClear_fits (n : Nat) (P : Pond) : (fltClear n P).core.Fits ↔ P.core.Fits := by
  simp [fltClear]

@[simp] theorem capPop_fits (i : Nat) (P : Pond) : (capPop i P).2.core.Fits ↔ P.core.Fits := by
  unfold capPop
  split <;> simp

@[simp] theorem etHi_fits (k : Nat) (v : Word) (P : Pond) : (etHi k v P).core.Fits ↔ P.core.Fits := Iff.rfl

@[simp] theorem etLo_fits (k : Nat) (v : Word) (P : Pond) : (etLo k v P).core.Fits ↔ P.core.Fits := Iff.rfl

@[simp] theorem etFire_fits (k : Nat) (P : Pond) : (etFire k P).core.Fits ↔ P.core.Fits := by
  simp [etFire]


/-! ### Sampling -/

@[simp] theorem convSet_fits (n : Nat) (c : Conv) (P : Pond) : (convSet n c P).core.Fits ↔ P.core.Fits := Iff.rfl

@[simp] theorem tapEdge_fits (len : Nat) (e : Edge) (f : TapOpen → TapOpen) (P : Pond) :
    (tapEdge len e f P).core.Fits ↔ P.core.Fits := Iff.rfl

@[simp] theorem tapTrigger_fits (len n : Nat) (e : Edge) (slots : Nat) (P : Pond) :
    (tapTrigger len n e slots P).core.Fits ↔ P.core.Fits := by
  simp [tapTrigger]

@[simp] theorem tapCode_fits (len n j : Nat) (e : Edge) (code : Int) (P : Pond) :
    (tapCode len n j e code P).core.Fits ↔ P.core.Fits := by
  simp [tapCode]

@[simp] theorem gssHalf_fits (b : Bool) (code : BitVec 16) (P : Pond) : (gssHalf b code P).core.Fits ↔ P.core.Fits := by
  unfold gssHalf
  dsimp only
  (repeat' split) <;> simp

@[simp] theorem refuse_fits (len n : Nat) (overrun : Bool) (e : Edge) (P : Pond) :
    (refuse len n overrun e P).core.Fits ↔ P.core.Fits := by
  simp [refuse]

@[simp] theorem trigger_fits (len n : Nat) (e : Edge) (P : Pond) : (trigger len n e P).core.Fits ↔ P.core.Fits := by
  simp [trigger]

@[simp] theorem adcTrigger_fits (len n : Nat) (P : Pond) : (adcTrigger len n P).core.Fits ↔ P.core.Fits := by
  unfold adcTrigger
  dsimp only
  (repeat' split) <;> simp

@[simp] theorem swTrigger_fits (len ns n : Nat) (P : Pond) : (swTrigger len ns n P).core.Fits ↔ P.core.Fits := by
  simp [swTrigger]

@[simp] theorem toLane_fits (k : Nat) (b : Burst) (w : Word) (code : Int) (P : Pond) :
    (toLane k b w code P).core.Fits ↔ P.core.Fits := by
  simp [toLane]

@[simp] theorem handoverPost_fits (c : PCtx) (n : Nat) (P : Pond) : (handoverPost c n P).core.Fits ↔ P.core.Fits := by
  unfold handoverPost
  dsimp only
  (repeat' split) <;> simp

@[simp] theorem windowCheck_fits (c : PCtx) (n : Nat) (code : Int) (P : Pond) :
    (windowCheck c n code P).core.Fits ↔ P.core.Fits := by
  simp [windowCheck]

@[simp] theorem captureStore_fits (n j : Nat) (cover : Bool) (code : BitVec 16) (P : Pond) :
    (captureStore n j cover code P).core.Fits ↔ P.core.Fits := by
  simp [captureStore]

@[simp] theorem slotResult_fits (c : PCtx) (x : Nat) (nv : Int) (P : Pond) :
    (slotResult c x nv P).core.Fits ↔ P.core.Fits := by
  unfold slotResult
  (repeat' split) <;> simp

@[simp] theorem cutBurst_fits (len x : Nat) (P : Pond) : (cutBurst len x P).core.Fits ↔ P.core.Fits := by
  unfold cutBurst
  split <;> simp

@[simp] theorem calRequest_fits (v : Word) (P : Pond) : (calRequest v P).core.Fits ↔ P.core.Fits := by
  simp [calRequest]

@[simp] theorem calBegin_fits (len e n : Nat) (P : Pond) : (calBegin len e n P).core.Fits ↔ P.core.Fits := by
  unfold calBegin
  dsimp only
  (repeat' split) <;> simp

@[simp] theorem calApply_fits (n : Nat) (epoch : Word) (r : CalRes) (P : Pond) :
    (calApply n epoch r P).core.Fits ↔ P.core.Fits := by
  simp [calApply]

@[simp] theorem calReturn_fits (e n : Nat) (P : Pond) : (calReturn e n P).core.Fits ↔ P.core.Fits := by
  unfold calReturn
  dsimp only
  (repeat' split) <;> simp

@[simp] theorem calEnd_fits (n : Nat) (r : CalRes) (P : Pond) : (calEnd n r P).core.Fits ↔ P.core.Fits := by
  unfold calEnd
  dsimp only
  (repeat' split) <;> simp

@[simp] theorem cbufPop_fits (P : Pond) : (cbufPop P).2.core.Fits ↔ P.core.Fits := by
  unfold cbufPop
  (repeat' split) <;> simp


/-! ### Sideband -/

@[simp] theorem sbFld_fits (lo len v : Nat) (P : Pond) : (sbFld lo len v P).core.Fits ↔ P.core.Fits := Iff.rfl

@[simp] theorem sbMod_fits (f : Sb → Sb) (P : Pond) : (sbMod f P).core.Fits ↔ P.core.Fits := Iff.rfl

@[simp] theorem sbEnd_fits (result : Nat) (P : Pond) : (sbEnd result P).core.Fits ↔ P.core.Fits := by
  simp [sbEnd]

@[simp] theorem sbStop_fits (now : Nat) (P : Pond) : (sbStop now P).core.Fits ↔ P.core.Fits := Iff.rfl

@[simp] theorem sbCmdWrite_fits (now : Nat) (w : Word) (P : Pond) : (sbCmdWrite now w P).core.Fits ↔ P.core.Fits := by
  simp [sbCmdWrite]

@[simp] theorem sbStart_fits (now : Nat) (P : Pond) : (sbStart now P).core.Fits ↔ P.core.Fits := by
  simp [sbStart]

@[simp] theorem sbTransaction_fits (now : Nat) (nack : Option Nat) (rx : List Byte) (pec : Byte) (P : Pond) :
    (sbTransaction now nack rx pec P).core.Fits ↔ P.core.Fits := by
  unfold sbTransaction
  dsimp only
  (repeat' split) <;> simp

@[simp] theorem sbCut_fits (P : Pond) : (sbCut P).core.Fits ↔ P.core.Fits := by
  unfold sbCut
  split <;> simp

@[simp] theorem sbSequence_fits (now : Nat) (P : Pond) : (sbSequence now P).core.Fits ↔ P.core.Fits := Iff.rfl

@[simp] theorem sbRecover_fits (now : Nat) (P : Pond) : (sbRecover now P).core.Fits ↔ P.core.Fits := by
  simp [sbRecover]

@[simp] theorem sbReset_fits (now : Nat) (P : Pond) : (sbReset now P).core.Fits ↔ P.core.Fits := by
  simp [sbReset]

@[simp] theorem sbSetEn_fits (now : Nat) (b : Bool) (P : Pond) : (sbSetEn now b P).core.Fits ↔ P.core.Fits := by
  simp [sbSetEn]

@[simp] theorem sbArbLost_fits (now : Nat) (P : Pond) : (sbArbLost now P).core.Fits ↔ P.core.Fits := by
  simp [sbArbLost]

@[simp] theorem sbTimeout_fits (now : Nat) (P : Pond) : (sbTimeout now P).core.Fits ↔ P.core.Fits := by
  simp [sbTimeout]

@[simp] theorem sbRound_fits (now : Nat) (sclLow : Bool) (pulses : Option (Fin 10)) (P : Pond) :
    (sbRound now sclLow pulses P).core.Fits ↔ P.core.Fits := by
  unfold sbRound
  (repeat' split) <;> simp

@[simp] theorem sbPulseEnd_fits (now : Nat) (P : Pond) : (sbPulseEnd now P).core.Fits ↔ P.core.Fits := by
  unfold sbPulseEnd
  split <;> simp

@[simp] theorem sbAlert_fits (asserted : Bool) (P : Pond) : (sbAlert asserted P).core.Fits ↔ P.core.Fits := by
  simp [sbAlert]

@[simp] theorem sbBufAuto_fits (P : Pond) : (sbBufAuto P).core.Fits ↔ P.core.Fits := by
  simp [sbBufAuto]

@[simp] theorem sbBufStore_fits (v : Word) (P : Pond) : (sbBufStore v P).core.Fits ↔ P.core.Fits := by
  simp [sbBufStore]


/-! ### Pond Regs -/

@[simp] theorem claim_fits (P : Pond) : (claim P).2.core.Fits ↔ P.core.Fits := by
  unfold claim
  split <;> simp

@[simp] theorem complete_fits (n : Nat) (P : Pond) : (complete n P).core.Fits ↔ P.core.Fits := by
  simp [complete]

@[simp] theorem softTrigger_fits (v : Word) (P : Pond) : (softTrigger v P).core.Fits ↔ P.core.Fits := by
  simp [softTrigger]

@[simp] theorem clearRc_fits (off : Nat) (P : Pond) : (clearRc off P).core.Fits ↔ P.core.Fits := by
  unfold clearRc
  split <;> simp

@[simp] theorem loadReg_fits (c : PCtx) (off : Nat) (P : Pond) : (loadReg c off P).2.core.Fits ↔ P.core.Fits := by
  unfold loadReg
  split <;> simp

@[simp] theorem storePlain_fits (off : Nat) (v : Word) (P : Pond) : (storePlain off v P).core.Fits ↔ P.core.Fits := by
  unfold storePlain
  split <;> simp

@[simp] theorem askPondReset_fits (cause : Nat) (P : Pond) : (askPondReset cause P).core.Fits ↔ P.core.Fits := by
  simp [askPondReset]

@[simp] theorem askCoreReset_fits (cause : Nat) (P : Pond) : (askCoreReset cause P).core.Fits ↔ P.core.Fits := by
  simp [askCoreReset]

@[simp] theorem resetRequest_fits (v : Word) (P : Pond) : (resetRequest v P).core.Fits ↔ P.core.Fits := by
  simp [resetRequest]

@[simp] theorem storeCmpCtrl_fits (n : Nat) (v : Word) (P : Pond) : (storeCmpCtrl n v P).core.Fits ↔ P.core.Fits := by
  simp [storeCmpCtrl]

@[simp] theorem storeAdcTrig_fits (n : Nat) (v : Word) (P : Pond) : (storeAdcTrig n v P).core.Fits ↔ P.core.Fits := by
  simp [storeAdcTrig]

@[simp] theorem storeCapCtrl_fits (sub : Nat) (v : Word) (P : Pond) :
    (storeCapCtrl sub v P).core.Fits ↔ P.core.Fits := by
  simp [storeCapCtrl]

@[simp] theorem storeCvuCtrl_fits (v : Word) (P : Pond) : (storeCvuCtrl v P).core.Fits ↔ P.core.Fits := by
  simp [storeCvuCtrl]

@[simp] theorem storeCvuCfg_fits (k : Nat) (v : Word) (P : Pond) : (storeCvuCfg k v P).core.Fits ↔ P.core.Fits := by
  simp [storeCvuCfg]

@[simp] theorem storeCvuData_fits (v : Word) (P : Pond) : (storeCvuData v P).core.Fits ↔ P.core.Fits := by
  simp [storeCvuData]

@[simp] theorem storeFeed_fits (k : Nat) (v : Word) (P : Pond) : (storeFeed k v P).core.Fits ↔ P.core.Fits := Iff.rfl

@[simp] theorem storeSbCtrl_fits (now : Nat) (v : Word) (P : Pond) : (storeSbCtrl now v P).core.Fits ↔ P.core.Fits := by
  simp [storeSbCtrl]

@[simp] theorem storeReg_fits (c : PCtx) (off : Nat) (v : Word) (P : Pond) :
    (storeReg c off v P).core.Fits ↔ P.core.Fits := by
  unfold storeReg
  (repeat' split) <;> simp


/-! ### Ledger -/

@[simp] theorem energyPost_fits (c : PCtx) (P : Pond) : (energyPost c P).core.Fits ↔ P.core.Fits := by
  simp [energyPost]


/-! ### Images -/

@[simp] theorem pflReads_fits (inactive : Bool) (l : List Nat) (P : Pond) :
    (pflReads inactive l P).core.Fits ↔ P.core.Fits := by
  have hfold : ∀ x : Bool × Pond, (l.foldl (fun (x : Bool × Pond) i => if x.1 then x else
      (!(pflArr x.2).good i, (flashRead x.2 inactive (32 * (i % 8192)) 4).2)) x).2.core.Fits ↔ x.2.core.Fits := by
    induction l with
    | nil => exact fun _ => Iff.rfl
    | cons i r ih =>
      intro x
      rw [List.foldl_cons, ih]
      split
      · rfl
      · exact flashRead_fits _ _ _ _
  exact hfold (false, P)

@[simp] theorem imgReads_fits (inactive : Bool) (P : Pond) : (imgReads inactive P).core.Fits ↔ P.core.Fits := by
  simp [imgReads]


/-! ### Pond Life -/

@[simp] theorem enableAct_fits (on : Bool) (m : Nat) (P : Pond) : (enableAct on m P).core.Fits ↔ P.core.Fits := by
  simp [enableAct]

@[simp] theorem loadSetup_fits (c : PCtx) (P : Pond) : (loadSetup c P).core.Fits ↔ P.core.Fits := by
  simp [loadSetup]

@[simp] theorem readEntry_fits (off : Nat) (P : Pond) : (readEntry off P).core.Fits ↔ P.core.Fits := by
  simp [readEntry]

@[simp] theorem startRefs_fits (P : Pond) : (startRefs P).core.Fits ↔ P.core.Fits := by
  simp [startRefs]

@[simp] theorem pondResetEnd_fits (c : PCtx) (P : Pond) : (pondResetEnd c P).core.Fits ↔ P.core.Fits := by
  unfold pondResetEnd
  rw [loadSetup_fits]
  rfl

@[simp] theorem completeAll_fits (P : Pond) : (completeAll P).core.Fits ↔ P.core.Fits := by
  simp [completeAll]

@[simp] theorem pcoreClear_fits (P : Pond) : (pcoreClear P).core.Fits ↔ P.core.Fits := Iff.rfl

@[simp] theorem boundaryTime_fits (len : Nat) (P : Pond) : (boundaryTime len P).2.core.Fits ↔ P.core.Fits := by
  unfold boundaryTime
  dsimp only
  (repeat' split) <;> simp

@[simp] theorem writeRecord_fits (len : Nat) (P : Pond) : (writeRecord len P).core.Fits ↔ P.core.Fits :=
  sramWrite_fits _ _ P

@[simp] theorem applyMessages_fits (P : Pond) : (applyMessages P).core.Fits ↔ P.core.Fits := by
  simp [applyMessages]

@[simp] theorem registerEdge_fits (P : Pond) : (registerEdge P).core.Fits ↔ P.core.Fits := Iff.rfl

@[simp] theorem takeBack_fits (e : Nat) (P : Pond) (k : Packet) : (takeBack e P k).core.Fits ↔ P.core.Fits := by
  simp [takeBack]

@[simp] theorem boundaryOpen_fits (c : PCtx) (P : Pond) : (boundaryOpen c P).2.core.Fits ↔ P.core.Fits := by
  simp [boundaryOpen]

@[simp] theorem boundaryIdle_fits (len : Nat) (P : Pond) : (boundaryIdle len P).2.core.Fits ↔ P.core.Fits := Iff.rfl

@[simp] theorem boundaryCal_fits (len : Nat) (P : Pond) : (boundaryCal len P).core.Fits ↔ P.core.Fits := by
  simp [boundaryCal]

@[simp] theorem boundarySwapDone_fits (P : Pond) : (boundarySwapDone P).core.Fits ↔ P.core.Fits := by
  unfold boundarySwapDone
  split <;> simp

@[simp] theorem boundaryClose_fits (resets : Bool) (c : PCtx) (P : Pond) :
    (boundaryClose resets c P).core.Fits ↔ P.core.Fits := by
  simp [boundaryClose]

@[simp] theorem markCalLate_fits (P : Pond) : (markCalLate P).core.Fits ↔ P.core.Fits := by
  simp [markCalLate]


/-! ### Held -/

@[simp] theorem entrySeen_fits (c : PCtx) (off : Nat) (v : Word) (P : Pond) :
    (entrySeen c off v P).core.Fits ↔ P.core.Fits := by
  simp [entrySeen]

@[simp] theorem setRefAct_fits (m : Nat) (r0 r1 : Word) (P : Pond) : (setRefAct m r0 r1 P).core.Fits ↔ P.core.Fits := by
  simp [setRefAct]

@[simp] theorem orphanAct_fits (policy : Nat) (P : Pond) : (orphanAct policy P).core.Fits ↔ P.core.Fits := by
  unfold orphanAct
  split <;> simp

@[simp] theorem swapArm_fits (a : Nat) (P : Pond) : (swapArm a P).core.Fits ↔ P.core.Fits := Iff.rfl

@[simp] theorem pondAct_fits (c : PCtx) (a : Act) (P : Pond) : (pondAct c a P).2.core.Fits ↔ P.core.Fits := by
  unfold pondAct
  dsimp only
  (repeat' split) <;> simp

@[simp] theorem noteCame_fits (cyc : Nat) (k : Packet) (P Q : Pond) : (noteCame cyc k P Q).core.Fits ↔ Q.core.Fits := by
  simp [noteCame]


/-! ### Boundary -/

@[simp] theorem gssConv_fits (len e ns n : Nat) (P : Pond) : (gssConv len e ns n P).core.Fits ↔ P.core.Fits := by
  simp [gssConv]

@[simp] theorem gssPond_fits (len e ns sub : Nat) (P : Pond) : (gssPond len e ns sub P).core.Fits ↔ P.core.Fits := by
  simp [gssPond]

@[simp] theorem tapHold_fits (P : Pond) : (tapHold P).core.Fits ↔ P.core.Fits := Iff.rfl

@[simp] theorem cutAnswer_fits (p ns : Nat) (P : Pond) : (cutAnswer p ns P).core.Fits ↔ P.core.Fits := by
  unfold cutAnswer
  split <;> simp

@[simp] theorem swapDrop_fits (P : Pond) : (swapDrop P).core.Fits ↔ P.core.Fits := Iff.rfl


/-! ### Messages -/

@[simp] theorem noticeAt_fits (k : Packet) (P : Pond) : (noticeAt k P).core.Fits ↔ P.core.Fits := by
  simp [noticeAt]

@[simp] theorem answer_fits (ns p : Nat) (k : Packet) (op status data : Nat) (P : Pond) :
    (answer ns p k op status data P).core.Fits ↔ P.core.Fits := Iff.rfl

@[simp] theorem peekPond_fits (c : PCtx) (a : Nat) (P : Pond) : (peekPond c a P).2.2.core.Fits ↔ P.core.Fits := by
  unfold peekPond
  dsimp only
  (repeat' split) <;> simp

@[simp] theorem pokePond_fits (c : PCtx) (a : Nat) (v : Word) (P : Pond) :
    (pokePond c a v P).2.core.Fits ↔ P.core.Fits := by
  unfold pokePond
  (repeat' split) <;> simp

@[simp] theorem streamSend_fits (c : PCtx) (P : Pond) : (streamSend c P).core.Fits ↔ P.core.Fits := by
  unfold streamSend
  split <;> simp


/-! ### Startup -/

@[simp] theorem pondEntry_fits (e : SetupEntry) (P : Pond) : (pondEntry e P).core.Fits ↔ P.core.Fits := by
  unfold pondEntry
  split <;> simp

@[simp] theorem releasePins_fits (P : Pond) : (releasePins P).core.Fits ↔ P.core.Fits := by
  simp [releasePins]

@[simp] theorem noAutostart_fits (P : Pond) : (noAutostart P).core.Fits ↔ P.core.Fits := Iff.rfl


/-! ### Debug -/

@[simp] theorem dbgHold_fits (b : Bool) (P : Pond) : (dbgHold b P).core.Fits ↔ P.core.Fits := Iff.rfl


/-! ### Memory -/

@[simp] theorem sbStall_fits (P : Pond) : (sbStall P).core.Fits ↔ P.core.Fits := by
  simp [sbStall]

@[simp] theorem caStore_fits (off : Nat) (P : Pond) : (caStore off P).core.Fits ↔ P.core.Fits := by
  unfold caStore
  split
  · rfl
  · split <;> rfl


/-! ### Gates -/

@[simp] theorem gateResult_fits (g0 g1 : Word) (P : Pond) : (gateResult g0 g1 P).core.Fits ↔ P.core.Fits := by
  simp [gateResult]


/-! ### Long -/

@[simp] theorem longWrite_fits (a : Nat) (l : List Byte) (P : Pond) : (longWrite a l P).core.Fits ↔ P.core.Fits :=
  Iff.rfl


/-! ### System -/

@[simp] theorem waiteDone_fits (mask : BitVec 8) (P : Pond) : (waiteDone mask P).core.Fits ↔ P.core.Fits := by
  unfold waiteDone
  rw [picLatch_fits]
  exact finishAt_fits (P.core.pc + 4) 2 0 false false P


/-! ### Tick -/

@[simp] theorem pondTick_fits (P : Pond) : (pondTick P).core.Fits ↔ P.core.Fits := by
  simp [pondTick]

end Sys2Proof.Machine
end

section
/-! SUPPORT. The operations of the machine that leave every pond as it is. -/

namespace Sys2Proof.Machine

@[simp] theorem ite_ponds {c : Prop} [Decidable c] {s t : State} :
    (if c then s else t).ponds = if c then s.ponds else t.ponds := by
  split <;> rfl

@[simp] theorem foldl_keeps_ponds {α : Type} {f : State → α → State} {l : List α} {s : State}
    (h : ∀ t a, (f t a).ponds = t.ponds) : (l.foldl f s).ponds = s.ponds := by
  induction l generalizing s with
  | nil => rfl
  | cons a r ih => rw [List.foldl_cons, ih, h]

/-! ### Shore -/

@[simp] theorem sset_ponds (off : Nat) (v : Word) (s : State) : (sset off v s).ponds = s.ponds := rfl

@[simp] theorem sinc_ponds (off lo len k : Nat) (s : State) : (sinc off lo len k s).ponds = s.ponds := rfl

@[simp] theorem useShoreFree_ponds (s : State) : (useShoreFree s).ponds = s.ponds := rfl

@[simp] theorem onCount_ponds (f : IvCount → IvCount) (s : State) : (onCount f s).ponds = s.ponds := rfl

@[simp] theorem markFlag_ponds (i : Nat) (s : State) : (markFlag i s).ponds = s.ponds := rfl

@[simp] theorem markTiming_ponds (s : State) : (markTiming s).ponds = s.ponds := rfl

@[simp] theorem countAsap_ponds (s : State) : (countAsap s).ponds = s.ponds := rfl

@[simp] theorem countCollide_ponds (s : State) : (countCollide s).ponds = s.ponds := rfl

@[simp] theorem countLateTotal_ponds (k : Nat) (s : State) : (countLateTotal k s).ponds = s.ponds := rfl

@[simp] theorem hubEmit_ponds (k : Packet) (s : State) : (hubEmit k s).ponds = s.ponds := rfl

@[simp] theorem onPort_keeps_ponds (h : Nat) (f : Port → Port) (s : State) : (onPort h f s).ponds = s.ponds := rfl

@[simp] theorem onCtx_ponds (h n : Nat) (f : Ctx → Ctx) (s : State) : (onCtx h n f s).ponds = s.ponds := rfl

@[simp] theorem cplLost_ponds (h k : Nat) (s : State) : (cplLost h k s).ponds = s.ponds := rfl

@[simp] theorem dmaErr_ponds (h addr : Nat) (s : State) : (dmaErr h addr s).ponds = s.ponds := rfl

@[simp] theorem postWrite_ponds (h addr : Nat) (l : List Byte) (k : WriteKind) (s : State) :
    (postWrite h addr l k s).ponds = s.ponds := rfl

@[simp] theorem sendCpl_ponds (h : Nat) (e : Cpl) (s : State) : (sendCpl h e s).ponds = s.ponds := by
  unfold sendCpl
  dsimp only
  (repeat' split) <;> simp

@[simp] theorem portFlush_keeps_ponds (h : Nat) (s : State) : (portFlush h s).ponds = s.ponds := portFlush_ponds h s

@[simp] theorem ctxRun_ponds (h n : Nat) (s : State) : (ctxRun h n s).ponds = s.ponds := rfl

@[simp] theorem ctxSettle_ponds (h n : Nat) (s : State) : (ctxSettle h n s).ponds = s.ponds := by
  simp [ctxSettle]

@[simp] theorem produceCpl_ponds (h n life : Nat) (index : Word) (order : Nat) (head : List Byte) (s : State) :
    (produceCpl h n life index order head s).ponds = s.ponds := by
  simp [produceCpl]

@[simp] theorem breakPort_ponds (h : Nat) (s : State) : (breakPort h s).ponds = s.ponds := by
  simp [breakPort]

@[simp] theorem keyDenied_ponds (s : State) : (keyDenied s).ponds = s.ponds := rfl

@[simp] theorem eraseKeys_ponds (s : State) : (eraseKeys s).ponds = s.ponds := rfl

@[simp] theorem alarmNotice_ponds (n : Nat) (s : State) : (alarmNotice n s).ponds = s.ponds := by
  simp [alarmNotice]

@[simp] theorem alarmLog_ponds (n : Nat) (s : State) : (alarmLog n s).ponds = s.ponds := by
  simp [alarmLog]

@[simp] theorem alarmRaise_ponds (n : Nat) (s : State) : (alarmRaise n s).ponds = s.ponds := by
  simp [alarmRaise]

@[simp] theorem alarmRaises_ponds (m : BitVec 8) (s : State) : (alarmRaises m s).ponds = s.ponds := by
  simp [alarmRaises]


/-! ### Ledger -/

@[simp] theorem checkFail_ponds (kind pond e : Nat) (d : Int) (s : State) :
    (checkFail kind pond e d s).ponds = s.ponds := by
  simp [checkFail]

@[simp] theorem credit_ponds (n : Nat) (q : Int) (s : State) : (credit n q s).ponds = s.ponds := rfl

@[simp] theorem inc64_ponds (off : Nat) (s : State) : (inc64 off s).ponds = s.ponds := rfl

@[simp] theorem continuity_ponds (h : HeldPost) (s : State) : (continuity h s).ponds = s.ponds := by
  simp [continuity]

@[simp] theorem bookPost_ponds (h : HeldPost) (s : State) : (bookPost h s).ponds = s.ponds := by
  unfold bookPost
  split <;> simp

@[simp] theorem latePost_ponds (h : HeldPost) (s : State) : (latePost h s).ponds = s.ponds := by
  simp [latePost]

@[simp] theorem postReport_ponds (k : Packet) (s : State) : (postReport k s).ponds = s.ponds := by
  unfold postReport
  dsimp only
  rw [sset_ponds, sset_ponds, sset_ponds, smod_ponds, sinc_ponds, countLateTotal_ponds]

@[simp] theorem energyArrive_ponds (k : Packet) (s : State) : (energyArrive k s).ponds = s.ponds := by
  simp [energyArrive]

theorem takeEjected_ponds {e : Nat} {f : Packet → Bool} {s : State} {x : Packet × State}
    (h : takeEjected e f s = some x) : x.2.ponds = s.ponds := by
  unfold takeEjected at h
  dsimp only at h
  split at h
  · cases h
  · cases h
    rfl

@[simp] theorem ivEnqueue_ponds (x : IvSnap) (s : State) : (ivEnqueue x s).ponds = s.ponds := by
  simp [ivEnqueue]

@[simp] theorem ivClose_ponds (stop next : Nat) (add : Word) (s : State) :
    (ivClose stop next add s).ponds = s.ponds := by
  simp [ivClose]

@[simp] theorem conserve_ponds (s : State) : (conserve s).ponds = s.ponds := by
  simp [conserve]

@[simp] theorem bookDue_ponds (e : Nat) (s : State) : (bookDue e s).ponds = s.ponds := by
  simp [bookDue]


/-! ### Cmd Base -/

@[simp] theorem onCmd_ponds (order : Nat) (f : Cmd → Cmd) (s : State) : (onCmd order f s).ponds = s.ponds := rfl

@[simp] theorem finish_ponds (c : Cmd) (status detail commit applied : Nat) (result : Word) (lost : Bool)
    (s : State) : (finish c status detail commit applied result lost s).ponds = s.ponds := by
  simp [finish]

@[simp] theorem finishNow_ponds (c : Cmd) (status detail : Nat) (result : Word) (s : State) :
    (finishNow c status detail result s).ponds = s.ponds := by
  simp [finishNow]

@[simp] theorem setPhase_ponds (c : Cmd) (ph : Phase) (s : State) : (setPhase c ph s).ponds = s.ponds := rfl

@[simp] theorem finishData_ponds (c : Cmd) (addr : Nat) (data : List Byte) (result : Word) (s : State) :
    (finishData c addr data result s).ponds = s.ponds := by
  unfold finishData
  rw [finish_ponds]
  split
  · exact postWrite_ponds _ _ _ _ s
  · rfl

@[simp] theorem takeEffect_ponds (c : Cmd) (s : State) : (takeEffect c s).ponds = s.ponds := by
  unfold takeEffect
  dsimp only
  rw [onShore_ponds]
  exact foldl_keeps_ponds fun _ _ => rfl

@[simp] theorem settleCmd_ponds (s : State) (c : Cmd) : (settleCmd s c).ponds = s.ponds := by
  unfold settleCmd
  split <;> simp

@[simp] theorem settle_ponds (a : Nat) (s : State) : (settle a s).ponds = s.ponds := by
  simp [settle]

@[simp] theorem effect_ponds (c : Cmd) (result : Word) (s : State) : (effect c result s).ponds = s.ponds := by
  simp [effect]

@[simp] theorem noEffect_ponds (c : Cmd) (status detail : Nat) (s : State) :
    (noEffect c status detail s).ponds = s.ponds := by
  unfold noEffect
  rw [settle_ponds, finish_ponds]

@[simp] theorem pondOutcome_ponds (order status detail : Nat) (result : Word) (s : State) :
    (pondOutcome order status detail result s).ponds = s.ponds := by
  unfold pondOutcome
  (repeat' split) <;> simp

@[simp] theorem consumeCounts_ponds (h n : Nat) (s : State) : (consumeCounts h n s).ponds = s.ponds := rfl

theorem atOnce_ponds {f : Cmd → State → State} (hf : ∀ c t, (f c t).ponds = t.ponds) (c : Cmd) (s : State) :
    (atOnce f c s).ponds = s.ponds := by
  unfold atOnce
  split <;> simp [hf]

@[simp] theorem readOperand_ponds (addr len : Nat) (c : Cmd) (s : State) :
    (readOperand addr len c s).ponds = s.ponds := by
  simp [readOperand]

@[simp] theorem portBreak_ponds (h : Nat) (s : State) : (portBreak h s).ponds = s.ponds := by
  unfold portBreak
  dsimp only
  rw [foldl_keeps_ponds, breakPort_ponds]
  intro t c
  split <;> simp


/-! ### Sluice -/

@[simp] theorem onLink_ponds (l : Nat) (f : Link → Link) (s : State) : (onLink l f s).ponds = s.ponds := rfl

@[simp] theorem sluiceAdd_ponds (r : SluiceRec) (s : State) : (sluiceAdd r s).ponds = s.ponds := by
  unfold sluiceAdd
  dsimp only
  rw [onWeir_ponds]
  exact foldl_keeps_ponds fun _ _ => rfl

@[simp] theorem sluiceFree_ponds (r : SluiceRec) (s : State) : (sluiceFree r s).ponds = s.ponds := by
  unfold sluiceFree
  dsimp only
  rw [onWeir_ponds]
  exact foldl_keeps_ponds fun _ _ => rfl

@[simp] theorem sluicesFree_ponds (s : State) : (sluicesFree s).ponds = s.ponds := by
  simp [sluicesFree]


/-! ### Sys Flash -/

@[simp] theorem sflPut_ponds (a : FArr) (s : State) : (sflPut a s).ponds = s.ponds := rfl

@[simp] theorem sflErase_ponds (sector : Nat) (s : State) : (sflErase sector s).ponds = s.ponds := rfl

@[simp] theorem sflWrite_ponds (i : Nat) (l : List (BitVec 256)) (s : State) : (sflWrite i l s).ponds = s.ponds := rfl

@[simp] theorem selPut_ponds (tail : List Byte) (s : State) : (selPut tail s).ponds = s.ponds := by
  unfold selPut
  dsimp only
  rw [onSfl_ponds, sflWrite_ponds]

@[simp] theorem selSnapshot_ponds (s : State) : (selSnapshot s).ponds = s.ponds := selPut_ponds _ s

@[simp] theorem selTurn_ponds (s : State) : (selTurn s).ponds = s.ponds := by
  unfold selTurn
  dsimp only
  split
  · rfl
  · rw [selSnapshot_ponds, onSfl_ponds, foldl_keeps_ponds fun t k => sflErase_ponds _ t]

@[simp] theorem selKick_ponds (s : State) : (selKick s).ponds = s.ponds := by
  unfold selKick
  split
  · rfl
  · exact foldl_keeps_ponds fun t l => (selPut_ponds l _).trans (selTurn_ponds t)

@[simp] theorem selectRecord_ponds (target sel epoch : Nat) (meas : List Byte) (s : State) :
    (selectRecord target sel epoch meas s).ponds = s.ponds := by
  simp [selectRecord]

@[simp] theorem selCut_ponds (s : State) : (selCut s).ponds = s.ponds := by
  unfold selCut
  dsimp only
  rw [useShoreFree_ponds, onSfl_ponds, foldl_keeps_ponds fun t x => sflPut_ponds _ t]

@[simp] theorem setNext_ponds (target slot : Nat) (s : State) : (setNext target slot s).ponds = s.ponds := by
  simp [setNext]

@[simp] theorem sysOpSet_ponds (b : Nat) (o : Option SysOp) (s : State) : (sysOpSet b o s).ponds = s.ponds := rfl

@[simp] theorem sysStart_ponds (b : Nat) (o : SysOp) (s : State) : (sysStart b o s).ponds = s.ponds := by
  simp [sysStart]

@[simp] theorem sysAbandon_ponds (s : State) : (sysAbandon s).ponds = s.ponds := by
  unfold sysAbandon
  refine foldl_keeps_ponds fun t b => ?_
  split <;> simp

@[simp] theorem otpGo_ponds (s : State) : (otpGo s).ponds = s.ponds := by
  simp [otpGo]

@[simp] theorem otpPut_ponds (i : Nat) (x : Word × BitVec 2) (s : State) : (otpPut i x s).ponds = s.ponds := rfl

@[simp] theorem otpFill_ponds (off : Nat) (l : List Byte) (s : State) : (otpFill off l s).ponds = s.ponds := by
  simp [otpFill]


/-! ### Images -/

@[simp] theorem scvuHard_ponds (u : Nat) (l : List Byte) (s : State) : (scvuHard u l s).ponds = s.ponds := rfl

@[simp] theorem scvuImage_ponds (u : Nat) (a : FArr) (base kind : Nat) (s : State) :
    (scvuImage u a base kind s).ponds = s.ponds := by
  unfold scvuImage
  split <;> simp


/-! ### Held -/

@[simp] theorem postAction_ponds (c : Cmd) (s : State) : (postAction c s).ponds = s.ponds := rfl

@[simp] theorem holdCmd_ponds (c : Cmd) (s : State) : (holdCmd c s).ponds = s.ponds := by
  simp [holdCmd]

@[simp] theorem postActions_ponds (e : Nat) (s : State) : (postActions e s).ponds = s.ponds := by
  unfold postActions
  exact foldl_keeps_ponds fun t c => postAction_ponds c t

@[simp] theorem report_ponds (order : Nat) (f : Option (Nat × Nat)) (s : State) :
    (report order f s).ponds = s.ponds := by
  unfold report
  split <;> simp

@[simp] theorem countBad_ponds (n : Nat) (s : State) : (countBad n s).ponds = s.ponds := rfl

@[simp] theorem countDrop_ponds (n : Nat) (s : State) : (countDrop n s).ponds = s.ponds := rfl

@[simp] theorem markSluiceLate_ponds (k : Packet) (s : State) : (markSluiceLate k s).ponds = s.ponds := by
  unfold markSluiceLate
  split <;> simp

@[simp] theorem judgeGroups_ponds (a me : Nat) (s : State) : (judgeGroups a me s).ponds = s.ponds := by
  simp [judgeGroups]

@[simp] theorem alarmClear_ponds (m : Nat) (s : State) : (alarmClear m s).ponds = s.ponds := rfl

@[simp] theorem slotSwap_ponds (t : Nat) (s : State) : (slotSwap t s).ponds = s.ponds := by
  simp [slotSwap]

@[simp] theorem leaseGrant_ponds (c : Cmd) (s : State) : (leaseGrant c s).ponds = s.ponds := rfl


/-! ### Mirror -/

@[simp] theorem mirDue_ponds (e : Nat) (s : State) : (mirDue e s).ponds = s.ponds := by
  unfold mirDue
  refine foldl_keeps_ponds fun t h => ?_
  dsimp only
  (repeat' split) <;> simp

@[simp] theorem mirStart_ponds (h : Nat) (s : State) : (mirStart h s).ponds = s.ponds := by
  unfold mirStart
  dsimp only
  split
  · split
    · rfl
    · rw [onPort_ponds, ite_ponds, sinc_ponds, ite_self, sset_ponds, sset_ponds,
        foldl_keeps_ponds fun t x => postWrite_ponds _ _ _ _ t]
  · rfl

@[simp] theorem mirEnd_ponds (h : Nat) (s : State) : (mirEnd h s).ponds = s.ponds := by
  unfold mirEnd
  split <;> simp


/-! ### Boundary -/

@[simp] theorem recordSkew_ponds (p : Nat) (d : Int) (stepped : Bool) (s : State) :
    (recordSkew p d stepped s).ponds = s.ponds := by
  simp [recordSkew]

@[simp] theorem unitFree_ponds (c : Cmd) (s : State) : (unitFree c s).ponds = s.ponds := by
  unfold unitFree
  split <;> simp

@[simp] theorem cutByReset_ponds (p : Nat) (s : State) : (cutByReset p s).ponds = s.ponds := by
  simp [cutByReset]

@[simp] theorem swapDone_ponds (p a : Nat) (s : State) : (swapDone p a s).ponds = s.ponds := by
  simp [swapDone]

@[simp] theorem shoreTime_ponds (e : Nat) (s : State) : (shoreTime e s).ponds = s.ponds := by
  simp [shoreTime]

@[simp] theorem unlockAt_ponds (e : Nat) (s : State) : (unlockAt e s).ponds = s.ponds := by
  unfold unlockAt
  split <;> simp

@[simp] theorem countLateShore_ponds (s : State) : (countLateShore s).ponds = s.ponds := rfl

@[simp] theorem streamsLate_ponds (e : Nat) (s : State) : (streamsLate e s).ponds = s.ponds := by
  unfold streamsLate
  dsimp only
  exact (foldl_keeps_ponds fun t _ => countLateShore_ponds t).trans rfl


/-! ### Weir -/

@[simp] theorem ejectAt_ponds (e : Nat) (k : Packet) (s : State) : (ejectAt e k s).ponds = s.ponds := by
  simp [ejectAt]

@[simp] theorem popRx_ponds (l lane : Nat) (p : Flit → Bool) (s : State) : (popRx l lane p s).ponds = s.ponds := rfl

@[simp] theorem ejectFlit_ponds (l key : Nat) (f : Flit) (s : State) : (ejectFlit l key f s).ponds = s.ponds := by
  unfold ejectFlit
  dsimp only
  (repeat' split) <;> simp

theorem turnFlit_ponds {l lane : Nat} {f : Flit} {s t : State} (h : turnFlit l lane f s = some t) :
    t.ponds = s.ponds := by
  unfold turnFlit at h
  dsimp only at h
  obtain ⟨-, h⟩ := Option.ite_none_right_eq_some.1 h
  rw [← Option.some.inj h]
  simp

@[simp] theorem frontMove_ponds (l lane : Nat) (s : State) : (frontMove l lane s).ponds = s.ponds := by
  unfold frontMove
  split
  · rfl
  · extract_lets out
    have hout : ∀ h, (out h).ponds = s.ponds := by
      intro h
      unfold out
      split
      · rw [popRx_ponds, ejectFlit_ponds]
      · split
        · rename_i ht
          rw [popRx_ponds, turnFlit_ponds ht]
        · rfl
      · rfl
    split
    · exact hout (hop s (linkRing l) (linkTo l) (.lane lane) _)
    · split
      · exact hout .turn
      · exact hout .eject

@[simp] theorem settleRx_ponds (l : Nat) (s : State) : (settleRx l s).ponds = s.ponds := by
  unfold settleRx
  exact foldl_keeps_ponds fun t _ => foldl_keeps_ponds fun u v => frontMove_ponds l v u

@[simp] theorem sluiceAccept_ponds (l : Nat) (f : Flit) (s : State) : (sluiceAccept l f s).ponds = s.ponds := by
  unfold sluiceAccept
  (repeat' split) <;> simp

@[simp] theorem sendFlit_ponds (l lane j : Nat) (f : Flit) (s : State) : (sendFlit l lane j f s).ponds = s.ponds :=
  rfl

@[simp] theorem noteStall_ponds (e : Nat) (k : Packet) (s : State) : (noteStall e k s).ponds = s.ponds := rfl

@[simp] theorem sendReplay_ponds (l q : Nat) (s : State) : (sendReplay l q s).ponds = s.ponds := rfl

@[simp] theorem retrain_ponds (l : Nat) (s : State) : (retrain l s).ponds = s.ponds := by
  simp [retrain]

@[simp] theorem acceptFlit_ponds (l : Nat) (f : Flit) (lane : Nat) (audit : Bool) (s : State) :
    (acceptFlit l f lane audit s).ponds = s.ponds := by
  simp [acceptFlit]

@[simp] theorem arriveFlit_ponds (l : Nat) (w : WireFlit) (data : BitVec 128) (side : BitVec 16) (s : State) :
    (arriveFlit l w data side s).ponds = s.ponds := by
  simp [arriveFlit]

@[simp] theorem flitReceive_ponds (l : Nat) (x : WireFault) (s : State) : (flitReceive l x s).ponds = s.ponds := by
  unfold flitReceive
  (repeat' split) <;> simp

@[simp] theorem takeRet_ponds (l : Nat) (p : RetMsg → Bool) (bad : Bool) (f : RetMsg → Link → Link) (s : State) :
    (takeRet l p bad f s).ponds = s.ponds := by
  unfold takeRet
  split <;> simp

@[simp] theorem nakArrive_ponds (l : Nat) (bad : Bool) (s : State) : (nakArrive l bad s).ponds = s.ponds := by
  simp [nakArrive]

@[simp] theorem creditAudit_ponds (l : Nat) (upset : Option (Fin 4 × Word)) (s : State) :
    (creditAudit l upset s).ponds = s.ponds := by
  unfold creditAudit
  dsimp only
  (repeat' split) <;> simp

@[simp] theorem failedBit_ponds (l : Nat) (b : Bool) (s : State) : (failedBit l b s).ponds = s.ponds := rfl

@[simp] theorem retrainDone_ponds (l : Nat) (ok : Bool) (s : State) : (retrainDone l ok s).ponds = s.ponds := by
  simp [retrainDone]


/-! ### Messages -/

@[simp] theorem streamArrive_ponds (k : Packet) (s : State) : (streamArrive k s).ponds = s.ponds := by
  simp [streamArrive]

theorem takeMgmt_ponds {e op : Nat} {s : State} {x : Packet × State} (h : takeMgmt e op s = some x) :
    x.2.ponds = s.ponds := takeEjected_ponds h

@[simp] theorem mgmtSend_ponds (p order : Nat) (k : Packet) (s : State) : (mgmtSend p order k s).ponds = s.ponds := by
  simp [mgmtSend]

theorem mgmtDone_ponds {p tag : Nat} {s : State} {x : Nat × State} (h : mgmtDone p tag s = some x) :
    x.2.ponds = s.ponds := by
  unfold mgmtDone at h
  dsimp only at h
  split at h
  · cases h
  · split at h
    · cases h
      rfl
    · cases h
      simp

@[simp] theorem pokeEnd_ponds (c : Cmd) (st : Nat) (s : State) : (pokeEnd c st s).ponds = s.ponds := by
  simp [pokeEnd]

@[simp] theorem streamRecord_ponds (s : State) : (streamRecord s).ponds = s.ponds := by
  unfold streamRecord
  dsimp only
  (repeat' split) <;> simp


/-! ### Port -/

@[simp] theorem ctxFault_ponds (h n st cause : Nat) (s : State) : (ctxFault h n st cause s).ponds = s.ponds := rfl

@[simp] theorem ctxReplay_ponds (h n : Nat) (s : State) : (ctxReplay h n s).ponds = s.ponds := by
  unfold ctxReplay
  dsimp only
  rw [ctxSettle_ponds, portFlush_ponds]
  rfl

@[simp] theorem ctxEnable_ponds (h n : Nat) (s : State) : (ctxEnable h n s).ponds = s.ponds := by
  unfold ctxEnable
  split <;> simp

@[simp] theorem ctxDisable_ponds (h n : Nat) (s : State) : (ctxDisable h n s).ponds = s.ponds := by
  unfold ctxDisable
  split <;> simp

@[simp] theorem ctxAbandon_ponds (h n : Nat) (s : State) : (ctxAbandon h n s).ponds = s.ponds := by
  simp [ctxAbandon]

@[simp] theorem blockRead_ponds (h n : Nat) (d : Option (List Byte)) (s : State) :
    (blockRead h n d s).ponds = s.ponds := by
  unfold blockRead
  split <;> simp

@[simp] theorem doorbellPoll_ponds (h n : Nat) (s : State) : (doorbellPoll h n s).ponds = s.ponds := by
  simp [doorbellPoll]

@[simp] theorem doorbellData_ponds (h n : Nat) (d : Option (List Byte)) (s : State) :
    (doorbellData h n d s).ponds = s.ponds := by
  unfold doorbellData
  dsimp only
  (repeat' split) <;> simp

@[simp] theorem descriptorData_ponds (h n : Nat) (d : Option (List Byte)) (s : State) :
    (descriptorData h n d s).ponds = s.ponds := by
  unfold descriptorData
  dsimp only
  (repeat' split) <;> simp

@[simp] theorem completionAck_ponds (h : Nat) (s : State) : (completionAck h s).ponds = s.ponds := by
  unfold completionAck
  (repeat' split) <;> simp

@[simp] theorem barReg_ponds (h off : Nat) (s : State) : (barReg h off s).2.ponds = s.ponds := by
  unfold barReg
  (repeat' split) <;> simp

@[simp] theorem barRead_ponds (h off len : Nat) (s : State) : (barRead h off len s).ponds = s.ponds := by
  unfold barRead
  dsimp only
  (repeat' split) <;> simp

@[simp] theorem ctxWrite_ponds (h n off : Nat) (v : Word) (s : State) : (ctxWrite h n off v s).ponds = s.ponds := by
  unfold ctxWrite
  split <;> simp

@[simp] theorem hpWrite_ponds (h off : Nat) (v : Word) (s : State) : (hpWrite h off v s).ponds = s.ponds := by
  simp [hpWrite]

@[simp] theorem barWrite_ponds (h off : Nat) (full : Bool) (v : Word) (s : State) :
    (barWrite h off full v s).ponds = s.ponds := by
  simp [barWrite]


/-! ### Keys -/

@[simp] theorem deriveRoot_ponds (s : State) : (deriveRoot s).ponds = s.ponds := by
  unfold deriveRoot
  split <;> simp

@[simp] theorem measSet_ponds (b : Nat) (m : List Byte) (s : State) : (measSet b m s).ponds = s.ponds := rfl

@[simp] theorem drbgNext_ponds (n : Nat) (s : State) : (drbgNext n s).2.ponds = s.ponds := by
  unfold drbgNext
  split <;> simp

@[simp] theorem deriveKeys_ponds (s : State) : (deriveKeys s).ponds = s.ponds := by
  unfold deriveKeys
  dsimp only
  (repeat' split) <;> simp

@[simp] theorem archRoom_ponds (stop : Nat) (s : State) : (archRoom stop s).ponds = s.ponds := by
  unfold archRoom
  exact foldl_keeps_ponds fun t k => sflErase_ponds _ t

@[simp] theorem archWrite_ponds (pos : Nat) (b : List Byte) (s : State) : (archWrite pos b s).ponds = s.ponds := rfl

@[simp] theorem archPut_ponds (b : List Byte) (s : State) : (archPut b s).ponds = s.ponds := by
  unfold archPut
  dsimp only
  rw [archWrite_ponds, onLedger_ponds, archRoom_ponds]

@[simp] theorem sealOne_ponds (x : IvSnap) (s : State) : (sealOne x s).ponds = s.ponds := by
  unfold sealOne
  dsimp only
  rw [smod_ponds, sset_ponds, onLedger_ponds, archPut_ponds]
  split
  · exact inc64_ponds _ s
  · rfl

@[simp] theorem sealArchive_ponds (s : State) : (sealArchive s).ponds = s.ponds := by
  unfold sealArchive
  split <;> simp

@[simp] theorem archCut_ponds (s : State) : (archCut s).ponds = s.ponds := by
  have hwrite : ∀ pos l t, (archWrite pos l (archRoom t s)).ponds = s.ponds := fun pos l t => by
    rw [archWrite_ponds, archRoom_ponds]
  unfold archCut
  split
  · rfl
  · split
    · rfl
    · dsimp only
      rw [useShoreFree_ponds, onLedger_ponds]
      split
      · exact (sflPut_ponds _ _).trans (hwrite _ _ _)
      · exact hwrite _ _ _

@[simp] theorem gaspWrite_ponds (g : LastGasp) (s : State) : (gaspWrite g s).ponds = s.ponds := by
  rw [gaspWrite, sflWrite_ponds]

@[simp] theorem gaspMark_ponds (g : LastGasp) (s : State) : (gaspMark g s).ponds = s.ponds := by
  rw [gaspMark, sflWrite_ponds]

@[simp] theorem gaspCut_ponds (s : State) : (gaspCut s).ponds = s.ponds := by
  unfold gaspCut
  dsimp only
  rw [useShoreFree_ponds, onLedger_ponds, ite_ponds, foldl_keeps_ponds fun t k => sflErase_ponds _ t, sflPut_ponds,
    ite_self]
  split
  · rfl
  · exact sflPut_ponds _ s

@[simp] theorem injectAlarms_ponds (m : BitVec 8) (s : State) : (injectAlarms m s).ponds = s.ponds := by
  simp [injectAlarms]

@[simp] theorem eraseComplete_ponds (s : State) : (eraseComplete s).ponds = s.ponds := by
  unfold eraseComplete
  split <;> simp

@[simp] theorem huskBegin_ponds (s : State) : (huskBegin s).ponds = s.ponds := by
  unfold huskBegin
  dsimp only
  (repeat' split) <;> simp

@[simp] theorem huskMarkDone_ponds (ok : Bool) (s : State) : (huskMarkDone ok s).ponds = s.ponds := by
  simp [huskMarkDone]


/-! ### Startup -/

@[simp] theorem deviceEntry_ponds (e : SetupEntry) (s : State) : (deviceEntry e s).ponds = s.ponds := by
  simp [deviceEntry]

@[simp] theorem addReport_ponds (kind pond low : Nat) (s : State) : (addReport kind pond low s).ponds = s.ponds := rfl

@[simp] theorem applyAccount_ponds (s : State) (e : SetupEntry) : (applyAccount s e).ponds = s.ponds := by
  unfold applyAccount
  split <;> simp

@[simp] theorem routeStatus_ponds (r : Option Nat) (valid : Bool) (s : State) :
    (routeStatus r valid s).ponds = s.ponds := rfl

@[simp] theorem phaseEnded_ponds (k : Nat) (s : State) : (phaseEnded k s).ponds = s.ponds := rfl

@[simp] theorem rowRead_ponds (s : State) : (rowRead s).ponds = s.ponds := rfl

@[simp] theorem latchOtp_ponds (s : State) : (latchOtp s).ponds = s.ponds := by
  simp [latchOtp]

@[simp] theorem placeRoles_ponds (s : State) : (placeRoles s).ponds = s.ponds := by
  obtain ⟨-, h, -⟩ := placeRoles_says s
  exact h

@[simp] theorem blankW_ponds (s : State) : (blankW s).ponds = s.ponds := by
  simp [blankW]

@[simp] theorem tbsRun_ponds (s : State) : (tbsRun s).ponds = s.ponds := by
  simp [tbsRun]

@[simp] theorem otpCut_ponds (s : State) : (otpCut s).ponds = s.ponds := by
  unfold otpCut
  split <;> simp

@[simp] theorem huskCut_ponds (s : State) : (huskCut s).ponds = s.ponds := by
  simp [huskCut]

@[simp] theorem rowCut_ponds (s : State) : (rowCut s).ponds = s.ponds := by
  simp [rowCut]

@[simp] theorem flashCut_ponds (s : State) : (flashCut s).ponds = s.ponds := by
  simp [flashCut]

@[simp] theorem warmLedger_ponds (s : State) : (warmLedger s).ponds = s.ponds := by
  simp [warmLedger]

@[simp] theorem warmLosses_ponds (s : State) : (warmLosses s).ponds = s.ponds := rfl


/-! ### Shore Regs -/

@[simp] theorem shoreRead_ponds (off : Nat) (s : State) : (shoreRead off s).2.ponds = s.ponds := by
  unfold shoreRead
  (repeat' split) <;> simp

@[simp] theorem pairExpire_ponds (off : Nat) (s : State) : (pairExpire off s).ponds = s.ponds := by
  unfold pairExpire
  split <;> simp

@[simp] theorem lcAdvance_ponds (v : Word) (s : State) : (lcAdvance v s).ponds = s.ponds := by
  simp [lcAdvance]

@[simp] theorem storeBits_ponds (off : Nat) (m v : Word) (s : State) : (storeBits off m v s).ponds = s.ponds := rfl

@[simp] theorem scvuCtrl_ponds (v : Word) (s : State) : (scvuCtrl v s).ponds = s.ponds := by
  simp [scvuCtrl]

@[simp] theorem scvuStore_ponds (off : Nat) (v : Word) (s : State) : (scvuStore off v s).ponds = s.ponds := by
  unfold scvuStore
  split <;> simp

@[simp] theorem tbsStore_ponds (off : Nat) (v : Word) (s : State) : (tbsStore off v s).ponds = s.ponds := by
  unfold tbsStore
  split <;> simp

@[simp] theorem weirStore_ponds (off : Nat) (v : Word) (s : State) : (weirStore off v s).ponds = s.ponds := by
  unfold weirStore
  split <;> simp

@[simp] theorem wdogWrite_ponds (v : Word) (s : State) : (wdogWrite v s).ponds = s.ponds := by
  simp [wdogWrite]


/-! ### Commands -/

@[simp] theorem swapConsume_ponds (c : Cmd) (s : State) : (swapConsume c s).ponds = s.ponds := by
  simp [swapConsume]

@[simp] theorem bindTag_ponds (c : Cmd) (s : State) : (bindTag c s).ponds = s.ponds := by
  unfold bindTag
  dsimp only
  (repeat' split) <;> simp

@[simp] theorem unbindTag_ponds (c : Cmd) (s : State) : (unbindTag c s).ponds = s.ponds := by
  simp [unbindTag]

@[simp] theorem acctRead_ponds (c : Cmd) (s : State) : (acctRead c s).ponds = s.ponds := by
  unfold acctRead
  split <;> simp

@[simp] theorem sealFetch_ponds (c : Cmd) (s : State) : (sealFetch c s).ponds = s.ponds := by
  unfold sealFetch
  dsimp only
  (repeat' split) <;> simp

@[simp] theorem mgmtRequest_ponds (c : Cmd) (op addr data : Nat) (s : State) :
    (mgmtRequest c op addr data s).ponds = s.ponds := by
  simp [mgmtRequest]

@[simp] theorem peekConsume_ponds (c : Cmd) (s : State) : (peekConsume c s).ponds = s.ponds := by
  unfold peekConsume
  dsimp only
  split
  · split
    · exact atOnce_ponds (fun c t => mgmtRequest_ponds _ _ _ _ t) c s
    · exact finishNow_ponds _ _ _ _ s
  · split
    · exact finishNow_ponds _ _ _ _ s
    · exact atOnce_ponds (fun c t => by rw [finishNow_ponds, useShoreFree_ponds]) c s

@[simp] theorem spdmConsume_ponds (c : Cmd) (s : State) : (spdmConsume c s).ponds = s.ponds := by
  simp [spdmConsume]

@[simp] theorem operandHold_ponds (c : Cmd) (s : State) : (operandHold c s).ponds = s.ponds := by
  unfold operandHold
  (repeat' split) <;> simp

@[simp] theorem spdmAnswer_ponds (c : Cmd) (l : List Byte) {s t : State} (h : t.ponds = s.ponds) :
    (spdmAnswer c l s t).ponds = s.ponds := by
  unfold spdmAnswer
  dsimp only
  split
  · exact finishNow_ponds _ _ _ _ s
  · exact (finishData_ponds _ _ _ _ t).trans h

@[simp] theorem spdmKick_ponds (h fuel : Nat) (s : State) : (spdmKick h fuel s).ponds = s.ponds := by
  induction fuel generalizing s with
  | zero => rfl
  | succ fuel ih =>
    rw [spdmKick]
    split
    · rfl
    · split
      · split
        · rfl
        · split <;> simp [ih]
      · rfl

@[simp] theorem spdmTurns_ponds (h : Nat) (s : State) : (spdmTurns h s).ponds = s.ponds := by
  simp [spdmTurns]

@[simp] theorem recordCheck_ponds (c : Cmd) (s : State) : (recordCheck c s).ponds = s.ponds := by
  unfold recordCheck
  extract_lets k d t
  have ht : t.ponds = s.ponds := scvuHard_ponds _ _ s
  clear_value t
  split
  · exact (finishNow_ponds _ _ _ _ _).trans ht
  · split
    · exact (finishNow_ponds _ _ _ _ t).trans ht
    · exact (operandHold_ponds c t).trans ht

@[simp] theorem recordsGoOn_ponds (s : State) : (recordsGoOn s).ponds = s.ponds := by
  unfold recordsGoOn
  refine foldl_keeps_ponds fun t c => ?_
  split <;> simp

@[simp] theorem operandCame_ponds (c : Cmd) (d : List Byte) (s : State) : (operandCame c d s).ponds = s.ponds := by
  unfold operandCame
  dsimp only
  split
  · split
    · exact setPhase_ponds _ _ _
    · exact recordCheck_ponds _ _
  · split
    · exact finishNow_ponds _ _ _ _ _
    · exact operandHold_ponds _ _
  · exact setPhase_ponds _ _ _
  · exact (spdmTurns_ponds _ _).trans (setPhase_ponds _ _ _)


/-! ### Program -/

@[simp] theorem cekDrop_ponds (target : Nat) (s : State) : (cekDrop target s).ponds = s.ponds := rfl

@[simp] theorem cekMake_ponds (target : Nat) (h : List Byte) (s : State) : (cekMake target h s).ponds = s.ponds := by
  simp [cekMake]

@[simp] theorem cekChunk_ponds (target off : Nat) (d : List Byte) (s : State) :
    (cekChunk target off d s).2.ponds = s.ponds := by
  unfold cekChunk
  (repeat' split) <;> simp

@[simp] theorem verifyFail_ponds (c : Cmd) (why : Nat) (s : State) : (verifyFail c why s).ponds = s.ponds := by
  simp [verifyFail]

@[simp] theorem flashFail_ponds (c : Cmd) (why : Nat) (s : State) : (flashFail c why s).ponds = s.ponds := by
  simp [flashFail]

@[simp] theorem unitTake_ponds (s : State) : (unitTake s).ponds = s.ponds := by
  unfold unitTake
  split <;> simp


/-! ### Spdm -/

@[simp] theorem spdmLogSet_ponds (h i : Nat) (l : List Byte) (s : State) : (spdmLogSet h i l s).ponds = s.ponds := rfl

@[simp] theorem spdmStateSet_ponds (h v : Nat) (s : State) : (spdmStateSet h v s).ponds = s.ponds := rfl

@[simp] theorem spdmAdd_ponds (h i : Nat) (q r : List Byte) (s : State) : (spdmAdd h i q r s).ponds = s.ponds := rfl

@[simp] theorem spdmFail_ponds (code : Nat) (s : State) : (spdmFail code s).2.ponds = s.ponds := rfl

theorem spdmRun_ponds {f : SpdmStep} (hf : ∀ s h q, (f s h q).2.ponds = s.ponds) (code h : Nat) (s : State) :
    (spdmRun code f h s).ponds = s.ponds := by
  unfold spdmRun
  split
  · rfl
  · split
    · split
      · rfl
      · split <;> simp [hf]
    · rfl


/-! ### Debug -/

@[simp] theorem debugStrike_ponds (s : State) : (debugStrike s).ponds = s.ponds := by
  simp [debugStrike]

@[simp] theorem debugResponse_ponds (r : List Byte) (s : State) : (debugResponse r s).ponds = s.ponds := by
  unfold debugResponse
  split <;> simp

@[simp] theorem enroll_ponds (puf : List Byte) (s : State) : (enroll puf s).ponds = s.ponds := by
  unfold enroll
  dsimp only
  rw [onKeys_ponds, onOtp_ponds, otpFill_ponds, otpFill_ponds]

@[simp] theorem certStore_ponds (root cert : List Byte) (s : State) : (certStore root cert s).ponds = s.ponds := by
  unfold certStore
  dsimp only
  rw [sflWrite_ponds]

@[simp] theorem provision_ponds (ident puf root cert : List Byte) (s : State) :
    (provision ident puf root cert s).ponds = s.ponds := by
  unfold provision
  dsimp only
  split
  · rfl
  · rw [onOtp_ponds, certStore_ponds, enroll_ponds, otpFill_ponds, otpFill_ponds]


/-! ### Last Gasp -/

@[simp] theorem abandonCmds_ponds (s : State) : (abandonCmds s).ponds = s.ponds := by
  unfold abandonCmds
  dsimp only
  rw [foldl_keeps_ponds, archCut_ponds, sysAbandon_ponds]
  intro t n
  split <;> simp

@[simp] theorem gaspRearm_ponds (s : State) : (gaspRearm s).ponds = s.ponds := by
  unfold gaspRearm
  (repeat' split) <;> rfl

end Sys2Proof.Machine
end

section
/-! SUPPORT. The operations of the pond core that store, post, raise or reset keep the bounds of its buffers (R122,
R124, R133). -/

namespace Sys2Proof.Machine

/-! ### The store buffer -/

theorem pushSb_core_fits (e : SbEntry) {P : Pond} (h : P.core.Fits) : (pushSb e P).core.Fits := by
  obtain ⟨hs, hp⟩ := h
  refine ⟨pushSb_fits e P hs, ?_⟩
  obtain ⟨sb, sram, ecc, he⟩ := pushSb_sramOnly e P
  rw [he]
  exact hp

theorem loadPlain_fits (a len : Nat) {P : Pond} (h : P.core.Fits) : (loadPlain P a len).2.core.Fits := by
  have hsram := (eccRead_fits (retireN (partialDepth P.core.sb a len) P) a len).2 (retireN_fits _ h)
  have hrec := (eccRead_fits P a len).2 h
  unfold loadPlain
  split
  · exact (flashRead_fits _ _ _ _).2 h
  · exact (flashRead_fits _ _ _ _).2 h
  · dsimp only
    split <;> rename_i heq <;> rwa [heq] at hsram
  · split <;> rename_i heq <;> rwa [heq] at hrec
  · exact h
  · exact h

/-- The pond that a read of plain memory leaves. -/
theorem loadPlain_gives {P R : Pond} {a len : Nat} {x : Option Nat} (h : P.core.Fits)
    (e : loadPlain P a len = (x, R)) : R.core.Fits := by
  have hr := loadPlain_fits a len h
  rwa [e] at hr

theorem pushFrame_fits (base : Nat) (w0 w1 w2 w3 : Word) {P : Pond} (h : P.core.Fits) :
    (pushFrame base w0 w1 w2 w3 P).core.Fits := by
  obtain ⟨-, hp⟩ := drainSb_fits ((charge_fits P.core.sb.length 0 P).2 h)
  exact ⟨Nat.le_refl 4, hp⟩

/-! ### Exceptions -/

theorem lockdown_fits (f : Flt) {P : Pond} (h : P.core.Fits) : (lockdown f P).core.Fits :=
  drainSb_fits ((recordFault_fits f.kind f.typ f.addr P).2 h)

theorem readVector_gives {P R : Pond} {a : Word} {x : Option Word} (h : P.core.Fits) (e : readVector P a = (x, R)) :
    R.core.Fits := by
  unfold readVector at e
  split at e
  · cases e
    exact h
  · split at e
    · cases e
      exact loadPlain_gives h ‹_›
    · split at e <;> cases e <;> exact loadPlain_gives h ‹_›

theorem fetchAt_gives {P R : Pond} {a : Word} {x : Option Flt} (h : P.core.Fits) (e : fetchAt P a = (x, R)) :
    R.core.Fits := by
  have hr := (fetchAt_fits P a).2 h
  rwa [e] at hr

theorem doubleFault_fits (reason typ : Nat) (addr ret status sp : Word) (kind : Nat) {P : Pond} (h : P.core.Fits) :
    (doubleFault reason typ addr ret status sp kind P).core.Fits := by
  unfold doubleFault
  dsimp only
  split
  · exact lockdown_fits _ h
  · split
    · rename_i hv
      exact lockdown_fits _ (readVector_gives (by simpa using pushFrame_fits _ _ _ _ _ h) hv)
    · rename_i hv
      have hR := readVector_gives (by simpa using pushFrame_fits _ _ _ _ _ h) hv
      split
      · rename_i hf
        exact lockdown_fits _ (fetchAt_gives (by exact hR) hf)
      · rename_i hf
        simpa using fetchAt_gives (by exact hR) hf

/-- What an entry records before it fetches the handler (R133 steps 3 and 4). -/
theorem exc_recorded_fits (f : Option Flt) {P : Pond} (h : P.core.Fits) :
    (match f with | some x => recordFault x.kind x.typ x.addr P | none => P).core.Fits := by
  split
  · exact (recordFault_fits _ _ _ _).2 h
  · exact h

theorem enterExc_fits (f : Option Flt) (ret : Word) {P : Pond} (h : P.core.Fits) : (enterExc f ret P).core.Fits := by
  unfold enterExc
  dsimp only
  split
  · exact doubleFault_fits _ _ _ _ _ _ _ h
  · split
    · rename_i hv
      exact doubleFault_fits _ _ _ _ _ _ _ (readVector_gives h hv)
    · rename_i R hv
      have hpush := pushFrame_fits ((gr P 15).toNat - 16) ret (savedStatus P) (gr P 12) (gr P 14)
        (readVector_gives h hv)
      have hrec := exc_recorded_fits f ((gset_fits 15 (gr P 15 - 16) _).2 hpush)
      split
      · rename_i hf
        exact doubleFault_fits _ _ _ _ _ _ _ (fetchAt_gives (by exact hrec) hf)
      · rename_i hf
        simpa using fetchAt_gives (by exact hrec) hf

theorem raiseAt_fits (f : Flt) (ret : Word) {P : Pond} (h : P.core.Fits) : (raiseAt f ret P).core.Fits := by
  have hleave : (leaveGate P).core.Fits := (leaveGate_fits P).2 h
  unfold raiseAt
  dsimp only
  (repeat' split)
  · exact lockdown_fits _ hleave
  · exact doubleFault_fits _ _ _ _ _ _ _ hleave
  · exact enterExc_fits _ _ hleave
  · exact lockdown_fits _ h
  · exact doubleFault_fits _ _ _ _ _ _ _ h
  · exact enterExc_fits _ _ h

theorem raise_fits (kind typ : Nat) (addr : Word) {P : Pond} (h : P.core.Fits) : (raise kind typ addr P).core.Fits :=
  raiseAt_fits _ _ h

theorem raiseIllegal_fits {P : Pond} (h : P.core.Fits) : (raiseIllegal P).core.Fits := raise_fits _ _ _ h

theorem takeIrq_fits (ret : Word) {P : Pond} (h : P.core.Fits) : (takeIrq ret P).core.Fits := enterExc_fits none ret h

/-! ### Instructions -/

/-- An operation of a pond keeps the bounds of its core's buffers. -/
def KeepsFits (f : Pond → Pond) : Prop := ∀ P, P.core.Fits → (f P).core.Fits

theorem legal_fits (ok : Bool) {f : Pond → Pond} (hf : KeepsFits f) {P : Pond} (h : P.core.Fits) :
    (legal ok f P).core.Fits := by
  unfold legal
  split
  · exact hf P h
  · exact raiseIllegal_fits h

theorem issueP_fits {f : Pond → Pond} (hf : KeepsFits f) {P : Pond} (h : P.core.Fits) : (issueP f P).core.Fits := by
  have hQ : (stepUsed P).core.Fits := h
  unfold issueP
  split <;> rename_i he
  · exact raiseAt_fits _ _ (fetchAt_gives hQ he)
  · exact hf _ (fetchAt_gives hQ he)

theorem aluReg_fits (op : Word → Word → Flags → Word × Flags) (f : FmtA) : KeepsFits (aluReg op f) :=
  fun _ h => legal_fits _ (fun _ hQ => by simpa using hQ) h

theorem aluTest_fits (op : Word → Word → Flags → Word × Flags) (f : FmtA) : KeepsFits (aluTest op f) :=
  fun _ h => legal_fits _ (fun _ hQ => by simpa using hQ) h

theorem aluImm_fits (ok : Bool) (op : Word → Word) (f : FmtI) : KeepsFits (aluImm ok op f) :=
  fun _ h => legal_fits _ (fun _ hQ => by simpa using hQ) h

theorem immTest_fits (op : Word → Flags → Word × Flags) (f : FmtI) : KeepsFits (immTest op f) :=
  fun _ h => legal_fits _ (fun _ hQ => by simpa using hQ) h

theorem mulOp_fits (op : Word → Word → Word) (f : FmtA) : KeepsFits (mulOp op f) :=
  fun _ h => legal_fits _ (fun _ hQ => by simpa using hQ) h

theorem divOp_fits (op : Word → Word → Word × Bool) (f : FmtA) : KeepsFits (divOp op f) :=
  fun _ h => legal_fits _ (fun _ hQ => by simpa using hQ) h

theorem accOp_fits (op : Int → Int → Int → Int) (f : FmtA) : KeepsFits (accOp op f) :=
  fun _ h => legal_fits _ (fun _ hQ => by simpa using hQ) h

theorem fieldOp_fits (ok usesD : Bool) (op : Word → Word → Word × Bool) (f : FmtF) :
    KeepsFits (fieldOp ok usesD op f) :=
  fun _ h => legal_fits _ (fun _ hQ => by simpa using hQ) h

theorem regBranch_fits (dec : Bool) (c : Word → Bool) (f : FmtI) : KeepsFits (regBranch dec c f) :=
  fun _ h => legal_fits _ (fun _ hQ => by simpa [branchIf] using hQ) h

theorem jumpReg_fits (link : Bool) (f : FmtA) : KeepsFits (jumpReg link f) := by
  refine fun _ h => legal_fits _ (fun Q hQ => ?_) h
  dsimp only
  split
  · exact raise_fits _ _ _ hQ
  · simpa using hQ

theorem readPair_fits (v : BitVec 64) (f : FmtS) {P : Pond} (h : P.core.Fits) : (readPair v f P).core.Fits :=
  legal_fits _ (fun _ hQ => by simpa using hQ) h

theorem returnExc_fits : KeepsFits returnExc := by
  intro P h
  unfold returnExc
  split
  · simpa using h
  · split
    · exact raise_fits _ _ _ h
    · split
      · exact raiseIllegal_fits h
      · dsimp only
        split
        · exact raise_fits _ _ _ h
        · split
          · exact raise_fits _ _ _ h
          · split <;> rename_i h1
            · exact raise_fits _ _ _ (loadPlain_gives h h1)
            · split <;> rename_i h2
              · exact raise_fits _ _ _ (loadPlain_gives (loadPlain_gives h h1) h2)
              · split <;> rename_i h3
                · exact raise_fits _ _ _ (loadPlain_gives (loadPlain_gives (loadPlain_gives h h1) h2) h3)
                · have hR := loadPlain_gives (loadPlain_gives (loadPlain_gives h h1) h2) h3
                  split <;> rename_i h4
                  · exact raise_fits _ _ _ (loadPlain_gives hR h4)
                  · have hR4 := loadPlain_gives hR h4
                    rw [finishAt_fits]
                    exact hR4

/-! ### Loads and stores -/

theorem loadAt_gives {c : PCtx} {a len : Nat} {P R : Pond} {x : Nat ⊕ Nat} {n : Nat} (h : P.core.Fits)
    (e : loadAt c a len P = (x, n, R)) : R.core.Fits := by
  have hr : (loadAt c a len P).2.2.core.Fits := by
    obtain ⟨y, hy, hreg⟩ : ∃ y, loadReg c (a - 0x40000000) P = y ∧ y.2.core.Fits :=
      ⟨_, rfl, (loadReg_fits c (a - 0x40000000) P).2 h⟩
    unfold loadAt
    generalize regionOf a = r
    rw [hy]
    dsimp only
    split
    · exact h
    · split
      · split <;> exact loadPlain_gives h ‹_›
      · split
        · split
          · exact hreg
          · exact h
        · split <;> exact h
        · exact h
  rwa [e] at hr

theorem loadOp_fits (len : Nat) (ok : FmtI → Bool) (m : FmtI → BitVec 16) {wr : FmtI → Nat → Pond → Pond}
    (hw : ∀ f v, KeepsFits (wr f v)) (f : FmtI) (c : PCtx) : KeepsFits (loadOp len ok m wr f c) := by
  refine fun _ h => legal_fits _ (fun Q hQ => ?_) h
  dsimp only
  split
  · exact raise_fits _ _ _ hQ
  · split <;> rename_i he
    · exact raise_fits _ _ _ ((stallFor_fits _ _ _ _).2 (loadAt_gives hQ he))
    · rw [finishAt_fits]
      exact hw _ _ _ ((stallFor_fits _ _ _ _).2 (loadAt_gives hQ he))

theorem loadOne_fits (len : Nat) (ext : Nat → Word) (f : FmtI) (c : PCtx) : KeepsFits (loadOne len ext f c) :=
  loadOp_fits _ _ _ (wr := fun f v P => gset f.d (ext v) P) (fun _ _ _ h => h) f c

theorem storePeriph_fits (c : PCtx) (a v : Word) {P : Pond} (h : P.core.Fits) : (storePeriph c a v P).core.Fits := by
  unfold storePeriph
  extract_lets off
  split
  · exact raise_fits _ _ _ h
  · simpa using h

/-- A post enters the buffer where it has room, and else stalls the core (R124). -/
theorem storePort_fits (c : PCtx) (a : Word) (dbl : Bool) (v : BitVec 64) {P : Pond} (h : P.core.Fits) :
    (storePort c a dbl v P).core.Fits := by
  unfold storePort
  extract_lets off x
  split
  · exact raise_fits _ _ _ h
  · split
    · exact raise_fits _ _ _ h
    · split
      · exact h
      · rename_i hroom
        obtain ⟨hs, -⟩ := h
        refine (retire_fits 1 _).2 ⟨hs, ?_⟩
        simp only [List.length_append, List.length_singleton]
        omega

theorem storeMerge_fits (a : Word) (len v : Nat) {P : Pond} (h : P.core.Fits) : (storeMerge a len v P).core.Fits := by
  unfold storeMerge
  dsimp only
  split <;> rename_i he
  · exact raise_fits _ _ _ (loadPlain_gives h he)
  · exact (retire_fits 1 _).2 (pushSb_core_fits _ ((sbStall_fits _).2 (loadPlain_gives h he)))

theorem storeOp_fits (len : Nat) (ok : FmtI → Bool) (uses : FmtI → BitVec 16) (val : FmtI → Pond → BitVec 64)
    (f : FmtI) (c : PCtx) : KeepsFits (storeOp len ok uses val f c) := by
  refine fun _ h => legal_fits _ (fun Q hQ => ?_) h
  have hstall : ∀ b, (stallFor (rmask f.a ||| uses f) false b Q).core.Fits := fun b => (stallFor_fits _ _ _ _).2 hQ
  dsimp only
  split
  · exact raise_fits _ _ _ hQ
  · split
    · split
      · exact storeMerge_fits _ _ _ (hstall _)
      · exact (retire_fits 1 _).2 (pushSb_core_fits _ ((sbStall_fits _).2 (hstall _)))
    · split
      · exact storePeriph_fits _ _ _ (hstall _)
      · exact raise_fits _ _ _ hQ
    · split
      · exact storePort_fits _ _ _ _ (hstall _)
      · exact raise_fits _ _ _ hQ
    · exact raise_fits _ _ _ hQ

theorem storeOne_fits (len : Nat) (f : FmtI) (c : PCtx) : KeepsFits (storeOne len f c) := storeOp_fits _ _ _ _ f c

/-- The oldest post leaves, and a post that stalls the core takes its place (R124). -/
theorem postAccepted_fits (c : PCtx) : KeepsFits (postAccepted c) := by
  intro P h
  rcases hpb : P.core.pb with _ | ⟨x, r⟩
  · rw [postAccepted, hpb]
    exact h
  · cases hwait : P.life.incWait
    · obtain ⟨hs, hp⟩ := h
      rw [hpb, List.length_cons] at hp
      obtain ⟨hcore, -⟩ := postGone_core c x r P
      rw [postAccepted_cons hpb hwait, postEnters]
      split
      · rw [hcore]
        exact ⟨hs, Nat.le_of_succ_le hp⟩
      · rw [retire_fits, waited_fits, hcore]
        exact ⟨hs, (List.length_append (as := r)).trans_le hp⟩
    · rw [postAccepted, hpb]
      simpa only [hwait, if_true] using h

/-! ### Gates -/

theorem gateFail_fits (n idx reason : Nat) {P : Pond} (h : P.core.Fits) : (gateFail n idx reason P).core.Fits :=
  raise_fits _ _ _ h

theorem gateStore_fits (a : Nat) (l : List Word) {P : Pond} (h : P.core.Fits) : (gateStore a l P).core.Fits := by
  induction l generalizing a P with
  | nil => exact h
  | cons w r ih => exact ih _ (pushSb_core_fits _ h)

theorem gateEnter_fits (n : Nat) {P : Pond} (h : P.core.Fits) : (gateEnter n P).core.Fits :=
  (charge_fits 10 1 _).2 (pushFrame_fits _ _ _ _ _ h)

theorem gateCall_fits (n : Nat) (f : FmtG) {service : Pond → Pond} (hs : KeepsFits service) :
    KeepsFits (gateCall n f service) := by
  refine fun _ h => legal_fits _ (fun Q hQ => ?_) h
  split
  · exact gateFail_fits _ _ _ hQ
  · split
    · exact gateFail_fits _ _ _ hQ
    · exact hs _ (gateEnter_fits n hQ)

/-- The reads of the source of a program keep the bounds. -/
theorem programReads_fits (src : Nat) (l : List Nat) (x : Option Nat × List Byte × Pond) (h : x.2.2.core.Fits) :
    (l.foldl (fun (x : Option Nat × List Byte × Pond) i =>
      match x.1 with
      | some _ => x
      | none =>
        match loadPlain x.2.2 (src + 4 * i) 4 with
        | (some v, Q) => (none, x.2.1 ++ leBytes v 4, Q)
        | (none, Q) => (some (src + 4 * i), x.2.1, Q)) x).2.2.core.Fits := by
  induction l generalizing x with
  | nil => exact h
  | cons i r ih =>
    rw [List.foldl_cons]
    refine ih _ ?_
    split
    · exact h
    · split <;> exact loadPlain_gives h ‹_›

theorem serveProgram_fits : KeepsFits serveProgram := by
  intro P h
  have hread := programReads_fits (gr P 1).toNat (List.range 8) (none, [], P) h
  unfold serveProgram
  split
  · simpa using h
  · dsimp only
    split
    · exact raise_fits _ _ _ hread
    · rw [gateResult_fits, pflStart_fits]
      exact hread

/-! ### Long instructions -/

theorem recWord_fits (base off : Nat) (v : Word) {P : Pond} (h : P.core.Fits) : (recWord base off v P).core.Fits :=
  pushSb_core_fits _ h

theorem recHeader_fits (base : Nat) (op : BitVec 6) (st done : Nat) {P : Pond} (h : P.core.Fits) :
    (recHeader base op st done P).core.Fits := recWord_fits _ _ _ (recWord_fits _ _ _ h)

theorem recValue_fits (base : Nat) (v : BitVec 64) {P : Pond} (h : P.core.Fits) : (recValue base v P).core.Fits :=
  pushSb_core_fits _ h

theorem recStop_fits (l : LongRun) {P : Pond} (h : P.core.Fits) : (recStop l P).core.Fits := by
  unfold recStop
  dsimp only
  split
  · exact recValue_fits _ _ (recHeader_fits _ _ _ _ h)
  · exact recHeader_fits _ _ _ _ h

theorem stopLong_fits {P : Pond} (h : P.core.Fits) : (stopLong P).core.Fits := by
  unfold stopLong
  split
  · exact h
  · exact recStop_fits _ h

end Sys2Proof.Machine
end

section
/-! SUPPORT. The long instructions, the start, resets and swap of a pond, and the debugger keep the bounds of a core's
buffers. -/

namespace Sys2Proof.Machine

/-! ### The units of a long instruction (R113 to R120) -/

theorem copyUp_fits (fuel src dst n got : Nat) {P : Pond} (h : P.core.Fits) :
    (copyUp fuel src dst n got P).2.2.core.Fits := by
  induction fuel generalizing src dst n got P with
  | zero => exact h
  | succ fuel ih =>
    rw [copyUp]
    split
    · exact h
    · dsimp only
      split <;> rename_i he
      · exact loadPlain_gives h he
      · exact ih _ _ _ _ ((longWrite_fits _ _ _).2 (loadPlain_gives h he))

theorem copyDown_fits (fuel src dst n got : Nat) {P : Pond} (h : P.core.Fits) :
    (copyDown fuel src dst n got P).2.2.core.Fits := by
  induction fuel generalizing src dst n got P with
  | zero => exact h
  | succ fuel ih =>
    rw [copyDown]
    split
    · exact h
    · dsimp only
      split <;> rename_i he
      · exact loadPlain_gives h he
      · exact ih _ _ _ _ ((longWrite_fits _ _ _).2 (loadPlain_gives h he))

theorem readRun_fits (fuel a n : Nat) {P : Pond} (h : P.core.Fits) : (readRun fuel a n P).2.core.Fits := by
  induction fuel generalizing a n P with
  | zero => exact h
  | succ fuel ih =>
    rw [readRun]
    split
    · exact h
    · dsimp only
      split <;> rename_i he
      · exact loadPlain_gives h he
      · rename_i v Q
        have hr := ih (a + min n (pieceSize a - a % pieceSize a)) (n - min n (pieceSize a - a % pieceSize a))
          (loadPlain_gives h he)
        split <;> rename_i hq <;> rwa [hq] at hr

theorem readRun_gives {fuel a n : Nat} {P R : Pond} {x : Nat ⊕ List Byte} (h : P.core.Fits)
    (e : readRun fuel a n P = (x, R)) : R.core.Fits := by
  have hr := readRun_fits fuel a n h
  rwa [e] at hr

/-- The units and the completion of a long instruction keep the bounds. -/
structure LongOp.Keeps (o : LongOp) : Prop where
  unit : ∀ done P, P.core.Fits → (o.unit done P).2.2.core.Fits
  finish : KeepsFits o.finish

theorem bmovOp_keeps (r : LRec) (busy : Bool) (pc : Word) : (bmovOp r busy pc).Keeps where
  unit done P h := by
    simp only [bmovOp]
    split
    · exact copyDown_fits _ _ _ _ _ h
    · exact copyUp_fits _ _ _ _ _ h
  finish _ h := h

theorem bcrcOp_keeps (base : Nat) (r : LRec) (busy : Bool) (pc : Word) : (bcrcOp base r busy pc).Keeps where
  unit done P h := by
    simp only [bcrcOp]
    split <;> rename_i he
    · exact readRun_gives h he
    · exact (cvuFeed_fits _ _ _).2 (readRun_gives h he)
  finish P h := by
    simp only [bcrcOp]
    split
    · exact recValue_fits _ _ ((cvuFinish_fits _ _).2 h)
    · exact recValue_fits _ _ h

theorem firbOp_keeps (r : LRec) (busy : Bool) (pc : Word) : (firbOp r busy pc).Keeps where
  unit done P h := by
    simp only [firbOp]
    split <;> rename_i h1
    · exact readRun_gives h h1
    · split <;> rename_i h2
      · exact readRun_gives (readRun_gives h h1) h2
      · exact (setQ_fits _ _).2 ((longWrite_fits _ _ _).2 (readRun_gives (readRun_gives h h1) h2))
  finish _ h := h

theorem xfrmOp_keeps (r : LRec) (busy : Bool) (pc : Word) : (xfrmOp r busy pc).Keeps where
  unit done P h := by
    simp only [xfrmOp]
    split <;> rename_i h1
    · exact readRun_gives h h1
    · exact (setQ_fits _ _).2 ((longWrite_fits _ _ _).2 (readRun_gives h h1))
  finish _ h := h

theorem longUnits_fits {o : LongOp} (ho : o.Keeps) (fuel done : Nat) {P : Pond} (h : P.core.Fits) :
    (longUnits o fuel done P).2.2.core.Fits := by
  induction fuel generalizing done P with
  | zero => exact h
  | succ fuel ih =>
    have hu := ho.unit done P h
    rw [longUnits]
    split
    · exact h
    · split <;> rename_i he <;> rw [he] at hu
      · exact hu
      · exact ih _ ((charge_fits _ _ _).2 hu)

theorem longRun_fits {o : LongOp} (ho : o.Keeps) (l : LongRun) (units : Nat) {P : Pond} (h : P.core.Fits) :
    (longRun o l units P).core.Fits := by
  have hu := longUnits_fits ho units l.done h
  unfold longRun
  split <;> rename_i he <;> rw [he] at hu
  · exact raise_fits _ _ _ (recStop_fits _ hu)
  · split
    · exact (retire_fits _ _).2 (ho.finish _ (recHeader_fits _ _ _ _ hu))
    · exact hu

theorem longStart_fits (op : BitVec 6) {mk : LRec → Bool → LongOp} (hm : ∀ r b, (mk r b).Keeps) (base units : Nat)
    {P : Pond} (h : P.core.Fits) : (longStart op mk base units P).core.Fits := by
  have h0 := drainSb_fits h
  have hr := (eccRead_fits (drainSb P) base 32).2 h0
  unfold longStart
  dsimp only
  split
  · exact raise_fits _ _ _ h0
  · split
    · exact raise_fits _ _ _ h0
    · split <;> rename_i he <;> rw [he] at hr
      · exact raise_fits _ _ _ hr
      · split
        · exact raise_fits _ _ _ hr
        · split
          · exact raiseAt_fits _ _ hr
          · refine longRun_fits (hm _ _) _ _ ((charge_fits _ _ _).2 ?_)
            split
            · exact (cvuMod_fits _ _ _).2 hr
            · exact hr

theorem longMore_fits {mk : LRec → Bool → LongOp} (hm : ∀ r b, (mk r b).Keeps) (l : LongRun) (units : Nat) {P : Pond}
    (h : P.core.Fits) : (longMore mk l units P).core.Fits := by
  unfold longMore
  dsimp only
  split
  · exact raiseAt_fits _ _ (stopLong_fits h)
  · exact longRun_fits (hm _ _) _ _ h

theorem longIssue_fits (op : BitVec 6) {mk : Nat → LRec → Bool → Word → LongOp} (hm : ∀ n r b w, (mk n r b w).Keeps)
    (f : FmtL) (units : Nat) : KeepsFits (longIssue op mk f units) := by
  intro P h
  unfold longIssue
  split
  · split
    · exact longMore_fits (fun r b => hm _ _ _ _) _ _ h
    · exact h
  · split
    · exact issueP_fits (fun _ hQ => legal_fits _ (fun _ hR => longStart_fits _ (fun r b => hm _ _ _ _) _ _ hR) hQ) h
    · exact h

/-! ### Start, resets and swap (R70, R80, R264) -/

theorem coreReset_fits : Core.reset.Fits := ⟨Nat.zero_le _, Nat.zero_le _⟩

theorem coreBegin_fits (P : Pond) : (coreBegin P).core.Fits := coreReset_fits

theorem startPond_fits (P : Pond) : (startPond P).core.Fits := by
  unfold startPond
  rw [enableAct_fits, startRefs_fits]
  exact coreBegin_fits _

theorem pondResetBegin_fits (len e cause : Nat) (P : Pond) : (pondResetBegin len e cause P).core.Fits := coreReset_fits

theorem pondRestart_fits (c : PCtx) : KeepsFits (pondRestart c) := by
  intro P h
  unfold pondRestart
  dsimp only
  split
  · exact h
  · split
    · exact (groupRejoin_fits _).2 (startPond_fits _)
    · exact (pondResetEnd_fits c P).2 h

theorem pondBegin_fits (c : PCtx) : KeepsFits (pondBegin c) := by
  intro P h
  unfold pondBegin
  dsimp only
  split
  · exact pondRestart_fits c P h
  · split
    · split
      · exact startPond_fits P
      · exact (groupRejoin_fits _).2 (startPond_fits P)
    · exact h

theorem coreOnlyReset_fits (c : PCtx) : KeepsFits (coreOnlyReset c) := by
  intro P h
  unfold coreOnlyReset
  split
  · exact h
  · split
    · exact h
    · dsimp only
      split
      · exact (picLatch_fits _).2 (coreBegin_fits _)
      · exact coreReset_fits

theorem swapPond_fits (c : PCtx) (a : Nat) (P : Pond) : (swapPond c a P).core.Fits := by
  unfold swapPond
  dsimp only
  rw [picLatch_fits, gset_fits]
  exact ⟨Nat.zero_le 4, Nat.zero_le 8⟩

theorem pondAtStart_fits (tap : Tap) (P : Pond) : (pondAtStart tap P).core.Fits := coreReset_fits

/-! ### The debugger (R374) -/

@[simp] theorem dbgLoad_fits (c : PCtx) (a : Nat) (P : Pond) : (dbgLoad c a P).2.core.Fits ↔ P.core.Fits := by
  have hpeek := peekPond_fits c a P
  obtain ⟨y, hy, hreg⟩ : ∃ y, loadReg c (a - 0x40000000) P = y ∧ (y.2.core.Fits ↔ P.core.Fits) :=
    ⟨_, rfl, loadReg_fits c (a - 0x40000000) P⟩
  unfold dbgLoad
  rw [hy]
  split
  · rfl
  · split
    · rfl
    · split
      · split
        · rfl
        · exact hreg
      · exact hpeek

@[simp] theorem dbgStore_fits (c : PCtx) (a : Nat) (v : Word) (P : Pond) :
    (dbgStore c a v P).core.Fits ↔ P.core.Fits := by
  obtain ⟨y, hy, hreg⟩ : ∃ y, storeReg c (a - 0x40000000) v P = y ∧ (y.core.Fits ↔ P.core.Fits) :=
    ⟨_, rfl, storeReg_fits c (a - 0x40000000) v P⟩
  unfold dbgStore
  dsimp only
  rw [hy]
  split
  · rfl
  · split
    · split
      · rfl
      · exact hreg
    · exact pokePond_fits _ _ _ _

end Sys2Proof.Machine
end

section
/-! SUPPORT. The operations of the machine that change a pond keep the bounds of its core's buffers (R122, R124). -/

namespace Sys2Proof.Machine

/-! ### All ponds -/

/-- The buffers of every core of a row of ponds hold no more than they have places. -/
def AllFit (v : Vector Pond 64) : Prop := ∀ p : PondId, v[p].core.Fits

theorem buffersFit_iff {s : State} : BuffersFit s ↔ AllFit s.ponds := Iff.rfl

@[simp] theorem allFit_ite {c : Prop} [Decidable c] {v w : Vector Pond 64} :
    AllFit (if c then v else w) ↔ if c then AllFit v else AllFit w := by
  split <;> rfl

theorem vget_val (v : Vector Pond 64) {n : Nat} (hn : n < 64) : vget v n Pond.reset = v[n] := by
  rw [vget, Vector.getD, Array.getD_eq_getD_getElem?, Array.getElem?_eq_getElem (by simpa using hn)]
  rfl

theorem vget_fits {v : Vector Pond 64} (h : AllFit v) (n : Nat) : (vget v n Pond.reset).core.Fits := by
  by_cases hn : n < 64
  · rw [vget_val v hn]
    exact h ⟨n, hn⟩
  · rw [vget, Vector.getD, Array.getD_eq_getD_getElem?, Array.getElem?_eq_none (by simpa using hn)]
    exact ⟨Nat.zero_le 4, Nat.zero_le 8⟩

theorem pondAt_fits {s : State} (h : AllFit s.ponds) (n : Nat) : (pondAt s n).core.Fits := vget_fits h n

theorem vset_allFit_of {v : Vector Pond 64} {n : Nat} {P : Pond} (hP : P.core.Fits) (h : AllFit v) :
    AllFit (vset v n P) := by
  intro p
  have hp := h p
  simp only [Fin.getElem_fin] at hp ⊢
  rw [vset, Vector.getElem_setIfInBounds]
  split
  · exact hP
  · exact hp

theorem vset_allFit {v : Vector Pond 64} {n : Nat} {P : Pond} (hP : P.core.Fits ↔ (vget v n Pond.reset).core.Fits) :
    AllFit (vset v n P) ↔ AllFit v := by
  constructor
  · intro h p
    have hp := h p
    simp only [Fin.getElem_fin] at hp ⊢
    rw [vset, Vector.getElem_setIfInBounds] at hp
    split at hp
    · rename_i hn
      have hv := hP.1 hp
      subst hn
      rwa [vget_val v p.isLt] at hv
    · exact hp
  · intro h
    exact vset_allFit_of (hP.2 (vget_fits h n)) h

theorem map_allFit {v : Vector Pond 64} {f : Pond → Pond} (hf : ∀ P, (f P).core.Fits ↔ P.core.Fits) :
    AllFit (v.map f) ↔ AllFit v := by
  refine forall_congr' fun p => ?_
  simp only [Fin.getElem_fin, Vector.getElem_map]
  exact hf _

@[simp] theorem onPondN_allFit {n : Nat} {f : Pond → Pond} {s : State}
    (hf : ∀ P, (f P).core.Fits ↔ P.core.Fits) : AllFit (onPondN n f s).ponds ↔ AllFit s.ponds :=
  vset_allFit (hf _)

theorem onPondN_allFit_of {n : Nat} {f : Pond → Pond} {s : State} (hf : (f (pondAt s n)).core.Fits)
    (h : AllFit s.ponds) : AllFit (onPondN n f s).ponds :=
  vset_allFit_of hf h

@[simp] theorem onPond_allFit {p : PondId} {f : Pond → Pond} {s : State}
    (hf : ∀ P, (f P).core.Fits ↔ P.core.Fits) : AllFit (onPond p f s).ponds ↔ AllFit s.ponds := by
  rw [← onPondN_val]
  exact onPondN_allFit hf

theorem onPond_allFit_of {p : PondId} {f : Pond → Pond} {s : State} (hf : KeepsFits f) (h : AllFit s.ponds) :
    AllFit (onPond p f s).ponds := by
  rw [← onPondN_val]
  exact onPondN_allFit_of (hf _ (pondAt_fits h p.val)) h

@[simp] theorem onPonds_allFit {f : Pond → Pond} {s : State} (hf : ∀ P, (f P).core.Fits ↔ P.core.Fits) :
    AllFit (onPonds f s).ponds ↔ AllFit s.ponds :=
  map_allFit hf

@[simp] theorem foldl_allFit {α : Type} {f : State → α → State} {l : List α} {s : State}
    (h : ∀ t a, AllFit (f t a).ponds ↔ AllFit t.ponds) : AllFit (l.foldl f s).ponds ↔ AllFit s.ponds := by
  induction l generalizing s with
  | nil => rfl
  | cons a r ih => rw [List.foldl_cons, ih, h]

@[simp] theorem streamEnd_allFit (p : Nat) (s : State) : AllFit (streamEnd p s).ponds ↔ AllFit s.ponds := by
  simp [streamEnd]

@[simp] theorem sluiceClose_allFit (n a : Nat) (s : State) : AllFit (sluiceClose n a s).ponds ↔ AllFit s.ponds := by
  simp [sluiceClose]

@[simp] theorem sflWordRead_ponds (i : Nat) (s : State) : (sflWordRead i s).ponds = s.ponds := by
  unfold sflWordRead
  dsimp only
  (repeat' split) <;> simp

@[simp] theorem sflRead_ponds (addr len : Nat) (s : State) : (sflRead addr len s).2.ponds = s.ponds := by
  simp [sflRead]

/-- The fold of `sflReads`, which stops at the first word that reads bad, touches no pond. -/
theorem sflReads_fold_ponds (l : List Nat) (x : Bool × State) :
    (l.foldl (fun (x : Bool × State) i =>
      if x.1 then x else (!(sflArr x.2).good i, sflWordRead i x.2)) x).2.ponds = x.2.ponds := by
  induction l generalizing x with
  | nil => rfl
  | cons i r ih =>
    rw [List.foldl_cons, ih]
    split
    · rfl
    · exact sflWordRead_ponds i x.2

@[simp] theorem sflReads_ponds (l : List Nat) (s : State) : (sflReads l s).ponds = s.ponds :=
  sflReads_fold_ponds l (false, s)

@[simp] theorem selLoad_allFit (s0 : State) : AllFit (selLoad s0).ponds ↔ AllFit s0.ponds := by
  simp [selLoad]

@[simp] theorem setVerified_allFit (target : Nat) (b : Bool) (s : State) : AllFit
    (setVerified target b s).ponds ↔ AllFit s.ponds := by
  simp [setVerified]

@[simp] theorem slotTouched_allFit (target : Nat) (s : State) : AllFit
    (slotTouched target s).ponds ↔ AllFit s.ponds := by
  simp [slotTouched]

@[simp] theorem dropAct_allFit (p order : Nat) (s : State) : AllFit (dropAct p order s).ponds ↔ AllFit s.ponds := by
  simp [dropAct]

@[simp] theorem actionArrive_allFit (p : Nat) (k : Packet) (s : State) : AllFit
    (actionArrive p k s).ponds ↔ AllFit s.ponds := by
  unfold actionArrive
  dsimp only
  (repeat' split) <;> simp

@[simp] theorem pondMessage_allFit (p : Nat) (k : Packet) (s : State) : AllFit
    (pondMessage p k s).ponds ↔ AllFit s.ponds := by
  simp [pondMessage]

@[simp] theorem streamAct_allFit (c : Cmd) (s : State) : AllFit (streamAct c s).ponds ↔ AllFit s.ponds := by
  simp [streamAct]

@[simp] theorem assignAct_allFit (c : Cmd) (s : State) : AllFit (assignAct c s).ponds ↔ AllFit s.ponds := by
  simp [assignAct]

@[simp] theorem sharedAct_allFit (c : Cmd) (s : State) : AllFit (sharedAct c s).ponds ↔ AllFit s.ponds := by
  simp [sharedAct]

/-- An action at a pond's boundary: the pond is replaced by what `pondAct` makes of it. -/
theorem onPondN_pondAct_allFit (p : Nat) (c : PCtx) (a : Act) (s : State) :
    AllFit (onPondN p (fun _ => (pondAct c a (pondAt s p)).2) s).ponds ↔ AllFit s.ponds :=
  vset_allFit (pondAct_fits c a (pondAt s p))

@[simp] theorem boundaryAct_allFit (p : Nat) (s : State) (a : Act) :
    AllFit (boundaryAct p s a).ponds ↔ AllFit s.ponds := by
  unfold boundaryAct
  extract_lets run
  have hrun (t : State) : AllFit (run t).ponds ↔ AllFit t.ponds := by
    unfold run
    extract_lets r t1
    have ht : AllFit t1.ponds ↔ AllFit t.ponds := onPondN_pondAct_allFit p _ a t
    split
    · exact ht
    · rw [report_ponds, ht]
  clear_value run
  split
  · simp [hrun]
  · split
    · (repeat' split) <;> simp
    · split
      · rename_i s1 _ _ _
        have h1 : AllFit s1.ponds ↔ AllFit s.ponds := (hrun _).trans (dropAct_allFit p a.order s)
        split
        · simp [h1]
        · exact h1
      · exact dropAct_allFit p a.order s

@[simp] theorem placeAct_allFit (p : Nat) (a : Act) (s : State) : AllFit (placeAct p a s).ponds ↔ AllFit s.ponds := by
  simp [placeAct]

@[simp] theorem groupConfigure_allFit (c : Cmd) (s : State) : AllFit (groupConfigure c s).ponds ↔ AllFit s.ponds := by
  simp [groupConfigure]

@[simp] theorem foreAct_allFit (p e : Nat) (s : State) : AllFit (foreAct p e s).ponds ↔ AllFit s.ponds := by
  unfold foreAct
  dsimp only
  (repeat' split) <;> simp

@[simp] theorem boundaryActs_allFit (p e : Nat) (s : State) : AllFit (boundaryActs p e s).ponds ↔ AllFit s.ponds := by
  simp [boundaryActs]

@[simp] theorem shoreEffect_allFit (c : Cmd) (again : Bool) (s : State) : AllFit
    (shoreEffect c again s).ponds ↔ AllFit s.ponds := by
  unfold shoreEffect
  dsimp only
  (repeat' split) <;> simp

@[simp] theorem decidePond_allFit (c : Cmd) (s : State) : AllFit (decidePond c s).ponds ↔ AllFit s.ponds := by
  unfold decidePond
  dsimp only
  (repeat' split) <;> simp

@[simp] theorem decideOne_allFit (again : Nat → Bool) (s : State) (d : Nat × Option (Nat × Nat)) : AllFit
    (decideOne again s d).ponds ↔ AllFit s.ponds := by
  unfold decideOne
  dsimp only
  (repeat' split) <;> simp

@[simp] theorem decideEpoch_allFit (a : Nat) (s : State) : AllFit (decideEpoch a s).ponds ↔ AllFit s.ponds := by
  unfold decideEpoch
  extract_lets s1 ds l swaps again
  rw [settle_ponds, foldl_allFit (decideOne_allFit again), foldl_keeps_ponds fun t _ => countAsap_ponds t,
    judgeGroups_ponds]

@[simp] theorem gssIssue_allFit (ext : Bool) (s : State) : AllFit (gssIssue ext s).ponds ↔ AllFit s.ponds := by
  simp [gssIssue]

@[simp] theorem gssEdge_allFit (s : State) : AllFit (gssEdge s).ponds ↔ AllFit s.ponds := by
  unfold gssEdge
  dsimp only
  (repeat' split) <;> simp

@[simp] theorem gssInEdge_allFit (s : State) : AllFit (gssInEdge s).ponds ↔ AllFit s.ponds := by
  unfold gssInEdge
  split <;> simp

@[simp] theorem flywheelEdge_allFit (s : State) : AllFit (flywheelEdge s).ponds ↔ AllFit s.ponds := by
  unfold flywheelEdge
  split <;> simp

@[simp] theorem sendNotices_allFit (p b : Nat) (s : State) : AllFit (sendNotices p b s).ponds ↔ AllFit s.ponds := by
  unfold sendNotices
  extract_lets inc stops s1 s2
  have h : s2.ponds = s.ponds := foldl_keeps_ponds fun t n => hubEmit_ponds _ t
  split <;> rw [onPondN_allFit (by simp), h]

theorem programSwap_keeps (p : Nat) {s : State} (h : AllFit s.ponds) : AllFit (programSwap p s).ponds := by
  unfold programSwap
  extract_lets P
  split
  · exact h
  · split
    · exact h
    · have hdrop : AllFit (onPondN p swapDrop s).ponds := (onPondN_allFit swapDrop_fits).2 h
      have hswap (x : Nat) :
          AllFit (onPondN p (fun Q => picEvent 59 (swapPond (pctxN s p) x Q)) s).ponds :=
        onPondN_allFit_of ((picEvent_fits 59 _).2 (swapPond_fits _ _ _)) h
      split
      · rename_i s1 _ _ _ _ _
        have h1 : AllFit s1.ponds := hdrop
        split <;> simpa using h1
      · dsimp only
        split <;> simpa using hswap _

@[simp] theorem orphanAt_allFit (p e : Nat) (l : Lease) (s : State) : AllFit
    (orphanAt p e l s).ponds ↔ AllFit s.ponds := by
  simp [orphanAt]

@[simp] theorem orphans_allFit (e : Nat) (s : State) : AllFit (orphans e s).ponds ↔ AllFit s.ponds := by
  unfold orphans
  refine foldl_allFit fun t x => ?_
  split
  · rfl
  · split
    · exact orphanAt_allFit _ _ _ t
    · rfl

@[simp] theorem shoreBoundary_allFit (s : State) : AllFit (shoreBoundary s).ponds ↔ AllFit s.ponds := by
  simp [shoreBoundary]

@[simp] theorem outSet_allFit (e : Nat) (l : List Packet) (s : State) : AllFit
    (outSet e l s).ponds ↔ AllFit s.ponds := by
  simp [outSet]

@[simp] theorem localDeliver_allFit (e : Nat) (s : State) : AllFit (localDeliver e s).ponds ↔ AllFit s.ponds := by
  unfold localDeliver
  dsimp only
  (repeat' split) <;> simp

@[simp] theorem injectStep_allFit (l key e : Nat) (f : Flit) (mine : Packet → Bool) (s0 : State) : AllFit
    (injectStep l key e f mine s0).ponds ↔ AllFit s0.ponds := by
  unfold injectStep
  split <;> simp

@[simp] theorem leaveSrc_allFit (l lane : Nat) (x : FlitSrc) (f : Flit) (s : State) : AllFit
    (leaveSrc l lane x f s).ponds ↔ AllFit s.ponds := by
  unfold leaveSrc
  (repeat' split) <;> simp

@[simp] theorem sendSluice_allFit (l j : Nat) (x : Nat × Option Nat × Flit) (s : State) : AllFit
    (sendSluice l j x s).ponds ↔ AllFit s.ponds := by
  unfold sendSluice
  split <;> simp

@[simp] theorem flitSend_allFit (l : Nat) (s : State) : AllFit (flitSend l s).ponds ↔ AllFit s.ponds := by
  unfold flitSend
  dsimp only
  (repeat' split) <;> simp

@[simp] theorem messageArrival_allFit (e : Nat) (s : State) :
    AllFit (messageArrival e s).ponds ↔ AllFit s.ponds := by
  unfold messageArrival
  split
  · rfl
  · rename_i k s1 h
    have h1 : s1.ponds = (localDeliver e s).ponds := takeEjected_ponds h
    (repeat' split) <;> simp [h1]

@[simp] theorem blockWrite_allFit (p : Nat) (s : State) : AllFit (blockWrite p s).ponds ↔ AllFit s.ponds := by
  unfold blockWrite
  split
  · rfl
  · rename_i k s1 h
    have h1 : s1.ponds = s.ponds := takeMgmt_ponds h
    dsimp only
    (repeat' split) <;> simp [h1]

@[simp] theorem archReads_ponds (e : Nat × Nat) (s : State) : (archReads e s).ponds = s.ponds := by
  simp [archReads]

@[simp] theorem slotReads_ponds (base kind : Nat) (s : State) : (slotReads base kind s).ponds = s.ponds := by
  simp [slotReads]

@[simp] theorem groupEntry_allFit (e : SetupEntry) (s : State) : AllFit (groupEntry e s).ponds ↔ AllFit s.ponds := by
  simp [groupEntry]

@[simp] theorem applyEntry_allFit (s : State) (x : SetupEntry × Nat) : AllFit
    (applyEntry s x).ponds ↔ AllFit s.ponds := by
  unfold applyEntry
  dsimp only
  (repeat' split) <;> simp

@[simp] theorem applySetup_allFit (l : List SetupEntry) (s : State) : AllFit
    (applySetup l s).ponds ↔ AllFit s.ponds := by
  simp [applySetup]

@[simp] theorem bootFirmware_ponds (s : State) : (bootFirmware s).ponds = s.ponds := by
  unfold bootFirmware
  dsimp only
  (repeat' split) <;> simp

@[simp] theorem bootSetup_allFit (s : State) : AllFit (bootSetup s).2.ponds ↔ AllFit s.ponds := by
  unfold bootSetup
  dsimp only
  (repeat' split) <;> simp

/-- A pond in service whose image is read at start-up. -/
theorem bootImage_allFit (n slot base kind : Nat) (a : FArr) (s : State) :
    AllFit (scvuImage slot a base kind
      (onPondN n (fun P => let Q := imgReads false P; { Q with core := { Q.core with run := .rom } }) s)).ponds ↔
      AllFit s.ponds := by
  rw [scvuImage_ponds]
  exact onPondN_allFit fun P => imgReads_fits false P

theorem onLife_allFit (n : Nat) (f : Pond → Life) (s : State) :
    AllFit (onPondN n (fun P => { P with life := f P }) s).ponds ↔ AllFit s.ponds :=
  onPondN_allFit fun _ => Iff.rfl

@[simp] theorem bootPond_allFit (s : State) (n : Nat) : AllFit (bootPond s n).ponds ↔ AllFit s.ponds := by
  unfold bootPond
  generalize hP : pondAt s n = P
  have h1 := bootImage_allFit n 0 (bankBase P.pfl.bank) 1 (pflArr P) s
  dsimp only at h1 ⊢
  split
  · rw [measSet_ponds]
  · split
    · rw [measSet_ponds, onLife_allFit, h1]
    · split
      · rw [id, measSet_ponds, onLife_allFit, h1]
      · rw [addReport_ponds, measSet_ponds, onLife_allFit, h1]

@[simp] theorem coldLedger_ponds (s0 : State) : (coldLedger s0).ponds = s0.ponds := by
  unfold coldLedger
  dsimp only
  (repeat' split) <;> simp

@[simp] theorem bootSteps_allFit (s : State) : AllFit (bootSteps s).ponds ↔ AllFit s.ponds := by
  unfold bootSteps
  dsimp only
  (repeat' split) <;> simp

@[simp] theorem bootAdvance_allFit (s : State) : AllFit (bootAdvance s).ponds ↔ AllFit s.ponds := by
  simp [bootAdvance]

@[simp] theorem bistBegin_allFit (s : State) : AllFit (bistBegin s).ponds ↔ AllFit s.ponds := by
  simp [bistBegin]

@[simp] theorem startSteps_allFit (s : State) : AllFit (startSteps s).ponds ↔ AllFit s.ponds := by
  simp [startSteps]

@[simp] theorem bistEnd_allFit (p : Nat) (units : BitVec 16) (s : State) : AllFit
    (bistEnd p units s).ponds ↔ AllFit s.ponds := by
  simp [bistEnd]

@[simp] theorem wellEnd_allFit (a b c : List Byte) (s : State) : AllFit (wellEnd a b c s).ponds ↔ AllFit s.ponds := by
  unfold wellEnd
  split
  · rfl
  · extract_lets s1 absent m v fixed s2
    have habsent (t : State) : (absent t).ponds = t.ponds := rfl
    have h1 : s1.ponds = s.ponds := rfl
    have h2 : s2.ponds = s.ponds := by
      unfold s2
      rw [useShoreFree_ponds, sset_ponds, h1]
    clear_value s1 absent m v fixed s2
    rw [bootAdvance_allFit]
    split
    · rw [habsent, h1]
    · split
      · split
        · rw [onKeys_ponds, h2]
        · rw [onKeys_ponds, habsent, h2]
      · rw [onKeys_ponds, habsent, h2]

@[simp] theorem calStepEnd_allFit (s : State) : AllFit (calStepEnd s).ponds ↔ AllFit s.ponds := by
  unfold calStepEnd
  extract_lets b
  split
  · rw [bootAdvance_allFit, phaseEnded_ponds]
  · rfl

@[simp] theorem pondResetReq_allFit (i : Nat) (v : Word) (s : State) : AllFit
    (pondResetReq i v s).ponds ↔ AllFit s.ponds := by
  simp [pondResetReq]

@[simp] theorem coreResetReq_allFit (i : Nat) (v : Word) (s : State) : AllFit
    (coreResetReq i v s).ponds ↔ AllFit s.ponds := by
  simp [coreResetReq]

@[simp] theorem eraseNext_allFit (c : Cmd) (i : Nat) (s : State) : AllFit
    (eraseNext c i s).ponds ↔ AllFit s.ponds := by
  unfold eraseNext
  split <;> simp

@[simp] theorem writeStart_allFit (c : Cmd) (s : State) : AllFit (writeStart c s).ponds ↔ AllFit s.ponds := by
  unfold writeStart
  split <;> simp

@[simp] theorem targetReads_allFit (target : Nat) (l : List Nat) (s : State) : AllFit
    (targetReads target l s).ponds ↔ AllFit s.ponds := by
  unfold targetReads
  split <;> simp

@[simp] theorem progStart_allFit (c : Cmd) (s0 : State) : AllFit (progStart c s0).ponds ↔ AllFit s0.ponds := by
  unfold progStart
  dsimp only
  (repeat' split) <;> simp

@[simp] theorem progKick_allFit (s : State) : AllFit (progKick s).ponds ↔ AllFit s.ponds := by
  unfold progKick
  refine foldl_allFit fun t c => ?_
  (repeat' split) <;> simp

@[simp] theorem progQueue_allFit (c : Cmd) (s : State) : AllFit (progQueue c s).ponds ↔ AllFit s.ponds := by
  simp [progQueue]

@[simp] theorem readsGoOn_allFit (h : Nat) (s : State) : AllFit (readsGoOn h s).ponds ↔ AllFit s.ponds := by
  simp [readsGoOn]

@[simp] theorem operandRead_allFit (h i : Nat) (d : Option (List Byte)) (s : State) : AllFit
    (operandRead h i d s).ponds ↔ AllFit s.ponds := by
  unfold operandRead
  (repeat' split) <;> simp

@[simp] theorem flashDone_allFit (order why : Nat) (s : State) : AllFit
    (flashDone order why s).ponds ↔ AllFit s.ponds := by
  unfold flashDone
  (repeat' split) <;> simp

/-- The flash unit of a pond at the end of its operation. -/
theorem onPondN_pflEnd_allFit (p : Nat) (bad : Option Nat) (s : State) :
    AllFit (onPondN p (fun _ => pflEnd bad (pondAt s p)) s).ponds ↔ AllFit s.ponds :=
  vset_allFit (pflEnd_fits bad (pondAt s p))

@[simp] theorem pondFlashEnd_allFit (p : Nat) (bad : Option Nat) (s : State) :
    AllFit (pondFlashEnd p bad s).ponds ↔ AllFit s.ponds := by
  have h1 := onPondN_pflEnd_allFit p bad s
  unfold pondFlashEnd
  dsimp only
  generalize onPondN p (fun _ => pflEnd bad (pondAt s p)) s = t at h1 ⊢
  split
  · rfl
  · split
    · exact h1
    · split
      · split
        · rw [flashDone_allFit, h1]
        · exact h1
      · rw [onPondN_allFit (emit_fits s.ns _), h1]

@[simp] theorem sysFlashEnd_allFit (b : Nat) (bad : Option Nat) (s : State) :
    AllFit (sysFlashEnd b bad s).ponds ↔ AllFit s.ponds := by
  unfold sysFlashEnd
  split
  · rfl
  · rename_i o _
    extract_lets cut r s1 s2
    have h1 : s1.ponds = s.ponds := by
      unfold s1
      rw [useShoreFree_ponds, sysOpSet_ponds]
    have h2 : s2.ponds = s.ponds := by
      unfold s2
      split
      · rw [sflErase_ponds, h1]
      · rw [sflPut_ponds, h1]
    clear_value cut r s1 s2
    split
    · split
      · rw [flashDone_allFit, selKick_ponds, h2]
      · rw [progKick_allFit, selKick_ponds, h2]
    · rename_i why i _
      have h3 : (selKick (sset 0x4008 (BitVec.ofNat 32 (32 * i)) s2)).ponds = s.ponds := by
        rw [selKick_ponds, sset_ponds, h2]
      split
      · rw [flashDone_allFit, h3]
      · rw [progKick_allFit, h3]

theorem sealTrailer_ponds {s t : State} {m : List Byte} (h : sealTrailer s m = .inr t) : t.ponds = s.ponds := by
  unfold sealTrailer at h
  extract_lets base x at h
  have hx : x.ponds = s.ponds := sflReads_ponds _ s
  clear_value x
  split at h
  · cases h
  · split at h
    · cases h
    · dsimp only at h
      split at h
      · cases h
        rw [sflWrite_ponds, hx]
      · split at h
        · cases h
          exact hx
        · cases h

@[simp] theorem verifyRun_allFit (target : Nat) (s : State) :
    AllFit (verifyRun target s).1.ponds ↔ AllFit s.ponds := by
  have h1 := targetReads_allFit target ((targetWords s target).drop 16) s
  unfold verifyRun
  dsimp only
  generalize targetReads target ((targetWords s target).drop 16) s = s1 at h1 ⊢
  split
  · exact h1
  · split
    · exact h1
    · split
      · dsimp only
        split
        · rw [sinc_ponds, sinc_ponds, h1]
        · exact h1
      · split
        · split
          · dsimp only
            split
            · rw [keyDenied_ponds, sinc_ponds, h1]
            · rw [sinc_ponds, h1]
          · rename_i h3
            rw [setVerified_allFit, onKeys_ponds, sealTrailer_ponds h3, sinc_ponds, h1]
        · rw [setVerified_allFit, onKeys_ponds, sinc_ponds, h1]

@[simp] theorem verifyDone_allFit (u : Nat) (s : State) : AllFit (verifyDone u s).ponds ↔ AllFit s.ponds := by
  unfold verifyDone
  split
  · rfl
  · rename_i c _
    have hrun : AllFit (verifyRun c.target (unitFree c s)).1.ponds ↔ AllFit s.ponds := by
      rw [verifyRun_allFit, unitFree_ponds]
    dsimp only
    split
    · rw [progKick_allFit, finishNow_ponds, cekDrop_ponds, unitFree_ponds]
    · split
      · rfl
      · rw [progKick_allFit]
        split
        · rw [verifyFail_ponds, cekDrop_ponds, scvuImage_ponds, hrun]
        · rw [finishNow_ponds, cekDrop_ponds, scvuImage_ponds, hrun]

@[simp] theorem debugChallenge_ponds (s : State) : (debugChallenge s).ponds = s.ponds := by
  unfold debugChallenge
  split <;> simp

@[simp] theorem warnFall_allFit (s : State) : AllFit (warnFall s).ponds ↔ AllFit s.ponds := by
  unfold warnFall
  split
  · rfl
  · extract_lets s1
    have h1 : s1.ponds = s.ponds := rfl
    clear_value s1
    split
    · rw [h1]
    · split
      · rw [sinc_ponds, h1]
      · split
        · rw [progKick_allFit, selKick_ponds, gaspWrite_ponds, onLedger_ponds, abandonCmds_ponds, h1]
        · rw [h1]

@[simp] theorem gaspCommit_allFit (s : State) : AllFit (gaspCommit s).ponds ↔ AllFit s.ponds := by
  unfold gaspCommit
  split
  · rw [recordsGoOn_ponds, progKick_allFit, sinc_ponds, onLedger_ponds, gaspMark_ponds, scvuHard_ponds]
  · rfl

@[simp] theorem gaspErased_allFit (s : State) : AllFit (gaspErased s).ponds ↔ AllFit s.ponds := by
  unfold gaspErased
  split
  · rfl
  · rw [progKick_allFit, foldl_keeps_ponds fun t k => sflErase_ponds _ t, onLedger_ponds]

theorem tick_allFit (s : State) : AllFit (tick s).ponds ↔ AllFit s.ponds := by
  unfold tick
  dsimp only
  split
  · exact map_allFit pondTick_fits
  · rfl

end Sys2Proof.Machine
end

section
/-! SUPPORT. The operations of the machine that reset ponds, and those that end in a reset, keep the bounds of every
core's buffers (R65, R91, R122, R124). -/

namespace Sys2Proof.Machine

/-- An operation of the machine keeps the bounds of every core's buffers. -/
def KeepsAll (f : State → State) : Prop := ∀ s, AllFit s.ponds → AllFit (f s).ponds

/-! ### The boundary of a pond and its resets -/

theorem resetBegin_keeps (p cause : Nat) : KeepsAll (resetBegin p cause) := by
  intro s h
  unfold resetBegin
  extract_lets P e s1 s2
  have h1 : s1.ponds = s.ponds := by
    unfold s1
    split
    · rfl
    · split
      · rfl
      · exact pondOutcome_ponds _ _ _ _ s
  have h2 : AllFit s2.ponds := by
    unfold s2
    rw [sinc_ponds, streamEnd_allFit, cutByReset_ponds, h1]
    exact h
  rw [sendNotices_allFit]
  exact onPondN_allFit_of (pondResetBegin_fits _ _ _ _) h2

theorem pondStarts_keeps (p : Nat) : KeepsAll (pondStarts p) := by
  intro s h
  have h1 : AllFit (onPondN p (fun _ => pondBegin (pctxN s p) (pondAt s p)) s).ponds :=
    onPondN_allFit_of (pondBegin_fits _ _ (pondAt_fits h p)) h
  unfold pondStarts
  dsimp only
  split
  · exact h1
  · exact h1

theorem pondBoundary_keeps (p : Nat) : KeepsAll (pondBoundary p) := by
  intro s h
  unfold pondBoundary
  extract_lets len c P r e s1 s2 s3 s4
  have h1 : AllFit s1.ponds := by
    unfold s1
    rw [recordSkew_ponds]
    exact onPondN_allFit_of ((markCalLate_fits r.2).2 ((boundaryOpen_fits c P).2 (pondAt_fits h p))) h
  have h2 : AllFit s2.ponds := by
    unfold s2
    rw [boundaryActs_allFit, foldl_allFit fun t k => pondMessage_allFit p k t]
    exact h1
  have h3 : AllFit s3.ponds := pondStarts_keeps p _ ((onPondN_allFit (by simp)).2 h2)
  have h4 : AllFit s4.ponds := (onPondN_allFit (by simp)).2 h3
  split
  · exact resetBegin_keeps p _ s4 h4
  · exact h4

theorem boundaryReg_keeps (p : Nat) : KeepsAll (boundaryReg p) := by
  intro s h
  unfold boundaryReg
  extract_lets P
  split
  · exact h
  · split
    · exact pondBoundary_keeps p s h
    · rw [recordSkew_ponds]
      exact onPondN_allFit_of ((boundaryIdle_fits _ P).2 (pondAt_fits h p)) h

/-! ### Resets of the machine -/

theorem map_pondAtStart_allFit (tap : Pond → Tap) (v : Vector Pond 64) :
    AllFit (v.map (fun P => pondAtStart (tap P) P)) := by
  intro p
  rw [Fin.getElem_fin, Vector.getElem_map]
  exact pondAtStart_fits _ _

theorem coldClear_fits (s : State) : AllFit (coldClear s).ponds :=
  map_pondAtStart_allFit (fun _ => Tap.reset) s.ponds

theorem porRelease_keeps : KeepsAll porRelease := by
  intro s h
  unfold porRelease
  split
  · exact h
  · rw [startSteps_allFit, onBoot_ponds]
    exact h

theorem warmReset_keeps (cause : Nat) : KeepsAll (warmReset cause) := by
  intro s h
  unfold warmReset
  split
  · exact h
  · rw [startSteps_allFit]
    exact map_pondAtStart_allFit _ s.ponds

/-! ### Stores of the Shore -/

theorem armedWrite_keeps (off : Nat) (v : Word) {act : Word → State → State} (ha : ∀ w, KeepsAll (act w)) :
    KeepsAll (armedWrite off v act) := by
  intro s h
  unfold armedWrite
  extract_lets put
  have hput (x : Option (Word × Nat)) : AllFit (put x s).ponds := h
  clear_value put
  split
  · split
    · exact hput _
    · split
      · exact ha _ _ (hput _)
      · exact hput _
  · exact hput _

theorem shoreStore_keeps (off : Nat) (v : Word) : KeepsAll (shoreStore off v) := by
  intro s h
  have hotp := armedWrite_keeps 0x408C v (act := fun _ t => otpGo t) (fun _ t ht => by rwa [otpGo_ponds]) s h
  have hwarm := armedWrite_keeps 0x5004 v (act := fun _ t => warmReset 4 t) (fun _ => warmReset_keeps 4) s h
  have hlc := armedWrite_keeps 0x5010 v (act := lcAdvance) (fun w t ht => by rwa [lcAdvance_ponds]) s h
  unfold shoreStore
  split
  · exact h
  · split
    · rwa [hpWrite_ponds]
    · split
      · rwa [weirStore_ponds]
      · split
        · rwa [tbsStore_ponds]
        · split
          · rwa [scvuStore_ponds]
          · split <;> simp [h, hotp, hwarm, hlc]

/-! ### Commands of the hosts -/

theorem atOnce_keeps {f : Cmd → State → State} (hf : ∀ c, KeepsAll (f c)) (c : Cmd) : KeepsAll (atOnce f c) := by
  intro s h
  unfold atOnce
  split
  · rwa [finishNow_ponds]
  · exact hf c s h

theorem inArea_keeps {f : Cmd → State → State} (hf : ∀ c, KeepsAll (f c)) (c : Cmd) : KeepsAll (inArea f c) := by
  intro s h
  unfold inArea
  split
  · rwa [finishNow_ponds]
  · exact atOnce_keeps hf c s h

theorem consumeWith_keeps (h n : Nat) {f : Cmd → State → State} (hf : ∀ c, KeepsAll (f c)) :
    KeepsAll (consumeWith h n f) := by
  intro s hs
  unfold consumeWith
  extract_lets x d c asap cmd s1
  have h1 : AllFit s1.ponds := by
    unfold s1
    rwa [onShore_ponds, consumeCounts_ponds]
  split
  · rwa [finishNow_ponds]
  · exact hf _ s1 h1

theorem pokeShore_keeps (c : Cmd) : KeepsAll (pokeShore c) := by
  intro s h
  unfold pokeShore
  extract_lets a v
  have h1 := shoreStore_keeps a v s h
  split
  · rwa [pokeEnd_ponds]
  · split
    · rwa [pokeEnd_ponds]
    · exact h1

theorem pokeConsume_keeps (c : Cmd) : KeepsAll (pokeConsume c) := by
  intro s h
  unfold pokeConsume
  extract_lets a
  split
  · rwa [finishNow_ponds]
  · split
    · exact atOnce_keeps (fun c t ht => by rwa [mgmtRequest_ponds]) c s h
    · exact atOnce_keeps pokeShore_keeps c s h

/-! ### Requests of the Shore to a pond, and the debugger -/

theorem serve_keeps (p op ans : Nat) (waits : Pond → Packet → Bool) {f : PCtx → Packet → Pond → Nat × Nat × Pond}
    (hf : ∀ c k P, P.core.Fits → (f c k P).2.2.core.Fits) : KeepsAll (serve p op ans waits f) := by
  intro s h
  unfold serve
  split
  · exact h
  · rename_i k s1 hm
    have h1 : AllFit s1.ponds := by rwa [takeMgmt_ponds hm]
    have hP := pondAt_fits h1 p
    dsimp only
    split
    · exact h1
    · split
      · exact onPondN_allFit_of hP h1
      · split
        · exact h
        · exact onPondN_allFit_of ((answer_fits _ _ _ _ _ _ _).2 (hf _ _ _ hP)) h1

theorem stepping_fits (b : Bool) {P : Pond} (h : P.core.Fits) :
    ({ P with core := { P.core with stepping := b } } : Pond).core.Fits := h

theorem debuggerAccess_keeps (a : DbgAccess) : KeepsAll (debuggerAccess a) := by
  intro s h
  unfold debuggerAccess
  split
  · split
    · exact (onPondN_allFit (dbgHold_fits true)).2 h
    · exact h
  · split <;> exact h
  · split
    · exact (onPondN_allFit (dbgHold_fits false)).2 h
    · exact h
  · split <;> exact h
  · split
    · exact onPondN_allFit_of (stepping_fits _ (pondAt_fits h _)) h
    · exact h
  · split
    · rename_i p x _
      have h1 := onPondN_allFit_of (n := p.val) (f := fun _ => (dbgLoad (pctxN s p.val) x.toNat (pondAt s p.val)).2)
        ((dbgLoad_fits _ _ _).2 (pondAt_fits h p.val)) h
      dsimp only
      split <;> exact h1
    · exact h
  · split
    · exact (onPondN_allFit (dbgStore_fits _ _ _)).2 h
    · exact h
  · rename_i x
    split
    · exact h
    · have h1 : AllFit (shoreRead x.toNat s).2.ponds := by rwa [shoreRead_ponds]
      split <;> rename_i heq <;> rwa [heq] at h1
  · split
    · exact shoreStore_keeps _ _ s h
    · exact h

end Sys2Proof.Machine
end

section
/-! SUPPORT. What every instruction leaves of the bounds of the core's buffers (R122, R124). -/

namespace Sys2Proof.Machine

/-! ### Attestation (R358 to R362) touches no pond -/

theorem spdmTurn_ponds {ok : Bool} {s : State} {q : List Byte} {f : List Byte × State} (hf : f.2.ponds = s.ponds) :
    (spdmTurn ok s q f).2.ponds = s.ponds := by
  unfold spdmTurn
  split
  · rfl
  · split
    · exact hf
    · rfl

/-- A request that is refused where it is not well formed, and else answered. -/
theorem spdmFail_or_ponds {c : Prop} [Decidable c] {code : Nat} {r : List Byte} {s t : State}
    (ht : t.ponds = s.ponds) : (if c then spdmFail code s else (r, t)).2.ponds = s.ponds := by
  split
  · rw [spdmFail_ponds]
  · exact ht

theorem spdmVersion_ponds (s : State) (h : Nat) (q : List Byte) : (spdmVersion s h q).2.ponds = s.ponds :=
  spdmFail_or_ponds (by rw [spdmStateSet_ponds, spdmLogSet_ponds, spdmLogSet_ponds, spdmLogSet_ponds])

theorem spdmCapabilities_ponds (s : State) (h : Nat) (q : List Byte) :
    (spdmCapabilities s h q).2.ponds = s.ponds :=
  spdmTurn_ponds (spdmFail_or_ponds (by rw [spdmStateSet_ponds, spdmAdd_ponds]))

theorem spdmAlgorithms_ponds (s : State) (h : Nat) (q : List Byte) : (spdmAlgorithms s h q).2.ponds = s.ponds :=
  spdmTurn_ponds (spdmFail_or_ponds (by rw [spdmStateSet_ponds, spdmAdd_ponds]))

theorem spdmDigests_ponds (s : State) (h : Nat) (q : List Byte) : (spdmDigests s h q).2.ponds = s.ponds := by
  unfold spdmDigests
  refine spdmTurn_ponds ?_
  rw [spdmLogSet_ponds, spdmAdd_ponds]

theorem spdmCertificate_ponds (s : State) (h : Nat) (q : List Byte) : (spdmCertificate s h q).2.ponds = s.ponds :=
  spdmTurn_ponds (spdmFail_or_ponds (by rw [spdmLogSet_ponds, spdmAdd_ponds]))

theorem spdmChallenge_ponds (s : State) (h : Nat) (q : List Byte) : (spdmChallenge s h q).2.ponds = s.ponds := by
  unfold spdmChallenge
  refine spdmTurn_ponds ?_
  split
  · rw [spdmFail_ponds]
  · split
    · rw [spdmFail_ponds, keyDenied_ponds]
    · split
      · rw [spdmFail_ponds, keyDenied_ponds]
      · rw [spdmLogSet_ponds, spdmLogSet_ponds, inc64_ponds, useShoreFree_ponds, drbgNext_ponds]

theorem spdmMeasurements_ponds (s : State) (h : Nat) (q : List Byte) :
    (spdmMeasurements s h q).2.ponds = s.ponds := by
  unfold spdmMeasurements
  extract_lets signed op l recs len
  clear_value signed op recs len
  refine spdmTurn_ponds ?_
  split
  · rw [spdmFail_ponds]
  · split
    · rw [spdmFail_ponds, keyDenied_ponds]
    · split
      · rw [spdmLogSet_ponds, inc64_ponds, drbgNext_ponds]
      · rw [spdmAdd_ponds, drbgNext_ponds]

/-! ### Rules of the instruction families -/

/-- An outcome whose next state keeps the bounds of every core's buffers. -/
def Bounded (o : Host.Outcome State Fault Refusal) : Prop := ∀ t, o = .next t → AllFit t.ponds

theorem next_bounded {t : State} (h : AllFit t.ponds) : Bounded (.next t) := by
  rintro _ ⟨⟩
  exact h

/-- An instruction that leaves every pond as it is. -/
theorem ponds_bounded {s t : State} (h : AllFit s.ponds) (e : t.ponds = s.ponds) : Bounded (.next t) :=
  next_bounded (e ▸ h)

theorem keepsFits_of_iff {f : Pond → Pond} (hf : ∀ P, (f P).core.Fits ↔ P.core.Fits) : KeepsFits f :=
  fun P => (hf P).2

theorem keepsAll_of_ponds {f : State → State} (hf : ∀ t, (f t).ponds = t.ponds) : KeepsAll f := by
  intro t h
  rwa [hf]

theorem keepsAll_of_iff {f : State → State} (hf : ∀ t, AllFit (f t).ponds ↔ AllFit t.ponds) : KeepsAll f :=
  fun t => (hf t).2

section
variable {s : State} (h : AllFit s.ponds)
include h

theorem onPond_bounded {p : PondId} {f : Pond → Pond} (hf : KeepsFits f) : Bounded (.next (onPond p f s)) :=
  next_bounded (onPond_allFit_of hf h)

/-- A read that changes its pond and gives a value. -/
theorem readPond_bounded {p : PondId} {P : Pond} (v : Word) (hP : P.core.Fits) :
    Bounded (.next { onPond p (fun _ => P) s with rdata := v }) :=
  next_bounded (onPond_allFit_of (fun _ _ => hP) h)

theorem issue_bounded {p : PondId} {f : PCtx → Pond → Pond} (hf : ∀ c, KeepsFits (f c)) : Bounded (issue p f s) := by
  refine onPond_bounded h fun P hP => ?_
  split
  · exact issueP_fits (hf _) hP
  · exact hP

/-- An instruction that is legal in gate code too: it issues there without a fetch. -/
theorem gateCode_bounded {p : PondId} {f : Pond → Pond} (hf : KeepsFits f) :
    Bounded (.next (onPond p (fun P =>
      if P.core.gate.isSome then if P.core.run == .running && !heldBack P then f (stepUsed P) else P
      else if canIssue P then issueP f P else P) s)) := by
  refine onPond_bounded h fun P hP => ?_
  have hused : (stepUsed P).core.Fits := hP
  split
  · split
    · exact hf _ hused
    · exact hP
  · split
    · exact issueP_fits hf hP
    · exact hP

theorem gateIssue_bounded {n : Nat} {f : FmtG} {service : PCtx → Pond → Pond} {p : PondId}
    (hs : ∀ c, KeepsFits (service c)) : Bounded (gateIssue n f service p s) :=
  gateCode_bounded h (gateCall_fits n f (hs _))

theorem consumeOp_bounded {op : Nat} {x : PortId} {n : CtxId} {f : Cmd → State → State} (hf : ∀ c, KeepsAll (f c)) :
    Bounded (consumeOp op x n f s) := by
  unfold consumeOp
  split
  · exact next_bounded (consumeWith_keeps _ _ hf s h)
  · exact next_bounded h

/-- A message that leaves the queue of an end, with what the instruction does with it. -/
theorem takeMgmt_bounded {p op : Nat} {f : Packet → State → State} (hf : ∀ k, KeepsAll (f k)) :
    Bounded (.next (match takeMgmt p op s with | none => s | some (k, t) => f k t)) := by
  split
  · exact next_bounded h
  · rename_i k t hm
    exact next_bounded (hf k t (by rwa [takeMgmt_ponds hm]))

end

end Sys2Proof.Machine
end

section
/-! SUPPORT and claims. O59: every step keeps the bounds of the core's buffers (R122, R124). -/

namespace Sys2Proof.Machine

/-! ### Parts of the effects -/

/-- The core with the interrupt enable written. -/
theorem interruptEnable_fits (b : Bool) {P : Pond} (hP : P.core.Fits) :
    ({ P with core := { P.core with ie := b } } : Pond).core.Fits := hP

/-- The core with its run state written. -/
theorem runState_fits (r : Run) {P : Pond} (hP : P.core.Fits) :
    ({ P with core := { P.core with run := r } } : Pond).core.Fits := hP

/-- The core released by a relock. -/
theorem released_fits (P : Pond) :
    ({ P with core := { P.core with halted := false, stepping := false } } : Pond).core.Fits ↔ P.core.Fits := Iff.rfl

theorem serveErase_fits : KeepsFits serveErase := by
  intro P hP
  unfold serveErase
  split
  · exact (gateResult_fits _ _ _).2 hP
  · exact (gateResult_fits _ _ _).2 ((pflStart_fits _ _).2 hP)

/-- An answer that ends a command of the Shore. -/
theorem mgmtDone_keeps {a b : Nat} {f : Nat → State → State} (hf : ∀ n, KeepsAll (f n)) :
    KeepsAll (fun t => match mgmtDone a b t with | none => t | some (n, u) => f n u) := by
  intro t ht
  dsimp only
  split
  · exact ht
  · rename_i n u hm
    exact hf n u (by rwa [mgmtDone_ponds hm])

/-! ### Instructions whose effect is written out in their row -/

section
variable {s : State} (h : AllFit s.ponds)
include h

theorem execAccx_bounded (p : PondId) (f : FmtA) : Bounded (execAccx p f s) :=
  issue_bounded h fun _ _ hP => legal_fits _ (fun _ hQ => by simpa using hQ) hP

theorem execAccrd_bounded (p : PondId) (f : FmtA) : Bounded (execAccrd p f s) :=
  issue_bounded h fun _ _ hP => legal_fits _ (fun _ hQ => by simpa using hQ) hP

theorem execAccw_bounded (p : PondId) (f : FmtA) : Bounded (execAccw p f s) :=
  issue_bounded h fun _ _ hP => legal_fits _ (fun _ hQ => by simpa using hQ) hP

theorem execAccz_bounded (p : PondId) (f : FmtA) : Bounded (execAccz p f s) :=
  issue_bounded h fun _ _ hP => legal_fits _ (fun _ hQ => by simpa using hQ) hP

theorem execBcc_bounded (p : PondId) (f : FmtB) : Bounded (execBcc p f s) :=
  issue_bounded h fun _ _ hP => legal_fits _ (fun _ hQ => by simpa [branchIf] using hQ) hP

theorem execNop_bounded (p : PondId) (f : FmtS) : Bounded (execNop p f s) :=
  issue_bounded h fun _ _ hP => legal_fits _ (fun _ hQ => by simpa using hQ) hP

theorem execEi_bounded (p : PondId) (f : FmtS) : Bounded (execEi p f s) :=
  issue_bounded h fun _ _ hP => legal_fits _ (fun _ hQ => (retire_fits 1 _).2 (interruptEnable_fits true hQ)) hP

theorem execDi_bounded (p : PondId) (f : FmtS) : Bounded (execDi p f s) :=
  issue_bounded h fun _ _ hP => legal_fits _ (fun _ hQ => (retire_fits 1 _).2 (interruptEnable_fits false hQ)) hP

theorem execTrap_bounded (p : PondId) (f : FmtS) : Bounded (execTrap p f s) :=
  issue_bounded h fun _ _ hP => legal_fits _ (fun _ hQ => raiseAt_fits _ _ ((useFree_fits _).2 hQ)) hP

theorem execBrk_bounded (p : PondId) (f : FmtS) : Bounded (execBrk p f s) := by
  refine issue_bounded h fun c _ hP => legal_fits _ (fun Q hQ => ?_) hP
  dsimp only
  split
  · exact hQ
  · exact raiseAt_fits _ _ ((useFree_fits _).2 hQ)

theorem execIllegalInstruction_bounded (p : PondId) (w : Word) : Bounded (execIllegalInstruction p w s) := by
  refine issue_bounded h fun _ P hP => ?_
  split
  · exact raiseIllegal_fits hP
  · exact hP

theorem execWaite_bounded (p : PondId) (f : FmtS) : Bounded (execWaite p f s) := by
  refine issue_bounded h fun _ _ hP => legal_fits _ (fun Q hQ => ?_) hP
  dsimp only
  split
  · exact (waiteDone_fits _ _).2 hQ
  · exact (beginWait_fits _ _ _).2 hQ

theorem execFence_bounded (p : PondId) (f : FmtS) : Bounded (execFence p f s) := by
  refine issue_bounded h fun _ _ hP => legal_fits _ (fun Q hQ => ?_) hP
  dsimp only
  split
  · exact (retire_fits 1 _).2 hQ
  · exact (beginWait_fits _ _ _).2 hQ

theorem execIrq_bounded (p : PondId) : Bounded (execIrq p s) := by
  refine onPond_bounded h fun P hP => ?_
  extract_lets point P1
  have hP1 : P1.core.Fits := by
    unfold P1
    split
    · exact (waited_fits _ _).2 hP
    · exact hP
  clear_value P1
  split
  · exact takeIrq_fits _ (stopLong_fits hP1)
  · exact hP

theorem execWaiteWake_bounded (p : PondId) : Bounded (execWaiteWake p s) := by
  refine onPond_bounded h fun P hP => ?_
  split
  · split
    · exact (waiteDone_fits _ _).2 ((waited_fits _ _).2 hP)
    · exact hP
  · exact hP

theorem execFenceDone_bounded (p : PondId) : Bounded (execFenceDone p s) := by
  refine onPond_bounded h fun P hP => ?_
  dsimp only
  split
  · split
    · exact (retire_fits 1 _).2 (runState_fits _ ((waited_fits _ P).2 hP))
    · exact hP
  · exact hP

/-! ### Gates -/

theorem execGateNotImplemented_bounded (p : PondId) (n : BitVec 8) (f : FmtG) :
    Bounded (execGateNotImplemented p n f s) := by
  refine onPond_bounded h fun P hP => ?_
  extract_lets go
  have hgo : KeepsFits go := fun _ hQ => legal_fits _ (fun _ hR => gateFail_fits _ _ _ hR) hQ
  have hused : (stepUsed P).core.Fits := hP
  clear_value go
  split
  · exact hP
  · split
    · split
      · exact hgo _ hused
      · exact hP
    · split
      · exact issueP_fits hgo hP
      · exact hP

/-! ### Registers, the Shore and the messages -/

theorem execRegisterWrite_bounded (w : Writer) (off : BitVec 32) (v : Word) :
    Bounded (execRegisterWrite w off v s) := by
  unfold execRegisterWrite
  refine next_bounded ?_
  split
  · split
    · exact h
    · exact (onPond_allFit (storeReg_fits _ _ _)).2 h
  · exact shoreStore_keeps _ _ s h
  · rwa [barWrite_ponds]

theorem execCalibrationEnd_bounded (p : PondId) (n : Fin 2) (settled : Bool) (l : List Word) :
    Bounded (execCalibrationEnd p n settled l s) := by
  unfold execCalibrationEnd
  extract_lets t
  have ht : AllFit t.ponds := (onPond_allFit (calEnd_fits _ _)).2 h
  refine next_bounded ((calStepEnd_allFit _).2 ?_)
  split
  · rwa [addReport_ponds]
  · exact ht

theorem execEnergyPost_bounded (p : PondId) : Bounded (execEnergyPost p s) :=
  next_bounded ((onPond_allFit (energyPost_fits (pctx s p))).2 h)

theorem execEnergyPostArrival_bounded : Bounded (execEnergyPostArrival s) := by
  unfold execEnergyPostArrival
  refine next_bounded ?_
  split
  · rename_i k t hm
    rwa [energyArrive_ponds, onShore_ponds, takeEjected_ponds hm]
  · exact h

theorem execPondRestart_bounded (p : PondId) : Bounded (execPondRestart p s) := by
  unfold execPondRestart
  refine next_bounded ?_
  split
  · exact pondStarts_keeps _ s h
  · exact h

theorem execWatchdogExpiry_bounded : Bounded (execWatchdogExpiry s) := by
  unfold execWatchdogExpiry
  refine next_bounded ?_
  split
  · exact warmReset_keeps 8 s h
  · exact h

theorem execIncarnationNotice_bounded (p : PondId) : Bounded (execIncarnationNotice p s) :=
  takeMgmt_bounded h fun k => keepsAll_of_iff fun _ => onPondN_allFit fun P =>
    (emit_fits _ _ _).trans (noticeAt_fits k P)

theorem execNoticeAcknowledge_bounded : Bounded (execNoticeAcknowledge s) := by
  unfold execNoticeAcknowledge
  refine next_bounded ?_
  split
  · exact h
  · rename_i k t hm
    have ht : AllFit t.ponds := by rwa [takeMgmt_ponds hm]
    extract_lets p
    split
    · exact ht
    · extract_lets left _
      split
      · exact (onLife_allFit _ _ _).2 ht
      · exact ht

theorem execReadResponse_bounded : Bounded (execReadResponse s) := by
  refine takeMgmt_bounded h fun k => mgmtDone_keeps fun n t ht => ?_
  split
  · exact ht
  · rwa [finishNow_ponds]

theorem execWriteAcknowledge_bounded : Bounded (execWriteAcknowledge s) := by
  refine takeMgmt_bounded h fun k => mgmtDone_keeps fun n t ht => ?_
  split
  · exact ht
  · rwa [pokeEnd_ponds]

theorem execBlockAcknowledge_bounded : Bounded (execBlockAcknowledge s) := by
  refine takeMgmt_bounded h fun k => mgmtDone_keeps fun n t ht => ?_
  split
  · split
    · rwa [progKick_allFit, finishNow_ponds]
    · exact ht
  · rwa [flashDone_allFit]

theorem execUnassignedOpcode_bounded (x : PortId) (n : CtxId) : Bounded (execUnassignedOpcode x n s) := by
  unfold execUnassignedOpcode
  refine next_bounded ?_
  split
  · exact h
  · split
    · exact consumeWith_keeps _ _ (fun _ _ ht => ht) s h
    · exact h

theorem execPortBreak_bounded (x : PortId) (k : BreakKind) : Bounded (execPortBreak x k s) := by
  unfold execPortBreak
  refine next_bounded ?_
  split
  · rwa [readsGoOn_allFit, onPort_keeps_ponds, portBreak_ponds]
  · exact h

theorem execFlashOperationEnd_bounded (u : FlashUnit) (bad : Option Nat) : Bounded (execFlashOperationEnd u bad s) := by
  unfold execFlashOperationEnd
  refine next_bounded ?_
  split
  · rwa [pondFlashEnd_allFit]
  · rwa [sysFlashEnd_allFit]

theorem execDebugRelock_bounded : Bounded (execDebugRelock s) :=
  next_bounded ((map_allFit released_fits).2 h)

theorem execOtpProgramDone_bounded (w : Word) : Bounded (execOtpProgramDone w s) := by
  unfold execOtpProgramDone
  refine next_bounded ?_
  split
  · exact h
  · rename_i i v _
    extract_lets bad t
    have ht : AllFit t.ponds := by
      unfold t
      rwa [useShoreFree_ponds, otpPut_ponds, onOtp_ponds]
    clear_value bad t
    split
    · exact ht
    · rwa [alarmRaise_ponds]

theorem execOrphanPolicy_bounded (p : PondId) : Bounded (execOrphanPolicy p s) := by
  unfold execOrphanPolicy
  refine next_bounded ?_
  split
  · exact h
  · split <;> exact h

theorem execDebugTimeout_bounded : Bounded (execDebugTimeout s) := by
  unfold execDebugTimeout
  refine next_bounded ?_
  split
  · exact h
  · split
    · rwa [debugStrike_ponds]
    · exact h

end

end Sys2Proof.Machine
end

section
/-! Claims. O59: every step keeps the bounds of the core's buffers (R122, R124). -/

namespace Sys2Proof.Machine

/-- Every instruction keeps the bounds of every core's buffers: by the rule of its family. -/
theorem exec_bounded (i : Instr) {s : State} (h : AllFit s.ponds) : Bounded (exec i s) := by
  cases i with unfold exec
  | gateNotImplemented => exact execGateNotImplemented_bounded h _ _ _
  | porAssert => exact next_bounded (coldClear_fits s)
  | porRelease => exact next_bounded (porRelease_keeps s h)
  | bistEnd | wellspringRegeneration | tbsRun | gssEdge | gssInEdge | flywheelEdge | shoreBoundary
  | sluiceSlotsFreed | mirrorSnapshot | watchdogKick | armedPairExpiry | crlPondReset | crlCoreReset
  | miscResetReqPond | miscResetReqCore | huskMarkDone | linkUp | contextEnable | contextDisable | abandon
  | contextBlockRead | doorbellPoll | doorbellData | descriptorData | operandRead | completionAck
  | verifyUnitAcquire | messageArrival | sealArchive | streamPacketSend | streamRecord | blockWrite | flitSend
  | flitReceive | nak | creditReturn | creditAudit | retrainDone | retrainTimer | retrain | alarmRegistration
  | eraseComplete | inject | debugChallenge | debugResponse | supplyWarnNFall | lastGaspCommit | lastGaspRearm
  | lastGaspEraseDone | picComplete | picSwtrig | adcTrigger | swtrig | slotResult | laneOutput | adcCal | cbufClear
  | cmpTrip | blankingEnd | fltActive | captureEdge | periodEnd | pgPreload | clrfresh | pgGridEnable
  | pgGridDisable | leRef | etCmpHi | etCmpLo | etFire | cvuStart | cvuFeed | cvuFinish | sbCmd | groupCommand
  | sbStart | sbTransactionEnd | arbLost | sbTimeout | sbControllerReset | sbEn | recoveryRound | sbResetNRelease
  | sbAlert | compareEdge | firstPeriodStart | cmpOutputInactive | alarmConditionEnd | sbAlertNRelease
  | supplyWarnNRise | gramondProvisioning | configWrite | setupBarRead | snapshotWriteEnd | verifyDone
  | pllLossOfLock | linkAcknowledgement =>
    exact next_bounded (by simpa using h)
  | calibrationEnd => exact execCalibrationEnd_bounded h _ _ _ _
  | boundaryRegistration => exact next_bounded (boundaryReg_keeps _ s h)
  | orphanPolicy => exact execOrphanPolicy_bounded h _
  | resetN => exact next_bounded (warmReset_keeps 2 s h)
  | watchdogExpiry => exact execWatchdogExpiry_bounded h
  | crlWarmReset | crlLcAdvance | otpProgGo => exact next_bounded (shoreStore_keeps _ _ s h)
  | coreOnlyReset => exact next_bounded (onPondN_allFit_of (coreOnlyReset_fits _ _ (pondAt_fits h _)) h)
  | pondRestart => exact execPondRestart_bounded h _
  | portBreak => exact execPortBreak_bounded h _ _
  | registerWrite => exact execRegisterWrite_bounded h _ _ _
  | unassignedOpcode => exact execUnassignedOpcode_bounded h _ _
  | hostNop => exact consumeOp_bounded h (atOnce_keeps fun c => keepsAll_of_ponds (finishNow_ponds c 0 0 0))
  | svcMapRead =>
    exact consumeOp_bounded h (atOnce_keeps fun c => keepsAll_of_ponds fun t => finishData_ponds c _ _ 0 t)
  | leaseCmd | releaseCmd | takeover | enable | disable | setRef | groupConfigure | sluiceClose | captureStream
  | acctOpen | acctClose | acctAssign | utcAnchor | alarmClear =>
    exact consumeOp_bounded h fun c => keepsAll_of_ponds (holdCmd_ponds c)
  | peek => exact consumeOp_bounded h fun c => keepsAll_of_ponds (peekConsume_ponds c)
  | poke => exact consumeOp_bounded h pokeConsume_keeps
  | configure | sluiceOpen => exact consumeOp_bounded h fun c => keepsAll_of_ponds (readOperand_ponds _ _ c)
  | bindTag => exact consumeOp_bounded h (atOnce_keeps fun c => keepsAll_of_ponds (bindTag_ponds c))
  | unbindTag => exact consumeOp_bounded h (atOnce_keeps fun c => keepsAll_of_ponds (unbindTag_ponds c))
  | acctRead => exact consumeOp_bounded h (atOnce_keeps fun c => keepsAll_of_ponds (acctRead_ponds c))
  | sealFetch => exact consumeOp_bounded h (atOnce_keeps fun c => keepsAll_of_ponds (sealFetch_ponds c))
  | progErase => exact consumeOp_bounded h (inArea_keeps fun c => keepsAll_of_iff (progQueue_allFit c))
  | progWrite => exact consumeOp_bounded h (inArea_keeps fun c => keepsAll_of_ponds (readOperand_ponds _ _ c))
  | progVerify => exact consumeOp_bounded h (atOnce_keeps fun c => keepsAll_of_iff (progQueue_allFit c))
  | progSwap => exact consumeOp_bounded h fun c => keepsAll_of_ponds (swapConsume_ponds c)
  | spdmXfer => exact consumeOp_bounded h (atOnce_keeps fun c => keepsAll_of_ponds (spdmConsume_ponds c))
  | getVersion => exact ponds_bounded h (spdmRun_ponds spdmVersion_ponds _ _ s)
  | getCapabilities => exact ponds_bounded h (spdmRun_ponds spdmCapabilities_ponds _ _ s)
  | negotiateAlgorithms => exact ponds_bounded h (spdmRun_ponds spdmAlgorithms_ponds _ _ s)
  | getDigests => exact ponds_bounded h (spdmRun_ponds spdmDigests_ponds _ _ s)
  | getCertificate => exact ponds_bounded h (spdmRun_ponds spdmCertificate_ponds _ _ s)
  | challenge => exact ponds_bounded h (spdmRun_ponds spdmChallenge_ponds _ _ s)
  | getMeasurements => exact ponds_bounded h (spdmRun_ponds spdmMeasurements_ponds _ _ s)
  | energyPost => exact execEnergyPost_bounded h _
  | energyPostArrival => exact execEnergyPostArrival_bounded h
  | incarnationNotice => exact execIncarnationNotice_bounded h _
  | noticeAcknowledge => exact execNoticeAcknowledge_bounded h
  | managementRead => exact next_bounded (serve_keeps _ _ _ _ (fun _ _ _ hP => (peekPond_fits _ _ _).2 hP) s h)
  | managementWrite => exact next_bounded (serve_keeps _ _ _ _ (fun _ _ _ hP => (pokePond_fits _ _ _ _).2 hP) s h)
  | readResponse => exact execReadResponse_bounded h
  | writeAcknowledge => exact execWriteAcknowledge_bounded h
  | blockAcknowledge => exact execBlockAcknowledge_bounded h
  | debugTimeout => exact execDebugTimeout_bounded h
  | debugRelock => exact execDebugRelock_bounded h
  | flashOperationEnd => exact execFlashOperationEnd_bounded h _ _
  | otpProgramDone => exact execOtpProgramDone_bounded h _
  | programSwap => exact next_bounded (programSwap_keeps _ h)
  | irq => exact execIrq_bounded h _
  | storeRetire => exact onPond_bounded h fun _ hP => retireN_fits 1 hP
  | postAccepted => exact onPond_bounded h (postAccepted_fits _)
  | waiteWake => exact execWaiteWake_bounded h _
  | fenceDone => exact execFenceDone_bounded h _
  | add | sub | adc | sbc | adds | subs | andd | orr | xor | andn | shl | shr | sar | ror | slt | sltu | minS | maxS
  | minu | maxu =>
    exact issue_bounded h fun _ => aluReg_fits _ _
  | cmp | tst => exact issue_bounded h fun _ => aluTest_fits _ _
  | addi | andi | ori | xori | shli | shri | sari | slti | sltiu =>
    exact issue_bounded h fun _ => aluImm_fits _ _ _
  | cmpi | tsti => exact issue_bounded h fun _ => immTest_fits _ _
  | lui | call => exact issue_bounded h fun _ _ hP => by simpa using hP
  | mul | mulh | mulhu => exact issue_bounded h fun _ => mulOp_fits _ _
  | div | divu | rem | remu => exact issue_bounded h fun _ => divOp_fits _ _
  | mac | msu | macz => exact issue_bounded h fun _ => accOp_fits _ _
  | accx => exact execAccx_bounded h _ _
  | accrd => exact execAccrd_bounded h _ _
  | accw => exact execAccw_bounded h _ _
  | accz => exact execAccz_bounded h _ _
  | extu | exts | ins | clz | popc | sats | satu =>
    exact issue_bounded h fun _ => fieldOp_fits _ _ _ _
  | lb | lbu | lh | lhu | lw => exact issue_bounded h (loadOne_fits _ _ _)
  | ld => exact issue_bounded h (loadOp_fits _ _ _ (fun _ _ _ hP => by simpa using hP) _)
  | sb | sh | sw => exact issue_bounded h (storeOne_fits _ _)
  | sd => exact issue_bounded h (storeOp_fits _ _ _ _ _)
  | bcc => exact execBcc_bounded h _ _
  | bz | bnz | dbnz => exact issue_bounded h fun _ => regBranch_fits _ _ _
  | jr | callr => exact issue_bounded h fun _ => jumpReg_fits _ _
  | nop => exact execNop_bounded h _ _
  | trap => exact execTrap_bounded h _ _
  | romInfo => exact gateIssue_bounded h fun _ => keepsFits_of_iff (gateResult_fits _ _)
  | pflProgram => exact gateIssue_bounded h fun _ => serveProgram_fits
  | pflErase => exact gateIssue_bounded h fun _ => serveErase_fits
  | calRead | idRead => exact gateIssue_bounded h fun _ _ hP => (gateResult_fits _ _ _).2 (gateStore_fits _ _ hP)
  | rete => exact gateCode_bounded h fun _ hP => legal_fits _ returnExc_fits hP
  | fence => exact execFence_bounded h _ _
  | waite => exact execWaite_bounded h _ _
  | tbrd | eprd => exact issue_bounded h fun _ _ hP => readPair_fits _ _ hP
  | brk => exact execBrk_bounded h _ _
  | ei => exact execEi_bounded h _ _
  | di => exact execDi_bounded h _ _
  | bmov => exact onPond_bounded h (longIssue_fits _ (fun _ => bmovOp_keeps) _ _)
  | bcrc => exact onPond_bounded h (longIssue_fits _ bcrcOp_keeps _ _)
  | firb => exact onPond_bounded h (longIssue_fits _ (fun _ => firbOp_keeps) _ _)
  | xfrm => exact onPond_bounded h (longIssue_fits _ (fun _ => xfrmOp_keeps) _ _)
  | picClaim => exact readPond_bounded h _ ((claim_fits _).2 (h _))
  | adcCbufData => exact readPond_bounded h _ ((cbufPop_fits _).2 (h _))
  | trippedClear =>
    exact onPond_bounded h (keepsFits_of_iff (withEdges_fits fun _ => fits_foldl fun Q n => trippedClear_fits n Q))
  | fltForcedClear =>
    exact onPond_bounded h (keepsFits_of_iff (withEdges_fits fun _ => fits_foldl fun Q n => fltClear_fits n Q))
  | capData => exact readPond_bounded h _ ((capPop_fits _ _).2 (h _))
  | leCoefData _ v =>
    cases v with
    | none => exact next_bounded ((onPond_allFit coefAuto_fits).2 h)
    | some x => exact onPond_bounded h fun P hP => (coefAuto_fits _).2 ((coefStore_fits x P).2 hP)
  | sbBufData _ v =>
    cases v with
    | none => exact next_bounded ((onPond_allFit sbBufAuto_fits).2 h)
    | some x => exact onPond_bounded h fun P hP => (sbBufAuto_fits _).2 ((sbBufStore_fits x P).2 hP)
  | illegalInstruction => exact execIllegalInstruction_bounded h _ _
  | debuggerAccess => exact next_bounded (debuggerAccess_keeps _ s h)

/-- Settles O59: the tick, and each instruction by the rule of its family. -/
theorem stepKeepsBuffers : Obligations.StepKeepsBuffers := by
  unfold Obligations.StepKeepsBuffers
  intro s t h hst
  rw [buffersFit_iff] at h ⊢
  unfold step at hst
  split at hst
  · exact next_bounded ((tick_allFit s).2 h) t hst
  · rename_i c r _
    exact exec_bounded c (s := { s with pending := r }) h t hst

end Sys2Proof.Machine
end

section
/-! SUPPORT and claims. Interrupts taken (R131, R133) and the return from a handler or a gate body (R135, R146). -/

namespace Sys2Proof.Machine

/-! ### Interrupts (R131) -/

/-- What an instruction changes of its core but its registers leaves what an exception needs. -/
theorem CanTake.coreStep {Q P : Pond} {acc : BitVec 72} {fl : Flags} {pc h : Word} {off : Nat}
    (hP : CoreStep Q P Q.core.g acc fl pc) (hc : CanTake Q off h) : CanTake P off h := by
  obtain ⟨hz, age, per, ca, n, rfl⟩ := hP
  obtain ⟨hgate, hdf, hnest, hal, hlo, hhi, hvec, hload, hhand⟩ := hc
  refine ⟨hgate, hdf, hnest, hal, hlo, hhi, hvec, ?_, hhand⟩
  obtain ⟨R, hR, -⟩ := loadPlain_clean hvec
  rw [hR] at hload
  obtain ⟨R', hR', -⟩ := loadPlain_clean (Q := { Q with fresh := n, core := { Q.core with
    g := Q.core.g, acc := acc, flags := fl, pc := pc, hazard := hz, accAge := age, perStore := per, ca := ca } })
    (a := vectorAt Q off) hvec
  exact (congrArg Prod.fst hR').trans hload

theorem Entered.of_coreStep {Q R P : Pond} {pc ret h : Word}
    (hR : CoreStep Q R Q.core.g Q.core.acc Q.core.flags pc) (hP : Entered R P ret h) : Entered Q P ret h := by
  obtain ⟨hz, age, per, ca, n, rfl⟩ := hR
  exact hP

/-- A pond once the frame of an interrupt is pushed, before its handler is fetched (R133). -/
def interrupted (sp : Word) (F : Pond) : Pond := nested (gset 15 sp F)

theorem interrupted_entered {Q F : Pond} {ret h : Word} {cost : Nat} (hnest : Q.core.nest < 4)
    (hdf : Q.core.df = false) (hgate : Q.core.gate = none) (hlo : 0x20000010 ≤ (gr Q 15).toNat)
    (hF : Framed Q F ((gr Q 15).toNat - 16) (frameWord ret (savedStatus Q) (gr Q 12) (gr Q 14))) :
    Entered Q (enterAt h (charge cost 0 (interrupted (gr Q 15 - 16) F))) ret h ∧
      (enterAt h (charge cost 0 (interrupted (gr Q 15 - 16) F))).regs = Q.regs := by
  obtain ⟨⟨sb, sram, ecc, hz, age, per, ca, n, rfl⟩, -, hwords, hothers⟩ := hF
  obtain ⟨hz', age', per', ca', n', e⟩ := (CoreStep.refl (interrupted (gr Q 15 - 16) _)).charge cost 0
  rw [e]
  have hword : ∀ i < 4, ∀ b, b = (gr Q 15).toNat - 16 + 4 * i → _ := fun i hi b hb => hb ▸ hwords i hi
  exact ⟨⟨rfl, rfl, rfl, rfl, rfl, rfl, hdf, hgate, rfl, rfl, hword 0 (by decide) _ (by omega),
    (hword 1 (by decide) _ (by omega)).trans (savedStatus_toNat hnest), hword 2 (by decide) _ (by omega),
    hword 3 (by decide) _ (by omega), fun a ha hcase => hothers a ha (by omega), fun _ _ _ => rfl, rfl, rfl⟩, rfl⟩

theorem interrupted_clean {Q F : Pond} {sp h : Word} {base : Nat} {w : Nat → Word} (hh : CleanWord Q h.toNat)
    (hF : Framed Q F base w) : CleanWord (interrupted sp F) h.toNat := by
  obtain ⟨⟨sb, sram, ecc, hz, age, per, ca, n, rfl⟩, hecc, -, -⟩ := hF
  exact hh.keep rfl hecc

/-- An interrupt that the core can take records no fault. -/
theorem takeIrq_takes {Q : Pond} {ret h : Word} (hc : CanTake Q 0x24 h) :
    Entered Q (takeIrq ret Q) ret h ∧ (takeIrq ret Q).regs = Q.regs := by
  obtain ⟨hgate, hdf, hnest, hal, hlo, hhi, hvec, hload, hhand⟩ := hc
  have hva := vectorAddr_toNat hvec.lt
  rw [← hva] at hvec hload
  obtain ⟨R, hread, hR⟩ := readVector_clean hvec hload hhand
  have hframe : frameOk (gr Q 15).toNat = true := by
    rw [frameOk, decide_eq_true hal, decide_eq_true hlo, decide_eq_true hhi]
    rfl
  have hF := pushFrame_framed ret (savedStatus Q) (gr Q 12) (gr Q 14)
    (show 0x20000000 ≤ (gr Q 15).toNat - 16 by omega) hR
  have hP5 := fetchAt_clean (interrupted_clean (sp := gr Q 15 - 16) hhand hF)
  rw [interrupted, nested] at hP5
  unfold takeIrq enterExc
  dsimp only
  rw [hframe, hread]
  simp only [Bool.not_true, Bool.false_eq_true, if_false, hP5]
  exact interrupted_entered hnest hdf hgate hlo hF

/-- Where an interrupt is due at an interrupt point with no long instruction under way, IRQ takes it; a WAITE ends its
measured wait. -/
theorem exec_irq {s : State} {p : PondId} (hirq : irqDue (pondOf s p) = true) (hhalt : (pondOf s p).core.halted = false)
    (hstall : (pondOf s p).core.stalled = none) (hlong : (pondOf s p).core.long = none)
    (hrun : (pondOf s p).core.run = .running ∨ ∃ m, (pondOf s p).core.run = .waiting m) :
    exec (.irq p) s = .next (withPond s p (takeIrq (pondOf s p).core.pc (pondOf s p))) ∨
    exec (.irq p) s = .next (withPond s p (takeIrq (pondOf s p).core.pc (waited (pctx s p) (pondOf s p)))) := by
  have hex : exec (.irq p) s = execIrq p s := rfl
  rw [hex]
  unfold execIrq
  rw [onPond_eq]
  rcases hrun with hrun | ⟨m, hrun⟩
  · refine .inl ?_
    simp only [hrun, hhalt, hstall, hirq, Option.isNone_none, Bool.not_false, Bool.and_self, if_true,
      stopLong_none hlong]
  · refine .inr ?_
    have hwait : stopLong (waited (pctx s p) (pondOf s p)) = waited (pctx s p) (pondOf s p) := stopLong_none hlong
    simp only [hrun, hhalt, hstall, hirq, Option.isNone_none, Bool.not_false, Bool.and_self, if_true, hwait]

/-- Settles O17: the entry through the IRQ vector, from the pond or from its ended wait, which differ in a measurement
only. -/
theorem interruptIsTaken : Obligations.InterruptIsTaken := by
  unfold Obligations.InterruptIsTaken
  intro s p h hirq hhalt hstall hlong hrun hc
  rcases exec_irq hirq hhalt hstall hlong hrun with he | he
  · exact ⟨_, he, takeIrq_takes hc⟩
  · have hwait := (CoreStep.refl (pondOf s p)).waited (pctx s p)
    obtain ⟨hent, hregs⟩ := takeIrq_takes (ret := (pondOf s p).core.pc) (hc.coreStep hwait)
    exact ⟨_, he, hent.of_coreStep hwait, hregs⟩

/-! ### Values of memory and of the status word (Table 5.4) -/

theorem ofLe_lt (l : List Byte) : ofLe l < 256 ^ l.length := by
  induction l with
  | nil => exact Nat.one_pos
  | cons b r ih =>
    have hb := b.isLt
    rw [ofLe, List.length_cons, Nat.pow_succ]
    omega

theorem sramValue_lt (P : Pond) (a len : Nat) : sramValue P a len < 256 ^ len := by
  have h := ofLe_lt ((List.range len).map fun i => sramByte P (a + i))
  rwa [List.length_map, List.length_range] at h

theorem toNat_sramWord (P : Pond) (a : Nat) : (BitVec.ofNat 32 (sramValue P a 4)).toNat = sramValue P a 4 := by
  have h := sramValue_lt P a 4
  exact Nat.mod_eq_of_lt (by omega)

theorem b2n_bit {n : Nat} (w : BitVec n) (i : Nat) : b2n (bit w i) = w.toNat / 2 ^ i % 2 := by
  rw [bit, BitVec.getLsbD, ← Nat.toNat_testBit]
  cases w.toNat.testBit i <;> rfl

/-- The flags and IE taken from a word give its low six bits back as a status. -/
theorem statusWord_of_bits {C : Core} {w : Word} (hf : C.flags = ⟨bit w 3, bit w 2, bit w 1, bit w 0, bit w 4⟩)
    (hi : C.ie = bit w 5) : statusWord C % 64 = w.toNat % 64 := by
  rw [statusWord, hf, hi]
  simp only [b2n_bit]
  omega

/-! ### The return from a handler (R135) -/

theorem Retired.trans {Q P R : Pond} (h : Retired Q P) (k : Retired P R) : Retired Q R :=
  ⟨h.only.trans k.only, fun a ha => (k.same a ha).trans (h.same a ha), fun i hi => k.ecc i (h.ecc i hi)⟩

/-- A word of SRAM with no ECC error reads as before after entries retired. -/
theorem Retired.load {Q P : Pond} (h : Retired Q P) {a : Nat} (ha : inSram a) (h4 : a % 4 = 0)
    (hc : eccClean Q a 4) : ∃ R, loadPlain P a 4 = (some (sramValue Q a 4), R) ∧ Retired Q R := by
  obtain ⟨hlo, -⟩ := id ha
  have hv : sramValue P a 4 = sramValue Q a 4 := sramValue_congr fun i _ => h.same _ (by omega)
  refine ⟨_, ?_, h.trans (retireN_retired (partialDepth P.core.sb a 4) P)⟩
  rw [loadPlain_sram ha (wordsOk_aligned (by decide) ha h4) (fun i h1 h2 => h.ecc i (hc i h1 h2)), hv]

theorem eccClean.sub {Q : Pond} {a b len n : Nat} (h : eccClean Q a len) (hlo : a ≤ b)
    (hhi : b + n ≤ a + len) : eccClean Q b n := fun i h1 h2 =>
  h i ((Nat.div_le_div_right (Nat.sub_le_sub_right hlo _)).trans h1)
    (h2.trans (Nat.div_le_div_right (Nat.sub_le_sub_right (Nat.sub_le_sub_right hhi 1) _)))

/-- The core as a frame restores it: the status `st`, g12, g14, and g15 above the frame. -/
def unframed (sp st g12 g14 : Nat) (P : Pond) : Pond :=
  let R := restoreFlags (BitVec.ofNat 32 st) (gset 15 (BitVec.ofNat 32 (sp + 16))
    (gset 14 (BitVec.ofNat 32 g14) (gset 12 (BitVec.ofNat 32 g12) P)))
  { R with core := { R.core with nest := fld (BitVec.ofNat 32 st) 8 4 } }

/-- RETE in a handler whose frame passes its checks. -/
theorem returnExc_handler {Q : Pond} {sp : Nat} (hsp : (gr Q 15).toNat = sp) (hgate : Q.core.gate = none)
    (hdf : Q.core.df = false) (hnest : 1 ≤ Q.core.nest) (hal : sp % 8 = 0) (hlo : 0x20000000 ≤ sp)
    (hhi : sp + 16 ≤ 0x2001FFC0) (hecc : eccClean Q sp 16) : ∃ R, Retired Q R ∧ returnExc Q =
      finishAt (BitVec.ofNat 32 (sramValue Q sp 4)) 6 0 false false
        (unframed sp (sramValue Q (sp + 4) 4) (sramValue Q (sp + 8) 4) (sramValue Q (sp + 12) 4) R) := by
  have hword : ∀ {P : Pond} (_ : Retired Q P) (i : Nat) (_ : i < 4),
      ∃ R, loadPlain P (sp + 4 * i) 4 = (some (sramValue Q (sp + 4 * i) 4), R) ∧ Retired Q R :=
    fun hP i hi => hP.load ⟨by omega, by omega⟩ (by omega)
      (hecc.sub (by omega) (by omega))
  obtain ⟨R0, e0, h0⟩ := hword (Retired.refl Q) 0 (by decide)
  obtain ⟨R1, e1, h1⟩ := hword h0 1 (by decide)
  obtain ⟨R2, e2, h2⟩ := hword h1 2 (by decide)
  obtain ⟨R3, e3, h3⟩ := hword h2 3 (by decide)
  have hrange : (!(decide (0x20000000 ≤ sp) && decide (sp + 16 ≤ 0x2001FFC0))) = false := by
    rw [decide_eq_true hlo, decide_eq_true hhi]
    rfl
  refine ⟨R3, h3, ?_⟩
  unfold returnExc
  simp only [hgate, hdf, hsp, hal, hrange, e0, e1, e2, e3, Option.isSome_none, Bool.false_eq_true, if_false,
    if_neg (show ¬ Q.core.nest = 0 by omega), ne_eq, not_true_eq_false]
  rfl

/-! ### The fetch leaves the core but for its event latches (R130) -/

theorem picEvent_core (n : Nat) (P : Pond) : ∃ e, (picEvent n P).core = { P.core with evt := e } := by
  rcases picEvent_cases n P with ⟨-, h⟩ | ⟨-, e, h⟩ <;> rw [h] <;> exact ⟨_, rfl⟩

theorem flashRead_core (P : Pond) (i : Bool) (off len : Nat) :
    ∃ e, (flashRead P i off len).2.core = { P.core with evt := e } := by
  unfold flashRead
  dsimp only
  split
  · exact ⟨_, rfl⟩
  · split
    · exact ⟨_, rfl⟩
    · split
      · exact picEvent_core _ _
      · exact ⟨_, rfl⟩
  · exact ⟨_, rfl⟩

theorem fetchAt_core (P : Pond) (a : Word) : ∃ e, (fetchAt P a).2.core = { P.core with evt := e } := by
  unfold fetchAt
  split
  · exact ⟨_, rfl⟩
  · split
    · exact ⟨_, rfl⟩
    · split
      · obtain ⟨e, he⟩ := flashRead_core P false a.toNat 4
        split <;> rename_i hread <;> rw [hread] at he <;> exact ⟨e, he⟩
      · split <;> exact ⟨_, rfl⟩
      · exact ⟨_, rfl⟩

/-- No gate body runs where the core issues, nor after the fetch. -/
theorem Issues.gate_fetched {s : State} {p : PondId} {Q : Pond} (h : Issues s p Q) : Q.core.gate = none := by
  obtain ⟨-, hfetch⟩ := id h
  obtain ⟨e, he⟩ := fetchAt_core (stepUsed (pondOf s p)) (pondOf s p).core.pc
  rw [hfetch] at he
  rw [he]
  exact h.gate

/-! ### RETE (R135, R146) -/

theorem exec_rete_handler {s : State} {p : PondId} {Q : Pond} {f : FmtS} (hi : Issues s p Q)
    (hb : FmtS.bare f = true) : exec (.rete p f) s = .next (withPond s p (returnExc Q)) := by
  obtain ⟨hcan, hfetch⟩ := id hi
  have hex : exec (.rete p f) s = execRete p f s := rfl
  rw [hex]
  unfold execRete
  rw [onPond_eq]
  simp only [hi.gate, Option.isSome_none, Bool.false_eq_true, if_false, hcan, if_true, hb]
  unfold issueP
  rw [hfetch]
  rfl

theorem exec_rete_gate {s : State} {p : PondId} {n : Nat} {f : FmtS} (hb : FmtS.bare f = true)
    (hgate : (pondOf s p).core.gate = some n) (hrun : (pondOf s p).core.run = .running)
    (hheld : heldBack (pondOf s p) = false) : exec (.rete p f) s = .next (withPond s p
      (finishAt (gateFrame (pondOf s p) 0) 6 0 false false (leaveGate (stepUsed (pondOf s p))))) := by
  have hret : returnExc (stepUsed (pondOf s p)) =
      finishAt (gateFrame (pondOf s p) 0) 6 0 false false (leaveGate (stepUsed (pondOf s p))) :=
    if_pos (congrArg Option.isSome hgate)
  have hex : exec (.rete p f) s = execRete p f s := rfl
  rw [hex]
  unfold execRete
  rw [onPond_eq]
  simp only [hgate, hrun, hheld, hb, Option.isSome_some, beq_self_eq_true, Bool.not_false, Bool.and_self, if_true,
    legal_true, hret]

/-- Settles O16: a handler's frame is read where only the store buffer may have retired, and the gate frame where the
body left it; the status word gives back its own bits. -/
theorem reteRestores : Obligations.ReteRestores := by
  unfold Obligations.ReteRestores
  refine ⟨fun s p Q f hi hd ha him hdf hnest hal hlo hhi hecc => ?_, fun s p n f hd ha him hgate hrun hheld => ?_⟩
  · obtain ⟨R, hR, hret⟩ := returnExc_handler rfl hi.gate_fetched hdf hnest hal hlo hhi hecc
    refine ⟨_, exec_rete_handler hi (bare_of hd ha him), ?_⟩
    obtain ⟨⟨sb, sram, ecc, rfl⟩, hsame, -⟩ := hR
    obtain ⟨hz, age, per, ca, k, e⟩ := (CoreStep.refl (unframed (gr Q 15).toNat (sramValue Q ((gr Q 15).toNat + 4) 4)
      (sramValue Q ((gr Q 15).toNat + 8) 4) (sramValue Q ((gr Q 15).toNat + 12) 4) _)).finishAt
        (BitVec.ofNat 32 (sramValue Q (gr Q 15).toNat 4)) 6 0 false false
    rw [hret, e]
    have hst := toNat_sramWord Q ((gr Q 15).toNat + 4)
    have h15 : BitVec.ofNat 32 ((gr Q 15).toNat + 16) = gr Q 15 + 16 := by
      rw [BitVec.ofNat_add, BitVec.ofNat_toNat, BitVec.setWidth_eq]
      rfl
    refine ⟨toNat_sramWord _ _, (statusWord_of_bits rfl rfl).trans (congrArg (· % 64) hst), ?_, ?_, rfl, rfl, rfl,
      hsame⟩
    · show fld (BitVec.ofNat 32 (sramValue Q ((gr Q 15).toNat + 4) 4)) 8 4 = _
      rw [fld, hst, Nat.shiftRight_eq_div_pow]
      rfl
    · rw [← h15]
      rfl
  · refine ⟨_, exec_rete_gate (bare_of hd ha him) hgate hrun hheld, ?_⟩
    obtain ⟨hz, age, per, ca, k, e⟩ := (CoreStep.refl (leaveGate (stepUsed (pondOf s p)))).finishAt
      (gateFrame (pondOf s p) 0) 6 0 false false
    rw [e]
    exact ⟨rfl, toNat_sramWord _ _, rfl, (statusWord_of_bits rfl rfl).trans (congrArg (· % 64) (toNat_sramWord _ _)),
      rfl, rfl, rfl, fun _ _ => rfl⟩

end Sys2Proof.Machine
end

section
/-! SUPPORT and claims. ROM gates (R144 to R148, R170, R384, Table 5.8): the body as a gate call enters it, what a
body may store and return, the five services of a core whose NEST fits the status word, and a NEST that does not. -/

namespace Sys2Proof.Machine

/-! ### The body is entered (R146) -/

theorem statusWord_lt (C : Core) : statusWord C < 256 * (C.nest + 1) := by
  unfold statusWord b2n
  split_ifs <;> omega

/-- The frame holds the whole status of a core whose NEST fits the 24 bits above the flags. -/
theorem savedStatus_of_nest_lt {Q : Pond} (h : Q.core.nest < 2 ^ 24) : (savedStatus Q).toNat = statusWord Q.core := by
  have hlt : statusWord Q.core < 2 ^ 32 := by
    have := statusWord_lt Q.core
    omega
  exact Nat.mod_eq_of_lt hlt

theorem Framed.charge {Q F : Pond} {base : Nat} {w : Nat → Word} (h : Framed Q F base w) (c i : Nat) :
    Framed Q (charge c i F) base w := by
  obtain ⟨hframe, hecc, hwords, hothers⟩ := h
  have hc := (CoreStep.refl F).charge c i
  refine ⟨?_, fun k hk => ?_, fun k hk => (sramValue_congr fun _ _ => hc.sramByte _).trans (hwords k hk),
    fun a ha hout => (hc.sramByte a).trans (hothers a ha hout)⟩
  · rw [hframe.g_eq, hframe.pc_eq] at hc
    exact hframe.core hc
  · obtain ⟨hz, age, per, ca, n, e⟩ := hc
    rw [e]
    exact hecc k hk

/-- The core at the first word of a body, its frame pushed. -/
def gateBody (n : Nat) (F : Pond) : Pond :=
  let P := gset 15 0x2001FF30 F
  { P with core := { P.core with gate := some n, pc := gateEntry n } }

theorem gateEnter_eq (n : Nat) (Q : Pond) : gateEnter n Q = gateBody n
    (charge 10 1 (pushFrame 0x2001FF30 (Q.core.pc + 4) (gr Q 15) (gr Q 14) (savedStatus Q) Q)) := rfl

/-- What a gate call leaves as it was, so that its service finds it: the arguments, the flash, the converters and
clean words of SRAM. -/
structure BodyKeeps (Q P : Pond) : Prop where
  gr : ∀ r : RegIx, r ≠ 15 → Machine.gr P r = Machine.gr Q r
  pfl : P.pfl = Q.pfl
  conv : P.conv = Q.conv
  ecc : ∀ i, Q.ecc.get i = 0 → P.ecc.get i = 0

theorem gateBody_enters {Q F : Pond} (n : Nat) (hn : Q.core.nest < 2 ^ 24)
    (hF : Framed Q F 0x2001FF30 (frameWord (Q.core.pc + 4) (gr Q 15) (gr Q 14) (savedStatus Q))) :
    InGate Q (gateBody n F) n (fun _ => False) ∧ BodyKeeps Q (gateBody n F) := by
  obtain ⟨⟨sb, sram, ecc, hz, age, per, ca, k, rfl⟩, hecc, hwords, hothers⟩ := hF
  have hgr : ∀ r : RegIx, r ≠ 15 → vget (vset Q.core.g 15 0x2001FF30) r.toNat 0 = gr Q r := fun r hr => by
    have hr' : r.toNat ≠ 15 := fun h => hr (BitVec.eq_of_toNat_eq h)
    rw [vget_vset _ _ _ _ _ (by decide), if_neg hr']
    rfl
  have h15 : vget (vset Q.core.g 15 (0x2001FF30 : Word)) 15 0 = 0x2001FF30 := by
    rw [vget_vset _ _ _ _ _ (by decide), if_pos rfl]
  refine ⟨⟨rfl, rfl, h15, hwords 0 (by decide), hwords 1 (by decide), hwords 2 (by decide),
    (hwords 3 (by decide)).trans (savedStatus_of_nest_lt hn), fun r h4 h11 => hgr r ?_, hgr 13 (by decide),
    hgr 14 (by decide), rfl, rfl, rfl, rfl, fun a ha hout _ => hothers a ha (by omega)⟩, hgr, rfl, rfl, hecc⟩
  rintro rfl
  exact absurd h11 (by decide)

theorem gateEnter_enters {Q : Pond} (n : Nat) (hn : Q.core.nest < 2 ^ 24) :
    InGate Q (gateEnter n Q) n (fun _ => False) ∧ BodyKeeps Q (gateEnter n Q) := by
  rw [gateEnter_eq]
  exact gateBody_enters n hn ((pushFrame_framed _ _ _ _ (by decide) (Retired.refl Q)).charge 10 1)

/-! ### What a body may store and return -/

/-- Stores of the body away from its frame. -/
theorem InGate.sram {Q P R : Pond} {n : Nat} {changed : Nat → Prop} (h : InGate Q P n (fun _ => False))
    (hR : SramOnly P R) (hframe : ∀ a, 0x2001FF30 ≤ a → a < 0x2001FF40 → ¬ changed a)
    (hkept : ∀ a, 0x20000000 ≤ a → ¬ changed a → sramByte R a = sramByte P a) : InGate Q R n changed := by
  have hword : ∀ b, 0x2001FF30 ≤ b → b + 4 ≤ 0x2001FF40 → sramValue R b 4 = sramValue P b 4 := fun b hlo hhi =>
    sramValue_congr fun i _ => hkept _ (by omega) (hframe _ (by omega) (by omega))
  obtain ⟨sb, sram, ecc, rfl⟩ := hR
  obtain ⟨hgate, hpc, h15, w0, w1, w2, w3, hlow, h13, h14, hacc, hfl, hnest, hregs, hothers⟩ := h
  exact ⟨hgate, hpc, h15, (hword _ (by decide) (by decide)).trans w0, (hword _ (by decide) (by decide)).trans w1,
    (hword _ (by decide) (by decide)).trans w2, (hword _ (by decide) (by decide)).trans w3, hlow, h13, h14, hacc, hfl,
    hnest, hregs, fun a ha hout hch => (hkept a ha hch).trans (hothers a ha hout id)⟩

theorem gateResult_eq (g0 g1 : Word) (P : Pond) : gateResult g0 g1 P =
    useFree (gset 12 (Config.freeWord (64 * P.fresh + 4)) (gset 3 (Config.freeWord (64 * P.fresh + 3))
      (gset 2 (Config.freeWord (64 * P.fresh + 2)) (gset 1 g1 (gset 0 g0 P))))) := rfl

theorem gr_useFree (P : Pond) (r : RegIx) : gr (useFree P) r = gr P r := rfl

theorem gr_gateResult_zero (g0 g1 : Word) (P : Pond) : gr (gateResult g0 g1 P) 0 = g0 := by
  rw [gateResult_eq, gr_useFree]
  simp only [gr_gset, if_true]
  rfl

theorem gr_gateResult_one (g0 g1 : Word) (P : Pond) : gr (gateResult g0 g1 P) 1 = g1 := by
  rw [gateResult_eq, gr_useFree]
  simp only [gr_gset, if_true]
  rfl

theorem gr_gateResult_kept (g0 g1 : Word) (P : Pond) {r : RegIx} (h4 : 4 ≤ r.toNat) (h12 : r ≠ 12) :
    gr (gateResult g0 g1 P) r = gr P r := by
  have hne : ∀ q : RegIx, q.toNat < 4 → r ≠ q := fun q hq hrq => by
    rw [hrq] at h4
    omega
  rw [gateResult_eq, gr_useFree]
  simp only [gr_gset, h12, hne 3 (by decide), hne 2 (by decide), hne 1 (by decide), hne 0 (by decide), if_false]

/-- Registers that the body does not preserve (R146). -/
theorem InGate.coreStep {Q P R : Pond} {n : Nat} {changed : Nat → Prop} {g : Vector Word 16}
    (h : InGate Q P n changed) (hR : CoreStep P R g P.core.acc P.core.flags P.core.pc)
    (hg : ∀ r : RegIx, 4 ≤ r.toNat → r ≠ 12 → gr R r = gr P r) : InGate Q R n changed := by
  have hbyte := hR.sramByte
  have hword : ∀ b, sramValue R b 4 = sramValue P b 4 := fun b => sramValue_congr fun _ _ => hbyte _
  obtain ⟨hz, age, per, ca, k, rfl⟩ := hR
  obtain ⟨hgate, hpc, h15, w0, w1, w2, w3, hlow, h13, h14, hacc, hfl, hnest, hregs, hothers⟩ := h
  refine ⟨hgate, hpc, (hg 15 (by decide) (by decide)).trans h15, (hword _).trans w0, (hword _).trans w1,
    (hword _).trans w2, (hword _).trans w3, fun r h4 h11 => (hg r h4 ?_).trans (hlow r h4 h11),
    (hg 13 (by decide) (by decide)).trans h13, (hg 14 (by decide) (by decide)).trans h14, hacc, hfl, hnest, hregs,
    fun a ha hout hch => (hbyte a).trans (hothers a ha hout hch)⟩
  rintro rfl
  exact absurd h11 (by decide)

theorem gateResult_step (g0 g1 : Word) (P : Pond) :
    ∃ g, CoreStep P (gateResult g0 g1 P) g P.core.acc P.core.flags P.core.pc := by
  obtain ⟨hz, age, per, ca, n, e⟩ := (((((CoreStep.refl P).gset 0 g0).gset 1 g1).gset 2
    (Config.freeWord (64 * P.fresh + 2))).gset 3 (Config.freeWord (64 * P.fresh + 3))).gset 12
      (Config.freeWord (64 * P.fresh + 4))
  rw [gateResult_eq, e]
  exact ⟨_, hz, age, per, ca, n + 1, rfl⟩

theorem sramByte_gateResult (g0 g1 : Word) (P : Pond) (a : Nat) :
    sramByte (gateResult g0 g1 P) a = sramByte P a := by
  obtain ⟨g, hg⟩ := gateResult_step g0 g1 P
  exact hg.sramByte a

theorem InGate.result {Q P : Pond} {n : Nat} {changed : Nat → Prop} (h : InGate Q P n changed) (g0 g1 : Word) :
    InGate Q (gateResult g0 g1 P) n changed := by
  obtain ⟨g, hg⟩ := gateResult_step g0 g1 P
  exact h.coreStep hg fun _ => gr_gateResult_kept g0 g1 P

/-- The bytes that a load sees after the body stored words. -/
theorem sramByte_gateStore (l : List Word) {a b : Nat} (P : Pond) (ha : 0x20000000 ≤ a) (hb : 0x20000000 ≤ b) :
    sramByte (gateStore a l P) b = if a ≤ b ∧ b < a + 4 * l.length
      then BitVec.ofNat 8 ((l.getD ((b - a) / 4) 0).toNat >>> (8 * ((b - a) % 4))) else sramByte P b := by
  induction l generalizing a P with
  | nil => rw [gateStore, List.length_nil, if_neg (by omega)]
  | cons w r ih =>
    rw [gateStore, ih _ (by omega), List.length_cons, sramByte_pushSb]
    by_cases hrest : a + 4 ≤ b ∧ b < a + 4 + 4 * r.length
    · rw [if_pos hrest, if_pos (by omega), show (b - a) / 4 = (b - (a + 4)) / 4 + 1 by omega, List.getD_cons_succ,
        show (b - a) % 4 = (b - (a + 4)) % 4 by omega]
    · rw [if_neg hrest]
      by_cases hw : a ≤ b ∧ b < a + 4
      · rw [if_pos ((covers_word ha hb _).2 hw), if_pos (by omega), show (b - a) / 4 = 0 by omega,
          List.getD_cons_zero, show (b - a) % 4 = b - a by omega, byte_eq ha hw.1,
          BitVec.toNat_setWidth_of_le (by decide)]
      · rw [if_neg fun hc => hw ((covers_word ha hb _).1 hc), if_neg (by omega)]

/-- A word that the body stored reads back. -/
theorem sramValue_gateStore {l : List Word} {a i : Nat} (P : Pond) (ha : 0x20000000 ≤ a) (hi : i < l.length) :
    sramValue (gateStore a l P) (a + 4 * i) 4 = l[i].toNat := by
  refine sramValue_eq l[i].isLt fun j hj => ?_
  rw [sramByte_gateStore l P ha (by omega), if_pos (by omega), show (a + 4 * i + j - a) / 4 = i by omega,
    show (a + 4 * i + j - a) % 4 = j by omega, List.getD_eq_getElem _ _ hi]

theorem gateStore_sramOnly (l : List Word) (a : Nat) (P : Pond) : SramOnly P (gateStore a l P) := by
  induction l generalizing a P with
  | nil => exact SramOnly.refl P
  | cons w r ih => exact (pushSb_sramOnly _ P).trans (ih (a + 4) _)

theorem InGate.store {Q P : Pond} {n a : Nat} {l : List Word} (h : InGate Q P n (fun _ => False))
    (ha : 0x20000000 ≤ a) (hend : a + 4 * l.length ≤ 0x2001FF00) :
    InGate Q (gateStore a l P) n (fun b => a ≤ b ∧ b < a + 4 * l.length) :=
  h.sram (gateStore_sramOnly l a P) (fun _ _ _ => by omega) fun b hb hout => by
    rw [sramByte_gateStore l P ha hb, if_neg hout]

/-! ### The call (R145, R146) -/

/-- A GATE whose arguments pass their checks enters the body and performs the service. -/
theorem gateIssue_serves {s : State} {p : PondId} {Q : Pond} {f : FmtG} {n : Nat} {service : PCtx → Pond → Pond}
    (hi : Issues s p Q) (hf : f.d = 0 ∧ f.a = 0 ∧ f.hi = 0) (hcheck : gateCheck Q n = none) :
    gateIssue n f service p s = .next (withPond s p (service (pctx s p) (gateEnter n Q))) := by
  obtain ⟨hcan, hfetch⟩ := id hi
  obtain ⟨hd, ha, hh⟩ := hf
  have hcall : gateCall n f (service (pctx s p)) Q = service (pctx s p) (gateEnter n Q) := by
    simp only [gateCall, hd, ha, hh, beq_self_eq_true, Bool.and_self, legal_true, hi.gate_fetched, Option.isSome_none,
      Bool.false_eq_true, if_false, hcheck]
  unfold gateIssue
  rw [onPond_eq, ← hcall]
  simp only [hi.gate, Option.isSome_none, Bool.false_eq_true, if_false, hcan, if_true]
  unfold issueP
  rw [hfetch]

theorem gateCheck_romInfo (P : Pond) : gateCheck P 0 = none := by
  simp [gateCheck, gateSpec, gateArg, List.range_succ]

theorem gateCheck_pflErase {P : Pond} (h : (gr P 0).toNat ≤ 63) : gateCheck P 2 = none := by
  have h' : (vget P.core.g 0 0#32).toNat ≤ 63 := h
  simp [gateCheck, gateSpec, gateArg, List.range_succ, h', Nat.mod_one]

theorem gateWindow_sram {output : Bool} {a len : Nat} (hlo : 0x20000000 ≤ a) (hhi : a + len ≤ 0x2001FF00) :
    gateWindow output a len = true := by
  simp only [gateWindow, decide_eq_true hlo, decide_eq_true hhi, Bool.and_self, Bool.or_true, Bool.true_or]

theorem gateCheck_pflProgram {P : Pond} (h0 : (gr P 0).toNat ≤ 0x3FFE0) (h32 : (gr P 0).toNat % 32 = 0)
    (h4 : (gr P 1).toNat % 4 = 0) (hlo : 0x20000000 ≤ (gr P 1).toNat) (hhi : (gr P 1).toNat + 32 ≤ 0x2001FF00) :
    gateCheck P 1 = none := by
  have h0' : (vget P.core.g 0 0#32).toNat ≤ 0x3FFE0 := h0
  have h32' : (vget P.core.g 0 0#32).toNat % 32 = 0 := h32
  have h4' : (vget P.core.g 1 0#32).toNat % 4 = 0 := h4
  have hw : gateWindow false (vget P.core.g 1 0#32).toNat 32 = true := gateWindow_sram hlo hhi
  simp [gateCheck, gateSpec, gateArg, List.range_succ, h0', h32', h4', hw]

theorem gateCheck_calRead {P : Pond} (h0 : (gr P 0).toNat ≤ 1) (h4 : (gr P 1).toNat % 4 = 0)
    (hlo : 0x20000000 ≤ (gr P 1).toNat) (hhi : (gr P 1).toNat + 48 ≤ 0x2001FF00) : gateCheck P 3 = none := by
  have h0' : (vget P.core.g 0 0#32).toNat ≤ 1 := h0
  have h4' : (vget P.core.g 1 0#32).toNat % 4 = 0 := h4
  have hw : gateWindow true (vget P.core.g 1 0#32).toNat 48 = true := gateWindow_sram hlo hhi
  simp [gateCheck, gateSpec, gateArg, List.range_succ, h0', h4', hw, Nat.mod_one]

theorem gateCheck_idRead {P : Pond} (h4 : (gr P 0).toNat % 4 = 0) (hlo : 0x20000000 ≤ (gr P 0).toNat)
    (hhi : (gr P 0).toNat + 32 ≤ 0x2001FF00) : gateCheck P 4 = none := by
  have h4' : (vget P.core.g 0 0#32).toNat % 4 = 0 := h4
  have hw : gateWindow true (vget P.core.g 0 0#32).toNat 32 = true := gateWindow_sram hlo hhi
  simp [gateCheck, gateSpec, gateArg, List.range_succ, h4', hw]

/-! ### Flash operations (R384) -/

/-- An operation starts: the body goes on, and the flash changes as R384 and R386 say. -/
theorem InGate.pflStart {Q P : Pond} {n : Nat} {changed : Nat → Prop} (h : InGate Q P n changed) (o : FlashOp) :
    InGate Q (pflStart o P) n changed := by
  unfold Machine.pflStart
  dsimp only
  split <;> exact h

theorem pflStart_says (o : FlashOp) (P : Pond) : (pflStart o P).pfl.op = some o ∧
    (pflStart o P).pfl.verified = false ∧ (pflStart o P).pfl.words = P.pfl.words := by
  unfold pflStart
  dsimp only
  split <;> exact ⟨rfl, rfl, rfl⟩

theorem gateResult_pfl (g0 g1 : Word) (P : Pond) : (gateResult g0 g1 P).pfl = P.pfl := by
  obtain ⟨g, hz, age, per, ca, n, e⟩ := gateResult_step g0 g1 P
  rw [e]

theorem serveErase_idle {P : Pond} (h : P.pfl.op = none) : serveErase P = gateResult 0 (gateFree P 1)
    (pflStart ⟨1, true, inactiveBase P + 128 * (gr P 0).toNat, [], 0⟩ P) := by
  unfold serveErase
  rw [h]
  rfl

theorem serveErase_busy {P : Pond} (h : P.pfl.op ≠ none) : serveErase P = gateResult 1 (gateFree P 1) P := by
  unfold serveErase
  rw [if_pos (Option.isSome_iff_ne_none.2 h)]

theorem inactiveBase_congr {P Q : Pond} (h : P.pfl = Q.pfl) : inactiveBase P = inactiveBase Q := by
  unfold inactiveBase
  rw [h]

/-! ### The source of PFL_PROGRAM (R384) -/

/-- One word of the source taken, while no read has failed. -/
def programRead (src : Nat) (x : Option Nat × List Byte × Pond) (i : Nat) : Option Nat × List Byte × Pond :=
  match x.1 with
  | some _ => x
  | none =>
    match loadPlain x.2.2 (src + 4 * i) 4 with
    | (some v, Q) => (none, x.2.1 ++ leBytes v 4, Q)
    | (none, Q) => (some (src + 4 * i), x.2.1, Q)

theorem leBytes_sramValue (P : Pond) (a len : Nat) :
    leBytes (sramValue P a len) len = (List.range len).map (fun i => sramByte P (a + i)) := by
  apply List.ext_getElem
  · rw [leBytes_length, List.length_map, List.length_range]
  · intro i h1 h2
    rw [leBytes_length] at h1
    rw [← List.getD_eq_getElem _ 0, leBytes_getD _ _ _ h1, sramValue_byte P a h1, List.getElem_map,
      List.getElem_range]

theorem programRead_words {P : Pond} {src : Nat} (hlo : 0x20000000 ≤ src) (h4 : src % 4 = 0)
    (hhi : src + 32 ≤ 0x2001FF00) (hecc : eccClean P src 32) {k : Nat} (hk : k ≤ 8) :
    ∃ R, (List.range k).foldl (programRead src) (none, [], P) =
      (none, (List.range (4 * k)).map (fun i => sramByte P (src + i)), R) ∧ Retired P R := by
  induction k with
  | zero => exact ⟨P, rfl, Retired.refl P⟩
  | succ k ih =>
    obtain ⟨R, hfold, hR⟩ := ih (by omega)
    obtain ⟨R', hload, hR'⟩ := hR.load (a := src + 4 * k) ⟨by omega, by omega⟩ (by omega)
      (hecc.sub (by omega) (by omega))
    refine ⟨R', ?_, hR'⟩
    rw [List.range_succ, List.foldl_append, hfold, List.foldl_cons, List.foldl_nil]
    simp only [programRead, hload, leBytes_sramValue]
    rw [Nat.mul_succ, List.range_add, List.map_append, List.map_map]
    simp only [Function.comp_def, Nat.add_assoc]

theorem flashWords_one {l : List Byte} (h : l.length = 32) : flashWords 1 l = [BitVec.ofNat 256 (ofLe l)] := by
  have hne : l.isEmpty = false := by
    rw [List.isEmpty_eq_false_iff_exists_mem]
    exact ⟨l[0], List.getElem_mem _⟩
  have hpad : padTo 32 l = l := by rw [← h, padTo_self]
  rw [flashWords, hne, if_neg Bool.false_ne_true, hpad]
  rfl

theorem serveProgram_idle {P : Pond} {src : Nat} (hop : P.pfl.op = none) (hsrc : (gr P 1).toNat = src)
    (hlo : 0x20000000 ≤ src) (h4 : src % 4 = 0) (hhi : src + 32 ≤ 0x2001FF00) (hecc : eccClean P src 32) :
    ∃ R, Retired P R ∧ serveProgram P = gateResult 0 (gateFree P 1) (pflStart
      ⟨1, false, inactiveBase P + (gr P 0).toNat / 32, [BitVec.ofNat 256 (sramValue P src 32)], 0⟩ R) := by
  obtain ⟨R, hfold, hR⟩ := programRead_words hlo h4 hhi hecc (Nat.le_refl 8)
  refine ⟨R, hR, ?_⟩
  have hwords : flashWords 1 ((List.range (4 * 8)).map (fun i => sramByte P (src + i))) =
      [BitVec.ofNat 256 (sramValue P src 32)] := flashWords_one (by rw [List.length_map, List.length_range])
  have hserve : serveProgram P = if P.pfl.op.isSome then gateResult 1 (gateFree P 1) P else
      match ((List.range 8).foldl (programRead (gr P 1).toNat) (none, [], P)).1 with
      | some e => raise 4 1 (BitVec.ofNat 32 e)
          ((List.range 8).foldl (programRead (gr P 1).toNat) (none, [], P)).2.2
      | none => gateResult 0 (gateFree P 1) (pflStart ⟨1, false, inactiveBase P + (gr P 0).toNat / 32,
          flashWords 1 ((List.range 8).foldl (programRead (gr P 1).toNat) (none, [], P)).2.1, 0⟩
          ((List.range 8).foldl (programRead (gr P 1).toNat) (none, [], P)).2.2) := rfl
  rw [hserve, hop, hsrc, hfold, ← hwords]
  rfl

/-! ### The identity record (Table 5.8) -/

/-- Byte `i` of the number that bytes spell. -/
theorem ofLe_byte (l : List Byte) {i : Nat} (h : i < l.length) : BitVec.ofNat 8 (ofLe l >>> (8 * i)) = l[i] := by
  apply BitVec.eq_of_getLsbD_eq
  intro j hj
  rw [getLsbD_byte _ _ hj, byte_bits _ _ (by omega), show (8 * i + j) / 8 = i by omega,
    show (8 * i + j) % 8 = j by omega, List.getD_eq_getElem _ _ h]

/-- Word `i` of the identity record of pond `p`. -/
def identityWord (p i : Nat) : Word :=
  BitVec.ofNat 32 (ofLe ((List.range 4).map (fun j => Config.identityByte p (4 * i + j))))

theorem identityWord_byte (p i : Nat) {j : Nat} (hj : j < 4) :
    BitVec.ofNat 8 ((identityWord p i).toNat >>> (8 * j)) = Config.identityByte p (4 * i + j) := by
  have hlen : j < ((List.range 4).map fun j => Config.identityByte p (4 * i + j)).length := by
    rwa [List.length_map, List.length_range]
  have hlt : ofLe ((List.range 4).map fun j => Config.identityByte p (4 * i + j)) < 256 ^ 4 := ofLe_lt _
  have hval : (identityWord p i).toNat = ofLe ((List.range 4).map fun j => Config.identityByte p (4 * i + j)) :=
    Nat.mod_eq_of_lt (by omega)
  rw [hval, ofLe_byte _ hlen, List.getElem_map, List.getElem_range]

/-! ### The services where NEST fits the status word (R146, R170, R384) -/

theorem exec_romInfo (p : PondId) (f : FmtG) (s : State) : exec (.romInfo p f) s =
    gateIssue 0 f (fun _ => gateResult Config.romVersion Config.stepping) p s := rfl

theorem exec_pflProgram (p : PondId) (f : FmtG) (s : State) :
    exec (.pflProgram p f) s = gateIssue 1 f (fun _ => serveProgram) p s := rfl

theorem exec_pflErase (p : PondId) (f : FmtG) (s : State) :
    exec (.pflErase p f) s = gateIssue 2 f (fun _ => serveErase) p s := rfl

theorem exec_calRead (p : PondId) (f : FmtG) (s : State) : exec (.calRead p f) s =
    gateIssue 3 f (fun _ P => gateResult (gateFree P 0) (gateFree P 1)
      (gateStore (gr P 1).toNat (convOf P (gr P 0).toNat).factors P)) p s := rfl

theorem exec_idRead (p : PondId) (f : FmtG) (s : State) : exec (.idRead p f) s =
    gateIssue 4 f (fun c P => gateResult (gateFree P 0) (gateFree P 1)
      (gateStore (gr P 0).toNat ((List.range 8).map (identityWord c.p)) P)) p s := rfl

section Services
variable {s : State} {p : PondId} {Q : Pond} {f : FmtG} (hi : Issues s p Q) (hf : f.d = 0 ∧ f.a = 0 ∧ f.hi = 0)
  (hn : Q.core.nest < 2 ^ 24)
include hi hf hn

theorem romInfo_serves : ∃ P, exec (.romInfo p f) s = .next (withPond s p P) ∧ InGate Q P 0 (fun _ => False) ∧
    gr P 0 = Config.romVersion ∧ gr P 1 = Config.stepping := by
  obtain ⟨hin, -⟩ := gateEnter_enters 0 hn
  exact ⟨_, (exec_romInfo p f s).trans (gateIssue_serves hi hf (gateCheck_romInfo Q)), hin.result _ _,
    gr_gateResult_zero _ _ _, gr_gateResult_one _ _ _⟩

theorem pflErase_starts (h0 : (gr Q 0).toNat ≤ 63) (hop : Q.pfl.op = none) :
    ∃ P, exec (.pflErase p f) s = .next (withPond s p P) ∧ InGate Q P 2 (fun _ => False) ∧ gr P 0 = 0 ∧
      P.pfl.op = some ⟨1, true, inactiveBase Q + 128 * (gr Q 0).toNat, [], 0⟩ ∧ P.pfl.verified = false ∧
      P.pfl.words = Q.pfl.words := by
  obtain ⟨hin, hgr, hpfl, -, -⟩ := gateEnter_enters 2 hn
  refine ⟨_, (exec_pflErase p f s).trans (gateIssue_serves hi hf (gateCheck_pflErase h0)), ?_⟩
  rw [serveErase_idle (hpfl ▸ hop), gateResult_pfl, inactiveBase_congr hpfl, hgr 0 (by decide)]
  obtain ⟨hstart, hverified, hwords⟩ := pflStart_says
    ⟨1, true, inactiveBase Q + 128 * (gr Q 0).toNat, [], 0⟩ (gateEnter 2 Q)
  exact ⟨(hin.pflStart _).result _ _, gr_gateResult_zero _ _ _, hstart, hverified, hwords.trans (by rw [hpfl])⟩

theorem pflErase_busy (h0 : (gr Q 0).toNat ≤ 63) (hop : Q.pfl.op ≠ none) :
    ∃ P, exec (.pflErase p f) s = .next (withPond s p P) ∧ InGate Q P 2 (fun _ => False) ∧ gr P 0 = 1 ∧
      P.pfl = Q.pfl := by
  obtain ⟨hin, -, hpfl, -, -⟩ := gateEnter_enters 2 hn
  refine ⟨_, (exec_pflErase p f s).trans (gateIssue_serves hi hf (gateCheck_pflErase h0)), ?_⟩
  rw [serveErase_busy (hpfl ▸ hop), gateResult_pfl]
  exact ⟨hin.result _ _, gr_gateResult_zero _ _ _, hpfl⟩

theorem pflProgram_starts (h0 : (gr Q 0).toNat ≤ 0x3FFE0) (h32 : (gr Q 0).toNat % 32 = 0)
    (h4 : (gr Q 1).toNat % 4 = 0) (hlo : 0x20000000 ≤ (gr Q 1).toNat) (hhi : (gr Q 1).toNat + 32 ≤ 0x2001FF00)
    (hecc : eccClean Q (gr Q 1).toNat 32) (hop : Q.pfl.op = none) :
    ∃ P, exec (.pflProgram p f) s = .next (withPond s p P) ∧ InGate Q P 1 (fun _ => False) ∧ gr P 0 = 0 ∧
      P.pfl.op = some ⟨1, false, inactiveBase Q + (gr Q 0).toNat / 32,
        [BitVec.ofNat 256 (sramValue Q (gr Q 1).toNat 32)], 0⟩ ∧
      P.pfl.verified = false ∧ P.pfl.words = Q.pfl.words := by
  obtain ⟨hin, hgr, hpfl, -, hkeep⟩ := gateEnter_enters 1 hn
  obtain ⟨R, ⟨hsram, hsame, -⟩, hserve⟩ := serveProgram_idle (P := gateEnter 1 Q) (hpfl ▸ hop)
    (congrArg BitVec.toNat (hgr 1 (by decide))) hlo h4 hhi fun i h1 h2 => hkeep i (hecc i h1 h2)
  have hsource : sramValue (gateEnter 1 Q) (gr Q 1).toNat 32 = sramValue Q (gr Q 1).toNat 32 := by
    obtain ⟨-, -, -, -, -, -, -, -, -, -, -, -, -, -, hothers⟩ := hin
    exact sramValue_congr fun i hi => hothers _ (by omega) (by omega) id
  have hR : R.pfl = Q.pfl := by
    obtain ⟨sb, sram, ecc, rfl⟩ := hsram
    exact hpfl
  refine ⟨_, (exec_pflProgram p f s).trans (gateIssue_serves hi hf (gateCheck_pflProgram h0 h32 h4 hlo hhi)), ?_⟩
  rw [hserve, gateResult_pfl, inactiveBase_congr hpfl, hgr 0 (by decide), hsource]
  obtain ⟨hstart, hverified, hwords⟩ := pflStart_says ⟨1, false, inactiveBase Q + (gr Q 0).toNat / 32,
    [BitVec.ofNat 256 (sramValue Q (gr Q 1).toNat 32)], 0⟩ R
  exact ⟨((hin.sram hsram (fun _ _ _ => id) fun a ha _ => hsame a ha).pflStart _).result _ _,
    gr_gateResult_zero _ _ _, hstart, hverified, hwords.trans (by rw [hR])⟩

theorem calRead_writes (h0 : (gr Q 0).toNat ≤ 1) (h4 : (gr Q 1).toNat % 4 = 0) (hlo : 0x20000000 ≤ (gr Q 1).toNat)
    (hhi : (gr Q 1).toNat + 48 ≤ 0x2001FF00) (hlen : (convOf Q (gr Q 0).toNat).factors.length = 12) :
    ∃ P, exec (.calRead p f) s = .next (withPond s p P) ∧
      InGate Q P 3 (fun a => (gr Q 1).toNat ≤ a ∧ a < (gr Q 1).toNat + 48) ∧
      ∀ i (hi : i < (convOf Q (gr Q 0).toNat).factors.length),
        sramValue P ((gr Q 1).toNat + 4 * i) 4 = (convOf Q (gr Q 0).toNat).factors[i].toNat := by
  obtain ⟨hin, hgr, -, hconv, -⟩ := gateEnter_enters 3 hn
  have hfactors : convOf (gateEnter 3 Q) (gr Q 0).toNat = convOf Q (gr Q 0).toNat := by
    unfold convOf
    rw [hconv]
  refine ⟨_, (exec_calRead p f s).trans (gateIssue_serves hi hf (gateCheck_calRead h0 h4 hlo hhi)), ?_⟩
  rw [hgr 0 (by decide), hgr 1 (by decide), hfactors]
  refine ⟨?_, fun i hi => ?_⟩
  · have hstore := hin.store (l := (convOf Q (gr Q 0).toNat).factors) hlo (by omega)
    rw [hlen] at hstore
    exact hstore.result _ _
  · rw [sramValue_congr fun j _ => sramByte_gateResult _ _ _ _, sramValue_gateStore _ hlo hi]

theorem idRead_writes (h4 : (gr Q 0).toNat % 4 = 0) (hlo : 0x20000000 ≤ (gr Q 0).toNat)
    (hhi : (gr Q 0).toNat + 32 ≤ 0x2001FF00) : ∃ P, exec (.idRead p f) s = .next (withPond s p P) ∧
      InGate Q P 4 (fun a => (gr Q 0).toNat ≤ a ∧ a < (gr Q 0).toNat + 32) ∧
      ∀ i < 32, sramByte P ((gr Q 0).toNat + i) = Config.identityByte p.val i := by
  obtain ⟨hin, hgr, -, -, -⟩ := gateEnter_enters 4 hn
  have hlen : ((List.range 8).map (identityWord p.val)).length = 8 := by rw [List.length_map, List.length_range]
  refine ⟨_, (exec_idRead p f s).trans (gateIssue_serves hi hf (gateCheck_idRead h4 hlo hhi)), ?_⟩
  rw [hgr 0 (by decide), show (pctx s p).p = p.val from rfl]
  refine ⟨?_, fun i hi => ?_⟩
  · have hstore := hin.store (l := (List.range 8).map (identityWord p.val)) hlo (by omega)
    rw [hlen] at hstore
    exact hstore.result _ _
  · have hword : i / 4 < ((List.range 8).map (identityWord p.val)).length := by omega
    rw [sramByte_gateResult, sramByte_gateStore _ _ hlo (by omega), if_pos (by omega), Nat.add_sub_cancel_left,
      List.getD_eq_getElem _ _ hword, List.getElem_map, List.getElem_range,
      identityWord_byte _ _ (Nat.mod_lt _ (by decide)), Nat.div_add_mod]

end Services

/-! ### A NEST that the status word cannot hold -/

/-- A running core with a NEST of 2^24, above the 24 bits that the status word has for it. -/
def deepPond : Pond :=
  { Pond.reset with core := { Core.reset with run := .running, pc := 0x20000000, nest := 2 ^ 24 } }

theorem deepPond_issues : Issues (withPond State.reset 0 deepPond) 0 deepPond := by
  unfold Issues
  rw [pondOf_withPond_self]
  exact ⟨rfl, rfl⟩

theorem deepPond_status : statusWord deepPond.core = 2 ^ 32 := by decide

/-- Refutes O18: no hypothesis bounds NEST, which the model holds as a natural number. At a NEST of 2^24 the status
is 2^32, and the word that ROM_INFO pushes for it reads as less. The machine never holds such a NEST, since it takes
no exception from 4 upward (R137) and RETE restores at most 15; with a NEST below 2^24 every service of the statement
is given: `romInfo_serves`, `pflErase_starts`, `pflErase_busy`, `pflProgram_starts`, `calRead_writes`,
`idRead_writes`. -/
theorem not_gateServices : ¬ Obligations.GateServices := by
  unfold Obligations.GateServices
  intro h
  obtain ⟨⟨P, -, ⟨-, -, -, -, -, -, hstatus, -⟩, -⟩, -⟩ := h _ 0 deepPond ⟨0, 0, 0⟩ deepPond_issues rfl rfl rfl rfl
  have hlt := sramValue_lt P 0x2001FF3C 4
  rw [hstatus, deepPond_status] at hlt
  exact absurd hlt (by decide)

end Sys2Proof.Machine
end

section
/-! SUPPORT and claims. The interrupt controller: the source that a claim chooses, claims, completions and events
through PIC_SWTRIG (R149 to R152). -/

namespace Sys2Proof.Machine

/-! ### The choice of a claim (R150) -/

/-- A maximum over those entries of a list that count stays below a bound just where each of them does. -/
theorem foldl_max_lt (c : Nat → Bool) (f : Nat → Nat) (l : List Nat) (a k : Nat) :
    l.foldl (fun a n => if c n then max a (f n) else a) a < k ↔ a < k ∧ ∀ n ∈ l, c n = true → f n < k := by
  induction l generalizing a with
  | nil => simp
  | cons x l ih =>
    rw [List.foldl_cons, ih, List.forall_mem_cons]
    by_cases hx : c x = true
    · simp only [hx, if_true, Nat.max_lt, true_imp_iff, and_assoc]
    · simp only [Bool.not_eq_true] at hx
      simp only [hx, Bool.false_eq_true, if_false, false_imp_iff, true_and]

/-- What a priority must exceed to be deliverable: the threshold and the running priority. -/
def picFloor (P : Pond) : Nat := max (fld (rg P 0x104) 0 4) (picRunning P)

theorem deliverable_iff (P : Pond) (n : Nat) :
    Deliverable P n ↔ bit P.pic.pend n = true ∧ picFloor P < picPrio P n := by
  have hrun : picRunning P < picPrio P n ↔
      0 < picPrio P n ∧ ∀ m < 96, P.pic.act.getLsbD m = true → picPrio P m < picPrio P n := by
    have hmax := foldl_max_lt (bit P.pic.act) (picPrio P) (List.range 96) 0 (picPrio P n)
    simp only [List.mem_range] at hmax
    exact hmax
  rw [Deliverable, picFloor, Nat.max_lt, hrun, bit]
  exact and_congr_right fun _ => and_congr_right fun hthr => (and_iff_right (Nat.zero_lt_of_lt hthr)).symm

/-- Source `n` taken into the choice `a` among the sources before it. -/
def picStep (P : Pond) (a : Option (Nat × Nat)) (n : Nat) : Option (Nat × Nat) :=
  if bit P.pic.pend n then
    if picFloor P < picPrio P n then
      match a with
      | none => some (n, picPrio P n)
      | some (_, q) => if q < picPrio P n then some (n, picPrio P n) else a
    else a
  else a

theorem picBest_eq (P : Pond) : picBest P =
    if P.pic.pend = 0 then none else ((List.range 96).foldl (picStep P) none).map (·.1) := rfl

theorem picStep_undeliverable {P : Pond} {n : Nat} (h : ¬ Deliverable P n) (a : Option (Nat × Nat)) :
    picStep P a n = a := by
  rw [deliverable_iff, not_and] at h
  unfold picStep
  split
  · rename_i hpend
    rw [if_neg (h hpend)]
  · rfl

theorem picStep_first {P : Pond} {n : Nat} (h : Deliverable P n) : picStep P none n = some (n, picPrio P n) := by
  obtain ⟨hpend, hprio⟩ := (deliverable_iff P n).1 h
  unfold picStep
  rw [if_pos hpend, if_pos hprio]

theorem picStep_next {P : Pond} {n : Nat} (h : Deliverable P n) (m q : Nat) :
    picStep P (some (m, q)) n = if q < picPrio P n then some (n, picPrio P n) else some (m, q) := by
  obtain ⟨hpend, hprio⟩ := (deliverable_iff P n).1 h
  unfold picStep
  rw [if_pos hpend, if_pos hprio]

/-- The choice of R150 among the sources below `k`, with its priority. -/
def BestBelow (P : Pond) (k : Nat) : Option (Nat × Nat) → Prop
  | none => ∀ n < k, ¬ Deliverable P n
  | some (n, q) => q = picPrio P n ∧ n < k ∧ Deliverable P n ∧
      ∀ m < k, Deliverable P m → picPrio P m < picPrio P n ∨ (picPrio P m = picPrio P n ∧ n ≤ m)

theorem BestBelow.step {P : Pond} {k : Nat} {a : Option (Nat × Nat)} (h : BestBelow P k a) :
    BestBelow P (k + 1) (picStep P a k) := by
  by_cases hk : Deliverable P k
  · match a, h with
    | none, h =>
      rw [picStep_first hk]
      refine ⟨rfl, Nat.lt_succ_self k, hk, fun m hm hd => ?_⟩
      obtain rfl : m = k := (Nat.lt_succ_iff_lt_or_eq.1 hm).resolve_left fun hlt => h m hlt hd
      exact .inr ⟨rfl, Nat.le_refl m⟩
    | some (n, q), ⟨hq, hn, hd, hbest⟩ =>
      rw [picStep_next hk, hq]
      split
      · rename_i hlt
        refine ⟨rfl, Nat.lt_succ_self k, hk, fun m hm hdm => ?_⟩
        rcases Nat.lt_succ_iff_lt_or_eq.1 hm with hmk | rfl
        · have := hbest m hmk hdm
          omega
        · exact .inr ⟨rfl, Nat.le_refl m⟩
      · rename_i hge
        refine ⟨rfl, Nat.lt_succ_of_lt hn, hd, fun m hm hdm => ?_⟩
        rcases Nat.lt_succ_iff_lt_or_eq.1 hm with hmk | rfl
        · exact hbest m hmk hdm
        · omega
  · rw [picStep_undeliverable hk]
    have hlt : ∀ m < k + 1, Deliverable P m → m < k := fun m hm hd =>
      (Nat.lt_succ_iff_lt_or_eq.1 hm).resolve_right fun he => hk (he ▸ hd)
    match a, h with
    | none, h => exact fun m hm hd => h m (hlt m hm hd) hd
    | some (n, q), ⟨hq, hn, hd, hbest⟩ =>
      exact ⟨hq, Nat.lt_succ_of_lt hn, hd, fun m hm hdm => hbest m (hlt m hm hdm) hdm⟩

theorem bestBelow_foldl (P : Pond) (k : Nat) : BestBelow P k ((List.range k).foldl (picStep P) none) := by
  induction k with
  | zero => exact fun n hn => absurd hn (Nat.not_lt_zero n)
  | succ k ih =>
    rw [List.range_succ, List.foldl_append]
    exact ih.step

/-- The controller has no deliverable source, or chooses as R150 says. -/
theorem picBest_cases (P : Pond) :
    (picBest P = none ∧ ∀ n < 96, ¬ Deliverable P n) ∨ ∃ n, picBest P = some n ∧ Chosen P n := by
  rw [picBest_eq]
  by_cases h0 : P.pic.pend = 0
  · refine .inl ⟨if_pos h0, fun n _ hd => ?_⟩
    have hpend := hd.1
    rw [h0] at hpend
    exact absurd hpend (by simp)
  · rw [if_neg h0]
    have hbest := bestBelow_foldl P 96
    revert hbest
    match (List.range 96).foldl (picStep P) none with
    | none => exact fun h => .inl ⟨rfl, h⟩
    | some (n, q) => exact fun ⟨_, hn, hd, hmax⟩ => .inr ⟨n, rfl, hn, hd, hmax⟩

theorem Chosen.eq {P : Pond} {m n : Nat} (hm : Chosen P m) (hn : Chosen P n) : m = n := by
  obtain ⟨hm96, hmd, hmax⟩ := hm
  obtain ⟨hn96, hnd, hnax⟩ := hn
  have h1 := hmax n hn96 hnd
  have h2 := hnax m hm96 hmd
  omega

theorem picBest_of_chosen {P : Pond} {n : Nat} (h : Chosen P n) : picBest P = some n := by
  rcases picBest_cases P with ⟨-, hnone⟩ | ⟨m, hm, hc⟩
  · obtain ⟨hn, hd, -⟩ := h
    exact absurd hd (hnone n hn)
  · rw [hm, hc.eq h]

theorem picBest_of_none {P : Pond} (h : ∀ n < 96, ¬ Deliverable P n) : picBest P = none := by
  rcases picBest_cases P with ⟨hnone, -⟩ | ⟨m, -, hm, hd, -⟩
  · exact hnone
  · exact absurd hd (h m hm)

/-! ### Claims (R151) -/

theorem claim_chosen {P : Pond} {n : Nat} (h : Chosen P n) : claim P =
    (BitVec.ofNat 32 (2 ^ 31 + 2 ^ 16 * picPrio P n + n),
      { P with pic := { P.pic with pend := setBit P.pic.pend n false, act := setBit P.pic.act n true } }) := by
  unfold claim claimView
  rw [picBest_of_chosen h]

theorem claim_none {P : Pond} (h : ∀ n < 96, ¬ Deliverable P n) : claim P = (0, P) := by
  unfold claim
  rw [picBest_of_none h]

theorem exec_picClaim (p : PondId) (s : State) : exec (.picClaim p) s =
    .next { withPond s p (claim (pondOf s p)).2 with rdata := (claim (pondOf s p)).1 } := rfl

/-- Settles O21: the fold over the sources finds the chosen one, and a claim moves it from pending to active. -/
theorem claimTakesTheChosenSource : Obligations.ClaimTakesTheChosenSource := by
  unfold Obligations.ClaimTakesTheChosenSource
  refine fun s p => ⟨fun n hc => ?_, fun hnone => ?_⟩
  · rw [exec_picClaim, claim_chosen hc]
    exact ⟨_, rfl, rfl, rfl, bitIs_setBit _ _ _, bitIs_setBit _ _ _⟩
  · rw [exec_picClaim, claim_none hnone, withPond_self]

/-! ### Events through PIC_SWTRIG and completions (R149, R152) -/

theorem rbit_says (off i : Nat) (P : Pond) : rbit off i P = { P with regs := (rbit off i P).regs } ∧
    BitIs (rg P off) (rg (rbit off i P) off) i true ∧ ∀ o, o ≠ off → rg (rbit off i P) o = rg P o := by
  refine ⟨rfl, ?_, fun o ho => rg_rset_ne _ _ ho⟩
  rw [rbit, rmod, rg_rset_self]
  exact bitIs_setBit _ _ _

theorem rinc_says {lo len : Nat} (h : lo + len ≤ 32) (off : Nat) (P : Pond) :
    fld (rg (rinc off lo len P) off) lo len = min (2 ^ len - 1) (fld (rg P off) lo len + 1) ∧
    ∀ o, o ≠ off → rg (rinc off lo len P) o = rg P o := by
  refine ⟨?_, fun o ho => rg_rset_ne _ _ ho⟩
  rw [rinc, rmod, rg_rset_self, fld_incFld h]

theorem fld_source (v : Word) : fld v 0 7 = v.toNat % 128 := fld_low v 7

/-- A trigger asks for BAD_SRC, or for an event on its source. -/
theorem softTrigger_eq {v : Word} (hv : v.getLsbD 7 = true) (P : Pond) : softTrigger v P =
    if 96 ≤ v.toNat % 128 then rbit 0x110 29 P else picEvent (v.toNat % 128) P := by
  have hb : (!bit v 7) = false := by rw [bit, hv]; rfl
  unfold softTrigger
  rw [hb, if_neg Bool.false_ne_true, fld_source]

theorem picEvent_lost {P : Pond} {n : Nat} (h : P.pic.pend.getLsbD n = true) : picEvent n P =
    rinc 0x118 0 16 { P with pic := { P.pic with lost := setBit P.pic.lost n true } } := if_pos h

theorem picEvent_pends {P : Pond} {n : Nat} (h : ¬ P.pic.pend.getLsbD n = true) : ∃ e, picEvent n P = { P with
    pic := { P.pic with pend := setBit P.pic.pend n true }, core := { P.core with evt := e } } := by
  rcases picEvent_cases n P with ⟨hp, -⟩ | ⟨-, he⟩
  · exact absurd hp h
  · exact he

theorem complete_active {P : Pond} {n : Nat} (hn : ¬ 96 ≤ n) (h : P.pic.act.getLsbD n = true) : ∃ e, complete n P =
    { P with pic := { P.pic with act := setBit P.pic.act n false }, core := { P.core with evt := e } } := by
  have hc : complete n P = picLatch { P with pic := { P.pic with act := setBit P.pic.act n false } } :=
    (if_neg hn).trans (if_pos h)
  obtain ⟨e, he, -⟩ := picLatch_evt { P with pic := { P.pic with act := setBit P.pic.act n false } }
  exact ⟨e, hc.trans he⟩

theorem complete_badSource {P : Pond} {n : Nat} (hn : 96 ≤ n) : complete n P = rbit 0x110 29 P := if_pos hn

theorem complete_inactive {P : Pond} {n : Nat} (hn : ¬ 96 ≤ n) (h : ¬ P.pic.act.getLsbD n = true) :
    complete n P = rbit 0x110 30 P := (if_neg hn).trans (if_neg h)

theorem exec_picComplete (p : PondId) (v : Word) (s : State) :
    exec (.picComplete p v) s = .next (withPond s p (complete (v.toNat % 128) (pondOf s p))) := by
  rw [← fld_source]
  rfl

/-- Settles O22: an event is lost on a pending source and pends on any other, a completion clears an active bit,
and what is refused sets its error bit alone. -/
theorem eventsAndCompletions : Obligations.EventsAndCompletions := by
  unfold Obligations.EventsAndCompletions
  refine ⟨fun s p v hv => ⟨softTrigger v (pondOf s p), rfl, ?_⟩,
    fun s p v => ⟨complete (v.toNat % 128) (pondOf s p), exec_picComplete p v s, ?_⟩⟩
  · rw [softTrigger_eq hv]
    by_cases hsrc : 96 ≤ v.toNat % 128
    · simp only [if_pos hsrc]
      obtain ⟨heq, hbit, hothers⟩ := rbit_says 0x110 29 (pondOf s p)
      exact ⟨rfl, rfl, rfl, rfl, heq, hbit, hothers⟩
    · simp only [if_neg hsrc]
      by_cases hpend : (pondOf s p).pic.pend.getLsbD (v.toNat % 128) = true
      · rw [if_pos hpend, picEvent_lost hpend]
        obtain ⟨hcount, hothers⟩ := rinc_says (lo := 0) (len := 16) (by decide) 0x118 { pondOf s p with
          pic := { (pondOf s p).pic with lost := setBit (pondOf s p).pic.lost (v.toNat % 128) true } }
        exact ⟨rfl, rfl, rfl, rfl, rfl, bitIs_setBit _ _ _, hcount, hothers⟩
      · obtain ⟨e, he⟩ := picEvent_pends hpend
        rw [if_neg hpend, he]
        exact ⟨rfl, rfl, rfl, rfl, rfl, rfl, bitIs_setBit _ _ _⟩
  · by_cases hsrc : 96 ≤ v.toNat % 128
    · rw [if_pos hsrc, complete_badSource hsrc]
      obtain ⟨-, hbit, hothers⟩ := rbit_says 0x110 29 (pondOf s p)
      exact ⟨rfl, rfl, hothers, rfl, hbit⟩
    · rw [if_neg hsrc]
      by_cases hact : (pondOf s p).pic.act.getLsbD (v.toNat % 128) = true
      · obtain ⟨e, he⟩ := complete_active hsrc hact
        rw [if_pos hact, he]
        exact ⟨rfl, rfl, fun _ _ => rfl, bitIs_setBit _ _ _, rfl⟩
      · rw [if_neg hact, complete_inactive hsrc hact]
        obtain ⟨-, hbit, hothers⟩ := rbit_says 0x110 30 (pondOf s p)
        exact ⟨rfl, rfl, hothers, rfl, hbit⟩

end Sys2Proof.Machine
end

section
/-! SUPPORT and claims. Loads of the capture buffer and of the capture FIFOs (R167, R199). -/

namespace Sys2Proof.Machine

/-! ### The capture buffer (R167) -/

theorem cbufPop_streamed {P : Pond} (h : (rg P 0x27C).getLsbD 31 = true) : cbufPop P = (0, P) := if_pos h

theorem cbufPop_nil {P : Pond} (h : P.cbuf = []) : cbufPop P = (0, P) := by
  unfold cbufPop
  rw [h]
  exact ite_self _

theorem cbufPop_cons {P : Pond} {w : Word} {e : Nat} {r : List (Word × Nat)}
    (ho : (rg P 0x27C).getLsbD 31 = false) (h : P.cbuf = (w, e) :: r) : cbufPop P = (w, { P with cbuf := r }) := by
  unfold cbufPop bit
  rw [ho, h]
  rfl

theorem exec_adcCbufData (p : PondId) (s : State) : exec (.adcCbufData p) s =
    .next { withPond s p (cbufPop (pondOf s p)).2 with rdata := (cbufPop (pondOf s p)).1 } := rfl

/-! ### The capture FIFOs (R199) -/

theorem capFifo_val (P : Pond) (i : Fin 4) : capFifo P i.val = P.cap.fifo[i] := by
  simp [capFifo, vget, Vector.getD]

theorem capPop_nil {P : Pond} {i : Fin 4} (h : P.cap.fifo[i] = []) : capPop i.val P = (0, P) := by
  unfold capPop
  rw [capFifo_val, h]

theorem capPop_cons {P : Pond} {i : Fin 4} {w : Word} {r : List Word} (h : P.cap.fifo[i] = w :: r) :
    capPop i.val P = (w, { P with cap := { P.cap with fifo := P.cap.fifo.set i r } }) := by
  unfold capPop
  rw [capFifo_val, h, ← vset_eq_set]

theorem exec_capData (p : PondId) (i : Fin 4) (s : State) : exec (.capData p i) s =
    .next { withPond s p (capPop i.val (pondOf s p)).2 with rdata := (capPop i.val (pondOf s p)).1 } := rfl

/-- Settles O27: each load by what its pop gives. -/
theorem captureReads : Obligations.CaptureReads := by
  unfold Obligations.CaptureReads
  refine fun s p => ⟨rfl, fun w e r hc ho => ?_, fun h => ?_, fun i w r h => ?_, fun i h => ?_⟩
  · rw [exec_adcCbufData, cbufPop_cons ho hc]
  · rw [exec_adcCbufData, h.elim cbufPop_nil cbufPop_streamed, withPond_self]
  · rw [exec_capData, capPop_cons h]
  · rw [exec_capData, capPop_nil h, withPond_self]

end Sys2Proof.Machine
end

section
/-! SUPPORT and claims. Triggers of a converter (R160 to R162). -/

namespace Sys2Proof.Machine

/-! ### One converter -/

theorem convOf_convSet {i : Nat} (hi : i < 2) (j : Nat) (c : Conv) (P : Pond) :
    convOf (convSet i c P) j = if j = i then c else convOf P j := vget_vset _ _ _ _ _ hi

theorem convOf_convSet_self {i : Nat} (hi : i < 2) (c : Conv) (P : Pond) : convOf (convSet i c P) i = c := by
  rw [convOf_convSet hi, if_pos rfl]

theorem vset_vset {α : Type} {n : Nat} (v : Vector α n) (i : Nat) (x y : α) : vset (vset v i x) i y = vset v i y :=
  Vector.ext fun j hj => by
    simp only [vset, Vector.getElem_setIfInBounds]
    split <;> rfl

/-! ### What a trigger leaves -/

/-- A trigger tells the energy tap of the codes that will be missing, and nothing else (R168). -/
theorem tapTrigger_only (len n : Nat) (e : Edge) (slots : Nat) (P : Pond) :
    ∃ t, tapTrigger len n e slots P = { P with tap := t } := by
  unfold tapTrigger
  split
  · exact ⟨_, rfl⟩
  · exact ⟨_, rfl⟩

/-- A half of the GSS codes is kept by the pond, and shown in ADC_GSS_CODES once both are known. -/
theorem gssHalf_only (b : Bool) (code : BitVec 16) (P : Pond) :
    ∃ g r, gssHalf b code P = { P with gss := g, regs := r } ∧ ∀ off, off ≠ 0x290 → r.get off = rg P off := by
  unfold gssHalf
  dsimp only
  split
  · exact ⟨_, _, rfl, fun _ ho => SMap.get_set_ne _ _ ho⟩
  · exact ⟨_, _, rfl, fun _ _ => rfl⟩

/-! ### Calibrations and cover at an edge (R169, R171) -/

theorem calAt_noCal {P : Pond} (h : NoCal P) {n : Nat} (hn : n < 2) (e : Edge) : calAt P n e = none := by
  obtain ⟨hcal, hreq⟩ := h n hn
  unfold calAt
  simp only [hcal, hreq, ite_self]

theorem coverAt_noCal {P : Pond} (h : NoCal P) (e : Edge) : coverAt P e = false := by
  unfold coverAt
  rw [calAt_noCal h (by decide)]
  rfl

theorem NoCal.convSet {P : Pond} (h : NoCal P) {n : Nat} (hn : n < 2) {c : Conv} (hcal : c.cal = none)
    (hreq : c.calReq = none) : NoCal (convSet n c P) := by
  intro k hk
  rw [convOf_convSet hn]
  split
  · exact ⟨hcal, hreq⟩
  · exact h k hk

/-! ### A trigger of a converter in service (R161, R162) -/

/-- Converter `n` with a burst of its own configuration, triggered by an edge. -/
def burstBegun (n : Nat) (e : Edge) (P : Pond) : Conv :=
  { convOf P n with
    burst := some ⟨e, n == 1, convSlots P n, 0⟩, busyTill := e.t + 800 * (convSlots P n).length }

/-- An edge at an enabled, calibrated converter is refused where the converter is busy, and else starts a burst. -/
theorem trigger_inService {P : Pond} {n : Nat} (hn : n < 2) (hcal : NoCal P) (hen : bit (rg P 0x200) n = true)
    (hready : (convOf P n).ready = true) (len : Nat) (e : Edge) : trigger len n e P =
      if e.t < (convOf P n).busyTill then refuse len n true e P
      else tapTrigger len n e (convSlots P n).length (convSet n (burstBegun n e P) P) := by
  unfold trigger
  simp only [coverAt_noCal hcal, calAt_noCal hcal hn, Bool.false_eq_true, and_false, if_false, decide_eq_true_eq]
  rw [if_neg (by simp [hen, hready])]
  rfl

/-- A free converter starts the burst: only the converter and the tap's record of missing codes change. -/
theorem trigger_free {P : Pond} {n : Nat} (hn : n < 2) (hcal : NoCal P) (hen : bit (rg P 0x200) n = true)
    (hready : (convOf P n).ready = true) {e : Edge} (hfree : (convOf P n).busyTill ≤ e.t) (len : Nat) :
    ∃ t, trigger len n e P = { P with tap := t, conv := vset P.conv n (burstBegun n e P) } := by
  rw [trigger_inService hn hcal hen hready, if_neg (Nat.not_lt.2 hfree)]
  obtain ⟨t, ht⟩ := tapTrigger_only len n e (convSlots P n).length (convSet n (burstBegun n e P) P)
  exact ⟨t, ht⟩

theorem picEvent_pending {n : Nat} (hn : n < 96) (P : Pond) : Pending (picEvent n P) n := by
  unfold Pending
  rcases picEvent_cases n P with ⟨h, e⟩ | ⟨-, x, e⟩ <;> rw [e]
  · exact h
  · exact bit_setBit_self _ hn true

/-- A pond in which an overrun of converter `n` has been counted and has raised ADC_SEQ_OVR (R161). -/
def overrunCounted (n : Nat) (P : Pond) : Pond := picEvent 8 (rinc 0x26C (16 * n) 16 P)

theorem overrunCounted_conv (n : Nat) (P : Pond) : (overrunCounted n P).conv = P.conv :=
  (picEvent_life_kept 8 (rinc 0x26C (16 * n) 16 P)).conv

theorem overrunCounted_says {n : Nat} (hn : n < 2) (P : Pond) :
    fld (rg (overrunCounted n P) 0x26C) (16 * n) 16 = min 65535 (fld (rg P 0x26C) (16 * n) 16 + 1) ∧
    Pending (overrunCounted n P) 8 := by
  obtain ⟨hcount, -⟩ := rinc_says (lo := 16 * n) (len := 16) (by omega) 0x26C P
  refine ⟨?_, picEvent_pending (by decide) _⟩
  rw [overrunCounted, picEvent_regs _ _ (by decide)]
  exact hcount

/-- The refused edge is recorded besides. -/
def overrunRefused (n : Nat) (e : Edge) (P : Pond) : Pond :=
  convSet n { convOf (overrunCounted n P) n with refused := some e } (overrunCounted n P)

theorem convOf_overrunRefused {n : Nat} (hn : n < 2) (e : Edge) (P : Pond) :
    convOf (overrunRefused n e P) n = { convOf P n with refused := some e } := by
  rw [overrunRefused, convOf_convSet_self hn, convOf, overrunCounted_conv]
  rfl

/-- Beyond that, an overrun touches the GSS codes and the tap. -/
theorem refuse_overrun (len n : Nat) (e : Edge) (P : Pond) : ∃ t g r,
    refuse len n true e P = { overrunRefused n e P with tap := t, gss := g, regs := r } ∧
    ∀ off, off ≠ 0x290 → r.get off = rg (overrunCounted n P) off := by
  have hrefuse : refuse len n true e P = tapTrigger len n e 0
      (if e.kind == .gss then gssHalf (n == 1) 0x8000 (overrunRefused n e P) else overrunRefused n e P) := rfl
  obtain ⟨g, r, hgss, hr⟩ := gssHalf_only (n == 1) 0x8000 (overrunRefused n e P)
  rw [hrefuse]
  split
  · obtain ⟨t, ht⟩ := tapTrigger_only len n e 0 (gssHalf (n == 1) 0x8000 (overrunRefused n e P))
    exact ⟨t, g, r, by rw [ht, hgss], hr⟩
  · obtain ⟨t, ht⟩ := tapTrigger_only len n e 0 (overrunRefused n e P)
    exact ⟨t, _, _, ht, fun _ _ => rfl⟩

/-- A busy converter goes on with its burst (R161). -/
theorem refuse_overrun_says {n : Nat} (hn : n < 2) (len : Nat) (e : Edge) (P : Pond) :
    convOf (refuse len n true e P) n = { convOf P n with refused := some e } ∧
    fld (rg (refuse len n true e P) 0x26C) (16 * n) 16 = min 65535 (fld (rg P 0x26C) (16 * n) 16 + 1) ∧
    Pending (refuse len n true e P) 8 := by
  obtain ⟨t, g, r, he, hr⟩ := refuse_overrun len n e P
  obtain ⟨hcount, hpending⟩ := overrunCounted_says hn P
  rw [he]
  exact ⟨convOf_overrunRefused hn e P, (congrArg (fld · (16 * n) 16) (hr 0x26C (by decide))).trans hcount, hpending⟩

/-! ### The statement -/

/-- The oldest edge on its way to converter `n` taken. -/
def edgeTaken (n : Nat) (r : List Edge) (P : Pond) : Pond := convSet n { convOf P n with trigs := r } P

theorem exec_adcTrigger {s : State} {p : PondId} {n : Fin 2} {e : Edge} {r : List Edge}
    (h : (convOf (pondOf s p) n.val).trigs = e :: r) : exec (.adcTrigger p n) s =
      .next (withPond s p (trigger (pctx s p).epochLen n.val e (edgeTaken n.val r (pondOf s p)))) := by
  have ht : adcTrigger (pctx s p).epochLen n.val (pondOf s p) =
      trigger (pctx s p).epochLen n.val e (edgeTaken n.val r (pondOf s p)) := by
    unfold adcTrigger
    simp only [h]
    rfl
  rw [← ht]
  rfl

/-- A store of 1 to SWTRIG of the one converter `n`. -/
theorem exec_swtrig_one (p : PondId) (n : Fin 2) (s : State) : exec (.swtrig p (BitVec.ofNat 2 (2 ^ n.val))) s =
    .next (withPond s p (swTrigger (pctx s p).epochLen s.ns n.val (pondOf s p))) := by
  have hbits : bitsOf 2 (BitVec.ofNat 2 (2 ^ n.val)).toNat = [n.val] := by
    revert n
    decide
  show Host.Outcome.next (onPond p (fun P => (bitsOf 2 _).foldl _ P) s) = _
  rw [hbits]
  rfl

/-- Settles O24: the edge finds the converter in service, so that only its busy time decides. -/
theorem converterTriggers : Obligations.ConverterTriggers := by
  unfold Obligations.ConverterTriggers
  intro s p n hcal hen hready
  have hn : n.val < 2 := n.isLt
  refine ⟨fun e r htrigs => ⟨_, exec_adcTrigger htrigs, ?_⟩, fun hsrc hfree => ⟨_, exec_swtrig_one p n s, ?_⟩⟩
  · obtain ⟨hnone, hreq⟩ := hcal n.val hn
    have hself : convOf (edgeTaken n.val r (pondOf s p)) n.val = { convOf (pondOf s p) n.val with trigs := r } :=
      convOf_convSet_self hn _ _
    have hcal' : NoCal (edgeTaken n.val r (pondOf s p)) := hcal.convSet hn hnone hreq
    have hready' : (convOf (edgeTaken n.val r (pondOf s p)) n.val).ready = true := by rw [hself]; exact hready
    split
    · rename_i hfree
      obtain ⟨t, ht⟩ := trigger_free hn hcal' hen hready' (e := e) (by rw [hself]; exact hfree) (pctx s p).epochLen
      rw [ht, burstBegun, hself]
      simp only [edgeTaken, convSet, vset_vset]
      rfl
    · rename_i hbusy
      rw [trigger_inService hn hcal' hen hready', if_pos (by rw [hself]; exact Nat.not_le.1 hbusy)]
      obtain ⟨hconv, hcount, hpending⟩ := refuse_overrun_says hn (pctx s p).epochLen e (edgeTaken n.val r (pondOf s p))
      rw [hconv, hself]
      exact ⟨rfl, rfl, hcount, hpending⟩
  · obtain ⟨t, ht⟩ := trigger_free hn hcal hen hready (e := ⟨.sw, s.ns, 16 * s.ns, 0⟩) hfree (pctx s p).epochLen
    rw [swTrigger, if_pos hsrc, ht]
    rfl

end Sys2Proof.Machine
end

section
/-! SUPPORT and claims. The code of a slot: its registers, its destinations and the burst (R158, R164). -/

namespace Sys2Proof.Machine

/-! ### What the destinations of a code leave -/

/-- The registers that the destinations of a code may change (R165 to R167, R194, R238). -/
def routedRegs : List Nat := [0x118, 0x204, 0x268, 0x280, 0x290, 0x294, 0x414, 0x644]

/-- The destinations of a code leave the converters, the general registers, SRAM and all other registers. -/
structure Routed (P Q : Pond) : Prop where
  conv : Q.conv = P.conv
  g : Q.core.g = P.core.g
  sram : Q.sram = P.sram
  rg : ∀ off, off ∉ routedRegs → rg Q off = rg P off

theorem Routed.refl (P : Pond) : Routed P P := ⟨rfl, rfl, rfl, fun _ _ => rfl⟩

theorem Routed.trans {P Q R : Pond} (h : Routed P Q) (k : Routed Q R) : Routed P R :=
  ⟨k.conv.trans h.conv, k.g.trans h.g, k.sram.trans h.sram, fun off ho => (k.rg off ho).trans (h.rg off ho)⟩

theorem Routed.ite {P Q R : Pond} {c : Prop} [Decidable c] (h : Routed P Q) (k : Routed P R) :
    Routed P (if c then Q else R) := by
  split
  · exact h
  · exact k

theorem rmod_routed {off : Nat} (h : off ∈ routedRegs) (f : Word → Word) (P : Pond) : Routed P (rmod off f P) :=
  ⟨rfl, rfl, rfl, fun _ ho => rg_rset_ne _ _ fun e => ho (e ▸ h)⟩

theorem rinc_routed {off : Nat} (h : off ∈ routedRegs) (lo len : Nat) (P : Pond) : Routed P (rinc off lo len P) :=
  rmod_routed h _ P

theorem picEvent_routed (n : Nat) (P : Pond) : Routed P (picEvent n P) := by
  obtain ⟨hsram, -, hg, -⟩ := picEvent_sram n P
  exact ⟨(picEvent_life_kept n P).conv, hg, hsram, fun _ ho => picEvent_regs n P fun e => ho (e ▸ by decide)⟩

theorem laneSet_routed (k : Nat) (l : Lane) (P : Pond) : Routed P (laneSet k l P) := ⟨rfl, rfl, rfl, fun _ _ => rfl⟩

theorem laneCompute_routed (k : Nat) (e : Edge) (t : Nat) (x r : Int) (P : Pond) :
    Routed P (laneCompute k e t x r P) := laneSet_routed _ _ _

theorem cascadeSample_routed (e : Edge) (t : Nat) (x : Int) (P : Pond) : Routed P (cascadeSample e t x P) := by
  unfold cascadeSample
  dsimp only
  split
  next => exact laneCompute_routed _ _ _ _ _ _
  next =>
    refine .ite (.refl P) (.ite (laneSet_routed _ _ _) ?_)
    split
    next => exact laneCompute_routed _ _ _ _ _ _
    next => exact .refl P

theorem laneSample_routed (k : Nat) (e : Edge) (t : Nat) (x : Int) (P : Pond) : Routed P (laneSample k e t x P) := by
  unfold laneSample
  extract_lets l0 P0 c l1 P1 l2 P2
  have h0 : Routed P P0 := laneSet_routed _ _ _
  have h1 : Routed P P1 := h0.trans (laneCompute_routed _ _ _ _ _ _)
  refine .ite (.ite (h0.trans (laneSet_routed _ _ _)) h0)
    (.ite (.ite (h0.trans (cascadeSample_routed _ _ _ _)) (h0.trans (laneCompute_routed _ _ _ _ _ _))) ?_)
  split
  next => exact h1
  next =>
    have h2 := h1.trans (laneSet_routed 1 { laneOf P1 1 with wait := none } P1)
    exact .ite (h2.trans (laneCompute_routed _ _ _ _ _ _)) h2

theorem toLane_routed (k : Nat) (b : Burst) (w : Word) (code : Int) (P : Pond) : Routed P (toLane k b w code P) := by
  unfold toLane
  exact .ite (.refl P) (.ite (rmod_routed (by decide) _ P)
    (.ite ⟨rfl, rfl, rfl, fun _ _ => rfl⟩ (laneSample_routed _ _ _ _ P)))

theorem handoverPost_routed (c : PCtx) (n : Nat) (P : Pond) : Routed P (handoverPost c n P) := by
  unfold handoverPost
  extract_lets w P1 v x
  have h1 : Routed P P1 := ⟨rfl, rfl, rfl, fun _ _ => rfl⟩
  refine .ite ?_ (.refl P)
  split
  next => exact h1.trans (rinc_routed (off := 0x644) (by decide) 0 32 P1)
  next k _ =>
    have h2 : Routed P1 (keepPost c x (emit c.ns k P1)) := ⟨rfl, rfl, rfl, fun _ _ => rfl⟩
    exact (h1.trans h2).trans (rinc_routed (by decide) _ _ _)

theorem windowCheck_routed (c : PCtx) (n : Nat) (code : Int) (P : Pond) : Routed P (windowCheck c n code P) := by
  unfold windowCheck
  refine .ite ?_ (.refl P)
  exact ((rmod_routed (by decide) _ P).trans (picEvent_routed _ _)).trans (handoverPost_routed _ _ _)

theorem captureStore_routed (n j : Nat) (cover : Bool) (code : BitVec 16) (P : Pond) :
    Routed P (captureStore n j cover code P) := by
  unfold captureStore
  exact .ite (.refl P) (.ite (rinc_routed (by decide) _ _ P) ⟨rfl, rfl, rfl, fun _ _ => rfl⟩)

theorem notify_routed (n : Nat) (P : Pond) : Routed P (picEvent (4 + n) (latch n P)) :=
  .trans (Q := latch n P) ⟨rfl, rfl, rfl, fun _ _ => rfl⟩ (picEvent_routed _ _)

theorem gssHalf_routed (b : Bool) (code : BitVec 16) (P : Pond) : Routed P (gssHalf b code P) := by
  obtain ⟨g, r, e, hr⟩ := gssHalf_only b code P
  rw [e]
  exact ⟨rfl, rfl, rfl, fun off ho => hr off fun e => ho (e ▸ by decide)⟩

theorem tapCode_routed (len n j : Nat) (e : Edge) (code : Int) (P : Pond) : Routed P (tapCode len n j e code P) := by
  unfold tapCode
  exact .ite (.refl P) (.ite ⟨rfl, rfl, rfl, fun _ _ => rfl⟩ (.refl P))

/-! ### The registers of a slot -/

/-- The code of slot `j` of converter `n` in its slot's CODE field and in ADC_RESULT_x, and the slot counted. -/
def slotShown (n j : Nat) (bits : BitVec 16) (P : Pond) : Pond :=
  rmod (0x298 + 4 * n) (fun r => r + 1) (rset (0x218 + 4 * n) (BitVec.ofNat 32 (65536 * j + bits.toNat))
    (rmod (0x220 + 32 * n + 4 * j) (fun r => setFld r 16 16 bits.toNat) P))

/-- What the three registers of a slot read (R158, R164). -/
structure SlotShows (n j : Nat) (bits : BitVec 16) (count : Word) (P : Pond) : Prop where
  code : fld (rg P (0x220 + 32 * n + 4 * j)) 16 16 = bits.toNat
  latest : rg P (0x218 + 4 * n) = BitVec.ofNat 32 (65536 * j + bits.toNat)
  count : rg P (0x298 + 4 * n) = count

section

variable {n j : Nat} (hn : n < 2) (hj : j < 8)
include hn hj

theorem slotShown_shows (bits : BitVec 16) (P : Pond) :
    SlotShows n j bits (rg P (0x298 + 4 * n) + 1) (slotShown n j bits P) := by
  constructor
  · rw [slotShown, rmod, rg_rset_ne _ _ (by omega), rg_rset_ne _ _ (by omega), rmod, rg_rset_self,
      fld_setFld (by decide), Nat.mod_eq_of_lt bits.isLt]
  · rw [slotShown, rmod, rg_rset_ne _ _ (by omega), rg_rset_self]
  · rw [slotShown, rmod, rg_rset_self, rg_rset_ne _ _ (by omega), rmod, rg_rset_ne _ _ (by omega)]

/-- No destination of a code changes the registers of a slot. -/
theorem SlotShows.routed {P Q : Pond} {bits : BitVec 16} {count : Word} (h : SlotShows n j bits count P)
    (k : Routed P Q) : SlotShows n j bits count Q := by
  have hfree : ∀ off, 0x218 ≤ off → off < 0x260 ∨ off = 0x298 ∨ off = 0x29C → rg Q off = rg P off := by
    refine fun off hlo hhi => k.rg off fun hmem => ?_
    simp only [routedRegs, List.mem_cons, List.not_mem_nil, or_false] at hmem
    omega
  constructor
  · rw [hfree _ (by omega) (by omega), h.code]
  · rw [hfree _ (by omega) (by omega), h.latest]
  · rw [hfree _ (by omega) (by omega), h.count]

end

/-! ### The end of a slot -/

theorem clamp_rawCode (nv : Int) : clampI (-32767) 32767 (rawCode nv) = codeOf nv := clampI_eq _ _ _ (by decide)

/-- The code is shown in the registers of its slot, then taken to its destinations, and the burst moves on. -/
theorem slotResult_eq {c : PCtx} {x : Nat} {P : Pond} {b : Burst} (hb : (convOf P x).burst = some b)
    (hnext : b.next < b.slots.length) (nv : Int) : ∃ P1 Q, Routed P P1 ∧
      Routed (slotShown (b2n b.owner) b.next (BitVec.ofInt 16 (codeOf nv)) P1) Q ∧
      slotResult c x nv P = convSet x { convOf Q x with
        burst := if b.next + 1 < b.slots.length then some { b with next := b.next + 1 } else none } Q := by
  unfold slotResult
  rw [← clamp_rawCode]
  split
  next hnone => rw [hb] at hnone; cases hnone
  next b' hsome =>
    obtain rfl : b = b' := Option.some.inj (hb.symm.trans hsome)
    split
    next hend => exact absurd (List.getElem?_eq_none_iff.1 hend) (Nat.not_le.2 hnext)
    next w _ =>
      extract_lets n j raw code bits P1 P2 P3 P4 P5 P6 P7 P8 P9 P10
      have h5 : Routed P4 P5 := (toLane_routed _ _ _ _ _).trans (toLane_routed _ _ _ _ _)
      have h6 : Routed P4 P6 := .ite (h5.trans (windowCheck_routed _ _ _ _)) h5
      have h7 : Routed P4 P7 := .ite (h6.trans (captureStore_routed _ _ _ _ _)) h6
      have h8 : Routed P4 P8 := .ite (h7.trans (notify_routed _ _)) h7
      have h9 : Routed P4 P9 := .ite (h8.trans (gssHalf_routed _ _ _)) h8
      exact ⟨P1, P10, .ite (.refl P) (rmod_routed (by decide) _ P), h9.trans (tapCode_routed _ _ _ _ _ _), rfl⟩

theorem exec_slotResult (p : PondId) (x : Fin 2) (nv : Int) (s : State) : exec (.slotResult p x nv) s =
    .next (withPond s p (slotResult (pctx s p) x.val nv (pondOf s p))) := rfl

/-- Settles O25: the registers of the slot are written first, and no destination changes them. -/
theorem slotResults : Obligations.SlotResults := by
  unfold Obligations.SlotResults
  intro s p x nv b hb hnext hlen
  have hn : b2n b.owner < 2 := by cases b.owner <;> decide
  have hj : b.next < 8 := Nat.lt_of_lt_of_le hnext hlen
  obtain ⟨P1, Q, h1, hQ, he⟩ := slotResult_eq (c := pctx s p) hb hnext nv
  have hshows := (slotShown_shows hn hj (BitVec.ofInt 16 (codeOf nv)) P1).routed hn hj hQ
  have hcount : rg P1 (0x298 + 4 * b2n b.owner) = rg (pondOf s p) (0x298 + 4 * b2n b.owner) :=
    h1.rg _ fun hmem => by
      simp only [routedRegs, List.mem_cons, List.not_mem_nil, or_false] at hmem
      omega
  refine ⟨_, exec_slotResult p x nv s, ?_⟩
  rw [he]
  refine ⟨hshows.code, hshows.latest, hshows.count.trans (by rw [hcount]), ?_, hQ.g.trans h1.g, hQ.sram.trans h1.sram⟩
  rw [convOf_convSet_self x.isLt]

end Sys2Proof.Machine
end

section
/-! SUPPORT and claims. Requests of a recalibration, and the end of a calibration at device start and at run time
(R68, R93, R169, R170). -/

namespace Sys2Proof.Machine

/-! ### A request (R169) -/

theorem calAny_noCal {P : Pond} (h : NoCal P) {n : Nat} (hn : n < 2) : calAny (convOf P n) = false := by
  obtain ⟨hcal, hreq⟩ := h n hn
  simp [calAny, hcal, hreq]

theorem coverAny_noCal {P : Pond} (h : NoCal P) : coverAny P = false := by
  obtain ⟨hcal, hreq⟩ := h 0 (by decide)
  simp [coverAny, hcal, hreq]

/-- A recalibration of converter `n` recorded, with its COVER bit, where it is asked for. -/
def calRecorded (n : Nat) (asked cover : Bool) (P : Pond) : Pond :=
  if asked then convSet n { convOf P n with calReq := some cover } P else P

/-- Where no calibration is recorded or runs, only COVER for ADCB is refused. -/
theorem calRequest_noCal {v : Word} {P : Pond} (h : NoCal P) (hv : ¬ (v.getLsbD 1 = true ∧ v.getLsbD 8 = true)) :
    calRequest v P = calRecorded 1 (v.getLsbD 1) false (calRecorded 0 (v.getLsbD 0) (v.getLsbD 8) P) := by
  have hcover : (v.getLsbD 8 && v.getLsbD 1) = false := by
    rw [← Bool.not_eq_true, Bool.and_eq_true, and_comm]
    exact hv
  unfold calRequest bit
  simp only [calAny_noCal h (show 0 < 2 by decide), calAny_noCal h (show 1 < 2 by decide), coverAny_noCal h, hcover,
    Bool.and_false, Bool.or_false, Bool.false_or, Bool.false_eq_true, if_false]
  rfl

theorem calRecorded_only (n : Nat) (asked cover : Bool) (P : Pond) :
    calRecorded n asked cover P = { P with conv := (calRecorded n asked cover P).conv } := by
  unfold calRecorded
  split <;> rfl

theorem calReq_calRecorded {n : Nat} (hn : n < 2) (asked cover : Bool) (P : Pond) (k : Nat) :
    (convOf (calRecorded n asked cover P) k).calReq =
      if k = n ∧ asked = true then some cover else (convOf P k).calReq := by
  unfold calRecorded
  cases asked
  · simp
  · rw [if_pos rfl, convOf_convSet hn]
    by_cases h : k = n <;> simp [h]

/-! ### The measurements (R170, Table 6.5) -/

theorem factorsPass_iff {f : List Word} (h : f.length = 12) :
    FactorsPass f ↔ ∀ i < 12, factorOk i (f.getD i 0) = true := by
  have hoffset : ∀ w : Word, factorOk 0 w = true ↔ |w.toInt| ≤ 16384 := fun w => by
    simp [factorOk, abs_le]
  have hgain : ∀ w : Word, factorOk 1 w = true ↔ 97 * 2 ^ 31 ≤ 100 * w.toNat ∧ 100 * w.toNat ≤ 103 * 2 ^ 31 :=
    fun w => by simp [factorOk]
  have hweight : ∀ i, 2 ≤ i → ∀ w : Word, factorOk i w = true ↔ |w.toInt| ≤ 1024 := fun i hi w => by
    simp [factorOk, abs_le, show i ≠ 0 by omega, show i ≠ 1 by omega]
  constructor
  · rintro ⟨-, h0, h1, h1', hw⟩ i hi
    match i with
    | 0 => exact (hoffset _).2 h0
    | 1 => exact (hgain _).2 ⟨h1, h1'⟩
    | i + 2 => exact (hweight _ (by omega) _).2 (hw _ (by omega) hi)
  · intro hok
    obtain ⟨h1, h1'⟩ := (hgain _).1 (hok 1 (by decide))
    exact ⟨h, (hoffset _).1 (hok 0 (by decide)), h1, h1', fun i hi hlt => (hweight i hi _).1 (hok i hlt)⟩

theorem map_getD_range {f : List Word} (h : f.length = 12) : (List.range 12).map (fun i => f.getD i 0) = f :=
  List.ext_getElem (by simp [h]) fun i hi _ => by
    simp [List.getD_eq_getElem?_getD, List.getElem?_eq_getElem (show i < f.length by simpa [h] using hi)]

theorem calResult_pass {f : List Word} (hf : f.length = 12) (h : FactorsPass f) : calResult true f = ⟨0, 0, f⟩ := by
  have hnone : (List.range 12).find? (fun i => !factorOk i (f.getD i 0)) = none := by
    simpa using (factorsPass_iff hf).1 h
  unfold calResult
  simp only [map_getD_range hf, hnone]
  rfl

theorem calResult_fail {f : List Word} (hf : f.length = 12) {settled : Bool} (h : ¬ (settled = true ∧ FactorsPass f)) :
    (calResult settled f).res = if settled then 1 else 2 := by
  cases settled with
  | false => rfl
  | true =>
    obtain ⟨k, hk⟩ : ∃ k, (List.range 12).find? (fun i => !factorOk i (f.getD i 0)) = some k := by
      rw [eq_self, true_and, factorsPass_iff hf] at h
      rw [← Option.isSome_iff_exists, List.find?_isSome]
      simpa using h
    unfold calResult
    simp only [map_getD_range hf, hk]
    rfl

theorem calResult_fail_ne {f : List Word} (hf : f.length = 12) {settled : Bool}
    (h : ¬ (settled = true ∧ FactorsPass f)) : (calResult settled f).res ≠ 0 := by
  rw [calResult_fail hf h]
  split <;> decide

/-! ### The end of a calibration in its pond -/

/-- RES and FIDX of converter `n` shown. -/
theorem fld_calApply {n : Nat} (hn : n < 2) (epoch : Word) (r : CalRes) (P : Pond) :
    fld (rg (calApply n epoch r P) 0x20C) (8 * n) 2 = r.res % 2 ^ 2 := by
  have hshown : ∀ w : Word, fld (setFld (setFld w (8 * n) 2 r.res) (8 * n + 4) 4 r.fidx) (8 * n) 2 = r.res % 2 ^ 2 :=
    fun w => by rw [fld_setFld_other (by omega) (by omega), fld_setFld (by omega)]
  unfold calApply
  dsimp only
  split
  · rw [rg_rset_ne _ _ (by omega), rg_convSet, rmod, rg_rset_self, hshown]
  · rw [rmod, rg_rset_self, hshown]

theorem calApply_life (n : Nat) (epoch : Word) (r : CalRes) (P : Pond) : (calApply n epoch r P).life = P.life := by
  unfold calApply
  dsimp only
  split <;> rfl

theorem convOf_calApply {n : Nat} (hn : n < 2) (epoch : Word) (r : CalRes) (P : Pond) (k : Nat) :
    convOf (calApply n epoch r P) k =
      if k = n ∧ r.res = 0 then { convOf P n with factors := r.factors } else convOf P k := by
  unfold calApply
  dsimp only
  by_cases hr : r.res = 0
  · rw [if_pos hr]
    refine (convOf_convSet hn _ _ _).trans ?_
    by_cases hk : k = n <;> simp only [hk, hr, and_self, if_true, if_false, false_and] <;> rfl
  · rw [if_neg hr, if_neg (fun h => hr h.2)]
    rfl

/-- Converter `n` out of its start-up calibration, with the outcome applied. -/
def calTaken (n : Nat) (r : CalRes) (P : Pond) : Pond :=
  calApply n 0 r (convSet n { convOf P n with cal := none, ready := true } P)

/-- A pond that does not start, since a calibration failed (Table 3.3). -/
def calNoStart (P : Pond) : Pond := { P with life := { P.life with nostart := true, calFail := true } }

section

variable {n : Nat} {q : CalRun} {P : Pond} (hcal : (convOf P n).cal = some q)
include hcal

/-- At device start the outcome acts at once, and a failure keeps the pond from its start (R170, Table 3.3). -/
theorem calEnd_atStart (hq : q.endEp = none) (r : CalRes) :
    calEnd n r P = if r.res = 0 then calTaken n r P else calNoStart (calTaken n r P) := by
  unfold calEnd
  simp only [hcal, hq]
  rfl

/-- At run time the outcome waits for the return to service (R170). -/
theorem calEnd_atRunTime (hq : q.endEp ≠ none) (r : CalRes) :
    calEnd n r P = convSet n { convOf P n with cal := some { q with res := some r } } P := by
  obtain ⟨k, hk⟩ := Option.ne_none_iff_exists'.1 hq
  unfold calEnd
  simp only [hcal, hk]

end

theorem calTaken_life (n : Nat) (r : CalRes) (P : Pond) : (calTaken n r P).life = P.life := calApply_life _ _ _ _

theorem convOf_calTaken {n : Nat} (hn : n < 2) (r : CalRes) (P : Pond) : convOf (calTaken n r P) n =
    { convOf P n with
      cal := none, ready := true, factors := if r.res = 0 then r.factors else (convOf P n).factors } := by
  rw [calTaken, convOf_calApply hn, convOf_convSet_self hn]
  by_cases hr : r.res = 0 <;> simp [hr]

theorem convOf_calTaken_ne {n k : Nat} (hn : n < 2) (hk : k ≠ n) (r : CalRes) (P : Pond) :
    convOf (calTaken n r P) k = convOf P k := by
  rw [calTaken, convOf_calApply hn, if_neg (fun h => hk h.1), convOf_convSet hn, if_neg hk]

section

variable {n : Nat} {q : CalRun} {P : Pond} (hn : n < 2) (hcal : (convOf P n).cal = some q) (hq : q.endEp = none)
include hcal hq

theorem calEnd_atStart_life (r : CalRes) : (calEnd n r P).life =
    if r.res = 0 then P.life else { P.life with nostart := true, calFail := true } := by
  rw [calEnd_atStart hcal hq]
  split
  · exact calTaken_life n r P
  · rw [calNoStart, calTaken_life]

include hn

theorem convOf_calEnd_atStart (r : CalRes) : convOf (calEnd n r P) n =
    { convOf P n with
      cal := none, ready := true, factors := if r.res = 0 then r.factors else (convOf P n).factors } := by
  rw [calEnd_atStart hcal hq, ← convOf_calTaken hn]
  split <;> rfl

theorem fld_calEnd_atStart (r : CalRes) : fld (rg (calEnd n r P) 0x20C) (8 * n) 2 = r.res % 2 ^ 2 := by
  rw [calEnd_atStart hcal hq, ← fld_calApply hn 0 r (convSet n { convOf P n with cal := none, ready := true } P)]
  split <;> rfl

end

/-- Only a failure at device start keeps a pond from its start. -/
theorem calEnd_nostart {n : Nat} {q : CalRun} {P : Pond} {r : CalRes} (hcal : (convOf P n).cal = some q)
    (h : q.endEp ≠ none ∨ r.res = 0 ∨ P.life.nostart = true) : (calEnd n r P).life.nostart = P.life.nostart := by
  by_cases hq : q.endEp = none
  · rw [calEnd_atStart_life hcal hq]
    split
    next => rfl
    next hres => exact ((h.resolve_left (not_not_intro hq)).resolve_left hres).symm
  · rw [calEnd_atRunTime hcal hq]
    rfl

/-- The other converter and the service of the pond stay as they are. -/
theorem calEnd_others {n k : Nat} (hn : n < 2) (hk : k ≠ n) (r : CalRes) (P : Pond) :
    convOf (calEnd n r P) k = convOf P k ∧ (calEnd n r P).life.inService = P.life.inService := by
  cases hcal : (convOf P n).cal with
  | none =>
    unfold calEnd
    simp only [hcal, and_self]
  | some q =>
    by_cases hq : q.endEp = none
    · rw [calEnd_atStart hcal hq]
      split
      · exact ⟨convOf_calTaken_ne hn hk r P, congrArg (·.inService) (calTaken_life n r P)⟩
      · exact ⟨convOf_calTaken_ne hn hk r P, congrArg (·.inService) (calTaken_life n r P)⟩
    · rw [calEnd_atRunTime hcal hq, convOf_convSet hn, if_neg hk]
      exact ⟨rfl, rfl⟩

/-! ### Step 6 of a device start (R68, R93) -/

theorem convOf_val (P : Pond) (x : Fin 2) : convOf P x.val = P.conv[x] := by
  simp [convOf, vget, Vector.getD, getElem?_pos P.conv x.val x.isLt]

theorem conv_any_cal (P : Pond) : P.conv.toList.any (fun c => c.cal.isSome) = true ↔
    ∃ x : Fin 2, (convOf P x.val).cal ≠ none := by
  simp only [List.any_eq_true, Vector.mem_toList_iff, Vector.mem_iff_getElem, convOf_val, Option.isSome_iff_ne_none]
  constructor
  · rintro ⟨_, ⟨i, hi, rfl⟩, hc⟩
    exact ⟨⟨i, hi⟩, hc⟩
  · rintro ⟨x, hc⟩
    exact ⟨_, ⟨x.val, x.isLt, rfl⟩, hc⟩

theorem calWaits_iff (s : State) : calWaits s = true ↔
    ∃ (m : PondId) (x : Fin 2), (pondOf s m).life.inService = true ∧ (convOf (pondOf s m) x.val).cal ≠ none := by
  have hpond : ∀ m : PondId, (inService s m.val && (pondAt s m.val).conv.toList.any (fun c => c.cal.isSome)) = true ↔
      ∃ x : Fin 2, (pondOf s m).life.inService = true ∧ (convOf (pondOf s m) x.val).cal ≠ none := fun m => by
    rw [Bool.and_eq_true, inService_val, pondAt_val, conv_any_cal, exists_and_left]
  unfold calWaits
  rw [List.any_eq_true]
  constructor
  · rintro ⟨m, hm, hw⟩
    exact ⟨⟨m, List.mem_range.1 hm⟩, (hpond ⟨m, List.mem_range.1 hm⟩).1 hw⟩
  · rintro ⟨m, hw⟩
    exact ⟨m.val, List.mem_range.2 m.isLt, (hpond m).2 hw⟩

/-- A calibration ended in its pond, and a pond that does not start for it reported (Table 3.3, Table 19.7). -/
def calEnded (p : PondId) (n : Nat) (r : CalRes) (s : State) : State :=
  if (pondOf (onPond p (calEnd n r) s) p).life.nostart && !(pondOf s p).life.nostart then
    addReport 3 p.val 0 (onPond p (calEnd n r) s)
  else onPond p (calEnd n r) s

theorem exec_calibrationEnd (p : PondId) (n : Fin 2) (settled : Bool) (f : List Word) (s : State) :
    exec (.calibrationEnd p n settled f) s = .next (calStepEnd (calEnded p n.val (calResult settled f) s)) := rfl

/-- Beside the pond, only the start-up report may differ. -/
theorem calEnded_only (p : PondId) (n : Nat) (r : CalRes) (s : State) : calEnded p n r s =
    { withPond s p (calEnd n r (pondOf s p)) with shore := { s.shore with boot := { s.shore.boot with
      report := (calEnded p n r s).shore.boot.report } } } := by
  unfold calEnded
  split <;> rfl

theorem calEnded_reports {p : PondId} {n : Nat} {r : CalRes} {s : State}
    (ht : (calEnd n r (pondOf s p)).life.nostart = true) (hs : (pondOf s p).life.nostart = false) :
    (calEnded p n r s).shore.boot.report =
      s.shore.boot.report ++ [BitVec.ofNat 32 (3 * 2 ^ 28 + 65536 * p.val)] := by
  unfold calEnded
  rw [pondOf_onPond_self, ht, hs]
  show _ ++ [BitVec.ofNat 32 (2 ^ 28 * 3 + 65536 * (p.val % 64) + 0 % 65536)] = _
  rw [Nat.mod_eq_of_lt p.isLt]
  rfl

theorem calEnded_silent {p : PondId} {n : Nat} {r : CalRes} {s : State}
    (h : (calEnd n r (pondOf s p)).life.nostart = (pondOf s p).life.nostart) :
    (calEnded p n r s).shore.boot.report = s.shore.boot.report := by
  unfold calEnded
  rw [pondOf_onPond_self, h, Bool.and_not_self]
  rfl

theorem pondOf_calEnded (p : PondId) (n : Nat) (r : CalRes) (s : State) (m : PondId) :
    pondOf (calEnded p n r s) m = pondOf (withPond s p (calEnd n r (pondOf s p))) m := by
  rw [calEnded_only]
  rfl

/-- Step 6 does not end here: start-up has gone past it or has not reached it, or a calibration still runs. -/
theorem calStepEnd_waits {s : State} (h : s.shore.boot.applied = true ∨ s.shore.boot.phase < 3 ∨
    s.shore.boot.bistWait ≠ 0 ∨ calWaits s = true) : calStepEnd s = s := by
  unfold calStepEnd
  refine if_neg ?_
  rintro ⟨hphase, happlied, hbist, hcal⟩
  rcases h with h | h | h | h
  · simp [h] at happlied
  · exact absurd hphase (Nat.not_le.2 h)
  · exact h hbist
  · simp [h] at hcal

/-- The last calibration of the device start ends step 6. -/
theorem calStepEnd_last {s : State} (happlied : s.shore.boot.applied = false) (hphase : 3 ≤ s.shore.boot.phase)
    (hbist : s.shore.boot.bistWait = 0) (hcal : calWaits s = false) :
    calStepEnd s = bootAdvance (phaseEnded 6 s) := by
  unfold calStepEnd
  refine if_pos ⟨hphase, ?_, hbist, ?_⟩
  · rw [happlied]; rfl
  · rw [hcal]; rfl

/-! ### The statement -/

theorem calEnded_boot (p : PondId) (n : Nat) (r : CalRes) (s : State) : (calEnded p n r s).shore.boot =
    { s.shore.boot with report := (calEnded p n r s).shore.boot.report } :=
  congrArg (fun t => t.shore.boot) (calEnded_only p n r s)

section

variable {s : State} {p : PondId} {n : Fin 2} (r : CalRes)

/-- The other converter of a pond in service still calibrates. -/
theorem calWaits_calEnded (hs : (pondOf s p).life.inService = true)
    (h : (convOf (pondOf s p) (1 - n.val)).cal ≠ none) : calWaits (calEnded p n.val r s) = true := by
  obtain ⟨hconv, hservice⟩ := calEnd_others n.isLt (show 1 - n.val ≠ n.val by omega) r (pondOf s p)
  refine (calWaits_iff _).2 ⟨p, ⟨1 - n.val, by omega⟩, ?_⟩
  rw [pondOf_calEnded, pondOf_withPond_self, hservice, hconv]
  exact ⟨hs, h⟩

theorem calStepEnd_calEnded (h : s.shore.boot.applied = true ∨ s.shore.boot.phase < 3 ∨ s.shore.boot.bistWait ≠ 0 ∨
    ((pondOf s p).life.inService = true ∧ (convOf (pondOf s p) (1 - n.val)).cal ≠ none)) :
    calStepEnd (calEnded p n.val r s) = calEnded p n.val r s := by
  apply calStepEnd_waits
  rw [calEnded_boot]
  exact h.imp_right (.imp_right (.imp_right fun ⟨hs, hc⟩ => calWaits_calEnded r hs hc))

/-- The last start-up calibration of the ponds in service leaves none to wait for. -/
theorem calWaits_calEnded_last {q : CalRun} (hcal : (convOf (pondOf s p) n.val).cal = some q) (hq : q.endEp = none)
    (h : ∀ (m : PondId) (x : Fin 2), (m, x) ≠ (p, n) → (pondOf s m).life.inService = true →
      (convOf (pondOf s m) x.val).cal = none) : calWaits (calEnded p n.val r s) = false := by
  rw [← Bool.not_eq_true, calWaits_iff]
  rintro ⟨m, x, hs, hc⟩
  rw [pondOf_calEnded] at hs hc
  by_cases hm : m = p
  · subst hm
    rw [pondOf_withPond_self] at hs hc
    by_cases hx : x = n
    · rw [hx, convOf_calEnd_atStart n.isLt hcal hq] at hc
      exact hc rfl
    · obtain ⟨hconv, hservice⟩ := calEnd_others n.isLt (Fin.val_ne_of_ne hx) r (pondOf s m)
      rw [hservice] at hs
      rw [hconv] at hc
      exact hc (h m x (fun e => hx (Prod.mk.inj e).2) hs)
  · rw [pondOf_withPond_ne _ _ hm] at hs hc
    exact hc (h m x (fun e => hm (Prod.mk.inj e).1) hs)

end

/-- Settles O26: a request by its record, an end of a calibration by what it leaves in its pond and the report, and
the last one of a device start by the step that it ends. -/
theorem calibration : Obligations.Calibration := by
  unfold Obligations.Calibration
  refine fun s p => ⟨fun v hcal hv => ⟨calRequest v (pondOf s p), rfl, ?_⟩, fun n settled f q hf hcal hwait => ?_,
    fun n settled f q hcal hq happlied hphase hbist hlast => ?_⟩
  · obtain ⟨-, h0⟩ := hcal 0 (by decide)
    obtain ⟨-, h1⟩ := hcal 1 (by decide)
    rw [calRequest_noCal hcal hv]
    refine ⟨?_, ?_, ?_⟩
    · rw [calRecorded_only 1, calRecorded_only 0]
    · simp [calReq_calRecorded, h0]
    · simp [calReq_calRecorded, h1]
  · have hn := n.isLt
    refine ⟨calEnded p n.val (calResult settled f) s, calEnd n.val (calResult settled f) (pondOf s p),
      by rw [exec_calibrationEnd, calStepEnd_calEnded _ hwait], calEnded_only _ _ _ _, fun hq hbad hstart => ?_,
      fun h => calEnded_silent ?_, fun hq => ?_, fun hq => ?_⟩
    · refine calEnded_reports ?_ hstart
      rw [calEnd_atStart_life hcal hq, if_neg (calResult_fail_ne hf hbad)]
    · refine calEnd_nostart hcal (h.imp_right (.imp_left fun ⟨hsettled, hpass⟩ => ?_))
      rw [hsettled, calResult_pass hf hpass]
    · rw [convOf_calEnd_atStart hn hcal hq, fld_calEnd_atStart hn hcal hq, calEnd_atStart_life hcal hq]
      refine ⟨rfl, rfl, fun ⟨hsettled, hpass⟩ => ?_, fun hbad => ?_⟩
      · rw [hsettled, calResult_pass hf hpass]
        exact ⟨rfl, rfl, rfl⟩
      · have hne := calResult_fail_ne hf hbad
        rw [if_neg hne, if_neg hne, calResult_fail hf hbad]
        exact ⟨rfl, rfl, by split <;> rfl⟩
    · rw [calEnd_atRunTime hcal hq, convOf_convSet_self hn]
      exact ⟨rfl, rfl, _, rfl, rfl, rfl⟩
  · have hboot := calEnded_boot p n.val (calResult settled f) s
    have hwaits := calWaits_calEnded_last (calResult settled f) hcal hq hlast
    have happlied' := (congrArg Boot.applied hboot).trans happlied
    have hbist' := (congrArg Boot.bistWait hboot).trans hbist
    have hend := calStepEnd_last happlied' (hphase.trans_eq (congrArg Boot.phase hboot).symm) hbist' hwaits
    refine ⟨_, (exec_calibrationEnd p n settled f s).trans (congrArg _ hend), fun hwell => ?_, fun hwell => ?_⟩
    · have hstays := bootAdvance_well (s := phaseEnded 6 (calEnded p n.val (calResult settled f) s))
        ((congrArg Boot.wellWait hboot).trans hwell)
      rw [hstays]
      exact ⟨rfl, happlied'⟩
    · exact (bootAdvance_runs (s := phaseEnded 6 (calEnded p n.val (calResult settled f) s)) (Nat.le_add_right 3 3)
        happlied' hbist' ((congrArg Boot.wellWait hboot).trans hwell) hwaits).symm

end Sys2Proof.Machine
end

section
/-! SUPPORT and claims. Comparators and FLT pins that force the PWM pins idle at the balls (R173, R174, R176, R200). -/

namespace Sys2Proof.Machine

/-! ### One comparator -/

theorem cmpOf_cmpSet {n : Nat} (hn : n < 2) (k : Nat) (c : Cmp) (P : Pond) :
    cmpOf (cmpSet n c P) k = if k = n then c else cmpOf P k := vget_vset _ _ _ _ _ hn

theorem cmpOf_cmpSet_self {n : Nat} (hn : n < 2) (c : Cmp) (P : Pond) : cmpOf (cmpSet n c P) n = c := by
  rw [cmpOf_cmpSet hn, if_pos rfl]

/-- The threshold in units of 1/1024 nV (R173). -/
theorem cmpLevel_eq (P : Pond) (n : Nat) :
    cmpLevel P n = 2500000000 * ((rg P (0x308 + 4 * n)).extractLsb' 0 10).toInt := by
  have hcode : ∀ w : Word, sfld w 0 10 = (w.extractLsb' 0 10).toInt := fun w => by
    have hx : (w.extractLsb' 0 10).toNat = fld w 0 10 := BitVec.extractLsb'_toNat _ _ _
    have hsign : 2 * fld w 0 10 < 2 ^ 10 ↔ fld w 0 10 < 2 ^ (10 - 1) := by omega
    simp only [BitVec.toInt_eq_toNat_cond, hx, sfld, hsign]
  rw [cmpLevel, hcode, Int.mul_comm]

theorem cmpHyst_eq (P : Pond) (n : Nat) :
    cmpHyst P n = 1024000000 * [0, 5, 10, 20].getD (fld (rg P (0x300 + 4 * n)) 4 2) 0 := rfl

/-! ### Edges at the balls start blanking (R174) -/

/-- Nothing but the blanking of the comparators differs. -/
structure BlankOnly (P Q : Pond) : Prop where
  rest : Q = { P with cmp := Q.cmp }
  cmp : ∀ n, cmpOf Q n = { cmpOf P n with blank := (cmpOf Q n).blank }

theorem BlankOnly.refl (P : Pond) : BlankOnly P P := ⟨rfl, fun _ => rfl⟩

theorem BlankOnly.trans {P Q R : Pond} (h : BlankOnly P Q) (k : BlankOnly Q R) : BlankOnly P R :=
  ⟨by rw [k.rest, h.rest], fun n => by rw [k.cmp, h.cmp]⟩

theorem cmpSet_blank_only {n : Nat} (hn : n < 2) (b : Bool) (P : Pond) :
    BlankOnly P (cmpSet n { cmpOf P n with blank := b } P) :=
  ⟨rfl, fun m => by
    rw [cmpOf_cmpSet hn]
    split
    next h => rw [h]
    next => rfl⟩

theorem startBlank_only (k : Nat) (P : Pond) : BlankOnly P (startBlank k P) := by
  unfold startBlank
  extract_lets go
  have step : ∀ n < 2, ∀ Q, BlankOnly Q (go n Q) := fun n hn Q => by
    show BlankOnly Q (if _ then _ else _)
    split
    · exact cmpSet_blank_only hn true Q
    · exact .refl Q
  exact (step 0 (by decide) P).trans (step 1 (by decide) _)

theorem withEdges_only (f : Pond → Pond) (P : Pond) : BlankOnly (f P) (withEdges f P) := by
  unfold withEdges
  refine foldl_keep BlankOnly .refl (fun _ _ _ => .trans) _ (fun Q k => ?_) _ _
  split
  · exact startBlank_only k Q
  · exact .refl Q

/-- A change that moves no ball starts no blanking. -/
theorem withEdges_still {f : Pond → Pond} {P : Pond} (h : ∀ k < 4, ball (f P) k = ball P k) :
    withEdges f P = f P := by
  have still : ∀ l : List Nat, (∀ k ∈ l, k < 4) →
      l.foldl (fun Q k => if ball P k != ball (f P) k then startBlank k Q else Q) (f P) = f P := by
    intro l hl
    induction l with
    | nil => rfl
    | cons k l ih =>
      have hk : (ball P k != ball (f P) k) = false := by
        rw [h k (hl k List.mem_cons_self), bne_self_eq_false]
      rw [List.foldl_cons, hk]
      exact ih fun j hj => hl j (List.mem_cons_of_mem _ hj)
  exact still _ fun k hk => List.mem_range.1 hk

theorem BlankOnly.ball {P Q : Pond} (h : BlankOnly P Q) (k : Nat) : ball Q k = ball P k := by
  have hforced : forced Q k = forced P k := by
    unfold forced
    rw [h.cmp 0, h.cmp 1, h.rest]
  unfold Machine.ball
  rw [hforced, h.rest]
  rfl

theorem BlankOnly.out {P Q : Pond} (h : BlankOnly P Q) (n : Nat) : (cmpOf Q n).out = (cmpOf P n).out := by rw [h.cmp]

theorem BlankOnly.force {P Q : Pond} (h : BlankOnly P Q) (n : Nat) : (cmpOf Q n).force = (cmpOf P n).force := by
  rw [h.cmp]

theorem BlankOnly.regs {P Q : Pond} (h : BlankOnly P Q) : Q.regs = P.regs := by rw [h.rest]

theorem BlankOnly.rg {P Q : Pond} (h : BlankOnly P Q) (off : Nat) : rg Q off = rg P off := by rw [h.rest]; rfl

theorem BlankOnly.pic {P Q : Pond} (h : BlankOnly P Q) : Q.pic = P.pic := by rw [h.rest]

theorem BlankOnly.cap {P Q : Pond} (h : BlankOnly P Q) : Q.cap = P.cap := by rw [h.rest]

/-! ### Forces hold the pins idle (R174, R200) -/

theorem bit_pinMask (w : Word) (lo : Nat) {k : Nat} (hk : k < 4) :
    bit (BitVec.ofNat 4 (fld w lo 4)) k = bit w (lo + k) := by
  rw [bit, BitVec.getLsbD_ofNat, testBit_fld, decide_eq_true hk, Bool.true_and, Bool.true_and, bit]

theorem bit_or {n : Nat} (x y : BitVec n) (i : Nat) : bit (x ||| y) i = (bit x i || bit y i) := BitVec.getLsbD_or

theorem ball_of_forced {P : Pond} {k : Nat} (h : forced P k = true) : ball P k = false := by
  unfold ball
  rw [h, Bool.not_true, Bool.and_false, Bool.false_and]

theorem ball_of_cmpForce {P : Pond} {n k : Nat} (hn : n < 2) (h : bit (cmpOf P n).force k = true) :
    ball P k = false := by
  refine ball_of_forced ?_
  unfold forced
  match n, hn with
  | 0, _ => rw [h, Bool.true_or, Bool.true_or, Bool.true_or]
  | 1, _ => rw [h, Bool.or_true, Bool.true_or, Bool.true_or]

/-! ### A trip (R174) -/

/-- Comparator `n` with this CMP_CTRL has tripped: the pins of its mask are idle, TRIPPED is set, and its source
is pending. -/
structure Tripped (n : Nat) (ctrl : Word) (P : Pond) : Prop where
  idle : ∀ k < 4, bit ctrl (20 + k) = true → ball P k = false
  tripped : bit (rg P 0x310) n = true
  pending : Pending P (10 + n)

theorem Tripped.blank {n : Nat} {ctrl : Word} {P Q : Pond} (h : Tripped n ctrl P) (k : BlankOnly P Q) :
    Tripped n ctrl Q := by
  refine ⟨fun j hj hm => (k.ball j).trans (h.idle j hj hm), ?_, ?_⟩
  · rw [k.rest]
    exact h.tripped
  · rw [k.rest]
    exact h.pending

theorem picEvent_cmp (n : Nat) (P : Pond) : (picEvent n P).cmp = P.cmp := by
  rcases picEvent_cases n P with ⟨-, e⟩ | ⟨-, x, e⟩
  · rw [e]
    rfl
  · rw [e]

theorem cmpOf_cmpTrip {n : Nat} (hn : n < 2) (P : Pond) : cmpOf (cmpTrip n P) n = { cmpOf P n with
    force := (cmpOf P n).force ||| BitVec.ofNat 4 (fld (cmpCtrl P n) 20 4), done := true } := by
  unfold cmpTrip
  rw [cmpOf, picEvent_cmp]
  exact cmpOf_cmpSet_self hn _ P

theorem cmpTrip_tripped {n : Nat} (hn : n < 2) (P : Pond) : Tripped n (cmpCtrl P n) (cmpTrip n P) := by
  refine ⟨fun k hk hm => ball_of_cmpForce hn ?_, ?_, picEvent_pending (by omega) _⟩
  · rw [cmpOf_cmpTrip hn, bit_or, bit_pinMask _ _ hk, hm, Bool.or_true]
  · unfold cmpTrip
    rw [picEvent_regs _ _ (by decide), rinc, rmod, rg_rset_ne _ _ (by decide), rbit, rmod, rg_rset_self, bit,
      bit_setBit_self _ (by omega)]

/-- The input lies beyond the threshold (R173). -/
theorem cmpBeyond_iff (P : Pond) (n : Nat) (nv : Int) : cmpBeyond P n nv = true ↔
    if bit (cmpCtrl P n) 6 then 1024 * nv < cmpLevel P n else cmpLevel P n < 1024 * nv := by
  unfold cmpBeyond
  split <;> rw [decide_eq_true_eq]

/-- The input lies back past the threshold by the hysteresis (R173). -/
theorem cmpBack_iff (P : Pond) (n : Nat) (nv : Int) : cmpBack P n nv = true ↔
    if bit (cmpCtrl P n) 6 then cmpLevel P n + cmpHyst P n < 1024 * nv
    else 1024 * nv < cmpLevel P n - cmpHyst P n := by
  unfold cmpBack
  split <;> rw [decide_eq_true_eq]

/-- The output of comparator `n` active. -/
def cmpOutput (n : Nat) (P : Pond) : Pond := cmpSet n { cmpOf P n with out := true } P

/-- An enabled comparator whose input is beyond the threshold, and that has not tripped for it yet. -/
theorem cmpActive_beyond {P : Pond} {n : Nat} {nv : Int} (hen : bit (cmpCtrl P n) 0 = true)
    (hbeyond : cmpBeyond P n nv = true) (hdone : (cmpOf P n).done = false) :
    cmpActive n nv P = if (cmpOf P n).blank then cmpOutput n P else cmpTrip n (cmpOutput n P) := by
  have hacts : (!bit (cmpCtrl P n) 0 || !cmpBeyond P n nv) = false := by
    rw [hen, hbeyond]
    rfl
  have hfirst : ((cmpOf P n).blank || (cmpOf P n).done) = (cmpOf P n).blank := by rw [hdone, Bool.or_false]
  unfold cmpActive
  rw [hacts, hfirst]
  rfl

theorem cmpInactive_back {P : Pond} {n : Nat} {nv : Int} (h : cmpBack P n nv = true) :
    cmpInactive n nv P = cmpSet n { cmpOf P n with out := false, done := false } P := by
  unfold cmpInactive
  rw [h]
  rfl

theorem cmpInactive_not_back {P : Pond} {n : Nat} {nv : Int} (h : ¬ cmpBack P n nv = true) :
    cmpInactive n nv P = P := by
  unfold cmpInactive
  rw [Bool.not_eq_true] at h
  rw [h]
  rfl

theorem cmpBlankEnd_trips {P : Pond} {n : Nat} (hblank : (cmpOf P n).blank = true) (hout : (cmpOf P n).out = true)
    (hdone : (cmpOf P n).done = false) :
    cmpBlankEnd n P = cmpTrip n (cmpSet n { cmpOf P n with blank := false } P) := by
  have htrips : ((cmpOf P n).blank && (cmpOf P n).out && !(cmpOf P n).done) = true := by
    rw [hblank, hout, hdone]
    rfl
  exact if_pos htrips

theorem cmpBlankEnd_inactive {P : Pond} {n : Nat} (hout : (cmpOf P n).out = false) :
    cmpBlankEnd n P = cmpSet n { cmpOf P n with blank := false } P := by
  unfold cmpBlankEnd
  simp only [hout, Bool.and_false, Bool.false_and, Bool.false_eq_true, if_false]

/-! ### Writes of several status bits -/

/-- Of the writes in a list, that to `n` happens once, and those to the others keep what is said of `n`. -/
theorem foldl_at {R : Pond → Pond → Prop} (refl : ∀ P, R P P) (trans : ∀ P Q S, R P Q → R Q S → R P S)
    {f : Pond → Nat → Pond} {n : Nat} {l : List Nat} (other : ∀ k ∈ l, k ≠ n → ∀ Q, R Q (f Q k)) (hmem : n ∈ l)
    (hnodup : l.Nodup) (P : Pond) : ∃ Q, R P Q ∧ R (f Q n) (l.foldl f P) := by
  have others : ∀ l' : List Nat, l' ⊆ l → n ∉ l' → ∀ Q, R Q (l'.foldl f Q) := by
    intro l'
    induction l' with
    | nil => exact fun _ _ Q => refl Q
    | cons k l' ih =>
      intro hsub hn Q
      rw [List.mem_cons, not_or] at hn
      obtain ⟨hk, hl⟩ := hn
      obtain ⟨hkl, hsub'⟩ := List.cons_subset.1 hsub
      exact trans _ _ _ (other k hkl (Ne.symm hk) Q) (ih hsub' hl _)
  obtain ⟨l1, l2, rfl⟩ := List.append_of_mem hmem
  obtain ⟨hn, -⟩ := List.nodup_cons.1 (List.nodup_middle.1 hnodup)
  rw [List.mem_append, not_or] at hn
  rw [List.foldl_append, List.foldl_cons]
  exact ⟨_, others l1 (List.subset_append_left _ _) hn.1 P, others l2 (fun _ h => by simp [h]) hn.2 _⟩

theorem mem_bitsOf_mask {m : BitVec 2} {n : Fin 2} (h : m.getLsbD n.val = true) : n.val ∈ bitsOf 2 m.toNat :=
  mem_bitsOf.2 ⟨n.isLt, h⟩

/-! ### A write to TRIPPED (R176) -/

/-- Comparator `n`, its TRIPPED and its CMP_CTRL are as they were. -/
structure TripKept (n : Nat) (P Q : Pond) : Prop where
  cmp : cmpOf Q n = cmpOf P n
  tripped : bit (rg Q 0x310) n = bit (rg P 0x310) n
  ctrl : cmpCtrl Q n = cmpCtrl P n

theorem TripKept.refl (n : Nat) (P : Pond) : TripKept n P P := ⟨rfl, rfl, rfl⟩

theorem TripKept.trans {n : Nat} (P Q S : Pond) (h : TripKept n P Q) (k : TripKept n Q S) : TripKept n P S :=
  ⟨k.cmp.trans h.cmp, k.tripped.trans h.tripped, k.ctrl.trans h.ctrl⟩

/-- TRIPPED_n cleared. -/
def tripCleared (n : Nat) (P : Pond) : Pond := rmod 0x310 (fun w => setBit w n false) P

theorem trippedClear_active {P : Pond} {n : Nat} (h : (cmpOf P n).out = true) : trippedClear n P = P := if_pos h

theorem trippedClear_inactive {P : Pond} {n : Nat} (h : (cmpOf P n).out = false) : trippedClear n P =
    if bit (cmpCtrl P n) 7 then tripCleared n P else cmpSet n { cmpOf P n with force := 0 } (tripCleared n P) := by
  unfold trippedClear
  simp only [h, Bool.false_eq_true, if_false]
  rfl

theorem tripCleared_bit {n k : Nat} (hn : n < 2) (P : Pond) :
    bit (rg (tripCleared k P) 0x310) n = if n = k then false else bit (rg P 0x310) n := by
  rw [tripCleared, rmod, rg_rset_self, bit, getLsbD_setBit _ _ _ (by omega)]
  rfl

theorem tripCleared_ctrl {n : Nat} (hn : n < 2) (k : Nat) (P : Pond) : cmpCtrl (tripCleared k P) n = cmpCtrl P n :=
  rg_rset_ne _ _ (by omega)

theorem tripCleared_kept {n k : Nat} (hn : n < 2) (hk : k ≠ n) (P : Pond) : TripKept n P (tripCleared k P) :=
  ⟨rfl, (tripCleared_bit hn P).trans (if_neg (Ne.symm hk)), tripCleared_ctrl hn k P⟩

theorem trippedClear_other {n k : Nat} (hn : n < 2) (hk2 : k < 2) (hk : k ≠ n) (P : Pond) :
    TripKept n P (trippedClear k P) := by
  cases hout : (cmpOf P k).out with
  | true =>
    rw [trippedClear_active hout]
    exact .refl n P
  | false =>
    rw [trippedClear_inactive hout]
    split
    · exact tripCleared_kept hn hk P
    · refine (tripCleared_kept hn hk P).trans _ _ _ ⟨?_, rfl, rfl⟩
      exact (cmpOf_cmpSet hk2 _ _ _).trans (if_neg (Ne.symm hk))

/-- A write of a mask to CMP_STATUS.TRIPPED. -/
def trippedClears (m : BitVec 2) (P : Pond) : Pond := (bitsOf 2 m.toNat).foldl (fun Q k => trippedClear k Q) P

/-- A write to TRIPPED as comparator `n` sees it. -/
theorem trippedClears_says {n : Fin 2} {m : BitVec 2} (h : m.getLsbD n.val = true) (P : Pond) :
    ∃ Q, TripKept n P Q ∧ TripKept n (trippedClear n Q) (trippedClears m P) :=
  foldl_at (.refl _) .trans (fun _ hmem hk Q => trippedClear_other n.isLt (mem_bitsOf.1 hmem).1 hk Q)
    (mem_bitsOf_mask h) (bitsOf_nodup _ _) P

/-! ### FLT pins (R200) -/

/-- The pins that FLT_n holds idle. -/
def fltHeld (P : Pond) (n : Nat) : BitVec 4 := if n = 0 then P.cap.force0 else P.cap.force1

/-- The pins that FLT_n holds idle replaced. -/
def fltSet (n : Nat) (m : BitVec 4) (P : Pond) : Pond :=
  if n = 0 then { P with cap := { P.cap with force0 := m } } else { P with cap := { P.cap with force1 := m } }

theorem fltHeld_iff (P : Pond) (n : Nat) (a b : BitVec 4) : fltHeld P n = (if n = 0 then a else b) ↔
    if n = 0 then P.cap.force0 = a else P.cap.force1 = b := by
  unfold fltHeld
  split <;> rfl

theorem fltHeld_fltSet_self (n : Nat) (m : BitVec 4) (P : Pond) : fltHeld (fltSet n m P) n = m := by
  unfold fltHeld fltSet
  split <;> rfl

/-- The FLT pins of a pond are two: any other number but 0 stands for FLT_1. -/
theorem fltHeld_fltSet_ne {n k : Nat} (hn : n < 2) (hk : k < 2) (h : k ≠ n) (m : BitVec 4) (P : Pond) :
    fltHeld (fltSet k m P) n = fltHeld P n := by
  unfold fltHeld fltSet
  match n, k, hn, hk with
  | 0, 1, _, _ => rfl
  | 1, 0, _, _ => rfl
  | 0, 0, _, _ => exact absurd rfl h
  | 1, 1, _, _ => exact absurd rfl h

theorem fltSet_keeps (n : Nat) (m : BitVec 4) (P : Pond) : (fltSet n m P).regs = P.regs ∧
    (fltSet n m P).cap.pins = P.cap.pins := by
  unfold fltSet
  split <;> exact ⟨rfl, rfl⟩

theorem ball_of_fltHeld {P : Pond} {n k : Nat} (h : bit (fltHeld P n) k = true) : ball P k = false := by
  refine ball_of_forced ?_
  unfold forced
  unfold fltHeld at h
  split at h <;> simp only [h, Bool.or_true, Bool.true_or]

theorem fltForce_eq (n : Nat) (P : Pond) : fltForce n P =
    fltSet n (fltHeld P n ||| BitVec.ofNat 4 (fld (rg P 0x500) (20 + 4 * n) 4)) (rbit 0x504 (24 + n) P) := by
  unfold fltForce fltSet fltHeld
  split <;> rfl

/-- FLT_FORCED_n cleared. -/
def fltCleared (n : Nat) (P : Pond) : Pond := rmod 0x504 (fun w => setBit w (24 + n) false) P

theorem fltClear_active {P : Pond} {n : Nat} (h : fltActive P n = true) : fltClear n P = P := if_pos h

theorem fltClear_inactive {P : Pond} {n : Nat} (h : fltActive P n = false) :
    fltClear n P = fltSet n 0 (fltCleared n P) := by
  unfold fltClear
  rw [if_neg (by rw [h]; exact Bool.false_ne_true)]
  rfl

theorem fltCleared_bit {n : Nat} (hn : n < 2) (k : Nat) (P : Pond) :
    bit (rg (fltCleared k P) 0x504) (24 + n) = if n = k then false else bit (rg P 0x504) (24 + n) := by
  rw [fltCleared, rmod, rg_rset_self, bit, getLsbD_setBit _ _ _ (by omega)]
  simp only [Nat.add_left_cancel_iff]
  rfl

/-- The level of FLT_n, FLT_FORCED_n and the pins that it holds are as they were. -/
structure FltKept (n : Nat) (P Q : Pond) : Prop where
  active : fltActive Q n = fltActive P n
  shown : bit (rg Q 0x504) (24 + n) = bit (rg P 0x504) (24 + n)
  held : fltHeld Q n = fltHeld P n

theorem FltKept.refl (n : Nat) (P : Pond) : FltKept n P P := ⟨rfl, rfl, rfl⟩

theorem FltKept.trans {n : Nat} (P Q S : Pond) (h : FltKept n P Q) (k : FltKept n Q S) : FltKept n P S :=
  ⟨k.active.trans h.active, k.shown.trans h.shown, k.held.trans h.held⟩

theorem fltActive_congr {P Q : Pond} (hregs : rg Q 0x500 = rg P 0x500) (hpins : Q.cap.pins = P.cap.pins) (n : Nat) :
    fltActive Q n = fltActive P n := by
  unfold fltActive pinLevel
  rw [hregs, hpins]

theorem fltClear_other {n k : Nat} (hn : n < 2) (hk2 : k < 2) (hk : k ≠ n) (P : Pond) :
    FltKept n P (fltClear k P) := by
  cases hactive : fltActive P k with
  | true =>
    rw [fltClear_active hactive]
    exact .refl n P
  | false =>
    rw [fltClear_inactive hactive]
    obtain ⟨hregs, hpins⟩ := fltSet_keeps k 0 (fltCleared k P)
    refine ⟨fltActive_congr (P := P) ?_ hpins n, ?_, fltHeld_fltSet_ne hn hk2 hk _ _⟩
    · rw [rg, hregs]
      exact rg_rset_ne _ _ (by decide)
    · rw [rg, hregs]
      exact (fltCleared_bit hn k P).trans (if_neg (Ne.symm hk))

/-- A write of a mask to CAP_STATUS.FLT_FORCED. -/
def fltClears (m : BitVec 2) (P : Pond) : Pond := (bitsOf 2 m.toNat).foldl (fun Q k => fltClear k Q) P

/-- A write to FLT_FORCED as FLT_n sees it. -/
theorem fltClears_says {n : Fin 2} {m : BitVec 2} (h : m.getLsbD n.val = true) (P : Pond) :
    ∃ Q, FltKept n P Q ∧ FltKept n (fltClear n Q) (fltClears m P) :=
  foldl_at (.refl _) .trans (fun _ hmem hk Q => fltClear_other n.isLt (mem_bitsOf.1 hmem).1 hk Q) (mem_bitsOf_mask h)
    (bitsOf_nodup _ _) P

theorem BlankOnly.flt {P Q : Pond} (h : BlankOnly P Q) (n : Nat) : FltKept n P Q :=
  ⟨fltActive_congr (h.rg _) (by rw [h.cap]) n, by rw [h.rg], by unfold fltHeld; rw [h.cap]⟩

/-! ### The instructions -/

section

variable (p : PondId) (n : Fin 2) (s : State)

theorem exec_cmpTrip (nv : Int) : exec (.cmpTrip p ⟨n, nv⟩) s =
    .next (withPond s p (withEdges (cmpActive n.val nv) (pondOf s p))) := rfl

theorem exec_cmpOutputInactive (nv : Int) : exec (.cmpOutputInactive p ⟨n, nv⟩) s =
    .next (withPond s p (cmpInactive n.val nv (pondOf s p))) := rfl

theorem exec_blankingEnd : exec (.blankingEnd p n) s =
    .next (withPond s p (withEdges (cmpBlankEnd n.val) (pondOf s p))) := rfl

theorem exec_trippedClear (m : BitVec 2) : exec (.trippedClear p m) s = .next (withPond s p
    (withEdges (trippedClears m) (pondOf s p))) := rfl

theorem exec_fltActive : exec (.fltActive p n) s = .next (withPond s p
    (withEdges (fun P => if fltActive P n.val then fltForce n.val P else P) (pondOf s p))) := rfl

theorem exec_fltForcedClear (m : BitVec 2) : exec (.fltForcedClear p m) s = .next (withPond s p
    (withEdges (fltClears m) (pondOf s p))) := rfl

end

/-- An input beyond the threshold makes the output active, and outside blanking trips. -/
theorem cmpActive_says {P : Pond} {n : Nat} {nv : Int} (hn : n < 2) (hen : bit (cmpCtrl P n) 0 = true)
    (hbeyond : cmpBeyond P n nv = true) (hdone : (cmpOf P n).done = false) :
    (cmpOf (withEdges (cmpActive n nv) P) n).out = true ∧
    if (cmpOf P n).blank then
      (cmpOf (withEdges (cmpActive n nv) P) n).force = (cmpOf P n).force ∧
        (withEdges (cmpActive n nv) P).regs = P.regs ∧ (withEdges (cmpActive n nv) P).pic = P.pic
    else Tripped n (cmpCtrl P n) (withEdges (cmpActive n nv) P) := by
  have hedges := withEdges_only (cmpActive n nv) P
  have hactive := cmpActive_beyond hen hbeyond hdone
  have hout : (cmpOf (cmpOutput n P) n).out = true := by rw [cmpOutput, cmpOf_cmpSet_self hn]
  split
  next hblank =>
    rw [hactive, if_pos hblank] at hedges
    refine ⟨(hedges.out n).trans hout, (hedges.force n).trans ?_, hedges.regs, hedges.pic⟩
    rw [cmpOutput, cmpOf_cmpSet_self hn]
  next hblank =>
    rw [hactive, if_neg hblank] at hedges
    refine ⟨(hedges.out n).trans ?_, (cmpTrip_tripped hn (cmpOutput n P)).blank hedges⟩
    rw [cmpOf_cmpTrip hn]
    exact hout

/-- A write of 1 to TRIPPED_n ends a latched force once the output is inactive (R176). -/
theorem trippedClears_effect {P : Pond} {n : Fin 2} {m : BitVec 2} (h : m.getLsbD n.val = true) {Q : Pond}
    (hQ : BlankOnly (trippedClears m P) Q) :
    if (cmpOf P n.val).out then
      (cmpOf Q n.val).force = (cmpOf P n.val).force ∧ bit (rg Q 0x310) n.val = bit (rg P 0x310) n.val
    else bit (rg Q 0x310) n.val = false ∧ (bit (cmpCtrl P n.val) 7 = false → (cmpOf Q n.val).force = 0) := by
  have hn := n.isLt
  obtain ⟨R, before, after⟩ := trippedClears_says h P
  rw [hQ.force, hQ.rg, after.cmp, after.tripped, ← before.cmp, ← before.tripped, ← before.ctrl]
  cases hout : (cmpOf R n.val).out with
  | true =>
    rw [if_pos rfl, trippedClear_active hout]
    exact ⟨rfl, rfl⟩
  | false =>
    have hcleared := tripCleared_bit (k := n.val) hn R
    rw [if_neg Bool.false_ne_true, trippedClear_inactive hout]
    split
    next hmode => exact ⟨hcleared.trans (if_pos rfl), fun hlatch => absurd (hlatch.symm.trans hmode) (by decide)⟩
    next => exact ⟨hcleared.trans (if_pos rfl), fun _ => by rw [cmpOf_cmpSet_self hn]⟩

/-- FLT_n at its active level forces the pins of its mask idle (R200). -/
theorem fltForce_says {P : Pond} {n : Fin 2} {Q : Pond} (hQ : BlankOnly (fltForce n.val P) Q) :
    (∀ k < 4, bit (rg P 0x500) (20 + 4 * n.val + k) = true → ball Q k = false) ∧
    bit (rg Q 0x504) (24 + n.val) = true := by
  rw [fltForce_eq] at hQ
  refine ⟨fun k hk hm => (hQ.ball k).trans (ball_of_fltHeld (n := n.val) ?_), ?_⟩
  · rw [fltHeld_fltSet_self, bit_or, bit_pinMask _ _ hk, hm, Bool.or_true]
  · rw [hQ.rg, rg, (fltSet_keeps _ _ _).1]
    exact (congrArg (bit · _) (rg_rset_self _ _ _)).trans (bit_setBit_self _ (by omega) true)

/-- A write of 1 to FLT_FORCED_n ends the force once the pin is inactive (R200). -/
theorem fltClears_effect {P : Pond} {n : Fin 2} {m : BitVec 2} (h : m.getLsbD n.val = true) {Q : Pond}
    (hQ : BlankOnly (fltClears m P) Q) :
    if fltActive P n.val then
      bit (rg Q 0x504) (24 + n.val) = bit (rg P 0x504) (24 + n.val) ∧ fltHeld Q n.val = fltHeld P n.val
    else bit (rg Q 0x504) (24 + n.val) = false ∧ fltHeld Q n.val = 0 := by
  obtain ⟨R, before, after⟩ := fltClears_says h P
  have last := after.trans _ _ _ (hQ.flt n.val)
  rw [last.shown, last.held, ← before.active, ← before.shown, ← before.held]
  cases hactive : fltActive R n.val with
  | true =>
    rw [if_pos rfl, fltClear_active hactive]
    exact ⟨rfl, rfl⟩
  | false =>
    rw [if_neg Bool.false_ne_true, fltClear_inactive hactive]
    refine ⟨?_, fltHeld_fltSet_self _ _ _⟩
    rw [rg, (fltSet_keeps _ _ _).1]
    exact (fltCleared_bit n.isLt n.val R).trans (if_pos rfl)

/-- Settles O28: each instruction by its effect on the comparator or FLT pin, which the blanking that it starts at
the balls does not change. -/
theorem forcesAtTheBalls : Obligations.ForcesAtTheBalls := by
  unfold Obligations.ForcesAtTheBalls
  refine ⟨fun s p n => ⟨fun nv => ⟨fun hen hdone hbeyond => ?_, fun hback => ?_, fun hback => ?_⟩,
    fun hblank hout hdone => ?_, fun hout => ?_, fun m hm => ?_⟩, fun s p n => ⟨fun hactive => ?_, fun m hm => ?_⟩⟩
  · rw [← cmpLevel_eq, ← cmpCtrl, ← cmpBeyond_iff] at hbeyond
    obtain ⟨hout, htrip⟩ := cmpActive_says n.isLt hen hbeyond hdone
    refine ⟨_, exec_cmpTrip p n s nv, hout, ?_⟩
    split at htrip
    next hblank =>
      rw [if_pos hblank]
      exact htrip
    next hblank =>
      rw [if_neg hblank]
      exact ⟨htrip.idle, htrip.tripped, htrip.pending⟩
  · rw [← cmpLevel_eq, ← cmpHyst_eq, ← cmpCtrl, ← cmpBack_iff] at hback
    rw [exec_cmpOutputInactive, cmpInactive_back hback]
    rfl
  · rw [← cmpLevel_eq, ← cmpHyst_eq, ← cmpCtrl, ← cmpBack_iff] at hback
    rw [exec_cmpOutputInactive, cmpInactive_not_back hback, withPond_self]
  · have hedges := withEdges_only (cmpBlankEnd n.val) (pondOf s p)
    rw [cmpBlankEnd_trips hblank hout hdone] at hedges
    obtain ⟨hidle, htripped, hpending⟩ := (cmpTrip_tripped n.isLt _).blank hedges
    exact ⟨_, exec_blankingEnd p n s, hidle, htripped, hpending⟩
  · refine ⟨_, exec_blankingEnd p n s, ?_⟩
    have hball := (cmpSet_blank_only n.isLt false (pondOf s p)).ball
    rw [← cmpBlankEnd_inactive hout] at hball
    rw [withEdges_still fun k _ => hball k, cmpBlankEnd_inactive hout, cmpOf_cmpSet_self n.isLt]
    exact ⟨rfl, rfl, rfl⟩
  · exact ⟨_, exec_trippedClear p s m, trippedClears_effect hm (withEdges_only _ _)⟩
  · have hedges := withEdges_only (fun P => if fltActive P n.val then fltForce n.val P else P) (pondOf s p)
    rw [if_pos hactive] at hedges
    exact ⟨_, exec_fltActive p n s, fltForce_says hedges⟩
  · refine ⟨_, exec_fltForcedClear p s m, ?_⟩
    have heffect := fltClears_effect hm (withEdges_only (fltClears m) (pondOf s p))
    split at heffect
    next hactive =>
      obtain ⟨hshown, hheld⟩ := heffect
      rw [if_pos hactive]
      exact ⟨hshown, (fltHeld_iff _ _ _ _).1 hheld⟩
    next hactive =>
      obtain ⟨hshown, hheld⟩ := heffect
      rw [if_neg hactive]
      exact ⟨hshown, (fltHeld_iff _ _ _ _).1 (hheld.trans (ite_self _).symm)⟩

end Sys2Proof.Machine
end

section
/-! SUPPORT and claims. Capture edges (R198, R199) and event timers (R196, R197). -/

namespace Sys2Proof.Machine

/-! ### Events and nothing else -/

/-- From `P` to `Q` nothing has happened but events: what is pending or latched stays so, and of the registers only
the count of lost events may differ (R149). -/
structure Raised (P Q : Pond) : Prop where
  cap : Q.cap = P.cap
  pg : Q.pg = P.pg
  rg : ∀ off, off ≠ 0x118 → rg Q off = rg P off
  evt : ∀ i, P.core.evt.getLsbD i = true → Q.core.evt.getLsbD i = true
  pending : ∀ n, Pending P n → Pending Q n

theorem Raised.refl (P : Pond) : Raised P P := ⟨rfl, rfl, fun _ _ => rfl, fun _ => id, fun _ => id⟩

theorem setBit_true_keeps {n : Nat} {w : BitVec n} {j : Nat} (h : w.getLsbD j = true) (i : Nat) :
    (setBit w i true).getLsbD j = true := by
  rw [getLsbD_setBit _ _ _ (BitVec.lt_of_getLsbD h), h, ite_self]

theorem picLatch_raised (P : Pond) : Raised P (picLatch P) := by
  rcases picLatch_cases P with e | e <;> rw [e]
  · exact .refl P
  · exact ⟨rfl, rfl, fun _ _ => rfl, fun _ h => setBit_true_keeps h 5, fun _ => id⟩

theorem picEvent_raised (n : Nat) (P : Pond) : Raised P (picEvent n P) := by
  unfold picEvent
  split
  next => exact ⟨rfl, rfl, fun _ ho => rg_rset_ne _ _ ho, fun _ => id, fun _ => id⟩
  next =>
    obtain ⟨hcap, hpg, hrg, hevt, hpend⟩ :=
      picLatch_raised { P with pic := { P.pic with pend := setBit P.pic.pend n true } }
    exact ⟨hcap, hpg, hrg, hevt, fun m hm => hpend m (setBit_true_keeps hm n)⟩

/-! ### Capture edges -/

/-- A bit of a two-bit edge selection: the low one selects rising, the high one falling edges (Table 7.10). -/
theorem edgeSelected_bit (w : Word) (lo : Nat) (level : Bool) :
    edgeSelected (fld w lo 2) level = bit w (lo + b2n (!level)) := by
  have hlt : fld w lo 2 < 4 := Nat.mod_lt _ (by decide)
  cases level with
  | true =>
    have hrise : (fld w lo 2).testBit 0 = bit w lo := testBit_fld w lo 2 0
    rw [Nat.testBit_zero] at hrise
    exact (beq_eq_decide ..).trans hrise
  | false =>
    have hfall : (fld w lo 2).testBit 1 = bit w (lo + 1) := testBit_fld w lo 2 1
    have hhigh : fld w lo 2 / 2 % 2 = 1 ↔ 2 ≤ fld w lo 2 := by omega
    rw [Nat.testBit_succ, Nat.testBit_zero, decide_eq_decide.2 hhigh] at hfall
    exact hfall

/-- Pin `i` driven from outside to `level`. -/
def pinSet (i : Nat) (level : Bool) (P : Pond) : Pond :=
  { P with cap := { P.cap with pins := setBit P.cap.pins i level } }

/-- A pin that the pond does not drive shows what drives it from outside (R201). -/
theorem pinLevel_input {P : Pond} {i : Nat} (h : i < 2 ∨ bit (rg P 0x500) (14 + i) = false) :
    pinLevel P i = bit P.cap.pins i := by
  unfold pinLevel
  refine if_neg fun ⟨hge, hoe⟩ => ?_
  rcases h with hlt | hin
  · omega
  · exact Bool.false_ne_true (hin.symm.trans hoe)

theorem pinDrive_edge {P : Pond} {i : Nat} {level : Bool} (hi : i < 4)
    (hin : i < 2 ∨ bit (rg P 0x500) (14 + i) = false) (hwas : bit P.cap.pins i = !level) (sub : Nat) :
    pinDrive sub i level P = pinEdge sub i level (pinSet i level P) := by
  have hnow : pinLevel (pinSet i level P) i = level :=
    (pinLevel_input (P := pinSet i level P) hin).trans (bit_setBit_self _ hi level)
  have hmoved : (pinLevel (pinSet i level P) i != pinLevel P i) = true := by
    rw [hnow, pinLevel_input hin, hwas]
    cases level <;> rfl
  exact if_pos hmoved

/-- The FIFO entry of an edge to `level`, `sub` ns into a pond cycle (R198). -/
def capEntry (sub : Nat) (level : Bool) (P : Pond) : Word :=
  BitVec.ofNat 32 (2 ^ 31 + 2 ^ 30 * b2n level + (tbNow sub P).toNat % 2 ^ 30)

/-- A selected edge of pin `i` taken to its FIFO, or lost where that is full (R199). -/
def edgeCaptured (sub i : Nat) (level : Bool) (P : Pond) : Pond :=
  if 4 ≤ (capFifo P i).length then picEvent (36 + i) (rbit 0x504 (28 + i) P)
  else picEvent (32 + i) (latch 6 { P with cap := { P.cap with
    fifo := vset P.cap.fifo i (capFifo P i ++ [capEntry sub level P]) } })

/-- Beside its capture a selected edge may only raise its own source (R199). -/
theorem pinEdge_selected {P : Pond} {i : Nat} {level : Bool}
    (h : edgeSelected (fld (rg P 0x500) (2 * i) 2) level = true) (sub : Nat) :
    Raised (edgeCaptured sub i level P) (pinEdge sub i level P) := by
  have hcapture : pinEdge sub i level P =
      if edgeSelected (fld (rg P 0x500) (8 + 2 * i) 2) level then
        picEvent (edgeSource i) (edgeCaptured sub i level P)
      else edgeCaptured sub i level P := by
    unfold pinEdge
    simp only [h, Bool.not_true, Bool.false_eq_true, if_false]
    rfl
  rw [hcapture]
  split
  · exact picEvent_raised _ _
  · exact .refl _

theorem edgeCaptured_full {P : Pond} {i : Fin 4} (h : ¬ (P.cap.fifo[i]).length < 4) (sub : Nat) (level : Bool) :
    Raised (rbit 0x504 (28 + i.val) P) (edgeCaptured sub i.val level P) ∧
    Pending (edgeCaptured sub i.val level P) (36 + i.val) := by
  rw [edgeCaptured, capFifo_val, if_pos (Nat.not_lt.1 h)]
  exact ⟨picEvent_raised _ _, picEvent_pending (by omega) _⟩

/-- Room in the FIFO: the entry is the last one. -/
def edgeEntered (sub : Nat) (i : Fin 4) (level : Bool) (P : Pond) : Pond :=
  latch 6 { P with cap := { P.cap with fifo := P.cap.fifo.set i (P.cap.fifo[i] ++ [capEntry sub level P]) } }

theorem edgeCaptured_room {P : Pond} {i : Fin 4} (h : (P.cap.fifo[i]).length < 4) (sub : Nat) (level : Bool) :
    Raised (edgeEntered sub i level P) (edgeCaptured sub i.val level P) ∧
    Pending (edgeCaptured sub i.val level P) (32 + i.val) := by
  rw [edgeCaptured, capFifo_val, if_neg (Nat.not_le.2 h), vset_eq_set]
  exact ⟨picEvent_raised _ _, picEvent_pending (by omega) _⟩

theorem exec_captureEdge (p : PondId) (i : Fin 4) (level : Bool) (s : State) : exec (.captureEdge p i level) s =
    .next (withPond s p (pinDrive (pondClock s % 2) i.val level (pondOf s p))) := rfl

/-! ### Event timers -/

theorem exec_etCmpHi (p : PondId) (k : Fin 8) (v : Word) (s : State) : exec (.etCmpHi p k v) s =
    .next (withPond s p (rset (0x4A0 + 4 * k.val) v (pondOf s p))) := rfl

theorem exec_etCmpLo (p : PondId) (k : Fin 8) (v : Word) (s : State) : exec (.etCmpLo p k v) s =
    .next (withPond s p (etLo k.val v (pondOf s p))) := rfl

theorem exec_etFire (p : PondId) (k : Fin 8) (s : State) : exec (.etFire p k) s =
    .next (withPond s p (etFire k.val (pondOf s p))) := rfl

theorem etLo_says (k : Nat) (v : Word) (P : Pond) : etLo k v P = { P with regs := (etLo k v P).regs } ∧
    rg (etLo k v P) (0x480 + 4 * k) = v ∧
    BitIs (rg P (0x4A0 + 4 * k)) (rg (etLo k v P) (0x4A0 + 4 * k)) 31 false := by
  refine ⟨rfl, ?_, ?_⟩
  · rw [etLo, rmod, rg_rset_ne _ _ (by omega), rg_rset_self]
  · rw [etLo, rmod, rg_rset_self, rg_rset_ne _ _ (by omega)]
    exact bitIs_setBit _ _ _

/-- An armed timer is due from the moment at which the copy reaches the compare value, for 2^63 ns (R196). -/
theorem etDue_iff {P : Pond} {k c : Nat} (harmed : (rg P (0x4A0 + 4 * k)).getLsbD 31 = true)
    (hc : c = 2 ^ 32 * fld (rg P (0x4A0 + 4 * k)) 0 31 + (rg P (0x480 + 4 * k)).toNat) :
    etDue P k = true ↔ c ≤ P.tb.toNat ∧ P.tb.toNat < c + 2 ^ 63 := by
  have hlow := (rg P (0x480 + 4 * k)).isLt
  have hhigh : fld (rg P (0x4A0 + 4 * k)) 0 31 < 2 ^ 31 := Nat.mod_lt _ (Nat.two_pow_pos _)
  have hdue : etDue P k = decide ((P.tb - BitVec.ofNat 64 c).toNat < 2 ^ 63) := by
    rw [hc]
    exact (congrArg (· && _) harmed).trans (Bool.true_and _)
  rw [hdue, decide_eq_true_eq, BitVec.toNat_sub, BitVec.toNat_ofNat]
  omega

/-- A timer that fires raises its source and disarms (R196). -/
theorem etFire_due {P : Pond} {k : Nat} (hk : k < 8) (h : etDue P k = true) :
    Pending (etFire k P) (24 + k) ∧
    BitIs (rg P (0x4A0 + 4 * k)) (rg (etFire k P) (0x4A0 + 4 * k)) 31 false := by
  rw [etFire, if_pos h, picEvent_regs _ _ (by omega), rmod, rg_rset_self]
  exact ⟨picEvent_pending (by omega) _, bitIs_setBit _ _ _⟩

/-- Settles O29: a selected edge by its capture, beside which only events happen, and a timer by when it is due. -/
theorem captureUnitsAndTimers : Obligations.CaptureUnitsAndTimers := by
  unfold Obligations.CaptureUnitsAndTimers
  refine fun s p => ⟨fun i level hin hwas hsel => ⟨_, exec_captureEdge p i level s, ?_⟩,
    fun k v => ⟨exec_etCmpHi p k v s, _, exec_etCmpLo p k v s, etLo_says k.val v _⟩, fun k c harmed hc => ⟨?_, ?_⟩⟩
  · rw [← edgeSelected_bit] at hsel
    rw [pinDrive_edge i.isLt hin hwas]
    have hraised := pinEdge_selected (P := pinSet i.val level (pondOf s p)) hsel (pondClock s % 2)
    have hpin : bit (pinSet i.val level (pondOf s p)).cap.pins i.val = level := bit_setBit_self _ i.isLt level
    split
    next hroom =>
      obtain ⟨hentered, hpending⟩ :=
        edgeCaptured_room (P := pinSet i.val level (pondOf s p)) hroom (pondClock s % 2) level
      rw [hraised.cap, hentered.cap]
      refine ⟨hpin, ?_, hraised.evt 6 (hentered.evt 6 (bit_setBit_self _ (by decide) true)), hraised.pending _ hpending⟩
      exact Vector.getElem_set_self i.isLt
    next hfull =>
      obtain ⟨hlost, hpending⟩ :=
        edgeCaptured_full (P := pinSet i.val level (pondOf s p)) hfull (pondClock s % 2) level
      rw [hraised.cap, hlost.cap, hraised.rg _ (by decide), hlost.rg _ (by decide), rbit, rmod, rg_rset_self]
      exact ⟨hpin, rfl, bit_setBit_self _ (by omega) true, hraised.pending _ hpending⟩
  · exact fun hle hlt => ⟨_, exec_etFire p k s, etFire_due k.isLt ((etDue_iff harmed hc).2 ⟨hle, hlt⟩)⟩
  · intro hlt
    have hnot : ¬ etDue (pondOf s p) k.val = true := fun h => Nat.not_le.2 hlt ((etDue_iff harmed hc).1 h).1
    rw [exec_etFire, etFire, if_neg hnot, withPond_self]

end Sys2Proof.Machine
end

section
/-! SUPPORT and claims. Arming of the pulse generators and the enable of their grids (R180 to R182, R185). -/

namespace Sys2Proof.Machine

/-! ### One generator -/

theorem pgOf_pgSet {k : Nat} (hk : k < 4) (j : Nat) (g : Pg) (P : Pond) :
    pgOf (pgSet k g P) j = if j = k then g else pgOf P j := vget_vset _ _ _ _ _ hk

theorem pgOf_pgSet_self {k : Nat} (hk : k < 4) (g : Pg) (P : Pond) : pgOf (pgSet k g P) k = g := by
  rw [pgOf_pgSet hk, if_pos rfl]

theorem pgOf_pgSet_ne {j k : Nat} (hk : k < 4) (h : j ≠ k) (g : Pg) (P : Pond) :
    pgOf (pgSet k g P) j = pgOf P j := by
  rw [pgOf_pgSet hk, if_neg h]

/-- The generators depend on nothing else of the pond. -/
theorem pgOf_congr {P Q : Pond} (h : Q.pg = P.pg) (k : Nat) : pgOf Q k = pgOf P k := by rw [pgOf, h]; rfl

/-! ### Arming writes (R181, R182) -/

/-- The values before a pond cycle are kept beside the generator (R181). -/
theorem pgSnapNow_regs (cy k : Nat) (P : Pond) : (pgSnapNow cy k P).regs = P.regs := by
  unfold pgSnapNow
  extract_lets g old
  split <;> rfl

theorem pgOf_pgSnapNow {k : Nat} (hk : k < 4) (cy : Nat) (P : Pond) :
    (∃ x, pgOf (pgSnapNow cy k P) k = { pgOf P k with snap := x }) ∧
    ∀ j, j ≠ k → pgOf (pgSnapNow cy k P) j = pgOf P j := by
  unfold pgSnapNow
  extract_lets g old
  split
  · exact ⟨⟨_, rfl⟩, fun _ _ => rfl⟩
  · exact ⟨⟨_, pgOf_pgSet_self hk _ _⟩, fun j hj => pgOf_pgSet_ne hk hj _ _⟩

/-- PG_PRELOAD_k holds the duty. -/
def pgPreloaded (k duty : Nat) (P : Pond) : Pond := rmod (0x3B0 + 4 * k) (fun w => setFld w 0 21 duty) P

/-- An arming write changes no register but PG_PRELOAD_k and, where it is late, PG_LATE_WRITE. -/
theorem rg_pgArmWrite (cy k duty : Nat) (P : Pond) {off : Nat}
    (h : off ≠ 0x38C ∨ (pgOf P k).endCycle ≠ some cy) :
    rg (pgArmWrite cy k duty P) off = rg (pgPreloaded k duty P) off := by
  have hregs : (rmod (0x3B0 + 4 * k) (fun w => setFld w 0 21 duty) (pgSnapNow cy k P)).regs =
      (pgPreloaded k duty P).regs := by
    unfold rmod pgPreloaded rmod rset rg
    rw [pgSnapNow_regs]
  unfold pgArmWrite
  extract_lets late P1 g P2
  have h2 : rg P2 off = rg (pgPreloaded k duty P) off := congrArg (SMap.get · off) hregs
  split
  next hlate =>
    rcases h with hoff | hearly
    · exact (rg_rset_ne _ _ hoff).trans h2
    · exact absurd (eq_of_beq hlate) hearly
  next => exact h2

theorem pgOf_pgArmWrite {k : Nat} (hk : k < 4) (cy duty : Nat) (P : Pond) :
    (∃ x, pgOf (pgArmWrite cy k duty P) k = { pgOf P k with snap := x, fresh := true, armCycle := some cy }) ∧
    ∀ j, j ≠ k → pgOf (pgArmWrite cy k duty P) j = pgOf P j := by
  obtain ⟨⟨x, hself⟩, hother⟩ := pgOf_pgSnapNow hk cy P
  unfold pgArmWrite
  extract_lets late P1 g P2
  have hlate : ∀ j, pgOf (if late = true then rinc 0x38C (8 * k) 8 P2 else P2) j = pgOf P2 j := fun j => by
    split <;> rfl
  refine ⟨⟨x, ?_⟩, fun j hj => ?_⟩
  · have h1 : g = { pgOf P k with snap := x } := hself
    rw [hlate, pgOf_pgSet_self hk, h1]
  · rw [hlate, pgOf_pgSet_ne hk hj]
    exact hother j hj

theorem fld_pgPreloaded (k duty : Nat) (P : Pond) :
    fld (rg (pgPreloaded k duty P) (0x3B0 + 4 * k)) 0 21 = duty % 2 ^ 21 := by
  rw [pgPreloaded, rmod, rg_rset_self, fld_setFld (by decide)]

theorem pgStorePreload_core {P : Pond} {k : Nat} (h : fld (pgCfg P k) 3 2 = 2) (cy : Nat) (v : Word) :
    pgStorePreload cy k v P = pgArmWrite cy k (fld v 0 21) P := by
  unfold pgStorePreload
  rw [h]
  rfl

/-! ### CLRFRESH (R182) -/

theorem pgClearFresh_regs (cy k : Nat) (P : Pond) : (pgClearFresh cy k P).regs = P.regs := by
  unfold pgClearFresh
  split
  · rfl
  · exact pgSnapNow_regs cy k P

theorem pgOf_pgClearFresh_ne {j k : Nat} (hk : k < 4) (h : j ≠ k) (cy : Nat) (P : Pond) :
    pgOf (pgClearFresh cy k P) j = pgOf P j := by
  unfold pgClearFresh
  split
  · rfl
  · exact (pgOf_pgSet_ne hk h _ _).trans ((pgOf_pgSnapNow hk cy P).2 j h)

theorem pgClearFresh_clears {P : Pond} {k cy : Nat} (hk : k < 4) (h : (pgOf P k).armCycle ≠ some cy) :
    (pgOf (pgClearFresh cy k P) k).fresh = false := by
  unfold pgClearFresh
  rw [if_neg (by rwa [beq_iff_eq])]
  exact congrArg Pg.fresh (pgOf_pgSet_self hk _ _)

/-- The registers and generator `k` are as they were. -/
structure PgKept (k : Nat) (P Q : Pond) : Prop where
  regs : Q.regs = P.regs
  pg : pgOf Q k = pgOf P k

theorem PgKept.refl (k : Nat) (P : Pond) : PgKept k P P := ⟨rfl, rfl⟩

theorem PgKept.trans {k : Nat} (P Q S : Pond) (h : PgKept k P Q) (h' : PgKept k Q S) : PgKept k P S :=
  ⟨h'.regs.trans h.regs, h'.pg.trans h.pg⟩

/-- A write of a mask to PG_CTRL.CLRFRESH. -/
def pgClears (cy : Nat) (m : BitVec 4) (P : Pond) : Pond :=
  (bitsOf 4 m.toNat).foldl (fun Q k => pgClearFresh cy k Q) P

theorem pgClears_clears {P : Pond} {k : Fin 4} {m : BitVec 4} {cy : Nat} (hm : m.getLsbD k.val = true)
    (h : (pgOf P k.val).armCycle ≠ some cy) :
    (pgOf (pgClears cy m P) k.val).fresh = false ∧ (pgClears cy m P).regs = P.regs := by
  obtain ⟨Q, before, after⟩ := foldl_at (R := PgKept k.val) (.refl _) .trans
    (fun j hmem hj Q => ⟨pgClearFresh_regs cy j Q, pgOf_pgClearFresh_ne (mem_bitsOf.1 hmem).1 (Ne.symm hj) cy Q⟩)
    (mem_bitsOf.2 ⟨k.isLt, hm⟩) (bitsOf_nodup 4 m.toNat) P
  refine ⟨?_, after.regs.trans ((pgClearFresh_regs cy k.val Q).trans before.regs)⟩
  exact (congrArg Pg.fresh after.pg).trans (pgClearFresh_clears k.isLt (by rwa [before.pg]))

/-! ### EN (R180, R185) -/

/-- PG_CFG_k with EN replaced. -/
def cfgEn (P : Pond) (k : Nat) (b : Bool) : Word := setBit (pgCfg P k) 0 b

theorem cfgEn_en (P : Pond) (k : Nat) (b : Bool) : bit (cfgEn P k b) 0 = b := bit_setBit_self _ (by decide) b

/-- EN alone ends no pairing. -/
theorem pgPaired_cfgEn (P : Pond) (k : Nat) (b : Bool) : (pgPaired P k && !bit (cfgEn P k b) 6) = false := by
  have hpair : bit (cfgEn P k b) 6 = bit (pgCfg P k) 6 := getLsbD_setBit _ _ _ (by decide)
  rw [pgPaired, hpair, Bool.and_assoc, Bool.and_not_self, Bool.and_false]

theorem pgSetEn_enable {P : Pond} {k : Nat} (h : bit (pgCfg P k) 0 = false) :
    pgSetEn k true P = pgEnable k (rset (0x390 + 4 * k) (cfgEn P k true) P) := by
  show pgSetCfg k (cfgEn P k true) P = _
  unfold pgSetCfg
  simp only [h, cfgEn_en, pgPaired_cfgEn, Bool.false_and, Bool.false_eq_true, if_false, Bool.not_false, Bool.and_self,
    if_true]

theorem pgSetEn_disable {P : Pond} {k : Nat} (h : bit (pgCfg P k) 0 = true) :
    pgSetEn k false P = rset (0x390 + 4 * k) (cfgEn P k false) (pgDisable k P) := by
  show pgSetCfg k (cfgEn P k false) P = _
  unfold pgSetCfg
  simp only [h, cfgEn_en, pgPaired_cfgEn, Bool.false_and, Bool.false_eq_true, if_false, Bool.not_false, Bool.and_self,
    if_true]

/-- A store to PG_CFG_k alone leaves the pairing of generator `k` with a lower one. -/
theorem pgSlave_rset_cfg (k : Nat) (w : Word) (P : Pond) : pgSlave (rset (0x390 + 4 * k) w P) k = pgSlave P k := by
  unfold pgSlave
  by_cases hodd : k % 2 = 1
  · have hcfg : pgCfg (rset (0x390 + 4 * k) w P) (k - 1) = pgCfg P (k - 1) := rg_rset_ne _ _ (by omega)
    rw [hcfg]
  · rw [beq_false_of_ne hodd, Bool.false_and, Bool.false_and]

theorem pgEnable_stopped {P : Pond} {k : Nat} (hslave : pgSlave P k = false) (hgrid : (pgOf P k).grid = .stopped) :
    pgEnable k P = pgSet k { pgOf P k with grid := .pending } P := by
  unfold pgEnable
  simp only [hslave, hgrid, beq_self_eq_true, Bool.not_false, Bool.and_self, if_true]

/-- A disabled generator is idle, its period abandoned (R185). -/
theorem pgOf_pgDisable {P : Pond} {k : Nat} (hk : k < 4) (h : pgSlave P k = false) : pgOf (pgDisable k P) k =
    { pgOf P k with grid := .stopped, move := false, fresh := false, armed := false, drive := false } := by
  unfold pgDisable
  rw [h]
  split
  next hfalse => exact absurd hfalse Bool.false_ne_true
  next =>
    extract_lets g P1
    have h1 : pgOf P1 k = { g with
        grid := .stopped, move := false, fresh := false, armed := false, drive := false } := pgOf_pgSet_self hk _ _
    split
    next hpair =>
      have heven : k % 2 = 0 := eq_of_beq (Bool.and_eq_true_iff.1 hpair).1
      exact (pgOf_pgSet_ne (by omega) (by omega) _ _).trans h1
    next => exact h1

theorem ball_of_drive {P : Pond} {k : Nat} (h : (pgOf P k).drive = false) : ball P k = false := by
  unfold ball
  rw [h, Bool.false_and, Bool.false_and]

theorem BlankOnly.pgOf {P Q : Pond} (h : BlankOnly P Q) (k : Nat) : pgOf Q k = pgOf P k :=
  pgOf_congr (by rw [h.rest]) k

/-! ### The instructions -/

theorem exec_pgPreload (p : PondId) (k : Fin 4) (v : Word) (s : State) : exec (.pgPreload p k v) s =
    .next (withPond s p (pgStorePreload (pctx s p).cyc k.val v (pondOf s p))) := rfl

theorem exec_clrfresh (p : PondId) (m : BitVec 4) (s : State) : exec (.clrfresh p m) s =
    .next (withPond s p (pgClears (pctx s p).cyc m (pondOf s p))) := rfl

theorem exec_pgGridEnable (p : PondId) (k : Fin 4) (s : State) : exec (.pgGridEnable p k) s =
    .next (withPond s p (pgSetEn k.val true (pondOf s p))) := rfl

theorem exec_pgGridDisable (p : PondId) (k : Fin 4) (s : State) : exec (.pgGridDisable p k) s =
    .next (withPond s p (withEdges (pgSetEn k.val false) (pondOf s p))) := rfl

/-- Settles O30: each instruction by what its write leaves of the generators and of the registers. -/
theorem pulseArming : Obligations.PulseArming := by
  unfold Obligations.PulseArming
  refine fun s p k => ⟨fun v harm hend => ?_, fun m hm harm => ?_, fun hslave hen hgrid => ?_, fun hslave hen => ?_⟩
  · obtain ⟨⟨x, hself⟩, hother⟩ := pgOf_pgArmWrite k.isLt (pctx s p).cyc (fld v 0 21) (pondOf s p)
    have hrg : ∀ off, rg (pgArmWrite (pctx s p).cyc k.val (fld v 0 21) (pondOf s p)) off =
        rg (pgPreloaded k.val (fld v 0 21) (pondOf s p)) off := fun off => rg_pgArmWrite _ _ _ _ (.inr hend)
    refine ⟨_, exec_pgPreload p k v s, ?_⟩
    rw [pgStorePreload_core harm, hself]
    refine ⟨rfl, ?_, fun off hoff => (hrg off).trans (rg_rset_ne _ _ hoff), hother, rfl⟩
    rw [hrg, fld_pgPreloaded, fld_low, Nat.mod_mod]
  · exact ⟨_, exec_clrfresh p m s, pgClears_clears hm harm⟩
  · refine ⟨_, exec_pgGridEnable p k s, ?_⟩
    rw [pgSetEn_enable hen, pgEnable_stopped ((pgSlave_rset_cfg _ _ _).trans hslave) hgrid]
    refine ⟨?_, ?_, fun j hj => pgOf_pgSet_ne k.isLt hj _ _⟩
    · rw [pgCfg, rg_pgSet, rg_rset_self, cfgEn_en]
    · rw [pgOf_pgSet_self k.isLt]
  · have hblank := withEdges_only (pgSetEn k.val false) (pondOf s p)
    have hpg : pgOf (pgSetEn k.val false (pondOf s p)) k.val =
        { pgOf (pondOf s p) k.val with
          grid := .stopped, move := false, fresh := false, armed := false, drive := false } := by
      rw [pgSetEn_disable hen]
      exact pgOf_pgDisable k.isLt hslave
    refine ⟨_, exec_pgGridDisable p k s, ?_, ?_, ?_, (hblank.ball _).trans (ball_of_drive ?_)⟩
    · rw [pgCfg, hblank.rg, pgSetEn_disable hen, rg_rset_self, cfgEn_en]
    · rw [hblank.pgOf, hpg]
    · rw [hblank.pgOf, hpg]
    · rw [hpg]

end Sys2Proof.Machine
end

section
/-! SUPPORT and claims. Period decisions, first periods and compare edges of the pulse generators (R180 to R183,
R212). -/

namespace Sys2Proof.Machine

/-! ### Pin levels and converter triggers -/

/-- Of the generators only the levels that they drive may differ, and beside them only the comparators and the
converters. -/
structure LevelsOnly (P Q : Pond) : Prop where
  rest : Q = { P with cmp := Q.cmp, conv := Q.conv, pg := Q.pg }
  pg : ∀ j, pgOf Q j = { pgOf P j with drive := (pgOf Q j).drive }

theorem LevelsOnly.refl (P : Pond) : LevelsOnly P P := ⟨rfl, fun _ => rfl⟩

theorem LevelsOnly.trans {P Q R : Pond} (h : LevelsOnly P Q) (k : LevelsOnly Q R) : LevelsOnly P R :=
  ⟨by rw [k.rest, h.rest], fun j => by rw [k.pg, h.pg]⟩

theorem LevelsOnly.ite {P Q R : Pond} {c : Prop} [Decidable c] (h : LevelsOnly P Q) (k : LevelsOnly P R) :
    LevelsOnly P (if c then Q else R) := by
  split
  · exact h
  · exact k

theorem LevelsOnly.rg {P Q : Pond} (h : LevelsOnly P Q) (off : Nat) : rg Q off = rg P off := by rw [h.rest]; rfl

theorem LevelsOnly.pending {P Q : Pond} (h : LevelsOnly P Q) {n : Nat} (hn : Pending P n) : Pending Q n := by
  rw [h.rest]
  exact hn

theorem BlankOnly.levels {P Q : Pond} (h : BlankOnly P Q) : LevelsOnly P Q :=
  ⟨by rw [h.rest], fun j => by rw [h.pgOf]⟩

theorem pgDrive_levels {k : Nat} (hk : k < 4) (b : Bool) (P : Pond) : LevelsOnly P (pgDrive k b P) := by
  refine ⟨rfl, fun j => ?_⟩
  rw [pgDrive, pgOf_pgSet hk]
  split
  next h => rw [h]
  next => rfl

/-- A converter trigger changes the converters alone (R160). -/
theorem pgTrigger_only (k point num : Nat) (P : Pond) : ∃ c, pgTrigger k point num P = { P with conv := c } := by
  unfold pgTrigger
  extract_lets go
  have step : ∀ n Q, ∃ c, go n Q = { Q with conv := c } := fun n Q => by
    simp only [go]
    split
    · exact ⟨_, rfl⟩
    · exact ⟨_, rfl⟩
  split
  next => exact ⟨_, rfl⟩
  next =>
    obtain ⟨c, hc⟩ := step 0 P
    obtain ⟨d, hd⟩ := step 1 (go 0 P)
    exact ⟨d, by rw [hd, hc]⟩

theorem pgTrigger_levels (k point num : Nat) (P : Pond) : LevelsOnly P (pgTrigger k point num P) := by
  obtain ⟨c, hc⟩ := pgTrigger_only k point num P
  rw [hc]
  exact ⟨rfl, fun _ => rfl⟩

/-- A paired generator is even, so that its partner is the next one. -/
theorem partner_lt {P : Pond} {k : Nat} (hk : k < 4) (h : pgPaired P k = true) : k + 1 < 4 := by
  have heven : k % 2 = 0 := eq_of_beq (Bool.and_eq_true_iff.1 h).1
  omega

theorem startLevels_levels {k : Nat} (hk : k < 4) (P : Pond) : LevelsOnly P (startLevels k P) := by
  unfold startLevels
  extract_lets g t rise
  split
  next hpair => exact (pgDrive_levels hk _ P).trans (pgDrive_levels (partner_lt hk hpair) _ _)
  next => exact .ite (.refl P) (pgDrive_levels hk _ P)

/-! ### The decision (R180, R181) -/

/-- A fresh duty arms the next period, but for ARM 3 (R181, R182). -/
def pgArms (P : Pond) (k : Nat) : Bool := (pgOf P k).fresh && decide (fld (pgCfg P k) 3 2 ≠ 3)

/-- Generator `k` after its decision in cycle `cy`: armed with the preloads, or dark with its period, which a first
period takes from PG_PERIOD_k (R180, R181). -/
def pgNext (cy k : Nat) (first : Bool) (P : Pond) : Pg :=
  if pgArms P k then { pgOf P k with
    duty := fld (rg P (0x3B0 + 4 * k)) 0 21, period := fld (rg P (0x3A0 + 4 * k)) 0 21, armed := true, fresh := false,
    endCycle := some cy, starts := (pgOf P k).starts + 1 }
  else { pgOf P k with
    period := if first then fld (rg P (0x3A0 + 4 * k)) 0 21 else (pgOf P k).period, armed := false,
    endCycle := some cy, starts := (pgOf P k).starts + 1 }

/-- The generator has decided, and PG_ACTIVE_k and DCLAMP_k show it: no other register differs. -/
structure PgDecided (cy k : Nat) (first : Bool) (P Q : Pond) : Prop where
  rest : Q = { pgSet k (pgNext cy k first P) P with regs := Q.regs }
  rg : ∀ off, off ≠ 0x384 → off ≠ 0x3C0 + 4 * k → rg Q off = rg P off

/-- A dark period that is not the first one is a miss (R181). -/
def pgMissed (k : Nat) (P : Pond) : Pond := picEvent (16 + k) (rinc 0x388 (8 * k) 8 P)

theorem pgArms_iff (P : Pond) (k : Nat) :
    pgArms P k = true ↔ (pgOf P k).fresh = true ∧ fld (pgCfg P k) 3 2 ≠ 3 := by
  rw [pgArms, Bool.and_eq_true_iff, decide_eq_true_eq]

section

variable (cy k : Nat) (first : Bool) (P : Pond)

theorem pgNext_armed : (pgNext cy k first P).armed = pgArms P k := by
  unfold pgNext
  cases pgArms P k <;> rfl

theorem pgNext_grid : (pgNext cy k first P).grid = (pgOf P k).grid := by
  unfold pgNext
  split <;> rfl

/-- Only with ARM 3 does a fresh duty outlast the decision (R182; assumption 34). -/
theorem pgNext_fresh : (pgNext cy k first P).fresh =
    ((pgOf P k).fresh && decide (fld (pgCfg P k) 3 2 = 3)) := by
  unfold pgNext
  split
  next harms =>
    obtain ⟨-, harm⟩ := (pgArms_iff P k).1 harms
    rw [decide_eq_false harm, Bool.and_false]
  next hdark =>
    by_cases hnever : fld (pgCfg P k) 3 2 = 3
    · rw [decide_eq_true hnever, Bool.and_true]
    · have hstale : ¬ (pgOf P k).fresh = true := fun hfresh => hdark ((pgArms_iff P k).2 ⟨hfresh, hnever⟩)
      rw [decide_eq_false hnever, Bool.and_false]
      exact Bool.eq_false_of_not_eq_true hstale

end

theorem pgDecide_undisturbed {P : Pond} {cy k : Nat} (h : Undisturbed P k cy) (hheld : (pgOf P k).held = none)
    (hslave : pgSlave P k = false) (first : Bool) : ∃ Q, PgDecided cy k first P Q ∧
      pgDecide cy k first P = if !pgArms P k && !first then pgMissed k Q else Q := by
  obtain ⟨hsnap, harm⟩ := h
  unfold pgDecide
  extract_lets g now o again P0 per dark g' g'' P1 P2
  have ho : o = now := by
    show (match g.snap with | some s => if s.cycle = cy then s else now | none => now) = now
    split
    next x hx => exact if_neg (hsnap x hx)
    next => rfl
  have hagain : again = false := beq_false_of_ne harm
  have hP0 : P0 = P := by
    show (if (again && g.endCycle != some cy) = true then _ else _) = P
    rw [hagain]
    rfl
  have hdecide : g' = if pgArms P k then
      { g with duty := now.duty, period := now.period, armed := true, fresh := false, endCycle := some cy }
      else dark := by
    show (if fld (pgCfg P k) 3 2 = 3 then dark else match g.held with
      | some d => { g with duty := d, period := per, armed := true, fresh := again, endCycle := some cy }
      | none => if o.fresh = true then
          { g with duty := o.duty, period := o.period, armed := true, fresh := again, endCycle := some cy }
        else dark) = _
    rw [hagain, ho, pgArms]
    split
    next hnever => rw [decide_eq_false (not_not.2 hnever), Bool.and_false, if_neg Bool.false_ne_true]
    next harms =>
      rw [decide_eq_true harms, Bool.and_true]
      split
      next d hd => exact absurd (hheld.symm.trans hd) (by simp)
      next => rfl
  have hnext : g'' = pgNext cy k first P := by
    show { g' with starts := g.starts + 1 } = _
    rw [hdecide, pgNext]
    split
    next => rfl
    next =>
      show { dark with starts := g.starts + 1 } = _
      simp only [dark, per, ho]
      rfl
  have harmed : g''.armed = pgArms P k := (congrArg Pg.armed hnext).trans (pgNext_armed cy k first P)
  have hP1 : P1 = rset (0x3C0 + 4 * k) (BitVec.ofNat 32 g''.duty) (pgSet k (pgNext cy k first P) P) := by
    show rset _ _ (pgSet k g'' P0) = _
    rw [hP0, ← hnext]
  have hclamp : P2 = { P1 with regs := P2.regs } ∧ ∀ off, off ≠ 0x384 → rg P2 off = rg P1 off := by
    have hcases : P2 = rbit 0x384 (24 + k) P1 ∨ P2 = P1 := ite_eq_or_eq _ _ _
    rcases hcases with e | e <;> rw [e]
    · exact ⟨rfl, fun off hoff => rg_rset_ne _ _ hoff⟩
    · exact ⟨rfl, fun _ _ => rfl⟩
  obtain ⟨hrest, hregs⟩ := hclamp
  refine ⟨P2, ⟨hrest.trans (by rw [hP1]; rfl), fun off hclamp hactive => ?_⟩, ?_⟩
  · rw [hregs off hclamp, hP1, rg_rset_ne _ _ hactive, rg_pgSet]
  · rw [harmed, hslave, Bool.not_false, Bool.and_true]
    rfl

/-- What the decision leaves (R180 to R182): generator `k` as decided, every event that was pending, and the miss of a
dark period that is not the first one. -/
structure Begun (cy k : Nat) (first : Bool) (P Q : Pond) : Prop where
  pg : ∃ d, pgOf Q k = { pgNext cy k first P with drive := d }
  pending : ∀ n, Pending P n → Pending Q n
  missed : pgArms P k = false → first = false → Pending Q (16 + k) ∧
    fld (rg Q 0x388) (8 * k) 8 = min 255 (fld (rg P 0x388) (8 * k) 8 + 1)
  first : first = true → rg Q 0x388 = rg P 0x388

theorem Begun.levels {cy k : Nat} {first : Bool} {P Q R : Pond} (h : Begun cy k first P Q) (l : LevelsOnly Q R) :
    Begun cy k first P R := by
  obtain ⟨⟨d, hpg⟩, hpending, hmissed, hfirst⟩ := h
  refine ⟨⟨_, (l.pg k).trans (by rw [hpg])⟩, fun n hn => l.pending (hpending n hn), fun ha hf => ?_, fun hf => ?_⟩
  · obtain ⟨hmiss, hcount⟩ := hmissed ha hf
    exact ⟨l.pending hmiss, by rw [l.rg, hcount]⟩
  · rw [l.rg, hfirst hf]

theorem pgDecide_begun {P : Pond} {cy k : Nat} (hk : k < 4) (h : Undisturbed P k cy) (hheld : (pgOf P k).held = none)
    (hslave : pgSlave P k = false) (first : Bool) : Begun cy k first P (pgDecide cy k first P) := by
  obtain ⟨Q, ⟨hrest, hregs⟩, he⟩ := pgDecide_undisturbed h hheld hslave first
  have hpg : pgOf Q k = pgNext cy k first P := (pgOf_congr (by rw [hrest]) k).trans (pgOf_pgSet_self hk _ P)
  have hpending : ∀ n, Pending P n → Pending Q n := fun n hn => by rw [hrest]; exact hn
  have hmisses : rg Q 0x388 = rg P 0x388 := hregs _ (by decide) (by omega)
  rw [he]
  split
  next hmiss =>
    obtain ⟨hdark, hlater⟩ := Bool.and_eq_true_iff.1 hmiss
    have hraised := picEvent_raised (16 + k) (rinc 0x388 (8 * k) 8 Q)
    obtain ⟨hcount, -⟩ := rinc_says (lo := 8 * k) (len := 8) (by omega) 0x388 Q
    refine ⟨⟨_, (pgOf_congr hraised.pg k).trans hpg⟩, fun n hn => hraised.pending n (hpending n hn), fun _ _ => ?_,
      fun hf => ?_⟩
    · refine ⟨picEvent_pending (by omega) _, ?_⟩
      rw [pgMissed, hraised.rg _ (by decide), hcount, hmisses]
      rfl
    · rw [hf] at hlater
      exact absurd hlater (by decide)
  next hmiss =>
    refine ⟨⟨_, hpg⟩, hpending, fun ha hf => ?_, fun _ => hmisses⟩
    rw [ha, hf] at hmiss
    exact absurd rfl hmiss

/-- A period begins with the decision; all else of it is pin levels, cycle-mode forces and triggers. -/
theorem pgBegin_begun {P : Pond} {cy k : Nat} (hk : k < 4) (h : Undisturbed P k cy) (hheld : (pgOf P k).held = none)
    (hslave : pgSlave P k = false) (first : Bool) : Begun cy k first P (pgBegin cy k first P) := by
  obtain ⟨hpg, hpending, hmissed, hfirst⟩ := pgDecide_begun (P := endCycleForce k P) hk h hheld hslave first
  have hdecided : Begun cy k first P (pgDecide cy k first (endCycleForce k P)) := ⟨hpg, hpending, hmissed, hfirst⟩
  unfold pgBegin
  exact (hdecided.levels (startLevels_levels hk _)).levels (pgTrigger_levels _ _ _ _)

/-! ### Period ends and first periods -/

theorem exec_periodEnd (p : PondId) (k : Fin 4) (s : State) : exec (.periodEnd p k) s =
    .next (withPond s p (withEdges (periodEnd (pctx s p).cyc k.val) (pondOf s p))) := rfl

theorem exec_firstPeriodStart (p : PondId) (k : Fin 4) (s : State) : exec (.firstPeriodStart p k) s =
    .next (withPond s p (withEdges (firstPeriod (pctx s p).cyc k.val) (pondOf s p))) := rfl

theorem exec_compareEdge (p : PondId) (k e : Fin 4) (s : State) : exec (.compareEdge p k e) s =
    .next (withPond s p (withEdges (compareEdge k.val e.val) (pondOf s p))) := rfl

/-- The period end itself: its event, and the grid moved on by the period (R181). -/
def periodOver (k : Nat) (P : Pond) : Pond :=
  pgSet k { pgOf (picEvent (12 + k) P) k with nom := (pgOf P k).nom + (pgOf P k).period } (picEvent (12 + k) P)

theorem periodEnd_running {P : Pond} {k : Nat} (hslave : pgSlave P k = false) (hmove : (pgOf P k).move = false)
    (hgrid : (pgOf P k).grid = .running) (cy : Nat) : periodEnd cy k P = pgBegin cy k false (periodOver k P) := by
  unfold periodEnd
  simp only [hgrid, hslave, hmove, Bool.false_eq_true, if_false]
  rfl

theorem pgOf_periodOver {k : Nat} (hk : k < 4) (P : Pond) : pgOf (periodOver k P) k =
    { pgOf P k with nom := (pgOf P k).nom + (pgOf P k).period } := by
  rw [periodOver, pgOf_pgSet_self hk, pgOf_congr (picEvent_raised _ P).pg]

theorem rg_periodOver (k : Nat) (P : Pond) {off : Nat} (h : off ≠ 0x118) : rg (periodOver k P) off = rg P off :=
  picEvent_regs _ P h

theorem periodOver_undisturbed {P : Pond} {k cy : Nat} (hk : k < 4) (h : Undisturbed P k cy) :
    Undisturbed (periodOver k P) k cy := by
  unfold Undisturbed
  rw [pgOf_periodOver hk]
  exact h

theorem pgCfg_periodOver (j k : Nat) (P : Pond) : pgCfg (periodOver k P) j = pgCfg P j := rg_periodOver k P (by omega)

theorem pgSlave_periodOver (k : Nat) (P : Pond) : pgSlave (periodOver k P) k = pgSlave P k := by
  rw [pgSlave, pgCfg_periodOver]
  rfl

theorem pgArms_periodOver {k : Nat} (hk : k < 4) (P : Pond) : pgArms (periodOver k P) k = pgArms P k := by
  rw [pgArms, pgCfg_periodOver, pgOf_periodOver hk]
  rfl

theorem periodEnd_begun {P : Pond} {k cy : Nat} (hk : k < 4) (h : Undisturbed P k cy)
    (hheld : (pgOf P k).held = none) (hslave : pgSlave P k = false) (hmove : (pgOf P k).move = false)
    (hgrid : (pgOf P k).grid = .running) :
    Begun cy k false (periodOver k P) (withEdges (periodEnd cy k) P) := by
  have hbegun := pgBegin_begun hk (periodOver_undisturbed hk h) (by rw [pgOf_periodOver hk]; exact hheld)
    ((pgSlave_periodOver k P).trans hslave) false
  rw [← periodEnd_running hslave hmove hgrid] at hbegun
  exact hbegun.levels (withEdges_only _ _).levels

/-- Generator `k` with its grid running again. -/
def gridRunning (k : Nat) (P : Pond) : Pond := pgSet k { pgOf P k with grid := .running } P

theorem pgOf_gridRunning {k : Nat} (hk : k < 4) (P : Pond) :
    pgOf (gridRunning k P) k = { pgOf P k with grid := .running } := pgOf_pgSet_self hk _ P

theorem firstPeriod_waiting {P : Pond} {k : Nat} {gap : Bool} (h : (pgOf P k).grid = .waiting gap) (cy : Nat) :
    firstPeriod cy k P = pgBegin cy k (!gap) (gridRunning k P) := by
  unfold firstPeriod
  simp only [h]
  rfl

theorem firstPeriod_begun {P : Pond} {k cy : Nat} {gap : Bool} (hk : k < 4) (h : Undisturbed P k cy)
    (hheld : (pgOf P k).held = none) (hslave : pgSlave P k = false) (hgrid : (pgOf P k).grid = .waiting gap) :
    Begun cy k (!gap) (gridRunning k P) (withEdges (firstPeriod cy k) P) := by
  have hquiet : Undisturbed (gridRunning k P) k cy := by
    unfold Undisturbed
    rw [pgOf_gridRunning hk]
    exact h
  have hbegun := pgBegin_begun hk hquiet (by rw [pgOf_gridRunning hk]; exact hheld) hslave (!gap)
  rw [← firstPeriod_waiting hgrid] at hbegun
  exact hbegun.levels (withEdges_only _ _).levels

/-! ### Compare edges (R183) -/

theorem pgTimes_lt {P : Pond} {k : Nat} (hduty : 0 < (pgOf P k).duty) (hperiod : 0 < (pgOf P k).period) :
    (pgTimes P k).1 < (pgTimes P k).2 := by
  unfold pgTimes
  dsimp only
  omega

/-- At t_r the pin of an armed, unpaired generator rises. -/
theorem compareEdge_rise {P : Pond} {k : Nat} (hk : k < 4) (hgrid : (pgOf P k).grid = .running)
    (hslave : pgSlave P k = false) (harmed : (pgOf P k).armed = true) (hpair : pgPaired P k = false)
    (hpulse : (pgTimes P k).1 < (pgTimes P k).2) : (pgOf (compareEdge k 0 P) k).drive = true := by
  have hrise : compareEdge k 0 P = pgDrive k true P := by
    unfold compareEdge
    simp [hgrid, hslave, harmed, hpair, hpulse]
  rw [hrise, pgDrive, pgOf_pgSet_self hk]

/-- At t_f, before the period's end, it falls. -/
theorem compareEdge_fall {P : Pond} {k : Nat} (hk : k < 4) (hgrid : (pgOf P k).grid = .running)
    (hslave : pgSlave P k = false) (harmed : (pgOf P k).armed = true)
    (hfalls : (pgTimes P k).2 < (pgOf P k).period) : (pgOf (compareEdge k 1 P) k).drive = false := by
  have hfall : compareEdge k 1 P = pgTrigger k 1 ((pgOf P k).compares + 1)
      (pgSet k { pgOf (pgDrive k false P) k with compares := (pgOf P k).compares + 1 } (pgDrive k false P)) := by
    unfold compareEdge
    simp [hgrid, hslave, harmed, hfalls]
  have hpg : ∀ Q, pgOf (pgTrigger k 1 ((pgOf P k).compares + 1) Q) k = pgOf Q k := fun Q =>
    by
    obtain ⟨c, hc⟩ := pgTrigger_only k 1 ((pgOf P k).compares + 1) Q
    rw [hc]
    rfl
  rw [hfall, hpg, pgOf_pgSet_self hk, pgDrive, pgOf_pgSet_self hk]

/-- Settles O31: period ends and first periods by the decision with which a period begins, compare edges by the
level that they drive. -/
theorem pulsePeriods : Obligations.PulsePeriods := by
  unfold Obligations.PulsePeriods
  refine fun s p k hslave => ⟨fun hquiet hheld hmove hgrid => ?_, fun gap hquiet hheld hgrid => ?_,
    fun hgrid harmed hpair hduty hperiod => ⟨?_, fun hfalls => ?_⟩⟩
  · obtain ⟨⟨d, hpg⟩, hpending, hmissed, -⟩ :=
      periodEnd_begun (cy := (pctx s p).cyc) k.isLt hquiet hheld hslave hmove hgrid
    refine ⟨_, exec_periodEnd p k s, hpending _ (picEvent_pending (by omega) _), ?_, ?_⟩
    · rw [hpg]
      refine (pgNext_fresh _ _ _ _).trans ?_
      rw [pgOf_periodOver k.isLt, pgCfg_periodOver]
    · simp only [← pgArms_iff, ← pgArms_periodOver k.isLt (pondOf s p)]
      split
      next harms =>
        rw [hpg, pgNext, if_pos harms, rg_periodOver _ _ (by omega), rg_periodOver _ _ (by omega)]
        exact ⟨rfl, rfl, rfl⟩
      next hdark =>
        rw [Bool.not_eq_true] at hdark
        obtain ⟨hmiss, hcount⟩ := hmissed hdark rfl
        rw [hcount, rg_periodOver _ _ (by decide), hpg, pgNext, hdark, pgOf_periodOver k.isLt]
        exact ⟨rfl, hmiss, rfl, rfl⟩
  · obtain ⟨⟨d, hpg⟩, -, -, hfirst⟩ := firstPeriod_begun (cy := (pctx s p).cyc) k.isLt hquiet hheld hslave hgrid
    refine ⟨_, exec_firstPeriodStart p k s, ?_, ?_, fun _ hgap => hfirst (by rw [hgap]; rfl)⟩
    · rw [hpg]
      refine (pgNext_grid _ _ _ _).trans ?_
      rw [pgOf_gridRunning k.isLt]
    · rw [hpg]
      refine (pgNext_armed _ _ _ _).trans ?_
      rw [pgArms, pgOf_gridRunning k.isLt]
      rfl
  · refine ⟨_, exec_compareEdge p k 0 s, ?_⟩
    rw [(withEdges_only _ _).pgOf]
    exact compareEdge_rise k.isLt hgrid hslave harmed hpair (pgTimes_lt hduty hperiod)
  · refine ⟨_, exec_compareEdge p k 1 s, ?_⟩
    rw [(withEdges_only _ _).pgOf]
    exact compareEdge_fall k.isLt hgrid hslave harmed hfalls

end Sys2Proof.Machine
end

section
/-! SUPPORT and claims. The outputs of a lane (R189). -/

namespace Sys2Proof.Machine

/-- The lane's own registers and its count written, its oldest computation taken (R189). -/
def laneWritten (k : Nat) (z : LaneRun) (r : List LaneRun) (P : Pond) : Pond :=
  rset (0x438 + 4 * k) (BitVec.ofNat 32 z.duty) (rmod (0x448 + 4 * k) (fun w => w + 1)
    (rset (0x430 + 4 * k) (word24 z.out) (rset (0x428 + 4 * k) (word24 z.err)
      (laneSet k { laneOf P k with runs := r } P))))

/-- In hardware mode, without a clamp, the duty then goes to the target. -/
theorem laneOutput_target {P : Pond} {k : Nat} {z : LaneRun} {r : List LaneRun} (hruns : (laneOf P k).runs = z :: r)
    (hmode : z.mode = 1) (hsat : z.sat = 0) (htgt : z.tgtEn = true) (cy : Nat) : laneOutput cy k P =
      picEvent (20 + k) (latch (2 + k) (pgLaneWrite cy k z.target z.duty (laneWritten k z r P))) := by
  unfold laneOutput
  simp only [hruns, hmode, hsat, htgt, if_true]
  rfl

/-- A computation in hardware mode whose target is none of the four generators: PG_PRELOAD_32 would be LE_OUT_0. -/
def strayRun : LaneRun :=
  { edge := ⟨.gss, 0, 0, 0⟩, mode := 1, err := 0, out := 0, duty := 1, sat := 0, tgtEn := true, target := 32 }

/-- A pond with this computation as the oldest one of lane 0. -/
def strayPond : Pond := { Pond.reset with lane := vset Pond.reset.lane 0 { Lane.reset with runs := [strayRun] } }

theorem strayPond_runs : (laneOf strayPond 0).runs = [strayRun] := rfl

/-- The pond when lane 0 has written its own registers: LE_OUT_0 reads 0. -/
def strayWritten : Pond := laneWritten 0 strayRun [] strayPond

/-- Number 32 stands for no generator, so that nothing holds it, and LE_HANDOVER reads in the place of PG_CFG_32. -/
theorem pgLaneWrite_strayWritten (cy : Nat) :
    pgLaneWrite cy 0 32 1 strayWritten = pgArmWrite cy 32 1 strayWritten := by
  have hheld : (pgOf strayWritten 32).held = none := rfl
  have harm : fld (pgCfg strayWritten 32) 3 2 = 0 := by decide
  rw [pgLaneWrite, hheld, if_neg (by decide), if_pos harm]

theorem rg_laneOutput_strayPond (cy : Nat) : rg (laneOutput cy 0 strayPond) 0x430 = 1 := by
  have hduty : rg (pgPreloaded 32 1 strayWritten) 0x430 = 1 := by decide
  rw [laneOutput_target strayPond_runs rfl rfl rfl, picEvent_regs _ _ (by decide), rg_latch]
  show rg (pgLaneWrite cy 0 32 1 strayWritten) 0x430 = 1
  rw [pgLaneWrite_strayWritten, rg_pgArmWrite _ _ _ _ (.inl (by decide)), hduty]

theorem exec_laneOutput (p : PondId) (k : Fin 2) (s : State) : exec (.laneOutput p k) s =
    .next (withPond s p (laneOutput (pctx s p).cyc k.val (pondOf s p))) := rfl

theorem withPond_inj {s : State} {p : PondId} {P Q : Pond} (h : withPond s p P = withPond s p Q) : P = Q := by
  rw [← pondOf_withPond_self P s p, h, pondOf_withPond_self]

/-- Refutes O32: no hypothesis bounds the target of the computation whose LE_OUT it states, and the model holds the
target as a natural number. At a target of 32 the duty goes to the offset of LE_OUT_0, which then reads 1 for an
output of 0. A lane itself takes the target from the two bits of TARGET (Table 7.8), as `laneCompute` does. -/
theorem not_laneOutputs : ¬ Obligations.LaneOutputs := by
  unfold Obligations.LaneOutputs
  intro h
  obtain ⟨houtput, -⟩ := h (withPond State.reset 0 strayPond) 0 0
  obtain ⟨P, hexec, -, hout, -⟩ := houtput strayRun [] (by rw [pondOf_withPond_self]; exact strayPond_runs)
  rw [exec_laneOutput, pondOf_withPond_self, Host.Outcome.next.injEq] at hexec
  have hreads : rg P 0x430 = 1 := by rw [← withPond_inj hexec]; exact rg_laneOutput_strayPond _
  exact absurd (hreads.symm.trans hout) (by decide)

end Sys2Proof.Machine
end
